-- ==== Sys2Proof/Word.lean ====
section
/-!
DEFINITION. The word types of the SZ9192 and the sparse table every memory of the model is held in.
-/
namespace Sys2Proof

/-- A register is 32 bits wide (R4). -/
abbrev Word := BitVec 32

/-- One byte of a frame, a memory or an image. -/
abbrev Byte := BitVec 8

/-- A sparse table: pairs of an index and a value, indices strictly rising, no entry equal to what an
unlisted index reads as (the default is an argument of the operations in `Machine/Ops.lean`). -/
abbrev Tab (α : Type) := List (Nat × α)

end Sys2Proof
end

