-- ==== Sys2Proof/Syntax.lean ====
section
/-!
DEFINITION. The commands the block takes (spec/opcode_table.json) and the shapes of their operands.
-/
namespace Sys2Proof

/-- The memories that carry ECC, by the block that reports them (R24, R27, Table 1-12). -/
inductive EccMem where
  | cistern | forwarding | stream | vlan | portRole | node | policer | key | reservoir | engine | tank | confStream
  | confBasin | publication | subscription | supervisor | loader | flumeProgram | queue | calendar | replay
  deriving DecidableEq, Repr

/-- How the MAC found a frame (R124, R125): whether its frame check is right, and whether a codeword of it could not be corrected. -/
structure RxCheck where
  good : Bool
  code : Bool
  deriving DecidableEq, Repr

/-- The end of a power sequence: its domain, and whether the supply check of an on-sequence passed (R70, R78). -/
structure SeqEnd where
  domain : Fin 17
  supply : Bool
  deriving DecidableEq, Repr

/-- A requester of a sluice, and for the HOST requester of a tank bank the function whose access waits (R206, R382). -/
structure SluiceAsk where
  requester : Nat
  fn : Fin 4
  deriving DecidableEq, Repr

/-- A phase of a sluice, and whether the owner drives LAST in it (R208). -/
structure SluicePhase where
  sluice : Nat
  last : Bool
  deriving DecidableEq, Repr

/-- What the verify pass reads from the source: whether the source answered, and the image bytes it gave (R52 to R54). -/
structure ImageRead where
  answered : Bool
  bytes : List Byte
  deriving DecidableEq, Repr

/-- Where an update of a publication comes from (R287): the message of a publisher mailbox channel, or the PUB registers written
by a host function with the header word `w0`. -/
inductive PubSrc where
  | mailbox (c : Fin 64)
  | register (f : Fin 4) (w0 : Word)
  deriving DecidableEq, Repr

/-- Where a rider command comes from (R365): the message of a mailbox channel, the next command of a submission queue, or the command
registers as a host function writes RDR_CMD. -/
inductive RiderFrom where
  | mailbox (c : Fin 64)
  | queue (f : Fin 4) (q : Fin 4)
  | register (f : Fin 4)
  deriving DecidableEq, Repr

/-- A command of the block: one constructor per row of spec/opcode_table.json, in the table's order, with the operands the
row's rule names (log entry 1). -/
inductive Instr where
  /-- REGISTER_WRITE (R7): A host write to a register field that has no row of its own, acting by the field's type. -/
  | registerWrite (m : Fin 42) (a : Nat) (v : Word)
  /-- UNALIGNED_ACCESS (R5): A register access that is not an aligned 32-bit word has no effect, reads 0 and sets ACCESS_ERR. -/
  | unalignedAccess (f : Fin 4) (a : Nat) (write : Bool)
  /-- RC_READ (R8): A read of an RC field returns its value and clears it. -/
  | rcRead (f : Fin 4) (a : Nat)
  /-- DOMAIN_OFF_ACCESS (R28): A register access to a block whose domain is off has no effect, reads 0 and sets DOMAIN_OFF. -/
  | domainOffAccess (f : Fin 4) (a : Nat) (write : Bool)
  /-- CROSSING_WORD_DELIVERY (R18): A word offered to a crossing is delivered on the far side within the crossing bound. -/
  | crossingWordDelivery (ch : Fin 90) (w : BitVec 512)
  /-- CORRECTABLE_ECC_ERROR (R25): A single-bit SRAM error is corrected, written back and counted. -/
  | correctableEccError (m : EccMem) (i : Nat)
  /-- UNCORRECTABLE_ECC_ERROR (R27): An uncorrectable SRAM error is contained and reported as its memory's row of Table 1-12 states. -/
  | uncorrectableEccError (m : EccMem) (i : Nat)
  /-- SCRUB_SLOT (R26): Every 1024 island cycles the scrubber reads and corrects one word per bank. -/
  | scrubSlot (mem : Fin 6) (bank : Fin 64)
  /-- IMG_LOAD (R58): A write of IMG_LOAD starts a full load from the selected source, or is refused. -/
  | imgLoad (f : Fin 4) (v : Word)
  /-- IMG_SWAP (R58): A write of IMG_SWAP starts a swap from the selected source, or is refused. -/
  | imgSwap (f : Fin 4) (v : Word)
  /-- IMG_ABORT (R59): A write of IMG_ABORT ends a load or swap before commit with error ABORTED. -/
  | imgAbort (f : Fin 4) (v : Word)
  /-- IMG_KEY_REVOKE (R50): A write of IMG_KEY_REVOKE starts the revocation of a key slot, or is refused. -/
  | imgKeyRevoke (f : Fin 4) (v : Word)
  /-- REVOKE_DONE (R50): The revocation fuse is programmed, REVOKED is set and REVOKE_DONE raised. -/
  | revokeDone
  /-- VERIFY_COMPLETE (R54): The verify pass read and its checks end, leading to APPLY, FAILED, UNBOUND or RUNNING. -/
  | verifyComplete (image : ImageRead)
  /-- APPLY_SECTION_READ (R55): A section read in the apply pass is compared with its verify digest; a mismatch ends with CHANGED. -/
  | applySectionRead (index : Nat) (payload : List Byte)
  /-- SWAP_SAFE_POINT_APPLY (R62): A unit reaches its safe point and applies its replaced section after a swap commit. -/
  | swapSafePointApply (type : Nat) (unit : Nat)
  /-- PORST_ASSERT (R64): PORST_N goes low and resets every domain, the PCIe link and the fuse shadows. -/
  | porstAssert
  /-- PORST_RELEASE (R68): PORST_N rises, straps are latched and the supervisor ROM flow begins. -/
  | porstRelease (straps : BitVec 4)
  /-- FUSE_SENSE_DONE (R69): Fuse sensing completes and the identity, keys and key-slot hashes are loaded, or a fuse error stops the ROM. -/
  | fuseSenseDone (good : Bool)
  /-- PLL_LOCKED (R512): A PLL locks and its PWR_CLK_STAT bit is set until reset. -/
  | pllLocked (pll : Fin 10)
  /-- PLL_LOCK_TIMEOUT (R512): A PLL fails to lock within 2 ms and its domains stay off, or the ROM stops. -/
  | pllLockTimeout (pll : Fin 10)
  /-- SRST_ASSERT (R64): SRST_N goes low and starts a system reset. -/
  | srstAssert
  /-- SRST_RELEASE (R67): SRST_N rises and the 10 µs system-reset hold begins. -/
  | srstRelease
  /-- GLB_RESET_SYS (R67): A write of GLB_RESET with SYS = 1 and the correct code starts a system reset. -/
  | glbResetSys (f : Fin 4) (v : Word)
  /-- SYSTEM_RESET_HOLD_END (R67): The system-reset hold ends, straps are sampled and the ROM restarts at step 1. -/
  | systemResetHoldEnd (straps : BitVec 4)
  /-- PCIE_HOT_RESET (R64): A PCIe hot reset or link-down resets the link, configuration space and host queues of every function. -/
  | pcieHotReset
  /-- TRICKLE_SERVICE_START (R71): At 30 ms after PORST_N with TRICKLE_EN set and no commit, trickle service starts. -/
  | trickleServiceStart
  /-- TRICKLE_FRAME_RX (R73): A frame received whole in trickle service is checked, dropped or flooded to the queues. -/
  | trickleFrameRx (p : Fin 8) (bytes : List Byte) (good : Bool)
  /-- TRICKLE_AGE_DROP (R75): A trickle frame still queued 50 ms after reception is dropped. -/
  | trickleAgeDrop
  /-- TRICKLE_DRAIN_END (R76): After at most 1 ms the trickle queues are discarded and P000 to P007 switch to full service. -/
  | trickleDrainEnd
  /-- HANDOVER_COMPLETE (R76): Full service starts on P000 to P007, GLB_HANDOVER is recorded and HANDOVER raised. -/
  | handoverComplete
  /-- DOMAIN_ON_REQUEST (R79): An ON request reaches a switchable domain and starts or is held against its sequence. -/
  | domainOnRequest (d : Fin 17)
  /-- DOMAIN_OFF_REQUEST (R79): An OFF request reaches a switchable domain and starts or is held against its sequence. -/
  | domainOffRequest (d : Fin 17)
  /-- POWER_SEQUENCE_DONE (R79): An on- or off-sequence ends and the domain settles or starts its pending sequence. -/
  | powerSequenceDone (x : SeqEnd)
  /-- IDLE_HOLD_EXPIRY (R81): An ON_DEMAND cluster idle for IDLE_HOLD µs receives an OFF request. -/
  | idleHoldExpiry (c : Fin 4)
  /-- PWR_REQ_ON (R83): A write of PWR_DOMAIN_CTL.REQ = ON overrides the domain's policy and powers it. -/
  | pwrReqOn (f : Fin 4) (d : Fin 17) (v : Word)
  /-- PWR_REQ_OFF (R83): A write of PWR_DOMAIN_CTL.REQ = OFF overrides policy and wake sources, or is refused. -/
  | pwrReqOff (f : Fin 4) (d : Fin 17) (v : Word)
  /-- PWR_REQ_POLICY (R83): A write of PWR_DOMAIN_CTL.REQ = POLICY ends the host override. -/
  | pwrReqPolicy (f : Fin 4) (d : Fin 17) (v : Word)
  /-- PWR_OPPOINT_WRITE (R84): A write of PWR_OPPOINT requests a change of a cluster's operating point. -/
  | pwrOppointWrite (f : Fin 4) (v : Word)
  /-- OPPOINT_CHANGE_DONE (R84): A cluster's clock and supply change ends and OPPOINT_DONE is raised. -/
  | oppointChangeDone (c : Fin 4)
  /-- DEEP_STANDBY_ENTER (R85): A write of PWR_DEEP with the code stops the heartbeat, completes sentinel writes and switches all domains off. -/
  | deepStandbyEnter (f : Fin 4) (v : Word)
  /-- VDD_LOW_ISOLATE (R86): VDD falls below 0.70 V and the sentinel isolates itself. -/
  | vddLowIsolate
  /-- BOOT_US_READ (R87): A read of GLB_BOOT_US_LO returns the low bits and latches the high bits. -/
  | bootUsRead (f : Fin 4)
  /-- TIM_INCR_FRAC_WRITE (R91): A write of TIM_INCR_FRAC stages a fraction without effect. -/
  | timIncrFracWrite (m : Fin 42) (v : Word)
  /-- TIM_INCR_INT_WRITE (R91): A write of TIM_INCR_INT commits the staged fraction and integer as the increment. -/
  | timIncrIntWrite (m : Fin 42) (v : Word)
  /-- ADJ_STEP (R92): A TIM_ADJ_CTL write with MODE STEP ends any slew and schedules a step. -/
  | adjStep (m : Fin 42)
  /-- ADJ_SLEW (R92): A TIM_ADJ_CTL write with MODE SLEW ends any slew and starts a new slew. -/
  | adjSlew (m : Fin 42) (rate : BitVec 16)
  /-- ADJ_CANCEL (R92): A TIM_ADJ_CTL write with MODE CANCEL ends any slew and discards held slews. -/
  | adjCancel (m : Fin 42)
  /-- TIM_SET_CMD (R93): A write of TIM_SET_CMD with the code schedules an absolute set of the clock. -/
  | timSetCmd (m : Fin 42) (v : Word)
  /-- STEP_APPLY (R94): At its effective instant a step changes TIME and every replica and raises STEP_DONE. -/
  | stepApply
  /-- SET_APPLY (R94): At its effective instant a set loads SEC and NS into TIME and every replica and raises SET_DONE. -/
  | setApply
  /-- SLEW_END (R92): A slew reaches its total and raises SLEW_DONE. -/
  | slewEnd
  /-- TIM_NOW_READ (R95): A read of TIM_NOW_NS returns NS and latches SEC, FRAC and ns32 for the function. -/
  | timNowRead (f : Fin 4)
  /-- CMP_ARM (R114): A write of TIM_CMP_CTL.ARM arms a compare channel. -/
  | cmpArm (f : Fin 4) (n : Fin 8)
  /-- CMP_DISARM (R114): A write of TIM_CMP_CTL.DISARM disarms a compare channel. -/
  | cmpDisarm (f : Fin 4) (n : Fin 8)
  /-- COMPARE_FIRE (R114): An armed compare channel reaches its target, fires and advances or disarms. -/
  | compareFire (n : Fin 8)
  /-- PPS_IN_EDGE (R115): A selected PPS_IN edge latches SEC, NS and ns32 in a capture channel. -/
  | ppsInEdge (rising : Bool)
  /-- CAPTURE_SNAP (R115): A write of TIM_CAP_CTL.SNAP captures the clock on a software-sourced channel. -/
  | captureSnap (f : Fin 4) (c : Fin 2) (v : Word)
  /-- CAPTURE_READ (R115): A read of TIM_CAP_NS returns the capture and clears FULL. -/
  | captureRead (f : Fin 4) (c : Fin 2)
  /-- PPS_OUT_RISE (R116): PPS_OUT rises at a second boundary plus offset or at a compare 0 firing. -/
  | ppsOutRise
  /-- PPS_OUT_FALL (R116): PPS_OUT falls WIDTH_US after its last rising instant. -/
  | ppsOutFall
  /-- REPLICA_VALID (R100): A replica whose domain has come on becomes valid from TIME's alignment word. -/
  | replicaValid (island : Fin 17)
  /-- LANE_SYNC_ACQUIRED (R120): A QSGMII lane acquires sync. -/
  | laneSyncAcquired (n : Fin 48)
  /-- LANE_SYNC_LOST (R120): A QSGMII lane loses sync and its four ports go link-down. -/
  | laneSyncLost (n : Fin 48)
  /-- INBAND_STATUS (R121): A QSGMII in-band status word is acknowledged and decides the port's link, speed and duplex. -/
  | inbandStatus (p : Fin 192) (link : Bool) (full : Bool) (speed : Fin 4)
  /-- UPLINK_PCS_UP (R122): An uplink gains block lock or FEC alignment without local fault. -/
  | uplinkPcsUp (u : Fin 8)
  /-- UPLINK_PCS_DOWN (R122): An uplink loses block lock or FEC alignment, or a local fault appears. -/
  | uplinkPcsDown (u : Fin 8) (lock : Bool)
  /-- REMOTE_FAULT_RX (R123): An uplink starts or stops receiving remote fault and counts link-down while it does. -/
  | remoteFaultRx (u : Fin 8) (on : Bool)
  /-- FEC_CODEWORD_CORRECTED (R124): An RS-FEC codeword is corrected and counted. -/
  | fecCodewordCorrected (u : Fin 8)
  /-- FEC_CODEWORD_UNCORRECTABLE (R124): An uncorrectable codeword is counted and the frames it touches are corrupted. -/
  | fecCodewordUncorrectable (u : Fin 8)
  /-- FRAME_HEADER_ARRIVAL (R149): A received frame's first cell enters the headgate and stages 1 to 7 classify it. -/
  | frameHeaderArrival (p : Fin 200) (bytes : List Byte)
  /-- CELL_ADMISSION (R189): The weir decides each arriving cell for each destination queue. -/
  | cellAdmission (p : Fin 200)
  /-- FRAME_END (R125): A frame's last byte arrives, the MAC classifies it and stages 8 and 9 act on the check result. -/
  | frameEnd (p : Fin 200) (fcs : Bool) (code : Bool) (sent : Nat)
  /-- PAUSE_FRAME_RX (R130): An honoured pause frame loads or releases the port pause timer. -/
  | pauseFrameRx (p : Fin 200) (quanta : BitVec 16) (group : Bool) (check : RxCheck) (len : Nat)
  /-- PFC_FRAME_RX (R130): An honoured per-class pause frame loads or releases each enabled class timer. -/
  | pfcFrameRx (p : Fin 200) (classes : BitVec 8) (quanta : List (BitVec 16)) (group : Bool) (check : RxCheck) (len : Nat)
  /-- MAC_CONTROL_OTHER_RX (R126): A MAC control frame of another opcode is counted and discarded. -/
  | macControlOtherRx (p : Fin 200) (check : RxCheck) (len : Nat)
  /-- PAUSE_TIMER_EXPIRY (R130): A pause timer reaches zero and releases its state. -/
  | pauseTimerExpiry (p : Fin 200) (st : Fin 9)
  /-- PAUSE_WD_TRIP (R132): A pause state held for LIMIT_US trips the watchdog, is released and the hold starts. -/
  | pauseWdTrip (p : Fin 200) (st : Fin 9)
  /-- PAUSE_WD_HOLD_END (R132): The watchdog ignore window ends and received pause is honoured again. -/
  | pauseWdHoldEnd (p : Fin 200) (st : Fin 9)
  /-- PAUSE_FRAME_TX (R134): A requested stop or release pause frame is sent at the next frame boundary. -/
  | pauseFrameTx (p : Fin 200)
  /-- PAUSE_REFRESH_EXPIRY (R134): A persisting stop request repeats its stop frame every REFRESH quanta. -/
  | pauseRefreshExpiry (p : Fin 200)
  /-- LOOPBACK_TAKE_EFFECT (R128): A change of PRT_CTL.LOOP takes effect when both directions are at a frame boundary. -/
  | loopbackTakeEffect (p : Fin 200)
  /-- EGRESS_SELECT (R195): At a port's frame boundary the cistern selects the next frame to transmit. -/
  | egressSelect (p : Fin 200) (early : Option (Fin 4 × Fin 8 × List Byte × Nat))
  /-- FRAME_TX_END (R127): A frame finishes transmission, its references are released and its completion is due. -/
  | frameTxEnd (p : Fin 200)
  /-- UNDERRUN (R136): An early-launched frame runs dry, is ended with an inverted check and THRESH rises. -/
  | underrun (p : Fin 200) (sent : Nat)
  /-- LAUNCH_DUE (R111): A calendar frame's target arrives and the port starts its preamble, or judges it late. -/
  | launchDue (p : Fin 200)
  /-- LINK_DOWN (R137): A port goes link-down, aborts frames in flight and starts its hold. -/
  | linkDown (p : Fin 200) (sent : Nat)
  /-- LINK_UP (R139): A link returns after its debounce, stops the hold and drops stale frames. -/
  | linkUp (p : Fin 200)
  /-- HOLD_EXPIRY (R140): A hold expires with the link down and the port flushes. -/
  | holdExpiry (p : Fin 200)
  /-- FLUSH_DONE (R141): A flush ends, FLUSHING clears and a pending enable applies. -/
  | flushDone (p : Fin 200)
  /-- PORT_DISABLE (R142): A write of PRT_CTL.EN = 0 disables the port and flushes it at once. -/
  | portDisable (f : Fin 4) (p : Fin 200)
  /-- PORT_ENABLE (R142): A write of PRT_CTL.EN = 1 enables the port, or is held during a flush. -/
  | portEnable (f : Fin 4) (p : Fin 200)
  /-- TXSTART_WRITE (R136): A write of PRT_TXSTART limits THRESH and may clear STORE_WHOLE. -/
  | txstartWrite (f : Fin 4) (p : Fin 200) (v : Word)
  /-- MAXLEN_WRITE (R148): A write of PRT_MAXLEN outside 1518 to 9216 is refused with CFG_REFUSED. -/
  | maxlenWrite (f : Fin 4) (p : Fin 200) (v : Word)
  /-- COUNTER_LO_READ (R147): A read of a 48-bit counter's low word returns it, latches the high bits and clears the counter. -/
  | counterLoRead (f : Fin 4) (p : Fin 200) (n : Fin 48)
  /-- AUTH_VERIFY_DONE (R170): A verification lane finishes a frame and its status decides dispatch or drop. -/
  | authVerifyDone (h : Nat) (gmac : Bool)
  /-- NODE_FORGET_EXPIRY (R164): A node silent for NODE_FORGET_S seconds loses its entry. -/
  | nodeForgetExpiry (i : Fin 8192)
  /-- ENTRY_FORGET_EXPIRY (R164): A node silent for ENTRY_FORGET_MS has its window restarted by its next frame. -/
  | entryForgetExpiry (i : Fin 8192)
  /-- TBL_READ (R160): HDG_TBL_CMD READ reads a table entry into HDG_TBL_DATA. -/
  | tblRead (f : Fin 4) (table : Fin 8)
  /-- TBL_WRITE (R160): HDG_TBL_CMD WRITE replaces a whole table entry. -/
  | tblWrite (f : Fin 4) (table : Fin 8)
  /-- TBL_INSERT (R159): HDG_TBL_CMD INSERT places a stream key in a free way or CAM entry. -/
  | tblInsert (f : Fin 4) (table : Fin 8)
  /-- TBL_DELETE (R160): HDG_TBL_CMD DELETE removes an entry by key. -/
  | tblDelete (f : Fin 4) (table : Fin 8)
  /-- TBL_LOOKUP (R160): HDG_TBL_CMD LOOKUP reports the index of a key. -/
  | tblLookup (f : Fin 4) (table : Fin 8)
  /-- TBL_CMD_DONE (R160): A headgate table command completes, BUSY clears and RESULT is updated. -/
  | tblCmdDone
  /-- KEY_COMMIT (R171): A write of HDG_KEY_CTL with COMMIT writes a key slot whole, or is refused. -/
  | keyCommit (f : Fin 4) (v : Word)
  /-- KEY_CLEAR (R171): A write of HDG_KEY_CTL with CLEAR empties a key slot. -/
  | keyClear (f : Fin 4) (v : Word)
  /-- KEY_COMMIT_DONE (R171): A key slot write ends and HDG_KEY_STAT.BUSY clears. -/
  | keyCommitDone
  /-- FDB_AGE_REMOVE (R184): A learned entry not refreshed for AGE_S seconds is removed. -/
  | fdbAgeRemove (i : Nat)
  /-- FDB_READ (R186): CIS_FDB_CMD READ reads one forwarding entry. -/
  | fdbRead (f : Fin 4)
  /-- FDB_WRITE (R186): CIS_FDB_CMD WRITE stores a static entry. -/
  | fdbWrite (f : Fin 4)
  /-- FDB_INSERT (R186): CIS_FDB_CMD INSERT places a key in its bucket, or returns FULL. -/
  | fdbInsert (f : Fin 4)
  /-- FDB_DELETE (R186): CIS_FDB_CMD DELETE removes an entry by key. -/
  | fdbDelete (f : Fin 4)
  /-- FDB_LOOKUP (R186): CIS_FDB_CMD LOOKUP reports the index of a key. -/
  | fdbLookup (f : Fin 4)
  /-- FDB_FLUSH (R186): CIS_FDB_CMD FLUSH removes the learned entries of a district, port or set. -/
  | fdbFlush (f : Fin 4)
  /-- FDB_CMD_DONE (R186): A forwarding-database command completes and BUSY clears. -/
  | fdbCmdDone
  /-- MCG_READ (R185): CIS_MCG_CMD READ reads a multicast group bitmap. -/
  | mcgRead (f : Fin 4) (g : Fin 1024)
  /-- MCG_WRITE (R185): CIS_MCG_CMD WRITE replaces a multicast group bitmap between two lookups. -/
  | mcgWrite (f : Fin 4) (g : Fin 1024)
  /-- OQ_TRANSFER (R179): The transfer engine copies a frame's cells from staging into an output partition. -/
  | oqTransfer (p : Fin 200)
  /-- STALE_SCAN (R198): The scan visits every queue head and drops stale frames. -/
  | staleScan
  /-- QUARANTINE_TEST (R203): A write of CIS_QUAR_CTL starts the test of a quarantined cell. -/
  | quarantineTest (f : Fin 4) (c : Nat)
  /-- QUARANTINE_TEST_DONE (R203): A quarantine test ends, the cell returns or stays, and QUAR_DONE is raised. -/
  | quarantineTestDone (good : Bool)
  /-- SIPH_ENABLE (R199): A write of CIS_SIPH_CTL.EN enables a siphon session, or is refused. -/
  | siphEnable (f : Fin 4) (x : Fin 8) (v : Word)
  /-- PAUSE_TH_WRITE (R194): A write of CIS_PAUSE_TH sets XOFF and XON, or is refused. -/
  | pauseThWrite (f : Fin 4) (p : Fin 200) (v : Word)
  /-- SLUICE_REQUEST (R209): A requester raises its request on a sluice. -/
  | sluiceRequest (i : Nat) (x : SluiceAsk)
  /-- SLUICE_WITHDRAW (R209): A requester withdraws an ungranted request and loses its age. -/
  | sluiceWithdraw (i : Nat) (r : Nat)
  /-- ARBITRATION_PHASE (R208): An idle resource or a LAST beat triggers a phase that grants one requester. -/
  | arbitrationPhase (x : SluicePhase)
  /-- SLU_SEED_WRITE (R214): A write of SLU_SEED loads the LFSR, or is refused for 0. -/
  | sluSeedWrite (f : Fin 4) (i : Nat) (v : Word)
  /-- SLU_CONFIG_WRITE (R214): A write of SLU_POOL or SLU_PRIV applies from the next phase, or is refused. -/
  | sluConfigWrite (f : Fin 4) (a : Nat) (v : Word)
  /-- FURROW_RUN_SET (R225): Setting FUR_CTL.RUN moves a domain to WAITING or LISTEN. -/
  | furrowRunSet (f : Fin 4) (d : Fin 4)
  /-- FURROW_RUN_CLEAR (R225): Clearing FUR_CTL.RUN stops the domain at the end of its cycle. -/
  | furrowRunClear (f : Fin 4) (d : Fin 4)
  /-- CYCLE_START (R226): A Furrow cycle starts and the star launches CYCLE_START frames. -/
  | cycleStart (d : Fin 4)
  /-- COLDSTART_DECISION (R227): At T + 40 ns the guardian chooses the winning coldstart. -/
  | coldstartDecision (d : Fin 4)
  /-- FURROW_START_REPORT (R230): A MAC's start-of-frame report is tested against segments and windows. -/
  | furrowStartReport (p : Fin 200) (ns32 : Word) (frac : BitVec 8) (cold : Bool)
  /-- STAR_NULL_DEADLINE (R233): A furrow window ends with no valid start and the star sends STAR_NULL. -/
  | starNullDeadline (d : Fin 4) (furrow : Fin 256) (chanB : Bool)
  /-- MINISLOT_BOUNDARY (R234): A minislot boundary moves a channel's dynamic pointer. -/
  | minislotBoundary (d : Fin 4) (chanB : Bool)
  /-- MODE_EVALUATION (R239): At the end of the dynamic segment the guardian evaluates mode requests. -/
  | modeEvaluation (d : Fin 4)
  /-- FUR_MODE_CMD (R241): A write of FUR_MODE_CMD with GO forces a mode change, or is refused. -/
  | furModeCmd (f : Fin 4) (d : Fin 4) (v : Word)
  /-- FUR_PORT_CONTAIN (R235): FUR_PORT_CMD.CONTAIN moves an ACTIVE port to CONTAINED. -/
  | furPortContain (f : Fin 4) (p : Fin 200)
  /-- FUR_PORT_READMIT (R235): FUR_PORT_CMD.READMIT moves a port to JOINING. -/
  | furPortReadmit (f : Fin 4) (p : Fin 200)
  /-- ASDU_INGEST (R246): Confluence takes an ASDU from its ingest queue and refuses or accepts it. -/
  | asduIngest
  /-- ROW_DEADLINE (R262): A row's deadline arrives and the row unit computes its columns. -/
  | rowDeadline (b : Fin 16)
  /-- ROW_SEAL (R268): A computed row is written to its ring and sealed. -/
  | rowSeal (b : Fin 16)
  /-- STREAM_SILENCE (R272): A stream without an accepted ASDU for SILENCE_MS becomes SILENT. -/
  | streamSilence (i : Fin 1024)
  /-- BASIN_RUN_SET (R271): Setting CNF_BASIN_CTL.RUN computes a start instant and enters WAITING. -/
  | basinRunSet (f : Fin 4) (b : Fin 16)
  /-- BASIN_RUN_CLEAR (R271): Clearing CNF_BASIN_CTL.RUN stops the basin after the row being computed. -/
  | basinRunClear (f : Fin 4) (b : Fin 16)
  /-- STREAM_ENABLE (R272): Setting CNF_STR_CTL.EN puts a stream in WAIT with an empty store. -/
  | streamEnable (f : Fin 4) (i : Fin 1024)
  /-- STREAM_DISABLE (R272): Clearing CNF_STR_CTL.EN clears the store and makes the stream IDLE. -/
  | streamDisable (f : Fin 4) (i : Fin 1024)
  /-- CNF_RING_CTL_WRITE (R269): A write of a basin ring register applies, or is refused while EN is set. -/
  | cnfRingCtlWrite (f : Fin 4) (a : Nat) (v : Word)
  /-- PUB_UPDATE (R287): An UPDATE reads the buffer, makes it active and queues an event. -/
  | pubUpdate (src : PubSrc)
  /-- PUB_UPDATE_LAUNCH (R288): An UPDATE_LAUNCH builds a frame and places its copies in launch calendars. -/
  | pubUpdateLaunch (src : PubSrc)
  /-- PUB_TAG_DONE (R289): A publisher lane finishes a frame's tag and the frame is sent, or dropped for a missing key. -/
  | pubTagDone (i : Nat)
  /-- GOOSE_RETRANSMIT (R284): A publication's retransmission falls due and its frame is queued on PP. -/
  | gooseRetransmit (g : Fin 512)
  /-- SUBSCRIPTION_EXPIRY (R294): A subscription's deadline plus SETTLE_US passes and it becomes EXPIRED. -/
  | subscriptionExpiry (v : Fin 8192)
  /-- SUBSCRIPTION_ENABLE (R294): Setting a subscription's EN moves it to WAIT. -/
  | subscriptionEnable (f : Fin 4) (v : Fin 8192)
  /-- SUBSCRIPTION_DISABLE (R294): Clearing a subscription's EN moves it to IDLE. -/
  | subscriptionDisable (f : Fin 4) (v : Fin 8192)
  /-- PUBLICATION_DISABLE (R288): Clearing a publication's EN stops its retransmissions. -/
  | publicationDisable (f : Fin 4) (g : Fin 512)
  /-- EVENT_WATCHDOG (R308): An event that runs KRN_WDOG cycles is aborted with WDOG. -/
  | eventWatchdog (e : Fin 32) (t : Fin 16)
  /-- TIMER_FIRE (R313): A timer-wheel entry reaches its target and posts a TIMER event. -/
  | timerFire (e : Fin 32) (i : Nat)
  /-- INIT_TIMEOUT (R322): A personality without READY within INIT_MS halts its engine with INIT_FAIL. -/
  | initTimeout (e : Fin 32)
  /-- ENGINE_HALT (R319): KRN_ENG_CTL HALT stops an engine and its contexts are re-placed. -/
  | engineHalt (f : Fin 4) (e : Fin 32) (v : Word)
  /-- ENGINE_RESTART (R319): KRN_ENG_CTL RESTART restarts a halted engine at ENTRY, or is refused. -/
  | engineRestart (f : Fin 4) (e : Fin 32) (v : Word)
  /-- SEND_COMPLETE (R312): An engine send completes and posts SEND_DONE with its status. -/
  | sendComplete (i : Nat)
  /-- AUTH_JOB_DONE (R315): An authenticator job ends and posts AUTH_DONE. -/
  | authJobDone (i : Nat)
  /-- ADDI (R330): Adds a sign-extended immediate. -/
  | kAddi (e : Fin 32) (t : Fin 16) (rd : Fin 32) (rs1 : Fin 32) (imm : BitVec 16)
  /-- ANDI (R330): ANDs a zero-extended immediate. -/
  | kAndi (e : Fin 32) (t : Fin 16) (rd : Fin 32) (rs1 : Fin 32) (imm : BitVec 16)
  /-- ORI (R330): ORs a zero-extended immediate. -/
  | kOri (e : Fin 32) (t : Fin 16) (rd : Fin 32) (rs1 : Fin 32) (imm : BitVec 16)
  /-- XORI (R330): XORs a zero-extended immediate. -/
  | kXori (e : Fin 32) (t : Fin 16) (rd : Fin 32) (rs1 : Fin 32) (imm : BitVec 16)
  /-- SHI (R330): Shifts by an immediate amount, logically or arithmetically. -/
  | kShi (e : Fin 32) (t : Fin 16) (rd : Fin 32) (rs1 : Fin 32) (sel : BitVec 2) (n : BitVec 5)
  /-- SLTI (R330): Sets rd when rs1 is below the immediate, signed. -/
  | kSlti (e : Fin 32) (t : Fin 16) (rd : Fin 32) (rs1 : Fin 32) (imm : BitVec 16)
  /-- SLTIU (R330): Sets rd when rs1 is below the immediate, unsigned. -/
  | kSltiu (e : Fin 32) (t : Fin 16) (rd : Fin 32) (rs1 : Fin 32) (imm : BitVec 16)
  /-- LUI (R330): Loads the immediate into the upper half of rd. -/
  | kLui (e : Fin 32) (t : Fin 16) (rd : Fin 32) (imm : BitVec 16)
  /-- EXT (R330): Extracts a bit field. -/
  | kExt (e : Fin 32) (t : Fin 16) (rd : Fin 32) (rs1 : Fin 32) (pos : BitVec 5) (len : BitVec 5)
  /-- INS (R330): Inserts a bit field. -/
  | kIns (e : Fin 32) (t : Fin 16) (rd : Fin 32) (rs1 : Fin 32) (pos : BitVec 5) (len : BitVec 5)
  /-- JAL (R330): Jumps by an offset and links. -/
  | kJal (e : Fin 32) (t : Fin 16) (rd : Fin 32) (off : BitVec 21)
  /-- JALR (R330): Jumps to a register address and links. -/
  | kJalr (e : Fin 32) (t : Fin 16) (rd : Fin 32) (rs1 : Fin 32) (imm : BitVec 16)
  /-- TCR (R329): Reads or writes a thread control register. -/
  | kTcr (e : Fin 32) (t : Fin 16) (rd : Fin 32) (rs1 : Fin 32) (write : Bool) (idx : BitVec 5)
  /-- ADD (R330): Adds two registers. -/
  | kAdd (e : Fin 32) (t : Fin 16) (rd : Fin 32) (rs1 : Fin 32) (rs2 : Fin 32)
  /-- SUB (R330): Subtracts two registers. -/
  | kSub (e : Fin 32) (t : Fin 16) (rd : Fin 32) (rs1 : Fin 32) (rs2 : Fin 32)
  /-- AND (R330): Bitwise AND of two registers. -/
  | kAnd (e : Fin 32) (t : Fin 16) (rd : Fin 32) (rs1 : Fin 32) (rs2 : Fin 32)
  /-- OR (R330): Bitwise OR of two registers. -/
  | kOr (e : Fin 32) (t : Fin 16) (rd : Fin 32) (rs1 : Fin 32) (rs2 : Fin 32)
  /-- XOR (R330): Bitwise XOR of two registers. -/
  | kXor (e : Fin 32) (t : Fin 16) (rd : Fin 32) (rs1 : Fin 32) (rs2 : Fin 32)
  /-- SLL (R330): Shifts left logically by a register. -/
  | kSll (e : Fin 32) (t : Fin 16) (rd : Fin 32) (rs1 : Fin 32) (rs2 : Fin 32)
  /-- SRL (R330): Shifts right logically by a register. -/
  | kSrl (e : Fin 32) (t : Fin 16) (rd : Fin 32) (rs1 : Fin 32) (rs2 : Fin 32)
  /-- SRA (R330): Shifts right arithmetically by a register. -/
  | kSra (e : Fin 32) (t : Fin 16) (rd : Fin 32) (rs1 : Fin 32) (rs2 : Fin 32)
  /-- SLT (R330): Sets rd on signed less-than. -/
  | kSlt (e : Fin 32) (t : Fin 16) (rd : Fin 32) (rs1 : Fin 32) (rs2 : Fin 32)
  /-- SLTU (R330): Sets rd on unsigned less-than. -/
  | kSltu (e : Fin 32) (t : Fin 16) (rd : Fin 32) (rs1 : Fin 32) (rs2 : Fin 32)
  /-- MUL (R330): Low 32 bits of a product. -/
  | kMul (e : Fin 32) (t : Fin 16) (rd : Fin 32) (rs1 : Fin 32) (rs2 : Fin 32)
  /-- MULH (R330): High 32 bits of a signed product. -/
  | kMulh (e : Fin 32) (t : Fin 16) (rd : Fin 32) (rs1 : Fin 32) (rs2 : Fin 32)
  /-- MULHU (R330): High 32 bits of an unsigned product. -/
  | kMulhu (e : Fin 32) (t : Fin 16) (rd : Fin 32) (rs1 : Fin 32) (rs2 : Fin 32)
  /-- DIV (R332): Signed quotient, never raising an exception. -/
  | kDiv (e : Fin 32) (t : Fin 16) (rd : Fin 32) (rs1 : Fin 32) (rs2 : Fin 32)
  /-- DIVU (R332): Unsigned quotient, never raising an exception. -/
  | kDivu (e : Fin 32) (t : Fin 16) (rd : Fin 32) (rs1 : Fin 32) (rs2 : Fin 32)
  /-- REM (R332): Signed remainder. -/
  | kRem (e : Fin 32) (t : Fin 16) (rd : Fin 32) (rs1 : Fin 32) (rs2 : Fin 32)
  /-- REMU (R332): Unsigned remainder. -/
  | kRemu (e : Fin 32) (t : Fin 16) (rd : Fin 32) (rs1 : Fin 32) (rs2 : Fin 32)
  /-- BSWAP (R330): Reverses the bytes of rs1. -/
  | kBswap (e : Fin 32) (t : Fin 16) (rd : Fin 32) (rs1 : Fin 32)
  /-- CLZ (R330): Counts leading zero bits. -/
  | kClz (e : Fin 32) (t : Fin 16) (rd : Fin 32) (rs1 : Fin 32)
  /-- MIN (R330): Signed minimum. -/
  | kMin (e : Fin 32) (t : Fin 16) (rd : Fin 32) (rs1 : Fin 32) (rs2 : Fin 32)
  /-- MAX (R330): Signed maximum. -/
  | kMax (e : Fin 32) (t : Fin 16) (rd : Fin 32) (rs1 : Fin 32) (rs2 : Fin 32)
  /-- MINU (R330): Unsigned minimum. -/
  | kMinu (e : Fin 32) (t : Fin 16) (rd : Fin 32) (rs1 : Fin 32) (rs2 : Fin 32)
  /-- MAXU (R330): Unsigned maximum. -/
  | kMaxu (e : Fin 32) (t : Fin 16) (rd : Fin 32) (rs1 : Fin 32) (rs2 : Fin 32)
  /-- LB (R333): Loads a sign-extended byte. -/
  | kLb (e : Fin 32) (t : Fin 16) (rd : Fin 32) (rs1 : Fin 32) (imm : BitVec 16) (host : Option Word)
  /-- LBU (R333): Loads a zero-extended byte. -/
  | kLbu (e : Fin 32) (t : Fin 16) (rd : Fin 32) (rs1 : Fin 32) (imm : BitVec 16) (host : Option Word)
  /-- LH (R333): Loads a sign-extended little-endian halfword. -/
  | kLh (e : Fin 32) (t : Fin 16) (rd : Fin 32) (rs1 : Fin 32) (imm : BitVec 16) (host : Option Word)
  /-- LHU (R333): Loads a zero-extended little-endian halfword. -/
  | kLhu (e : Fin 32) (t : Fin 16) (rd : Fin 32) (rs1 : Fin 32) (imm : BitVec 16) (host : Option Word)
  /-- LW (R333): Loads a little-endian word. -/
  | kLw (e : Fin 32) (t : Fin 16) (rd : Fin 32) (rs1 : Fin 32) (imm : BitVec 16) (host : Option Word)
  /-- LHBE (R333): Loads a big-endian halfword. -/
  | kLhbe (e : Fin 32) (t : Fin 16) (rd : Fin 32) (rs1 : Fin 32) (imm : BitVec 16) (host : Option Word)
  /-- LWBE (R333): Loads a big-endian word. -/
  | kLwbe (e : Fin 32) (t : Fin 16) (rd : Fin 32) (rs1 : Fin 32) (imm : BitVec 16) (host : Option Word)
  /-- SB (R333): Stores a byte. -/
  | kSb (e : Fin 32) (t : Fin 16) (rs2 : Fin 32) (rs1 : Fin 32) (imm : BitVec 16)
  /-- SH (R333): Stores a little-endian halfword. -/
  | kSh (e : Fin 32) (t : Fin 16) (rs2 : Fin 32) (rs1 : Fin 32) (imm : BitVec 16)
  /-- SW (R333): Stores a little-endian word. -/
  | kSw (e : Fin 32) (t : Fin 16) (rs2 : Fin 32) (rs1 : Fin 32) (imm : BitVec 16)
  /-- SHBE (R333): Stores a big-endian halfword. -/
  | kShbe (e : Fin 32) (t : Fin 16) (rs2 : Fin 32) (rs1 : Fin 32) (imm : BitVec 16)
  /-- SWBE (R333): Stores a big-endian word. -/
  | kSwbe (e : Fin 32) (t : Fin 16) (rs2 : Fin 32) (rs1 : Fin 32) (imm : BitVec 16)
  /-- BEQ (R335): Branches when equal. -/
  | kBeq (e : Fin 32) (t : Fin 16) (rs1 : Fin 32) (rs2 : Fin 32) (off : BitVec 16)
  /-- BNE (R335): Branches when not equal. -/
  | kBne (e : Fin 32) (t : Fin 16) (rs1 : Fin 32) (rs2 : Fin 32) (off : BitVec 16)
  /-- BLT (R335): Branches when less, signed. -/
  | kBlt (e : Fin 32) (t : Fin 16) (rs1 : Fin 32) (rs2 : Fin 32) (off : BitVec 16)
  /-- BGE (R335): Branches when greater or equal, signed. -/
  | kBge (e : Fin 32) (t : Fin 16) (rs1 : Fin 32) (rs2 : Fin 32) (off : BitVec 16)
  /-- BLTU (R335): Branches when less, unsigned. -/
  | kBltu (e : Fin 32) (t : Fin 16) (rs1 : Fin 32) (rs2 : Fin 32) (off : BitVec 16)
  /-- BGEU (R335): Branches when greater or equal, unsigned. -/
  | kBgeu (e : Fin 32) (t : Fin 16) (rs1 : Fin 32) (rs2 : Fin 32) (off : BitVec 16)
  /-- EVWAIT (R336): Takes the thread's next dispatchable event and loads its context. -/
  | kEvwait (e : Fin 32) (t : Fin 16) (rd : Fin 32) (rs1 : Fin 32)
  /-- EVWAIT_TIMEOUT (R336): An EVWAIT timeout expires and the thread continues without an event. -/
  | kEvwaitTimeout (e : Fin 32) (t : Fin 16)
  /-- EVDONE_COMMIT (R307): Ends the event, writing the context back and applying timer requests. -/
  | kEvdoneCommit (e : Fin 32) (t : Fin 16)
  /-- EVDONE_DISCARD (R307): Ends the event, dropping the context window and timer requests. -/
  | kEvdoneDiscard (e : Fin 32) (t : Fin 16)
  /-- READY (R322): Marks the personality ready so events are dispatched. -/
  | kReady (e : Fin 32) (t : Fin 16)
  /-- KEEP (R309): Keeps the event's frame past the event. -/
  | kKeep (e : Fin 32) (t : Fin 16) (rd : Fin 32)
  /-- RELEASE (R309): Releases a kept frame by its handle. -/
  | kRelease (e : Fin 32) (t : Fin 16) (rs1 : Fin 32)
  /-- BOPEN (R310): Opens a build in a district. -/
  | kBopen (e : Fin 32) (t : Fin 16) (rs1 : Fin 32)
  /-- BABORT (R310): Abandons the open build and frees its cells. -/
  | kBabort (e : Fin 32) (t : Fin 16)
  /-- SEND (R311): Injects the built frame at KP with its descriptor. -/
  | kSend (e : Fin 32) (t : Fin 16) (rs1 : Fin 32)
  /-- TIME (R338): Reads the cluster replica or the thread's time latch. -/
  | kTime (e : Fin 32) (t : Fin 16) (rd : Fin 32) (sel : Fin 32)
  /-- TMRSET (R339): Requests a timer entry. -/
  | kTmrset (e : Fin 32) (t : Fin 16) (rs1 : Fin 32) (rs2 : Fin 32)
  /-- TMRCAN (R339): Requests the cancel of timer entries by cookie. -/
  | kTmrcan (e : Fin 32) (t : Fin 16) (rs1 : Fin 32)
  /-- BERW (R341): Walks a BER path and returns the last TLV found. -/
  | kBerw (e : Fin 32) (t : Fin 16) (rd : Fin 32) (rs1 : Fin 32) (rs2 : Fin 32)
  /-- CRC (R342): Runs the selected CRC or sum over an operand. -/
  | kCrc (e : Fin 32) (t : Fin 16) (rd : Fin 32) (rs1 : Fin 32) (rs2 : Fin 32)
  /-- CSUM (R342): Adds an operand to the Internet checksum. -/
  | kCsum (e : Fin 32) (t : Fin 16) (rd : Fin 32) (rs1 : Fin 32) (rs2 : Fin 32)
  /-- AUTH (R343): Submits an authentication job, or is refused BUSY. -/
  | kAuth (e : Fin 32) (t : Fin 16) (rd : Fin 32) (rs1 : Fin 32)
  /-- LKACQ (R344): Reads a lock register to acquire it. -/
  | kLkacq (e : Fin 32) (t : Fin 16) (rd : Fin 32) (rs1 : Fin 32)
  /-- LKREL (R344): Fences tank accesses and releases a lock. -/
  | kLkrel (e : Fin 32) (t : Fin 16) (rs1 : Fin 32)
  /-- FENCE_TANK (R347): Stalls until earlier tank and mailbox accesses complete. -/
  | kFenceTank (e : Fin 32) (t : Fin 16)
  /-- FENCE_HOST (R347): Stalls until earlier host-window writes are ordered. -/
  | kFenceHost (e : Fin 32) (t : Fin 16)
  /-- FENCE_ALL (R347): Does both fences and waits for SEND and AUTH acceptance. -/
  | kFenceAll (e : Fin 32) (t : Fin 16)
  /-- TRAP (R350): Copies rs1 to SCRATCH and takes exception TRAP. -/
  | kTrap (e : Fin 32) (t : Fin 16) (rs1 : Fin 32)
  /-- RIDER_INTERVAL_END (R356): At each interval end the rider updates weights and runs its policy. -/
  | riderIntervalEnd
  /-- PAGE_IN_COMPLETE (R358): Home data reaches a slot, the context becomes HOT and held events are posted. -/
  | pageInComplete (c : Fin 65536) (home : Option (List Byte))
  /-- PAGE_OUT_COMPLETE (R358): A slot read completes, the slot is freed and the home written if dirty. -/
  | pageOutComplete (c : Fin 65536) (ecc : Bool)
  /-- MIGRATION_DRAINED (R360): The source engine holds no event for a moving context and the move completes. -/
  | migrationDrained (c : Fin 65536)
  /-- MIGRATE_TIMEOUT (R361): A migration not drained within MIGRATE_TIMEOUT_US is abandoned. -/
  | migrateTimeout (c : Fin 65536)
  /-- CREATE (R365): Rider CREATE takes a DORMANT context to HOT. -/
  | riderCreate (src : RiderFrom)
  /-- RETIRE (R365): Rider RETIRE takes a context to DORMANT at its event boundary. -/
  | riderRetire (src : RiderFrom)
  /-- MOVE (R365): Rider MOVE migrates a context to a named engine. -/
  | riderMove (src : RiderFrom)
  /-- PIN (R365): Rider PIN migrates if needed and pins a context. -/
  | riderPin (src : RiderFrom)
  /-- UNPIN (R365): Rider UNPIN clears PINNED. -/
  | riderUnpin (src : RiderFrom)
  /-- RESIDENT (R365): Rider RESIDENT sets or clears RESIDENT and pages the context in. -/
  | riderResident (src : RiderFrom)
  /-- EVICT (R365): Rider EVICT pages a context out now. -/
  | riderEvict (src : RiderFrom)
  /-- RIDER_READ (R365): Rider READ copies the last committed state to ADDR. -/
  | riderRead (src : RiderFrom)
  /-- RIDER_WRITE (R365): Rider WRITE replaces a context's state at the event boundary. -/
  | riderWrite (src : RiderFrom) (data : List Byte)
  /-- CLEAR_POISON (R365): Rider CLEAR_POISON writes a new state and makes a POISONED context HOT. -/
  | riderClearPoison (src : RiderFrom) (data : List Byte)
  /-- MAP (R366): Rider MAP reports a context's state, owner, flags and slot. -/
  | riderMap (src : RiderFrom)
  /-- RUN_POLICY (R365): Rider RUN_POLICY runs the policy at once and restarts the interval. -/
  | riderRunPolicy (src : RiderFrom)
  /-- TANK_ACCESS (R375): A granted tank access is judged by lease and regions and performed at its bank. -/
  | tankAccess (m : Fin 42) (x : Nat) (op : BitVec 2) (bytes : List Byte) (n : Nat)
  /-- LEASE_WRITE (R377): A TNK_LEASE write is accepted as pending or refused. -/
  | leaseWrite (m : Fin 42) (v : Word)
  /-- LEASE_APPLY (R377): A pending handover applies once no access to the bank is unfinished. -/
  | leaseApply (b : Fin 64)
  /-- LOCK_READ (R383): A lock read acquires a free lock or returns the owner plus 1. -/
  | lockRead (m : Fin 42) (i : Fin 256)
  /-- LOCK_WRITE (R384): A lock write by the owner frees it; any other is counted as foreign. -/
  | lockWrite (m : Fin 42) (i : Fin 256)
  /-- LOCK_FORCE (R385): A write of TNK_LK_FORCE with the code frees a lock whatever its owner. -/
  | lockForce (f : Fin 4) (v : Word)
  /-- MBX_SEND (R388): A SEND read copies staging to the message and notifies the receiver, or returns BUSY. -/
  | mbxSend (m : Fin 42) (c : Fin 64)
  /-- MBX_ACK_WRITE (R388): The receiver's ACK write moves a FULL channel to ACKED and notifies the sender. -/
  | mbxAckWrite (m : Fin 42) (c : Fin 64) (v : Word)
  /-- MBX_ACK_READ (R388): The sender's ACK read collects the outcome and empties an ACKED channel. -/
  | mbxAckRead (m : Fin 42) (c : Fin 64)
  /-- MBX_WAKE_LIMIT (R392): A message waiting 100 µs for its receiver's domain is discarded as UNDELIVERED. -/
  | mbxWakeLimit (c : Fin 64)
  /-- BANK_SUPPLY_CHECK (R397): A flume bank's supply is sensed and compared with its declaration. -/
  | bankSupplyCheck (b : Fin 2) (millivolts : Nat)
  /-- FLUME_START (R414): FLM_ENG_CTL START runs an engine from START_ADDR. -/
  | flumeStart (f : Fin 4) (e : Fin 48) (v : Word)
  /-- FLUME_RESUME (R414): FLM_ENG_CTL START with RESUME continues an engine from its held state. -/
  | flumeResume (f : Fin 4) (e : Fin 48) (v : Word)
  /-- FLUME_START_MATCH (R408): FLM_ENG_CTL START with MATCH arms an engine on a time target. -/
  | flumeStartMatch (f : Fin 4) (e : Fin 48) (v : Word)
  /-- FLUME_STOP (R414): FLM_ENG_CTL STOP stops an engine at once. -/
  | flumeStop (f : Fin 4) (e : Fin 48) (v : Word)
  /-- FLUME_MATCH_REACHED (R408): An ARMED engine's target is reached and its first tick falls. -/
  | flumeMatchReached (e : Fin 48)
  /-- FLUME_STALL_RESUME (R401): A stalled flume instruction finds its condition and continues. -/
  | flumeStallResume (e : Fin 48) (pins : BitVec 64) (edgeAt : Option Word)
  /-- IDLE (R402): Does nothing for n ticks. -/
  | fIdle (e : Fin 48) (n1 : BitVec 12)
  /-- DRIVE (R402): Writes levels to out-group pins and holds. -/
  | fDrive (e : Fin 48) (m : BitVec 4) (v : BitVec 4) (t : BitVec 4)
  /-- DIR (R402): Sets direction bits of out-group pins. -/
  | fDir (e : Fin 48) (m : BitVec 4) (d : BitVec 4)
  /-- FLUME_SEND (R403): Shifts bits from SL to a pin, one per bit cell. -/
  | fFlumeSend (e : Fin 48) (n1 : BitVec 4) (p : BitVec 4) (inv : Bool)
  /-- RECV (R403): Samples a pin once per bit cell into RL. -/
  | fRecv (e : Fin 48) (n1 : BitVec 4) (p : BitVec 4) (inv : Bool) (pins : List (BitVec 64))
  /-- EMIT (R402): Writes n bits from SL to out-group pins at once. -/
  | fEmit (e : Fin 48) (n1 : BitVec 4) (t : BitVec 4)
  /-- GATHER (R402): Appends in-group pin levels to RL. -/
  | fGather (e : Fin 48) (n1 : BitVec 4) (pins : BitVec 64)
  /-- WAIT_LEVEL (R402): Stalls until an in-group pin has a level. -/
  | fWaitLevel (e : Fin 48) (pol : Bool) (p : BitVec 4) (pins : BitVec 64)
  /-- WAIT_EDGE (R406): Stalls until an edge and stamps it in EDGE. -/
  | fWaitEdge (e : Fin 48) (pol : Bool) (p : BitVec 4) (edgeAt : Option Word)
  /-- WAIT_FLAG (R409): Stalls until a shared flag is set, optionally clearing it. -/
  | fWaitFlag (e : Fin 48) (pol : Bool) (clr : Bool) (rel : Bool) (flag : BitVec 5)
  /-- WAIT_MARK (R407): Stalls until the replica reaches M. -/
  | fWaitMark (e : Fin 48)
  /-- BR (R402): Branches when a condition holds. -/
  | fBr (e : Fin 48) (c : Fin 12) (a : BitVec 6) (pins : BitVec 64)
  /-- LOOP (R402): Decrements a counter and branches while non-zero. -/
  | fLoop (e : Fin 48) (k : Fin 4) (a : BitVec 6)
  /-- FLAG_SET (R409): Sets a shared flag. -/
  | fFlagSet (e : Fin 48) (rel : Bool) (flag : BitVec 5)
  /-- FLAG_CLEAR (R409): Clears a shared flag. -/
  | fFlagClear (e : Fin 48) (rel : Bool) (flag : BitVec 5)
  /-- FLAG_SET_WAIT (R409): Sets a shared flag and stalls until it is clear. -/
  | fFlagSetWait (e : Fin 48) (rel : Bool) (flag : BitVec 5)
  /-- SETK (R402): Loads a counter with an immediate. -/
  | fSetk (e : Fin 48) (k : Fin 4) (v : BitVec 10)
  /-- ADDK (R402): Adds a signed immediate to a counter. -/
  | fAddk (e : Fin 48) (k : Fin 4) (v : BitVec 10)
  /-- LOADK (R403): Loads a counter with 16 bits taken from SL. -/
  | fLoadk (e : Fin 48) (k : Fin 4)
  /-- XFER_FETCH (R404): Loads SL from the oldest TXQ word, stalling while TXQ is empty. -/
  | fXferFetch (e : Fin 48)
  /-- XFER_TRY_FETCH (R404): Loads SL from TXQ when a word is present. -/
  | fXferTryFetch (e : Fin 48)
  /-- XFER_DEPOSIT (R404): Pushes RL into RXQ, stalling while RXQ is full. -/
  | fXferDeposit (e : Fin 48)
  /-- XFER_TRY_DEPOSIT (R404): Pushes RL into RXQ or drops it when RXQ is full. -/
  | fXferTryDeposit (e : Fin 48)
  /-- XFER_LOADM (R402): Loads M from the oldest TXQ word. -/
  | fXferLoadm (e : Fin 48)
  /-- XFER_STAMP (R406): Pushes EDGE into RXQ. -/
  | fXferStamp (e : Fin 48)
  /-- XFER_NOW (R402): Pushes the replica's ns32 into RXQ. -/
  | fXferNow (e : Fin 48)
  /-- XFER_BRANCH_SL (R402): Loads PC from 6 bits taken from SL. -/
  | fXferBranchSl (e : Fin 48)
  /-- XFER_DIRS (R402): Loads out-group direction bits from SL. -/
  | fXferDirs (e : Fin 48)
  /-- XFER_CLEAR (R402): Clears SL, SC, RL and RC. -/
  | fXferClear (e : Fin 48)
  /-- FLUME_DMA_TX_POLL (R411): The flume DMA reads a TX ring's PUT and moves words into TXQ. -/
  | flumeDmaTxPoll (e : Fin 48)
  /-- FLUME_DMA_RX_WRITE (R411): The flume DMA writes RXQ words into an RX ring and then PUT. -/
  | flumeDmaRxWrite (e : Fin 48)
  /-- FLM_DMA_CTL_WRITE (R412): A write of FLM_DMA_CTL to a stopped engine restarts its rings. -/
  | flmDmaCtlWrite (f : Fin 4) (e : Fin 48) (v : Word)
  /-- FLM_TXQ_PUSH (R413): A write of FLM_TXQ pushes a word, or is refused. -/
  | flmTxqPush (f : Fin 4) (e : Fin 48) (v : Word)
  /-- FLM_RXQ_POP (R413): A read of FLM_RXQ pops a word, or is refused. -/
  | flmRxqPop (f : Fin 4) (e : Fin 48)
  /-- FLM_FLAG_SET_WRITE (R409): A write of FLM_FLAG_SET sets shared flags. -/
  | flmFlagSetWrite (f : Fin 4) (v : Word)
  /-- FLM_FLAG_CLR_WRITE (R409): A write of FLM_FLAG_CLR clears shared flags. -/
  | flmFlagClrWrite (f : Fin 4) (v : Word)
  /-- FLUME_CONFIG_WRITE (R415): A write of an engine's program or settings applies when stopped, or is refused. -/
  | flumeConfigWrite (f : Fin 4) (a : Nat) (v : Word)
  /-- SUBMISSION_DOORBELL (R425): A doorbell write of an SQ, TX or RX ring producer count, or its refusal. -/
  | submissionDoorbell (f : Fin 4) (kind : Fin 3) (q : Fin 8) (v : Word)
  /-- CQ_DOORBELL (R425): A CQ consumer doorbell frees room for held completions. -/
  | cqDoorbell (f : Fin 4) (q : Fin 4) (v : Word)
  /-- QUEUE_ENABLE (R426): Setting a queue's EN clears its counts, or is refused. -/
  | queueEnable (f : Fin 4) (kind : Fin 4) (q : Fin 8) (v : Word)
  /-- QUEUE_DISABLE (R426): Clearing a queue's EN stops fetching at once. -/
  | queueDisable (f : Fin 4) (kind : Fin 4) (q : Fin 8) (v : Word)
  /-- QUEUE_FETCH (R427): The queue unit fetches up to 8 entries of one queue in rotation. -/
  | queueFetch (f : Fin 4) (kind : Fin 3) (q : Fin 8) (entries : List (List Byte))
  /-- NOP (R428): Command NOP completes OK. -/
  | cmdNop (f : Fin 4) (q : Fin 4)
  /-- FENCE_ORDER (R429): Command FENCE ORDER orders commands of its SQ. -/
  | fenceOrder (f : Fin 4) (q : Fin 4)
  /-- FENCE_VISIBLE (R429): Command FENCE VISIBLE also waits for earlier writes to be visible. -/
  | fenceVisible (f : Fin 4) (q : Fin 4)
  /-- TWIN_WITNESS (R457): Command TWIN_WITNESS promotes the chip or reports why not. -/
  | twinWitness (f : Fin 4) (q : Fin 4)
  /-- TX_DESCRIPTOR (R430): A fetched TX descriptor starts reading its frame into the cistern. -/
  | txDescriptor (f : Fin 4) (t : Fin 8)
  /-- TX_HOST_READ_DONE (R431): A host frame's last byte is read, HEAD advances and the frame is injected. -/
  | txHostReadDone (f : Fin 4) (t : Fin 8) (bytes : List Byte) (good : Bool)
  /-- RX_DELIVERY (R432): A host port writes a queued frame into a posted RX buffer and completes it. -/
  | rxDelivery (f : Fin 4)
  /-- FUNCTION_LEVEL_RESET (R422): An FLR or D3hot entry resets one function's queues, vectors and mailboxes. -/
  | functionLevelReset (f : Fin 4)
  /-- MSIX_UNMASK (R435): An unmasked vector with its pending bit set is sent. -/
  | msixUnmask (f : Fin 4) (v : Fin 256)
  /-- MSIX_ENABLE_SET (R436): Setting MSI-X Enable clears HST_IRQ_PEND. -/
  | msixEnableSet (f : Fin 4)
  /-- RESYNC_REQUEST (R437): The request key in HST_RESYNC starts DRAINING, or is refused. -/
  | resyncRequest (f : Fin 4) (v : Word)
  /-- RESYNC_SNAPSHOT (R438): With nothing in flight the device samples the summary and enters WRITING. -/
  | resyncSnapshot
  /-- RESYNC_SIGNED (R438): The summary's signature completes and the write to host memory starts. -/
  | resyncSigned
  /-- RESYNC_SUMMARY_WRITTEN (R438): The summary is visible, STATE is DONE and vector 0 is signalled. -/
  | resyncSummaryWritten (good : Bool)
  /-- RESYNC_RESUME (R439): The resume key restarts fetching on every enabled queue. -/
  | resyncResume (f : Fin 4) (v : Word)
  /-- CULVERT_LANE_UP (R442): A culvert lane gains block lock and alignment. -/
  | culvertLaneUp (n : Fin 4)
  /-- CULVERT_LANE_DOWN (R442): A culvert lane drops and is counted. -/
  | culvertLaneDown (n : Fin 4)
  /-- IDENT_TIMER (R445): An unpaired chip with the link up sends IDENT every 10 ms. -/
  | identTimer
  /-- IDENT_RX (R445): A received IDENT is compared with the bound identity and may pair or fence. -/
  | identRx (bytes : List Byte)
  /-- HEARTBEAT_TIMER (R447): A paired chip sends a HEARTBEAT every 100 µs. -/
  | heartbeatTimer
  /-- HEARTBEAT_RX (R448): A valid heartbeat is received and its role, epoch and acknowledgement are applied. -/
  | heartbeatRx (bytes : List Byte)
  /-- HEARTBEAT_LOSS (R448): 300 µs without a valid heartbeat unpairs the chip and drives the role rules. -/
  | heartbeatLoss
  /-- MIRROR_RX (R460): The standby accepts and applies an in-order MIRROR record. -/
  | mirrorRx (bytes : List Byte)
  /-- IMAGE_RX (R464): An IMAGE message delivers image bytes served by the twin. -/
  | imageRx (bytes : List Byte)
  /-- MIRROR_TIME_TIMER (R459): The active chip sends the time record at least every 10 ms. -/
  | mirrorTimeTimer
  /-- ROLE_WIRE_EDGE (R450): An edge at ROLE_IN_N classifies the interval and updates the wire class. -/
  | roleWireEdge
  /-- ROLE_WIRE_SILENCE (R450): No edge for 60 µs makes the wire class SILENT. -/
  | roleWireSilence
  /-- PAIR_WAIT_EXPIRY (R451): PAIR_WAIT_MS passes unpaired and the chip becomes STANDBY or raises WITNESS_NEEDED. -/
  | pairWaitExpiry
  /-- TAKEBACK_SETTLE_EXPIRY (R455): The preferred chip healthy for TAKEBACK_SETTLE enters TAKEBACK. -/
  | takebackSettleExpiry
  /-- HANDOVER_DONE (R456): After acknowledgement or 1 ms the active chip sends HANDOVER and yields. -/
  | handoverDone
  /-- CUL_FENCE (R465): CUL_CMD FENCE gates the chip in FENCED. -/
  | culFence (f : Fin 4) (v : Word)
  /-- CUL_UNFENCE (R465): CUL_CMD UNFENCE returns a FENCED chip to PAIRING. -/
  | culUnfence (f : Fin 4) (v : Word)
  /-- CUL_BIND (R465): CUL_CMD BIND writes the last exchanged identity into the sentinel. -/
  | culBind (f : Fin 4) (v : Word)
  /-- CUL_UNBIND (R465): CUL_CMD UNBIND clears the bound-partner identity. -/
  | culUnbind (f : Fin 4) (v : Word)
  /-- SENTINEL_WRITE_DONE (R481): A sentinel write completes over the SUP-to-SEN crossing. -/
  | sentinelWriteDone
  /-- FREEZE_N_ASSERT (R466): FREEZE_N low past its filter starts a freeze. -/
  | freezeNAssert (ns : Nat)
  /-- FREEZE_N_RELEASE (R475): FREEZE_N rises and thaws a device whose automatic thaw was blocked. -/
  | freezeNRelease
  /-- FRZ_CTL_FREEZE (R466): A write of FRZ_CTL with the code and FREEZE starts a freeze. -/
  | frzCtlFreeze (f : Fin 4) (v : Word)
  /-- JTAG_FREEZE (R473): The JTAG FRZ_CTRL command FREEZE starts a freeze. -/
  | jtagFreeze (v : Word)
  /-- JTAG_THAW (R475): The JTAG FRZ_CTRL command THAW ends the freeze, or sets THAW_BLOCKED. -/
  | jtagThaw (v : Word)
  /-- AUTOTHAW_EXPIRY (R475): FRZ_AUTOTHAW.MS after the freeze the device thaws if FREEZE_N is high. -/
  | autothawExpiry
  /-- JTAG_IDCODE (R473): JTAG IDCODE selects the 32-bit identification register. -/
  | jtagIdcode
  /-- JTAG_SAMPLE_PRELOAD (R473): JTAG SAMPLE/PRELOAD selects the boundary register. -/
  | jtagSamplePreload
  /-- JTAG_EXTEST (R473): JTAG EXTEST drives the boundary register. -/
  | jtagExtest
  /-- JTAG_CLAMP (R473): JTAG CLAMP holds the boundary and selects bypass. -/
  | jtagClamp
  /-- JTAG_HIGHZ (R473): JTAG HIGHZ floats outputs and selects bypass. -/
  | jtagHighz
  /-- JTAG_BYPASS (R473): JTAG BYPASS, or any unlisted code, selects the 1-bit bypass. -/
  | jtagBypass (code : BitVec 8)
  /-- JTAG_FRZ_ADDR (R474): JTAG FRZ_ADDR selects island, section and start word for readout. -/
  | jtagFrzAddr (v : BitVec 64)
  /-- JTAG_FRZ_DATA (R474): JTAG FRZ_DATA streams freeze-record words without changing state. -/
  | jtagFrzData (words : Nat)
  /-- TAP_RESET (R473): Five TCK cycles with TMS high reset the TAP. -/
  | tapReset
  /-- WRITE_TOKEN (R481): SEN_CMD WRITE_TOKEN stores the bound-host token. -/
  | writeToken (f : Fin 4) (v : Word)
  /-- CLEAR_TOKEN (R481): SEN_CMD CLEAR_TOKEN sets the token to zero. -/
  | clearToken (f : Fin 4) (v : Word)
  /-- LOG_ACK (R481): SEN_CMD LOG_ACK moves the acknowledged index to the newest entry. -/
  | logAck (f : Fin 4) (v : Word)
  /-- ACK_VBAT (R481): SEN_CMD ACK_VBAT clears VBAT_LOST. -/
  | ackVbat (f : Fin 4) (v : Word)
  /-- TAMPER_CFG (R481): SEN_CMD TAMPER_CFG stores the tamper configuration. -/
  | tamperCfg (f : Fin 4) (v : Word)
  /-- TAMPER_DETECT (R482): A debounced tamper input logs an entry, acts and may freeze the device. -/
  | tamperDetect (n : Fin 2)
  /-- VBAT_LOSS (R478): VBAT falls below 1.6 V and every sentinel content is lost. -/
  | vbatLoss
  /-- VBAT_RESTORE (R478): VBAT returns and the sentinel starts zeroed with VBAT_LOST and a log entry. -/
  | vbatRestore
  /-- SEN_RTC_READ (R479): A read of SEN_RTC_LO returns the low tick bits and latches the high bits. -/
  | senRtcRead (f : Fin 4)
  /-- TEMP_SENSOR_UPDATE (R506): Every 1 ms each temperature sensor updates its reading. -/
  | tempSensorUpdate (n : Fin 8) (v : BitVec 12)
  /-- AGEING_MEASUREMENT (R508): Once per second each island's ageing monitor measures its slack. -/
  | ageingMeasurement (i : Fin 17) (v : BitVec 12)
  /-- ILLEGAL_INSTRUCTION_WORD (R331): A Kuern thread issues a word that R331 makes ILLEGAL, such as opcode 0x15 or 0x0000_0000, and takes exception ILLEGAL. -/
  | illegalInstructionWord (e : Fin 32) (t : Fin 16) (w : Word)
  /-- FLUME_ILLEGAL_INSTRUCTION (R416): A flume engine reaches an ILLEGAL instruction, such as opcode 0xF, and faults with code 1, holding its pins. -/
  | flumeIllegalInstruction (e : Fin 48) (w : BitVec 16)
  /-- BUS_MASTER_ENABLE_CLEAR (R422): The host clears a function's Bus Master Enable, which stops its queues fetching, discards its writes and fails a RESYNC it requested with ERR = RESET. -/
  | busMasterEnableClear (f : Fin 4)
  /-- EVENT_BOUNDARY_TIMEOUT (R365): A rider command that waits for an event boundary, such as RETIRE or WRITE, is answered BUSY when MIGRATE_TIMEOUT_US passes without one. -/
  | eventBoundaryTimeout
  deriving DecidableEq, Repr

end Sys2Proof
end

