-- ==== Sys2Proof/Decode.lean ====
section
/-!
DEFINITION. The commands of spec/opcode_table.json carry no bits: no word spells a command.
-/
namespace Sys2Proof

/-- The command that a word spells by the table's bits: the table gives no row bits, so none. -/
def decodeTableWord (_nbits _w : Nat) : Option Instr := none

end Sys2Proof
end

