-- ==== Sys2Proof/Config.lean ====
section
/-!
DEFINITION. What one chip fixes and what the spec leaves open: constants without a body, so that no proof can see a
value of them (assumption log entries 5, 6 and 7).
-/
namespace Sys2Proof

/-- What a lane reads of a frame's IEC 62351-6 security extension: key identifier, algorithm (Table 6-7), tag, initialisation vector
and the covered octets (R170). -/
structure SecExt where
  keyId : Word
  alg : Nat
  tag : List Byte
  iv : List Byte
  covered : List Byte
  deriving DecidableEq, Repr

namespace Config

/-- A value the spec leaves open, of width `w`, numbered by `State.freeCtr` (log entry 7, DESIGN CHOICE). -/
opaque freeValue (w : Nat) : Nat → BitVec w

/-- SHA-256, fixed by a standard outside the spec (R46, R48, R440; log entry 5). -/
opaque sha256 : List Byte → BitVec 256

/-- HMAC-SHA-256 of a key and a message (Table 6-7; log entry 5). -/
opaque hmacSha256 : List Byte → List Byte → BitVec 256

/-- AES-GMAC of a key, an initialisation vector and a message (Table 6-7; log entry 5). -/
opaque gmac : List Byte → List Byte → List Byte → BitVec 128

/-- The security extension of IEC 62351-6 that a frame carries, if any, and the octets it covers (R170; log entry 5). -/
opaque secExt : List Byte → Option SecExt

/-- The octets of a GOOSE or SV frame that IEC 62351-6 covers with its tag (R289; log entry 5). -/
opaque secCovered : List Byte → List Byte

/-- The initialisation vector of an AES-GMAC tag of a frame, as IEC 62351-6 fixes it (R289; log entry 5). -/
opaque secIv : List Byte → List Byte

/-- A frame with its IEC 62351-6 extension: the frame, the algorithm of Table 6-7, the key identifier and the tag (R289; log
entry 5). -/
opaque secExtend : List Byte → Nat → BitVec 32 → List Byte → List Byte

/-- Whether `(r, s)` is a valid ECDSA P-256 signature of a digest by the key `(x, y)` (R49; log entry 5). -/
opaque ecdsaValid : (x y r s digest : BitVec 256) → Bool

/-- The signature `(r, s)` the signing unit makes over a message with the fused device key (R440; log entry 5). -/
opaque ecdsaSign : List Byte → BitVec 256 × BitVec 256

/-- The bytes of an IMAGE message after its sequence number (R464), by the number of the free value (log entry 92). -/
opaque imageBytes : Nat → List Byte

/-- The fused 256-bit identity (R477; log entry 6). -/
opaque identity : BitVec 256

/-- The public half of the device signing key, X (R477; log entry 6). -/
opaque devKeyX : BitVec 256

/-- The public half of the device signing key, Y (R477; log entry 6). -/
opaque devKeyY : BitVec 256

/-- The image-key hash fused in slot `n`; zero is an unprogrammed slot (R49; log entry 6). -/
opaque slotHash : Nat → BitVec 256

/-- The revocation bits fused when the model starts (R477; log entry 6). -/
opaque slotRevoked : BitVec 4

/-- The slack of island `n` fused at final test (R508; log entry 6). -/
opaque ageRef : Nat → BitVec 12

/-- What a freeze record shows that no rule lays out: by freeze, island and word (R470; log entry 7). -/
opaque freezeWord : Nat → Nat → Nat → BitVec 64

/-- LAYOUT_ID and STATE_WORDS of an island's record (R470; log entry 6). -/
opaque layoutId : Nat → BitVec 16
opaque stateWords : Nat → BitVec 32

/-- WORDS of a memory of a record that no rule states, by island and MEM_ID (R470; log entry 6). -/
opaque memWords : Nat → Nat → BitVec 32

end Config
end Sys2Proof
end

