-- ==== Sys2Proof/Machine/State.lean ====
section
/-!
DEFINITION. The state of the SZ9192 as plain data: the register file, and every piece of state the spec gives the machine
that no register shows, block by block; the reasons a step can stop; and the state after reset.
-/
namespace Sys2Proof.Machine

/-- A row of the register map: name, address, two strides with their counts, and the masks of its fields by the types of
Table 0-2 (RW, RWL, W1C, W1S, RC), with the reset value. -/
structure RegRow where
  name : String
  base : Nat
  s1 : Nat
  c1 : Nat
  s2 : Nat
  c2 : Nat
  rw : Nat
  rwl : Nat
  w1c : Nat
  w1s : Nat
  rc : Nat
  rst : Nat
  deriving DecidableEq, Repr

/-- Requesters of sluice instance `i` (Table 8-1). -/
def sluRequesters (i : Nat) : Nat :=
  if i < 32 then 13 else if i < 96 then 10 else if i < 112 then 7 else if i = 112 then 10 else if i = 113 then 4 else 42

/-- Beats per grant of sluice instance `i` (Table 8-1). -/
def sluBeats (i : Nat) : Nat :=
  if i < 32 then 8 else if i < 112 then 1 else if i = 112 then 4 else if i = 113 then 8 else 1

/-- The masters that own region 0 over the whole tank from reset (R380): the supervisor and the host functions. -/
def tankOwnerAtReset (m : Nat) : Bool := decide (m = 32) || (decide (36 ≤ m) && decide (m ≤ 39))

/-! ### Outside world -/

/-- What the device puts out: the model's own record of everything an outside party can see, newest first
(log entry 4, DESIGN CHOICE). -/
inductive Out where
  /-- An MSI-X message of a function (R435). -/
  | msix (func vector : Nat)
  /-- A write to the memory of a function (R16, R432, R433). -/
  | hostWrite (func addr : Nat) (bytes : List Byte) (relaxed : Bool)
  /-- A read of the memory of a function (R302). -/
  | hostRead (func addr n : Nat)
  /-- A fence of an engine's thread: its host-window writes put out before are in host memory before whatever is put out on its behalf
  after (R16, R347). -/
  | hostFence (eng thr : Nat)
  /-- A frame that left a port, as the port transmitted it; `cut` when it ended with an error code group. -/
  | frame (port : Nat) (bytes : List Byte) (cut : Bool)
  /-- A pause or per-class pause frame that left a port, with its times in quanta, and its bytes (R133, R134). -/
  | pause (port : Nat) (quanta : List (Nat × Nat)) (bytes : List Byte)
  /-- What a port's line carries from now on: 0 frames, 1 remote fault, 2 idle, 3 the link held down towards the PHY (R123, R128, R142). -/
  | line (port : Nat) (sends : Nat)
  /-- The acknowledge of the status word of a front port's PHY (R121). -/
  | ack (port : Nat)
  /-- A message that left on the culvert (R443). -/
  | culvert (bytes : List Byte)
  /-- A word the JTAG port captured for shifting out (R473, R474). -/
  | jtag (width : Nat) (value : Nat)
  /-- A flume pin as the device leaves it: driven to a level, or released (R398). -/
  | pin (pin : Nat) (drive : Option Bool)
  /-- The PPS_OUT level (R116). -/
  | pps (level : Bool)
  /-- The level at ROLE_OUT_N, true for high (R449). -/
  | roleWire (level : Bool)
  deriving DecidableEq, Repr

/-! ### Crossings and scrubbing -/

/-- The crossings (R18, R21): by channel, how many words have reached the far side since it was emptied, and the last of them; the word of a
handshake in progress that a freeze holds. The scrubbers (R26): by memory and bank, the word the next slot reads. Corrected and uncorrectable
errors since reset, by 32 × island + memory of Table 19-4 (R470). -/
structure ArchState where
  crossing : Tab (Nat × BitVec 512)
  handshake : Tab (Option (BitVec 512))
  scrub : Tab Nat
  corrected : Tab Nat
  uncorrectable : Tab Nat
  deriving DecidableEq, Repr

/-! ### Fuses, image and bring-up -/

/-- What the fuses hold (R477); it survives every reset. -/
structure Fuses where
  identity : BitVec 256
  keyX : BitVec 256
  keyY : BitVec 256
  slotHash : Tab (BitVec 256)
  revoked : BitVec 4
  deriving DecidableEq, Repr

/-- One section of an image: its table entry (Table 2-2) and its payload. -/
structure ImgSection where
  type : Nat
  cls : Nat
  inst : Nat
  offset : Nat
  generation : Nat
  crc : Nat
  payload : List Byte
  deriving DecidableEq, Repr

/-- A structure image after the verify pass: header fields, sections in table order, digest, key slot. -/
structure Image where
  serial : Nat
  flags : Nat
  buildTime : Nat
  keySlot : Nat
  digest : BitVec 256
  sections : List ImgSection
  deriving DecidableEq, Repr

/-- A unit of a committed swap that has not applied: section type, unit, and the section it still runs (R62). -/
structure UnitPend where
  type : Nat
  unit : Nat
  old : Option ImgSection
  deriving DecidableEq, Repr

/-- The command the loader runs (R58): a load or a swap, its source as SRC codes it, the function that gave it, and whether the boot
source gave it (R52). -/
structure LoadCmd where
  swap : Bool
  src : Nat
  func : Nat
  boot : Bool
  deriving DecidableEq, Repr

/-- The image loader beside its registers. -/
structure ImgState where
  running : Option Image
  held : Option Image
  cmd : Option LoadCmd
  /-- Sections of the held image read and matched in the apply pass, by index in the table. -/
  applied : List Nat
  /-- Units of a committed swap that have not applied, with the section each still runs (R62). -/
  units : List UnitPend
  /-- Swaps that have committed and not completed (R62). -/
  swapsOpen : Nat
  /-- Key slots whose revocation fuse is being programmed, oldest first (R50). -/
  revoking : List Nat
  /-- Boot sources still to be tried after the one in progress (R51). -/
  bootNext : List Nat
  deriving DecidableEq, Repr

/-- A domain policy in force (Table 3-7). -/
structure DomPolicy where
  mode : Nat
  retain : Bool
  idleHold : Nat
  deriving DecidableEq, Repr

/-- Resets, ROM, PLLs and power beside their registers (chapter 3). -/
structure PwrState where
  porstLow : Bool
  srstLow : Bool
  /-- Since when a reset pin is low that the device has not taken yet: PORST_N, and SRST_N (R65). -/
  porstFrom : Option Nat
  srstFrom : Option Nat
  /-- The end of the system reset that is running; `none` when none runs or SRST_N is low (R67). -/
  resetRun : Bool
  holdEnd : Option Nat
  romStep : Nat
  pllFailed : BitVec 10
  /-- Kind of the pending request of a domain whose PENDING is set: true for ON (R79). -/
  pendingOn : Tab Bool
  policy : Tab DomPolicy
  /-- By domain, 1 + the SUP cycle of the last ON request and of the last OFF request that started an off-sequence (R80); 0 is none. -/
  onAt : Tab Nat
  offAt : Tab Nat
  /-- By cluster, the instant since which it has been idle without a break (R81). -/
  idleFrom : Tab (Option Nat)
  /-- By cluster, whether the operating-point change in progress goes to FULL (R84). -/
  toFull : BitVec 4
  deep : Bool
  /-- The PCIe link is trained. -/
  linkUp : Bool
  deriving DecidableEq, Repr

/-- A frame in trickle service with its reception time in µs (R75). -/
structure TrkFrame where
  bytes : List Byte
  stamp : Nat
  deriving DecidableEq, Repr

/-- Trickle service beside its registers (R71 to R76): the queues of its ports, its settings, whether the handover has begun, and the
instant of the commit that ends it. -/
structure TrickleState where
  high : Tab (List TrkFrame)
  low : Tab (List TrkFrame)
  portMask : BitVec 8
  prio : Nat
  draining : Bool
  commitAt : Nat
  deriving DecidableEq, Repr

/-! ### Tank memory and mailboxes -/

/-- A lease handover that is pending (R377). -/
structure LeasePend where
  leased : Bool
  owner : Nat
  master : Nat
  deriving DecidableEq, Repr

/-- A tank word as it was before its last write: by word offset, whether it was poisoned, who wrote it and in which CORE cycle (R374). -/
structure TankOld where
  word : Nat
  bytes : List Byte
  poisoned : Bool
  master : Nat
  cycle : Nat
  deriving DecidableEq, Repr

/-- Tank memory: bytes by offset, poisoned words by word offset with the mask of bytes written since (R381), pending
handovers by bank, and the result of each master's last lease write with its bank (R376). Locks, banks and regions live in the registers. -/
structure TankState where
  mem : Tab Byte
  poison : Tab (Option (BitVec 8))
  pend : Tab (Option LeasePend)
  leaseResult : Tab (Nat × Nat)
  /-- The last writes, which a read of the next CORE cycle does not see (R374). -/
  recent : List TankOld
  deriving DecidableEq, Repr

/-- A mailbox channel beside MBX_CH_STAT and MBX_BIND: staging and message (64 bytes each), and the instant of the wake
limit (R392). -/
structure MbxChan where
  staging : List Byte
  msg : List Byte
  wakeLimit : Option Nat
  /-- The instant at which the message reached its receiver. -/
  since : Nat
  deriving DecidableEq, Repr

/-! ### Flume engines -/

/-- Table 16-3. -/
inductive FlumeMode where
  | stopped | armed | running | stalled | fault
  deriving DecidableEq, Repr

/-- A flume instruction as the engine holds it while it has not ended (Table 16-1, the XFER list). -/
inductive FlumeOp where
  /-- What an IDLE, DRIVE or EMIT still occupies: `left` ticks. -/
  | ticks
  | send (p : Nat) (inv : Bool)
  | recv (p : Nat) (inv : Bool)
  | emit (n t : Nat)
  | gather (n : Nat)
  | waitLevel (pol : Bool) (p : Nat)
  | waitEdge
  | waitFlag (pol clr : Bool) (flag : Nat)
  | waitMark
  | setWait (flag : Nat)
  | loadk (k : Nat)
  | fetch | deposit | loadm | stamp | now
  | branchSl
  | dirs (n : Nat)
  deriving DecidableEq, Repr

/-- What a flume instruction that has not ended still has to do (R401, R403, R414): the instruction, the ticks, cells or bits that are left,
the bits it has taken or the sampled levels it has still to append, whether an automatic deposit comes first, the levels at the balls for the
cells that a RECV has still to sample, and the ns32 of its first tick. -/
structure FlumeRest where
  op : FlumeOp
  left : Nat
  bits : List Bool
  deposit : Bool
  pins : List (BitVec 64)
  start : Word
  deriving DecidableEq, Repr

/-- A flume engine (R399) beside its settings registers. -/
structure FlumeEng where
  mode : FlumeMode
  /-- STALL code of FLM_ENG_STAT. -/
  stall : Nat
  pc : BitVec 6
  sl : BitVec 32
  sc : Nat
  rl : BitVec 32
  rc : Nat
  k0 : BitVec 16
  k1 : BitVec 16
  k2 : BitVec 16
  k3 : BitVec 16
  mark : BitVec 32
  dirs : BitVec 16
  txq : List Word
  rxq : List Word
  edge : BitVec 32
  acc : BitVec 8
  faultCode : Nat
  faultPc : BitVec 6
  target : Word
  rest : Option FlumeRest
  txStopped : Bool
  rxStopped : Bool
  /-- Running time of the next tick, or of the next action of an instruction that occupies several (R400, R401). -/
  due : Nat
  /-- ARMED with RESUME set. -/
  resume : Bool
  /-- The FLUME cycle in which words last entered TXQ, and how many in it (R405). -/
  txNew : Nat × Nat
  /-- The FLUME cycle in which the DMA or the host last took words of RXQ, and how many in it (R405). -/
  rxGone : Nat × Nat
  /-- The DMA's positions in the rings: GET of the TX ring, PUT of the RX ring (R410). -/
  txGet : Word
  rxPut : Word
  deriving DecidableEq, Repr

/-- The flume block beside its registers: engines, shared flags, the level each pin was last written, the levels at the
balls, and the supply declared (none: no declaration) and sensed of each bank. -/
structure FlmState where
  eng : Tab FlumeEng
  flags : BitVec 32
  /-- The FLUME cycle in which the flags last changed, the flags as they stood at its start, and those set and those taken by a WAIT with CLR
  in it (R409). -/
  cycle : Nat
  flagsOld : BitVec 32
  flagsUp : BitVec 32
  flagsTaken : BitVec 32
  level : BitVec 64
  ball : BitVec 64
  decl : Tab (Option Nat)
  /-- Pins are high-impedance until the first commit and while D15 is off (R398). -/
  driven : Bool
  deriving DecidableEq, Repr

/-! ### Host interface -/

/-- A submission command in progress (R428). -/
structure HostCmd where
  index : Word
  bytes : List Byte
  started : Bool
  deriving DecidableEq, Repr

/-- A TX descriptor fetched and not completed (R430). -/
structure TxDesc where
  index : Word
  bytes : List Byte
  /-- The host read of its frame has started. -/
  reading : Bool
  /-- It was fetched before the ring was last enabled: HEAD does not count it. -/
  old : Bool
  deriving DecidableEq, Repr

/-- A completion with its 31 bytes before PHASE (Table 17-7) or the status that will fill them. -/
structure Completion where
  index : Word
  kind : Nat
  source : Nat
  status : Nat
  detail : Nat
  tag : Nat
  rxinfo : Nat
  result : Word
  ns32 : Word
  frac : Nat
  stream : Nat
  /-- The two-step entry that the write frees (port, tag), and the received frame whose reference it releases. -/
  twoStep : Option (Nat × Nat)
  release : Option Nat
  deriving DecidableEq, Repr

/-- A host function beside its banked registers: the MSI-X Enable, Bus Master Enable and Relaxed Ordering Enable bits of its configuration
space, the next of its 20 queues and rings to be served (R427), and fetched work. -/
structure HostFn where
  msixEnable : Bool
  busMaster : Bool
  relaxed : Bool
  turn : Nat
  sq : Tab (List HostCmd)
  tx : Tab (List TxDesc)
  rx : Tab (List Nat)
  /-- Completions owed to a full or held CQ, oldest first. -/
  held : Tab (List Completion)
  /-- Completions written since the last interrupt of the CQ. -/
  sinceIrq : Tab Nat
  deriving DecidableEq, Repr

/-- The host block. -/
structure HstState where
  fn : Tab HostFn
  /-- The queue unit's rotation: the function served next (R427). -/
  turn : Nat
  /-- The function, buffer address and nonce of the last RESYNC request (R437). -/
  resyncFunc : Nat
  resyncAddr : Nat
  resyncNonce : BitVec 64
  resyncCount : Nat
  /-- The HOST cycle of the last request (R437). -/
  resyncAt : Nat
  /-- RESYNC has stopped every queue (R438); completions of frames already in the cistern are held. -/
  paused : Bool
  /-- The summary taken at the snapshot, until it is written (R438). -/
  summary : List Byte
  deriving DecidableEq, Repr

/-! ### Culvert -/

/-- A sequenced culvert message kept for replay (R444). -/
structure CulMsg where
  lseq : Nat
  bytes : List Byte
  deriving DecidableEq, Repr

/-- The twin beside its registers. -/
structure CulState where
  /-- The running image enables the twin and its culvert is started. -/
  started : Bool
  /-- An IDENT has come since reset; whether it carried BOUND_OK and ROLE_PREF, and its image hash. -/
  identSeen : Bool
  partnerOk : Bool
  partnerPref : Bool
  partnerHash : BitVec 256
  /-- This chip accepts the partner (the BOUND_OK it sends), and has said so in an IDENT. -/
  boundOk : Bool
  okSent : Bool
  /-- The instants of the last IDENT, heartbeat and time record sent (R445, R447, R459). -/
  identFrom : Nat
  hbFrom : Nat
  timeFrom : Nat
  /-- FLAGS and TIME_STATE of the partner's last heartbeat; its arrival, as an instant and as a stamp, and its TX_NS32. -/
  partnerFlags : BitVec 8
  partnerTime : Nat
  lastHbRx : Option Nat
  /-- The instant of pairing or of the last valid heartbeat since: heartbeat loss counts from it (R448). -/
  lossFrom : Nat
  lastHbNs32 : Word
  lastHbTx : Word
  /-- Heartbeats sent since pairing, and role, flags and epoch of the last one. -/
  hbSeq : Word
  hbSent : Nat × Nat × Word
  /-- The last sequence numbers sent and accepted, the replay buffer, and heartbeats in a row that acknowledged less (R444). -/
  lseqSent : Nat
  lseqIn : Nat
  replay : List CulMsg
  ackShort : Nat
  /-- Records waiting to be sent: class, index, payload; at most one per object (R460). -/
  pendRec : List (Nat × Nat × List Byte)
  /-- The full pass of this pairing has been sent; a record was refused since PASS_START (R461). -/
  passSent : Bool
  passRefused : Bool
  /-- The instant since which the chip is HEALTHY without a break (R455). -/
  settleFrom : Option Nat
  /-- A handover waits for its acknowledgements since an instant; HANDOVER has been sent (R456). -/
  handover : Option Nat
  handed : Bool
  /-- The last edge at ROLE_IN_N, the kind of the last interval, and since when the wire class is CLAIM (R450). -/
  wireEdge : Option Nat
  wireLast : Nat
  wireClaim : Option Nat
  /-- Since when the chip waits in PAIRING, and whether that wait has ended with WITNESS_NEEDED. -/
  pairFrom : Nat
  pairRaised : Bool
  /-- Updates of the peer status block (R463). -/
  statusSeq : Nat
  /-- Mirrored contexts waiting for an event boundary: context, 512 bytes. -/
  ctxRec : List (Nat × List Byte)
  /-- The role-wire generator (R449): the level at ROLE_OUT_N, and the instant of its next edge. -/
  wireHigh : Bool
  wireNext : Nat
  deriving DecidableEq, Repr

/-! ### Freeze, JTAG and sentinel -/

/-- The JTAG instruction in force (Table 19-3). -/
inductive JtagInstr where
  | idcode | sample | extest | clamp | highz | frzCtrl | frzAddr | frzData | bypass
  deriving DecidableEq, Repr

/-- The freeze controller and the TAP beside the FRZ registers. -/
structure FrzState where
  frozen : Bool
  timeRun : Bool
  startAt : Nat
  /-- A trigger held until ROM_DONE: its source code, and the TIME_RUN that JTAG gave with it (R466). -/
  trigger : Option (Nat × Option Bool)
  thawBlocked : Bool
  /-- An automatic thaw has fallen due while FREEZE_N was low (R475). -/
  autoDue : Bool
  /-- Causes of TIM_CAUSE raised during a freeze with TIME_RUN, held until thaw (R467). -/
  heldTim : Word
  /-- Causes of SEN_CAUSE held until thaw, and bit 31 for the end of a sentinel write of the culvert block. -/
  heldSen : Word
  /-- The steps and sets of the clock that took effect during a freeze with TIME_RUN: their sum, in 2⁻³² ns (R110, R274). -/
  moved : Option Int
  /-- ns32 when the line reached TIME (Table 19-2), and the number of the freeze among the free values (log entry 7). -/
  ns32 : Word
  seed : Nat
  /-- FREEZE_N level at the ball, true for low. -/
  pinLow : Bool
  ir : JtagInstr
  addr : BitVec 64
  word : Nat
  /-- For memory `m` of island `i`, under 32·i + m: how many of its words have been read from address 0 on in this freeze (R472). -/
  read : Tab Nat
  deriving DecidableEq, Repr

/-- A tamper-log entry (Table 19-7). -/
structure LogEntry where
  kind : Nat
  actions : Nat
  seq : Nat
  boot : BitVec 32
  ticks : BitVec 48
  deriving DecidableEq, Repr

/-- A sentinel write that is running (R481). -/
inductive SenWrite where
  | token (bytes : List Byte) | clearToken | logAck | ackVbat | tamperCfg (cfg : Word)
  | bind (id : BitVec 256) | unbind
  deriving DecidableEq, Repr

/-- The sentinel (R478 to R483), powered from VBAT. -/
structure SenState where
  vbat : Bool
  isolated : Bool
  vbatLost : Bool
  token : List Byte
  partner : BitVec 256
  boot : BitVec 32
  cfg : Word
  log : Tab LogEntry
  total : Nat
  newest : Nat
  acked : Nat
  ticks : BitVec 48
  busy : Option SenWrite
  /-- The tick of the last detection of a tamper input, plus 1; 0 for none (R482). -/
  detAt : Tab Nat
  /-- The tick of the last tamper action, and whether it cleared the token and the partner identity (R481). -/
  wiped : Option (Nat × Bool × Bool)
  deriving DecidableEq, Repr

/-! ### Time base -/

/-- A slew in progress (R92): what is left of its total in units of 2^-24 ns, the rate in those units per cycle, and
whether the clock is slowed. -/
structure Slew where
  remaining : Nat
  rate : Nat
  negative : Bool
  deriving DecidableEq, Repr

/-- A discipline command that waits for its effective instant (R94). -/
inductive HeldClk where
  | step (adj : Word)
  | set (sec : BitVec 48) (ns : Nat)
  | slew (adj : Word) (rate : Nat)
  deriving DecidableEq, Repr

/-- An entry of a two-step queue (R108). -/
structure Ts2 where
  port : Nat
  tag : Nat
  ns32 : Word
  frac : Nat
  deriving DecidableEq, Repr

/-- An entry of a launch calendar (R110): port, target, frame handle and when it was entered. -/
structure CalEntry where
  port : Nat
  target : Word
  handle : Nat
  seq : Nat
  deriving DecidableEq, Repr

/-- The transparent-clock function (R107): mode 0 off, 1 E2E, 2 P2P, and the bitmap of its ports. -/
structure TransClock where
  mode : Nat
  ports : BitVec 256
  deriving DecidableEq, Repr

/-- A launch-calendar policy in force (Table 4-4). -/
structure CalPolicy where
  drop : Bool
  guard : Nat
  tol : Nat
  deriving DecidableEq, Repr

/-- The PTP clock (R89): seconds, nanoseconds, fraction, and what disciplines it, beside its registers. -/
structure Clock where
  sec : BitVec 48
  ns : BitVec 30
  frac : BitVec 32
  /-- (SEC × 10⁹ + NS) mod 2³², kept as a count of its own (R97). -/
  ns32 : BitVec 32
  incInt : BitVec 8
  incFrac : BitVec 32
  staged : BitVec 32
  slew : Option Slew
  /-- TIM_ADJ_REM of a slew that a command ended: signed ns (R92). -/
  lost : Word
  /-- The step or set that waits for its instant first, then what is held behind it (R94). -/
  held : List HeldClk
  /-- TIME cycles until the instant of the first of `held` (R94). -/
  wait : Nat
  /-- The instant from which each island's replica is valid; none while invalid (R100). -/
  replicaOk : Tab Bool
  ts2 : Tab (List Ts2)
  cal : Tab (List CalEntry)
  calSeq : Nat
  cmpArmed : BitVec 8
  ppsHigh : Bool
  ppsFall : Option Nat
  /-- The number of the last edge instant of PPS_OUT that the clock has reached (R116). -/
  ppsSec : Int
  keptSpeed : Tab Nat
  tc : TransClock
  policy : Tab CalPolicy
  deriving DecidableEq, Repr

/-! ### Frames, ports and the cistern -/

/-- Who put a frame into the device, and what its descriptor asked for (R151, Table 17-5, Table 12-4). -/
inductive Origin where
  | wire
  /-- A TX ring of a host function: the ring and the descriptor's index in it. -/
  | host (func ring : Nat) (index : Word)
  /-- An engine's thread; the context of the event that sent it. -/
  | engine (eng thread : Nat) (ctx : Option Nat)
  /-- A GOOSE publication. -/
  | goose (pub : Nat)
  /-- An SV republication. -/
  | sv (rep : Nat)
  /-- The Furrow star. -/
  | star (dom : Nat)
  deriving DecidableEq, Repr

/-- A destination queue of a frame: the cells charged to its reserve and to the shared pool, the cells the weir has decided,
and whether it has refused one (R189, R190). -/
structure Dest where
  port : Nat
  reserve : Nat
  shared : Nat
  decided : Nat
  refused : Bool
  deriving DecidableEq, Repr

/-- What a redundant port read from a frame: the set, whether from the B port, the sequence number, and whether it came as
an HSR tag (R162). -/
structure RedTag where
  set : Nat
  lanB : Bool
  seq : Nat
  hsr : Bool
  deriving DecidableEq, Repr

/-- The guardian's view of a frame received on a Furrow member port: domain, channel, whether it is a coldstart or dynamic,
the furrow or dynamic ID charged, the start stamp in 1/256 ns of domain time, and the refusal, if any (R230). -/
structure FurRx where
  dom : Nat
  chanB : Bool
  kind : Nat
  furrow : Nat
  stamp : Nat
  refused : Option Nat
  deriving DecidableEq, Repr

/-- A frame record (R175): the frame as stored, from destination address to the last byte before the check, what the headgate
decided, the descriptor it carries, its cells and its references. -/
structure Frame where
  bytes : List Byte
  whole : Bool
  ingress : Nat
  district : Nat
  vid : Nat
  pcp : Nat
  tc : Nat
  ns32 : Word
  frac : Nat
  stream : Nat
  refs : Nat
  /-- Reception, authentication or dispatch still has the frame: it is not freed at reference count 0. -/
  inHand : Bool
  cells : List Nat
  /-- Cells the weir has decided, and the shared cells the frame occupies (R189). -/
  offered : Nat
  shared : Nat
  dests : List Dest
  found : Bool
  oqCopy : Bool
  /-- Destinations that queued the frame, destinations still to be decided, and whether one refused it for a port reason
  (R513). -/
  queuedOn : Nat
  undecided : Nat
  portRefused : Bool
  origin : Origin
  flags : Nat
  dest : Nat
  target : Word
  refNs32 : Word
  refFrac : Nat
  tag : Nat
  completed : Bool
  /-- Actions of stage 6: bit 0 FORWARD, bit 1 TO_CONTEXT, bit 2 TO_CONFLUENCE. -/
  action : Nat
  context : Nat
  confStream : Nat
  authMode : Nat
  authAlg : Nat
  keyIndex : Nat
  authStatus : Nat
  /-- Reason of Table 6-9 that stages 1 to 7 found. -/
  drop : Option Nat
  waiting : Bool
  /-- The frame check has passed (R181). -/
  passed : Bool
  red : Option RedTag
  /-- Sequence numbers given at stage 9, by redundancy set (R167). -/
  numbers : List (Nat × Nat)
  furrow : Option FurRx
  /-- The ring port the frame leaves on in cut-through (R187). -/
  cut : Option Nat
  /-- Siphon sessions that have matched the frame (R200). -/
  sessions : List Nat
  /-- The staging copy that a partition copy refers to until its siphon copies have been taken (R179). -/
  staged : Option Nat
  deriving DecidableEq, Repr

/-- An entry of an output queue: the frame, the instant it was queued, and for a siphon copy its session, its SNAP and the
cells it charges (R193, R201). -/
structure QEntry where
  handle : Nat
  since : Nat
  siphon : Option (Nat × Nat × Nat)
  deriving DecidableEq, Repr

/-- A frame in transmission on a port: the frame, its bytes as sent, its corrected departure, whether it is a calendar frame
sent late, a siphon copy, and what became of its two-step record: 0 none, 1 recorded, 2 lost. -/
structure TxFrame where
  handle : Nat
  bytes : List Byte
  ns32 : Word
  frac : Nat
  late : Bool
  siphon : Bool
  twoStep : Nat
  deriving DecidableEq, Repr

/-- A pause state that holds: its end in units of 10 ps of running time, and the instant since when it has held without a
break (R130, R131). -/
structure PauseHold where
  ends : Nat
  since : Nat
  deriving DecidableEq, Repr

/-- A frame that a looped port sends to itself (R128): when its reception can start, in 10 ps of running time, its raw received stamp in 1/256
ns, and its end: open, sent whole, or broken off after some bytes. -/
structure LoopFrame where
  bytes : List Byte
  ready : Nat
  stamp : Int
  fate : Option (Option Nat)
  deriving DecidableEq, Repr

/-- A port beside its registers. Pause states are numbered 0 to 7 for the classes and 8 for the port. -/
structure PortX where
  phyLink : Bool
  phyFull : Bool
  phySpeed : Nat
  pcsUp : Bool
  upSince : Nat
  hold : Option Nat
  pause : Tab (Option PauseHold)
  wdHold : Tab (Option Nat)
  /-- Stop requests that persist, by pause state (R133). -/
  stop : BitVec 9
  /-- Pause frames that wait for a frame boundary: the states they name, and whether they stop (R134). -/
  pauseOut : List (BitVec 9 × Bool)
  refreshAt : Option Nat
  loop : Bool
  /-- Frames a looped port has begun to send and not yet received whole, the one in reception first (R128). -/
  looped : List LoopFrame
  /-- What the port's line carries, as in `Out.line`. -/
  line : Nat
  /-- The frame in reception: its handle (0x1FFFF when the cistern holds nothing of it) and its bytes. -/
  rx : Option (Nat × List Byte)
  /-- The stamp of a start of frame reported to the guardian, in 1/256 ns of clock time (R227, R230). -/
  furStart : Option Nat
  tx : Option TxFrame
  deriving DecidableEq, Repr

/-- A learned or static forwarding entry (Table 7-2). -/
structure FdbEntry where
  mac : Nat
  fid : Nat
  dest : Nat
  district : Nat
  dynamic : Bool
  seen : Nat
  deriving DecidableEq, Repr

/-- The cistern and the switch core beside their registers. -/
structure CisState where
  frames : Tab (Option Frame)
  queues : Tab (List QEntry)
  /-- The bank group the next cell is taken from (R174). -/
  group : Nat
  quarantined : List (Nat × Nat)
  quarTest : Option Nat
  xfer : Tab (List Nat)
  fdb : Tab (Option FdbEntry)
  fdbCmd : Option (Nat × Nat × List Byte)
  mcg : Tab (BitVec 256)
  /-- Matching frames of each siphon session since it was enabled (R200). -/
  siphCount : Tab Nat
  /-- DWRR deficits by queue, and the pointer and turn by output (R196, R432). -/
  deficit : Tab Nat
  dwrrPtr : Tab Nat
  turn : Tab Nat
  deriving DecidableEq, Repr


/-! ### Sluices -/

/-- The sluices beside their registers (R209, R210): the instant since which a request is raised, and since which its WAIT has not
been counted, by 64 × instance + requester. SLU_SEED and SLU_STAT hold the LFSR and the owner. By instance, the CORE cycle after that of its
last phase (R208), and the cycle of its last settings with what they replaced, by address (R214). Of the HOST requester of a tank bank, the
function whose access waits (R382). -/
structure SluState where
  raised : Tab (Option (Nat × Nat))
  phase : Tab Nat
  old : Tab (Nat × List (Nat × Word))
  fn : Tab Nat
  deriving DecidableEq, Repr


/-! ### Furrow -/

/-- A static furrow of one channel in the current cycle (R233): a start of its owner passed the window test, a frame of the owner
was refused with a violation, failed its check, or was delivered; the STAR_NULL has been sent. -/
structure FurSlot where
  furrow : Nat
  chanB : Bool
  started : Bool
  refused : Bool
  invalid : Bool
  valid : Bool
  nullSent : Bool
  deriving DecidableEq, Repr

/-- The pointer of a channel over its dynamic IDs (R234): the ID's index, the offset of its minislot from the cycle start, the
offset until which the channel is busy, and whether the pointed owner's start was admitted. -/
structure FurDyn where
  index : Nat
  at_ : Nat
  busy : Nat
  admitted : Bool
  deriving DecidableEq, Repr

/-- A coldstart reported in LISTEN (R227); the stamp in 1/256 ns of domain time; whether it lost the decision; and, of a frame that ended
before the decision, whether its check passed. -/
structure ColdStart where
  port : Nat
  chanB : Bool
  node : Nat
  stamp : Nat
  handle : Nat
  lost : Bool
  done : Option Bool
  deriving DecidableEq, Repr

/-- A Furrow domain beside its registers. -/
structure FurDom where
  /-- What the offset of a FREE domain still owes, in units of 2⁻³² ns (R219). -/
  offRem : Int
  /-- The domain was broken: its next cycle keeps the numbering (Table 9-5). -/
  kept : Bool
  /-- GUARD_NS in force: a write applies from the next cycle start. -/
  guard : Nat
  /-- The current cycle has run without a break since it started (R229). -/
  valid : Bool
  /-- The mode has been evaluated in the current cycle (R239). -/
  evaluated : Bool
  slots : List FurSlot
  dynA : FurDyn
  dynB : FurDyn
  /-- REQ_VALID and REQ_MODE of the frames of the set S (R239). -/
  reqs : List (Bool × Nat)
  /-- CYCLE and SLOT, and NODE_ID, of the first-valid copies of this cycle (R238), and of the copies that were received. -/
  firsts : List (Nat × Nat)
  seen : List (Nat × Nat)
  forced : Option Nat
  cold : List ColdStart
  coldWin : Option ColdStart
  deriving DecidableEq, Repr

/-- The Furrow block: domains, and by port whether a cycle has begun in JOINING, and the full valid cycles counted in CONTAINED. -/
structure FurState where
  dom : Tab FurDom
  joined : Tab Bool
  contained : Tab Nat
  deriving DecidableEq, Repr


/-! ### Confluence -/

/-- An ASDU in the ingest queue (R245): stream, position and number of ASDUs in its frame, digest of its svID, and what it carries;
authentication status and corrected ingress stamp of its frame. -/
structure Asdu where
  stream : Nat
  pos : Nat
  num : Nat
  svid : Word
  smpCnt : Nat
  confRev : Word
  smpSynch : Nat
  pairs : List (Word × Word)
  auth : Nat
  ns32 : Word
  frac : Nat
  deriving DecidableEq, Repr

/-- A stored sample (R250): its number, its time in units of 2⁻³² ns, values and qualities, smpCnt and smpSynch. -/
structure Sample where
  n : Int
  t : Int
  values : List Word
  quals : List Word
  smpCnt : Nat
  synch : Nat
  deriving DecidableEq, Repr

/-- A confluence stream beside its registers: the store, newest last; the newest number; whether the next sample follows a restart;
its timing kind; TOO_OLD samples in a row; the instant of the last accepted ASDU; the status codes that have come up since the
previous row, by basin (R266); and the basins, channels and grid instants of columns filled for want of it (R264). -/
structure CnfStream where
  store : List Sample
  newest : Option Int
  synced : Option Bool
  tooOld : Nat
  lastAt : Nat
  marks : List (Nat × Nat)
  wanted : List (Nat × Nat × Int)
  deriving DecidableEq, Repr

/-- A row computed at its deadline and not yet sealed (R262, R267). -/
structure CnfRow where
  sec : Nat
  ns : Nat
  frac : Nat
  k : Nat
  flags : Nat
  fills : Nat
  status : List Nat
  cols : List (Word × Word)
  deadline : Nat
  deriving DecidableEq, Repr

/-- A basin beside its registers: the next grid instant (second, index), the last computed one, DISCONT and STEP owed, rows lost,
the last written value and quality and the run of HOLD_LAST fills of each column, computed rows, and rows written since the last signal
(R270). -/
structure CnfBasin where
  next : Option (Nat × Nat)
  last : Option (Nat × Nat)
  discont : Bool
  step : Bool
  lost : Nat
  cols : Tab (Option (Word × Word))
  holds : Tab Nat
  rows : List CnfRow
  sinceIrq : Nat
  deriving DecidableEq, Repr

/-- Confluence; the basins of the computed rows in the order of the row unit (R263). -/
structure CnfState where
  str : Tab CnfStream
  basin : Tab CnfBasin
  ingest : List Asdu
  order : List Nat
  deriving DecidableEq, Repr


/-! ### Publisher -/

/-- A GOOSE publication beside its registers: t of its latest event; the due time of its next retransmission in ns of PTP time, and
its number on the curve of R284; the launch target that is pending; the active content with stNum and sqNum of its last frame; the old
state that a pending launch still retransmits (content, stNum, sqNum, seconds and nanoseconds of t); what the twin mirrored (stNum,
sqNum, digest, length); whether its record changed at a swap (R62); and whether an update accepted while gated has not been sent. -/
structure GoosePub where
  tSec : Nat
  tNs : Nat
  due : Option Nat
  n : Nat
  launch : Option Word
  content : List Byte
  st : Word
  sq : Word
  old : Option (List Byte × Word × Word × Nat × Nat)
  mirror : Option (Word × Word × Word × Nat)
  bump : Bool
  unsent : Bool
  deriving DecidableEq, Repr

/-- An SV republication: the rows collected for the frame in progress. -/
structure SvRep where
  rows : List CnfRow
  deriving DecidableEq, Repr

/-- A subscription beside its registers: the deadline in ns of PTP time, the stamp of the last valid message, and whether one has come
since it was enabled; and its mirrored state (R296). -/
structure SubX where
  deadline : Int
  stamp : Int
  seen : Bool
  mirror : Option (List Byte)
  deriving DecidableEq, Repr

/-- An update as its message or the registers carry it (Table 11-3). -/
structure PubUpdate where
  op : Nat
  buf : Nat
  pub : Nat
  len : Nat
  target : Word
  deriving DecidableEq, Repr

/-- The publisher; register updates that wait behind mailbox updates, with their instant and function, oldest first (R286); and by function
the event records written since the last signal (R295). -/
structure PubState where
  goose : Tab GoosePub
  sv : Tab SvRep
  sub : Tab SubX
  waits : List (Nat × Nat × PubUpdate)
  evrSince : Tab Nat
  deriving DecidableEq, Repr

/-! ### Headgate -/

/-- A pending accepted bit (R166): the frame, its sequence number, and the values top and window had before it, while no other
frame has changed the entry. -/
structure PendBit where
  handle : Nat
  seq : Nat
  saved : Option (Nat × BitVec 256)
  deriving DecidableEq, Repr

/-- A node-table entry (R164, R165). -/
structure Node where
  mac : Nat
  set : Nat
  proxy : Bool
  top : Nat
  window : BitVec 256
  send : Nat
  last : Nat
  forgotten : Bool
  pendA : Option PendBit
  pendB : Option PendBit
  deriving DecidableEq, Repr

/-- A slot of the key table (R171). -/
structure Key where
  id : Word
  alg : Nat
  key : List Byte
  deriving DecidableEq, Repr

/-- A policer record and its bucket, in units of 1/8,000,000 byte, as it stood at an instant (R168). -/
structure Policer where
  rate : Nat
  burst : Nat
  level : Nat
  since : Nat
  deriving DecidableEq, Repr

/-- A verification on a lane: the frame, and the slots CURRENT and NEXT of its key-table entry as the lane looked them up
(R170, R171). -/
structure AuthJob where
  handle : Nat
  key : Option Key
  next : Option Key
  deriving DecidableEq, Repr

/-- The headgate beside its registers. Table records are held as their bytes. -/
structure HdgState where
  roles : Tab (List Byte)
  vlans : Tab (List Byte)
  streams : Tab (List Byte)
  policers : Tab (Option Policer)
  nodes : Tab (Option Node)
  /-- The send counter of each redundancy set (R167). -/
  setSend : Tab Nat
  keys : Tab (Option Key)
  keyCmd : Option (Nat × Option Key)
  tblCmd : Option (Nat × Nat × Nat × List Byte)
  authQ : List Nat
  authRun : List AuthJob
  deriving DecidableEq, Repr

/-! ### Kuern engines -/

/-- An event (Tables 12-2 and 12-3). `frame` is 0x1FFFF for none. -/
structure KEvent where
  kind : Nat
  replay : Bool
  first : Bool
  ctx : Option Nat
  frame : Nat
  port : Nat
  ns32 : Word
  frac : Nat
  auth : Nat
  len : Nat
  stream : Nat
  arg0 : Word
  arg1 : Word
  payload : List Byte
  deriving DecidableEq, Repr

/-- A timer request of an event (R339): a set with its target and cookie, or a cancel of a cookie. -/
structure TimerReq where
  set : Bool
  target : Word
  cookie : Word
  deriving DecidableEq, Repr

/-- An entry of a timer wheel (R313). -/
structure KTimer where
  target : Word
  cookie : Word
  ctx : Option Nat
  deriving DecidableEq, Repr

/-- An open build (R310): district, bytes by offset, the offsets of its cells with the cells, and whether it is FAILED. -/
structure Build where
  district : Nat
  bytes : Tab Byte
  written : Nat
  cells : List (Nat × Nat)
  failed : Bool
  deriving DecidableEq, Repr

/-- A thread in event wait: its place in the order of waiting threads, the register that takes EVWAIT's result, the instant of
its timeout, and the exception code when it waits after an abort (R306, R336, R350). -/
structure KWait where
  order : Nat
  rd : Nat
  ends : Option Nat
  after : Option Nat
  deriving DecidableEq, Repr

/-- What holds a thread after an instruction: TIME until the replica is valid (R338), a fence until the thread's earlier tank and mailbox
accesses, or its earlier host-window writes, have completed (R347). -/
inductive KHold where
  | replica
  | fence (tank host : Bool)
  deriving DecidableEq, Repr

/-- A thread (R328, R329, R340). Registers are listed by number; w0 is never listed. -/
structure KThread where
  started : Bool
  regs : Tab Word
  pc : BitVec 15
  wait : Option KWait
  event : Option KEvent
  /-- Instructions issued for the event (R355), and the cluster cycle at which the event was taken (R308). -/
  issued : Nat
  since : Nat
  window : List Byte
  reqs : List TimerReq
  build : Option Build
  cycHi : Word
  resume : BitVec 15
  lastExc : Word
  scratch : Word
  latchNs : BitVec 30
  latchSec : BitVec 48
  latchFrac : BitVec 32
  berTag : Word
  berAddr : Word
  berLen : Word
  berNext : Word
  crcCfg : Word
  crcState : Word
  csumCfg : Word
  csumState : Word
  timerStat : Word
  /-- The PC of a posted store that was refused (R349). -/
  refused : Option (BitVec 15)
  /-- The cluster cycle from which the thread may issue again (Tables 13-4 to 13-9), what holds it, and the events it has ended. -/
  ready : Nat
  hold : Option KHold
  ended : Nat
  deriving DecidableEq, Repr

/-- An engine beside its registers. STATE, PERS_ID, SLOT and READY live in KRN_ENG_STAT. -/
structure KrnEng where
  imem : Tab Word
  dmem : Tab Byte
  queue : List KEvent
  timers : List KTimer
  kept : List Nat
  threads : Tab KThread
  order : Nat
  startCyc : Nat
  initEnds : Option Nat
  memHalt : Bool
  abortHalts : Bool
  nThreads : Nat
  entry : BitVec 15
  /-- The thread that issued last, and the first cluster cycle in which the engine may issue again (R300). -/
  last : Nat
  free : Nat
  /-- Timer entries that have fired, with the cluster cycle: their events are posted in the next one (R313). -/
  fired : List (KTimer × Nat)
  deriving DecidableEq, Repr

/-- A far access of a thread (R346): a load (address, bytes, destination, how the bytes make a word, and what a read of the host window
returns, none for an error), a posted store, a lock read or a lock write. -/
inductive FarOp where
  | load (a n rd : Nat) (signed big : Bool) (host : Option Word)
  | store (a : Nat) (bytes : List Byte)
  | lockRead (i rd : Nat)
  | lockWrite (i : Nat)
  deriving DecidableEq, Repr

/-- A far access that has issued and is not complete: its instruction's PC, the context of its event, the events that the thread had ended
before, and the instant at which it reaches CORE; none for a release whose fence is not over (R344). -/
structure Far where
  eng : Nat
  thr : Nat
  op : FarOp
  pc : BitVec 15
  ctx : Option Nat
  ended : Nat
  arrive : Option Nat
  deriving DecidableEq, Repr

/-- A job of the publisher's lane queue (R289, R315): a frame to tag (its bytes, its publication or republication, its launch target,
key-table entry and algorithm), or an engine's authentication job (covered bytes, and the received tag or none with the place for the
computed one). -/
inductive LaneJob where
  | frame (bytes : List Byte) (index : Nat) (sv : Bool) (target : Option Word) (key alg : Nat)
  | engine (eng thread : Nat) (ctx : Option Nat) (key slot alg : Nat) (bytes : List Byte) (tag : Option (List Byte))
      (place : Word) (jobTag : Word)
  deriving DecidableEq, Repr

/-- A job on a lane with the key slot as it stood when the computation started (R289). -/
structure LaneRun where
  job : LaneJob
  key : Option Key
  deriving DecidableEq, Repr

/-- A send whose outcome is decided and whose SEND_DONE event is due (R312). -/
structure SendDone where
  eng : Nat
  ctx : Option Nat
  tag : Nat
  status : Nat
  ns32 : Word
  frac : Nat
  stamped : Bool
  /-- The port whose two-step entry the event frees (R108). -/
  port : Option Nat
  deriving DecidableEq, Repr

/-- The engines. -/
structure KrnState where
  eng : Tab KrnEng
  /-- Half cycles that each cluster has run (Table 1-7: two a ns at FULL, one at LOW). -/
  half : Tab Nat
  /-- Engine-generated events that wait in their source for room, oldest first (R304): engine, event. -/
  waiting : List (Nat × KEvent)
  /-- The lane queue of R289. -/
  lanes : List LaneJob
  laneRun : List LaneRun
  sends : List SendDone
  /-- Far accesses that are not complete, in issue order (R303, R346), and by 4 × instance + cluster the engine served last, plus 1. -/
  far : List Far
  served : Tab Nat
  deriving DecidableEq, Repr

/-! ### Ditch Rider -/

/-- States of a context (Table 14-1). -/
inductive CtxMode where
  | dormant | hot | out | cold | in_ | poisoned | orphan
  deriving DecidableEq, Repr

/-- A context-map entry with the context's committed state (R351, R353, R355). `owner` is the owning engine, or the engine that
last ran the context. -/
structure Ctx where
  mode : CtxMode
  owner : Nat
  slot : Option Nat
  pinned : Bool
  resident : Bool
  mirror : Bool
  /-- The engine and instant of a migration under way, and its journal reason (R360). -/
  moving : Option (Nat × Nat × Nat)
  data : List Byte
  dirty : Bool
  weight : Nat
  cycles : Nat
  wasHot : Bool
  lastRun : Option Nat
  lastUse : Nat
  declared : Option Nat
  /-- CONTEXT_NEW has still to be posted (R368), and FIRST has still to be set. -/
  fresh : Bool
  first : Bool
  deriving DecidableEq, Repr

/-- Who gave the rider a command: a mailbox channel, a submission queue entry, or the register interface of a function (R365). -/
inductive RiderSrc where
  | mailbox (ch : Nat)
  | queue (func q : Nat) (index : Word) (cid : Nat)
  | register (func : Nat)
  deriving DecidableEq, Repr

/-- A rider command that waits: for its event boundary or for a page operation (R365). -/
structure RiderWait where
  src : RiderSrc
  op : Nat
  ctx : Nat
  engine : Nat
  flags : Nat
  addr : Nat
  data : List Byte
  since : Nat
  deriving DecidableEq, Repr

/-- The rider beside its registers. -/
structure RdrState where
  ctx : Tab (Option Ctx)
  /-- The hold queue (R352), oldest first: context and event. -/
  hold : List (Nat × KEvent)
  /-- The write-back buffer (R358): contexts with their 512 bytes. -/
  writeBack : List (Nat × List Byte)
  /-- Page-ins in flight or waiting for a slot. -/
  pageIns : List Nat
  waits : List RiderWait
  /-- Contexts a swap no longer declares, until their event boundary (R368). -/
  leaving : List Nat
  uses : Nat
  interval : Nat
  intervalFrom : Nat
  /-- Journal records written since the last signal (R367). -/
  jnlSince : Nat
  /-- Contexts whose page-in waits for a slot, and whose wait has been raised (Table 14-9). -/
  noSlot : List Nat
  deriving DecidableEq, Repr

/-! ### The whole machine -/

/-- The state of the block. -/
structure State where
  /-- Commands waiting, first in, first out. -/
  pending : List Instr
  /-- The register file: one word per register, unlisted registers at their reset value (R4). -/
  regs : Tab Word
  /-- TIME cycles since PORST_N, in ns at the nominal rate (log entry 2). -/
  now : Nat
  /-- Cycles in which the islands have executed: it stops in a freeze (R144, R468). -/
  run : Nat
  /-- The number of the next free value (log entry 7, the model's own). -/
  freeCtr : Nat
  /-- The word the last read access returned (log entry 4, the model's own). -/
  rdata : BitVec 64
  /-- What the device has put out, newest first (log entry 4, the model's own). -/
  out : List Out
  arch : ArchState
  fuses : Fuses
  img : ImgState
  pwr : PwrState
  trk : TrickleState
  clk : Clock
  /-- Live bits [47:32] of the 48-bit counters, by the address of the low word (R147). -/
  cntHi : Tab Nat
  prt : Tab PortX
  cis : CisState
  slu : SluState
  fur : FurState
  cnf : CnfState
  pub : PubState
  hdg : HdgState
  krn : KrnState
  rdr : RdrState
  tnk : TankState
  mbx : Tab MbxChan
  flm : FlmState
  hst : HstState
  cul : CulState
  frz : FrzState
  sen : SenState
  deriving DecidableEq, Repr

/-- Reasons the machine stops with a fault. No meaning of this model raises one: the spec gives every command an effect
(safe: the type is there for the interface, and nothing rests on it). -/
inductive Fault where
  /-- Raised by no one. Safe. -/
  | unused
  deriving DecidableEq, Repr

/-- Reasons a command is refused. -/
inductive Refusal where
  /-- A command whose meaning is not modelled yet, by its mnemonic: raised by the dispatch alone. Safe. -/
  | notModelled (mnemonic : String)
  deriving DecidableEq, Repr

/-! ### Reset -/

/-- The fuses as manufactured (log entry 6). -/
def Fuses.initial : Fuses :=
  { identity := Config.identity, keyX := Config.devKeyX, keyY := Config.devKeyY
    slotHash := [(0, Config.slotHash 0), (1, Config.slotHash 1), (2, Config.slotHash 2), (3, Config.slotHash 3)]
    revoked := Config.slotRevoked }

/-- The clock after reset: 0 s 0 ns, increment 1.0 (R96). -/
def Clock.reset : Clock :=
  { sec := 0, ns := 0, frac := 0, ns32 := 0, incInt := 1, incFrac := 0, staged := 0, slew := none, lost := 0, held := []
    replicaOk := [], ts2 := [], cal := [], calSeq := 0, cmpArmed := 0, ppsHigh := false, ppsFall := none, wait := 0, ppsSec := 0
    keptSpeed := [], tc := { mode := 0, ports := 0 }, policy := [] }

/-- Power and bring-up while PORST_N is low (R64). -/
def PwrState.reset : PwrState :=
  { porstLow := true, srstLow := false, porstFrom := none, srstFrom := none, resetRun := false, holdEnd := none, romStep := 0, pllFailed := 0, pendingOn := []
    policy := [], onAt := [], offAt := [], idleFrom := [], toFull := 0, deep := false, linkUp := false }

/-- Trickle service not running, with the ROM defaults of Table 3-4. -/
def TrickleState.reset : TrickleState :=
  { high := [], low := [], portMask := 0xFF, prio := 4, draining := false, commitAt := 0 }

/-- No image (R56). -/
def ImgState.reset : ImgState :=
  { running := none, held := none, cmd := none, applied := [], units := [], swapsOpen := 0, revoking := [], bootNext := [] }

/-- Tank memory written with 0 (R373). -/
def TankState.reset : TankState := { mem := [], poison := [], pend := [], leaseResult := [], recent := [] }

/-- Every engine stopped, no pin driven (R398). -/
def FlmState.reset : FlmState :=
  { eng := [], flags := 0, cycle := 0, flagsOld := 0, flagsUp := 0, flagsTaken := 0, level := 0, ball := 0, decl := [], driven := false }

/-- Every queue disabled. -/
def HstState.reset : HstState :=
  { fn := [], turn := 0, resyncFunc := 0, resyncAddr := 0, resyncNonce := 0, resyncCount := 0, resyncAt := 0
    paused := false, summary := [] }

/-- ALONE and unpaired (R451, R453). -/
def CulState.reset : CulState :=
  { started := false, identSeen := false, partnerOk := false, partnerPref := false, partnerHash := 0, boundOk := false, okSent := false
    identFrom := 0, hbFrom := 0, timeFrom := 0, partnerFlags := 0, partnerTime := 0, lastHbRx := none, lossFrom := 0, lastHbNs32 := 0, lastHbTx := 0
    hbSeq := 0, hbSent := (0, 0, 0), lseqSent := 0, lseqIn := 0, replay := [], ackShort := 0, pendRec := [], passSent := false
    passRefused := false, settleFrom := none, handover := none, handed := false, wireEdge := none, wireLast := 0, wireClaim := none
    pairFrom := 0, pairRaised := false, statusSeq := 0, ctxRec := [], wireHigh := true, wireNext := 0 }

/-- Not frozen; the TAP at IDCODE (log entry 8). -/
def FrzState.reset : FrzState :=
  { frozen := false, timeRun := false, startAt := 0, trigger := none, thawBlocked := false, autoDue := false
    heldTim := 0, heldSen := 0, moved := none, ns32 := 0, seed := 0, pinLow := false, ir := .idcode, addr := 0, word := 0
    read := [] }

/-- A sentinel that has never been written (log entry 8). -/
def SenState.fresh : SenState :=
  { vbat := true, isolated := false, vbatLost := false, token := [], partner := 0, boot := 0, cfg := 0, log := [], total := 0
    newest := 0, acked := 0, ticks := 0, busy := none, detAt := [], wiped := none }

/-- Nothing in flight, nothing scrubbed. -/
def ArchState.reset : ArchState := { crossing := [], handshake := [], scrub := [], corrected := [], uncorrectable := [] }

/-- No frame, no learned address, no group member. -/
def CisState.reset : CisState :=
  { frames := [], queues := [], group := 0, quarantined := [], quarTest := none, xfer := [], fdb := [], fdbCmd := none
    mcg := [], siphCount := [], deficit := [], dwrrPtr := [], turn := [] }

/-- No request raised. -/
def SluState.reset : SluState := { raised := [], phase := [], old := [], fn := [] }

/-- Every domain OFF. -/
def FurState.reset : FurState := { dom := [], joined := [], contained := [] }

/-- Every stream IDLE and every basin STOPPED, stores empty. -/
def CnfState.reset : CnfState := { str := [], basin := [], ingest := [], order := [] }

/-- Nothing published, nothing supervised. -/
def PubState.reset : PubState := { goose := [], sv := [], sub := [], waits := [], evrSince := [] }

/-- Every table empty (R152). -/
def HdgState.reset : HdgState :=
  { roles := [], vlans := [], streams := [], policers := [], nodes := [], setSend := [], keys := [], keyCmd := none
    tblCmd := none, authQ := [], authRun := [] }

/-- Every engine EMPTY. -/
def KrnState.reset : KrnState :=
  { eng := [], half := [], waiting := [], lanes := [], laneRun := [], sends := [], far := [], served := [] }

/-- Every context DORMANT. -/
def RdrState.reset : RdrState :=
  { ctx := [], hold := [], writeBack := [], pageIns := [], waits := [], leaving := [], uses := 0, interval := 0, intervalFrom := 0
    jnlSince := 0, noSlot := [] }

/-- The machine right after reset: PORST_N low, every register at its reset value, every memory empty, no command
waiting. -/
def State.reset : State :=
  { pending := [], regs := [], now := 0, run := 0, freeCtr := 0, rdata := 0, out := []
    arch := ArchState.reset, fuses := Fuses.initial, img := ImgState.reset, pwr := PwrState.reset
    trk := TrickleState.reset, clk := Clock.reset
    cntHi := [], prt := [], cis := CisState.reset
    slu := SluState.reset
    fur := FurState.reset
    cnf := CnfState.reset
    pub := PubState.reset
    hdg := HdgState.reset
    krn := KrnState.reset
    rdr := RdrState.reset
    tnk := TankState.reset, mbx := [], flm := FlmState.reset, hst := HstState.reset, cul := CulState.reset
    frz := FrzState.reset, sen := SenState.fresh }

end Sys2Proof.Machine
end

