-- ==== Sys2Proof/Machine/Regs.lean ====
section
/-!
DEFINITION. The register map: the address of every register of spec/ (`Reg.<name>`, array indices as arguments), the row
of each register with the masks of its fields by type (R7, Table 0-2), and its reset value. Each row follows the register
table that its comment names. A field that has a command of its own is left out of the masks of the generic write.
-/
namespace Sys2Proof.Machine

namespace Reg

/-- IMG_SERIAL (R63, Table 2-19). -/
def IMG_SERIAL : Nat := 0x200020
/-- IMG_HASH[i] (R63, Table 2-19). -/
def IMG_HASH (i : Nat) : Nat := 0x200024 + 0x4 * i
/-- GLB_BOOT_COUNT (R87, Table 3-14). -/
def GLB_BOOT_COUNT : Nat := 0x20
/-- GLB_BOOT_US_LO (R87, Table 3-14). -/
def GLB_BOOT_US_LO : Nat := 0x24
/-- GLB_BOOT_US_HI (R87, Table 3-14). -/
def GLB_BOOT_US_HI : Nat := 0x28
/-- GLB_HANDOVER (R87, Table 3-14). -/
def GLB_HANDOVER : Nat := 0x2C
/-- GLB_TRICKLE_RX (R87, Table 3-14). -/
def GLB_TRICKLE_RX : Nat := 0x30
/-- GLB_TRICKLE_DROP_FULL (R87, Table 3-14). -/
def GLB_TRICKLE_DROP_FULL : Nat := 0x34
/-- GLB_TRICKLE_DROP_AGE (R87, Table 3-14). -/
def GLB_TRICKLE_DROP_AGE : Nat := 0x38
/-- GLB_TRICKLE_DROP_GAP (R87, Table 3-14). -/
def GLB_TRICKLE_DROP_GAP : Nat := 0x3C
/-- GLB_TRICKLE_DROP_ERR (R87, Table 3-14). -/
def GLB_TRICKLE_DROP_ERR : Nat := 0x40
/-- GLB_DEVID[i] (R87, Table 3-14). -/
def GLB_DEVID (i : Nat) : Nat := 0x80 + 0x4 * i
/-- PWR_DOMAIN_CTL[d], d = 1 to 16 (R88, Table 3-15). -/
def PWR_DOMAIN_CTL (d : Nat) : Nat := 0x100000 + 4 * d - 4
/-- PWR_DOMAIN_STAT[d], d = 1 to 16 (R88, Table 3-15). -/
def PWR_DOMAIN_STAT (d : Nat) : Nat := 0x100040 + 4 * d - 4
/-- TIM_PPS_CTL (R119, Table 4-11). -/
def TIM_PPS_CTL : Nat := 0x300050
/-- TIM_PPS_OFFSET (R119, Table 4-11). -/
def TIM_PPS_OFFSET : Nat := 0x300054
/-- TIM_CAP_CTL[i] (R119, Table 4-11). -/
def TIM_CAP_CTL (i : Nat) : Nat := 0x300060 + 0x20 * i
/-- TIM_CAP_NS[i] (R119, Table 4-11). -/
def TIM_CAP_NS (i : Nat) : Nat := 0x300064 + 0x20 * i
/-- TIM_CAP_SEC_LO[i] (R119, Table 4-11). -/
def TIM_CAP_SEC_LO (i : Nat) : Nat := 0x300068 + 0x20 * i
/-- TIM_CAP_SEC_HI[i] (R119, Table 4-11). -/
def TIM_CAP_SEC_HI (i : Nat) : Nat := 0x30006C + 0x20 * i
/-- TIM_CAP_NS32[i] (R119, Table 4-11). -/
def TIM_CAP_NS32 (i : Nat) : Nat := 0x300070 + 0x20 * i
/-- TIM_CMP_TARGET[i] (R119, Table 4-12). -/
def TIM_CMP_TARGET (i : Nat) : Nat := 0x300100 + 0x10 * i
/-- TIM_CMP_PERIOD[i] (R119, Table 4-12). -/
def TIM_CMP_PERIOD (i : Nat) : Nat := 0x300104 + 0x10 * i
/-- TIM_CMP_CTL[i] (R119, Table 4-12). -/
def TIM_CMP_CTL (i : Nat) : Nat := 0x300108 + 0x10 * i
/-- TIM_CMP_STAT[i] (R119, Table 4-12). -/
def TIM_CMP_STAT (i : Nat) : Nat := 0x30010C + 0x10 * i
/-- TIM_CAL_LEVEL[i] (R119, Table 4-13). -/
def TIM_CAL_LEVEL (i : Nat) : Nat := 0x300200 + 0x10 * i
/-- TIM_CAL_LATE[i] (R119, Table 4-13). -/
def TIM_CAL_LATE (i : Nat) : Nat := 0x300204 + 0x10 * i
/-- TIM_CAL_DROP[i] (R119, Table 4-13). -/
def TIM_CAL_DROP (i : Nat) : Nat := 0x300208 + 0x10 * i
/-- TIM_CAL_RANGE[i] (R119, Table 4-13). -/
def TIM_CAL_RANGE (i : Nat) : Nat := 0x30020C + 0x10 * i
/-- TIM_TS2_LEVEL[i] (R119, Table 4-13). -/
def TIM_TS2_LEVEL (i : Nat) : Nat := 0x300280 + 0x4 * i
/-- TIM_PDELAY[i] (R119, Table 4-13). -/
def TIM_PDELAY (i : Nat) : Nat := 0x300400 + 0x4 * i
/-- TIM_LAT_RX[i] (R119, Table 4-13). -/
def TIM_LAT_RX (i : Nat) : Nat := 0x300800 + 0x8 * i
/-- TIM_LAT_TX[i] (R119, Table 4-13). -/
def TIM_LAT_TX (i : Nat) : Nat := 0x300804 + 0x8 * i
/-- TIM_TS2_LOST[i] (R119, Table 4-13). -/
def TIM_TS2_LOST (i : Nat) : Nat := 0x301000 + 0x4 * i
/-- PRT_CTL[i] (R148, Table 5-5). -/
def PRT_CTL (i : Nat) : Nat := 0x400000 + 0x2000 * i
/-- PRT_STAT[i] (R148, Table 5-5). -/
def PRT_STAT (i : Nat) : Nat := 0x400004 + 0x2000 * i
/-- PRT_MAXLEN[i] (R148, Table 5-5). -/
def PRT_MAXLEN (i : Nat) : Nat := 0x400008 + 0x2000 * i
/-- PRT_LINKHOLD[i] (R148, Table 5-6). -/
def PRT_LINKHOLD (i : Nat) : Nat := 0x40000C + 0x2000 * i
/-- PRT_FC[i] (R148, Table 5-6). -/
def PRT_FC (i : Nat) : Nat := 0x400010 + 0x2000 * i
/-- PRT_FC_TX[i] (R148, Table 5-6). -/
def PRT_FC_TX (i : Nat) : Nat := 0x400014 + 0x2000 * i
/-- PRT_PAUSEWD[i] (R148, Table 5-7). -/
def PRT_PAUSEWD (i : Nat) : Nat := 0x400018 + 0x2000 * i
/-- PRT_PAUSE_STAT[i] (R148, Table 5-7). -/
def PRT_PAUSE_STAT (i : Nat) : Nat := 0x40001C + 0x2000 * i
/-- PRT_TXSTART[i] (R148, Table 5-7). -/
def PRT_TXSTART (i : Nat) : Nat := 0x400020 + 0x2000 * i
/-- PRT_MACADDR_LO[i] (R148, Table 5-8). -/
def PRT_MACADDR_LO (i : Nat) : Nat := 0x400024 + 0x2000 * i
/-- PRT_MACADDR_HI[i] (R148, Table 5-8). -/
def PRT_MACADDR_HI (i : Nat) : Nat := 0x400028 + 0x2000 * i
/-- PRT_HOLD_STAT[i] (R148, Table 5-8). -/
def PRT_HOLD_STAT (i : Nat) : Nat := 0x40002C + 0x2000 * i
/-- PRT_FEC_CORR[i] (R148, Table 5-8). -/
def PRT_FEC_CORR (i : Nat) : Nat := 0x400040 + 0x2000 * i
/-- PRT_FEC_UNCORR[i] (R148, Table 5-8). -/
def PRT_FEC_UNCORR (i : Nat) : Nat := 0x400044 + 0x2000 * i
/-- PRT_CAUSE[i] (R148, Table 5-9). -/
def PRT_CAUSE (i : Nat) : Nat := 0x400030 + 0x2000 * i
/-- PRT_ENABLE[i] (R148, Table 5-9). -/
def PRT_ENABLE (i : Nat) : Nat := 0x400034 + 0x2000 * i
/-- PRT_CNT_HALF_LO[i] (R148, Table 5-9). -/
def PRT_CNT_HALF_LO (i : Nat) : Nat := 0x400038 + 0x2000 * i
/-- PRT_CNT_HALF_HI[i] (R148, Table 5-9). -/
def PRT_CNT_HALF_HI (i : Nat) : Nat := 0x40003C + 0x2000 * i
/-- PRT_CNT_LO[i][j] (R148, Table 5-9). -/
def PRT_CNT_LO (i j : Nat) : Nat := 0x401000 + 0x2000 * i + 0x8 * j
/-- PRT_CNT_HI[i][j] (R148, Table 5-9). -/
def PRT_CNT_HI (i j : Nat) : Nat := 0x401004 + 0x2000 * i + 0x8 * j
/-- PRT_LOCK (R148, Table 5-10). -/
def PRT_LOCK : Nat := 0x5F0000
/-- PRT_IRQ_SUM[i] (R148, Table 5-10). -/
def PRT_IRQ_SUM (i : Nat) : Nat := 0x5F0010 + 0x4 * i
/-- PRT_LANE_STAT[i] (R148, Table 5-10). -/
def PRT_LANE_STAT (i : Nat) : Nat := 0x5F0100 + 0x4 * i
/-- HDG_TBL_CMD (R173, Table 6-10). -/
def HDG_TBL_CMD : Nat := 0x600040
/-- HDG_TBL_STAT (R173, Table 6-10). -/
def HDG_TBL_STAT : Nat := 0x600044
/-- HDG_TBL_INDEX (R173, Table 6-10). -/
def HDG_TBL_INDEX : Nat := 0x600048
/-- HDG_TBL_DATA[i] (R173, Table 6-10). -/
def HDG_TBL_DATA (i : Nat) : Nat := 0x600050 + 0x4 * i
/-- HDG_KEY_CTL (R173, Table 6-11). -/
def HDG_KEY_CTL : Nat := 0x600080
/-- HDG_KEY_ID (R173, Table 6-11). -/
def HDG_KEY_ID : Nat := 0x600084
/-- HDG_KEY_DATA[i] (R173, Table 6-11). -/
def HDG_KEY_DATA (i : Nat) : Nat := 0x600088 + 0x4 * i
/-- HDG_KEY_STAT (R173, Table 6-11). -/
def HDG_KEY_STAT : Nat := 0x6000A8
/-- HDG_ECC_CORR (R173, Table 6-13). -/
def HDG_ECC_CORR : Nat := 0x600020
/-- HDG_ECC_THRESH (R173, Table 6-13). -/
def HDG_ECC_THRESH : Nat := 0x600024
/-- HDG_AUTH_Q (R173, Table 6-13). -/
def HDG_AUTH_Q : Nat := 0x600028
/-- HDG_AUTH_MARK_FAIL (R173, Table 6-13). -/
def HDG_AUTH_MARK_FAIL : Nat := 0x60002C
/-- HDG_NODE_COUNT (R173, Table 6-13). -/
def HDG_NODE_COUNT : Nat := 0x600030
/-- HDG_DROP[i] (R173, Table 6-13). -/
def HDG_DROP (i : Nat) : Nat := 0x600100 + 0x4 * i
/-- HDG_RSET_CNT[i][j] (R173, Table 6-13). -/
def HDG_RSET_CNT (i j : Nat) : Nat := 0x600200 + 0x20 * i + 0x4 * j
/-- CIS_FDB_CMD (R205, Table 7-8). -/
def CIS_FDB_CMD : Nat := 0x700040
/-- CIS_FDB_STAT (R205, Table 7-8). -/
def CIS_FDB_STAT : Nat := 0x700044
/-- CIS_FDB_INDEX (R205, Table 7-8). -/
def CIS_FDB_INDEX : Nat := 0x700048
/-- CIS_FDB_DATA[i] (R205, Table 7-8). -/
def CIS_FDB_DATA (i : Nat) : Nat := 0x700050 + 0x4 * i
/-- CIS_MCG_CMD (R205, Table 7-8). -/
def CIS_MCG_CMD : Nat := 0x700060
/-- CIS_MCG_DATA[i] (R205, Table 7-8). -/
def CIS_MCG_DATA (i : Nat) : Nat := 0x700080 + 0x4 * i
/-- CIS_DIST_CFG[i] (R205, Table 7-9). -/
def CIS_DIST_CFG (i : Nat) : Nat := 0x700200 + 0x20 * i
/-- CIS_DIST_USED[i] (R205, Table 7-9). -/
def CIS_DIST_USED (i : Nat) : Nat := 0x700204 + 0x20 * i
/-- CIS_DIST_FREE[i] (R205, Table 7-9). -/
def CIS_DIST_FREE (i : Nat) : Nat := 0x700208 + 0x20 * i
/-- CIS_DIST_STAGE[i] (R205, Table 7-9). -/
def CIS_DIST_STAGE (i : Nat) : Nat := 0x70020C + 0x20 * i
/-- CIS_FDB_COUNT[i] (R205, Table 7-9). -/
def CIS_FDB_COUNT (i : Nat) : Nat := 0x700210 + 0x20 * i
/-- CIS_FDB_FULL[i] (R205, Table 7-9). -/
def CIS_FDB_FULL (i : Nat) : Nat := 0x700214 + 0x20 * i
/-- CIS_FDB_MOVES[i] (R205, Table 7-9). -/
def CIS_FDB_MOVES (i : Nat) : Nat := 0x700218 + 0x20 * i
/-- CIS_DROP[i] (R205, Table 7-9). -/
def CIS_DROP (i : Nat) : Nat := 0x700100 + 0x4 * i
/-- CIS_WEIR_CLASS[i][j] (R205, Table 7-10). -/
def CIS_WEIR_CLASS (i j : Nat) : Nat := 0x700400 + 0x20 * i + 0x4 * j
/-- CIS_SCHED_CLASS[i][j] (R205, Table 7-10). -/
def CIS_SCHED_CLASS (i j : Nat) : Nat := 0x700500 + 0x20 * i + 0x4 * j
/-- CIS_SIPH_CTL[i] (R205, Table 7-11). -/
def CIS_SIPH_CTL (i : Nat) : Nat := 0x700600 + 0x80 * i
/-- CIS_SIPH_SAMPLE[i] (R205, Table 7-11). -/
def CIS_SIPH_SAMPLE (i : Nat) : Nat := 0x700604 + 0x80 * i
/-- CIS_SIPH_COPIES[i] (R205, Table 7-11). -/
def CIS_SIPH_COPIES (i : Nat) : Nat := 0x700608 + 0x80 * i
/-- CIS_SIPH_REFUSED[i] (R205, Table 7-11). -/
def CIS_SIPH_REFUSED (i : Nat) : Nat := 0x70060C + 0x80 * i
/-- CIS_SIPH_SRC_IN[i][j] (R205, Table 7-11). -/
def CIS_SIPH_SRC_IN (i j : Nat) : Nat := 0x700620 + 0x80 * i + 0x4 * j
/-- CIS_SIPH_SRC_OUT[i][j] (R205, Table 7-11). -/
def CIS_SIPH_SRC_OUT (i j : Nat) : Nat := 0x700640 + 0x80 * i + 0x4 * j
/-- CIS_Q_LEN[i][j] (R205, Table 7-12). -/
def CIS_Q_LEN (i j : Nat) : Nat := 0x710000 + 0x20 * i + 0x4 * j
/-- CIS_Q_DROP[i][j] (R205, Table 7-12). -/
def CIS_Q_DROP (i j : Nat) : Nat := 0x720000 + 0x20 * i + 0x4 * j
/-- CIS_PAUSE_TH[i] (R205, Table 7-12). -/
def CIS_PAUSE_TH (i : Nat) : Nat := 0x730000 + 0x4 * i
/-- CIS_ING_CELLS[i] (R205, Table 7-12). -/
def CIS_ING_CELLS (i : Nat) : Nat := 0x731000 + 0x4 * i
/-- SLU_INFO[i] (R216, Table 8-5). -/
def SLU_INFO (i : Nat) : Nat := 0x800000 + 0x1000 * i
/-- SLU_POOL[i] (R216, Table 8-5). -/
def SLU_POOL (i : Nat) : Nat := 0x800004 + 0x1000 * i
/-- SLU_SEED[i] (R216, Table 8-5). -/
def SLU_SEED (i : Nat) : Nat := 0x800008 + 0x1000 * i
/-- SLU_PRIV[i][j] (R216, Table 8-5). -/
def SLU_PRIV (i j : Nat) : Nat := 0x800010 + 0x1000 * i + 0x4 * j
/-- SLU_STAT[i] (R216, Table 8-5). -/
def SLU_STAT (i : Nat) : Nat := 0x800020 + 0x1000 * i
/-- SLU_GRANTS[i][j] (R216, Table 8-6). -/
def SLU_GRANTS (i j : Nat) : Nat := 0x800100 + 0x1000 * i + 0x20 * j
/-- SLU_WAIT_LO[i][j] (R216, Table 8-6). -/
def SLU_WAIT_LO (i j : Nat) : Nat := 0x800104 + 0x1000 * i + 0x20 * j
/-- SLU_WAIT_HI[i][j] (R216, Table 8-6). -/
def SLU_WAIT_HI (i j : Nat) : Nat := 0x800108 + 0x1000 * i + 0x20 * j
/-- SLU_LONGEST[i][j] (R216, Table 8-6). -/
def SLU_LONGEST (i j : Nat) : Nat := 0x80010C + 0x1000 * i + 0x20 * j
/-- SLU_AGE[i][j] (R216, Table 8-6). -/
def SLU_AGE (i j : Nat) : Nat := 0x800110 + 0x1000 * i + 0x20 * j
/-- SLU_CAUSE (R216, Table 8-7). -/
def SLU_CAUSE : Nat := 0x8F0000
/-- SLU_ENABLE (R216, Table 8-7). -/
def SLU_ENABLE : Nat := 0x8F0004
/-- SLU_LOCK (R216, Table 8-7). -/
def SLU_LOCK : Nat := 0x8F0008
/-- SLU_REFUSED_INST (R216, Table 8-7). -/
def SLU_REFUSED_INST : Nat := 0x8F000C
/-- SLU_HALF_INST (R216, Table 8-7). -/
def SLU_HALF_INST : Nat := 0x8F0010
/-- FUR_CAUSE (R243, Table 9-15). -/
def FUR_CAUSE : Nat := 0x900000
/-- FUR_ENABLE (R243, Table 9-15). -/
def FUR_ENABLE : Nat := 0x900004
/-- FUR_LOCK (R243, Table 9-15). -/
def FUR_LOCK : Nat := 0x900008
/-- FUR_EVENT (R243, Table 9-15). -/
def FUR_EVENT : Nat := 0x90000C
/-- FUR_DROP[i] (R243, Table 9-15). -/
def FUR_DROP (i : Nat) : Nat := 0x900100 + 0x4 * i
/-- IMG_LOAD (R63, Table 2-14). -/
def IMG_LOAD : Nat := 0x200000
/-- IMG_SWAP (R63, Table 2-14). -/
def IMG_SWAP : Nat := 0x200004
/-- IMG_ABORT (R63, Table 2-15). -/
def IMG_ABORT : Nat := 0x200008
/-- IMG_STATUS (R63, Table 2-16). -/
def IMG_STATUS : Nat := 0x20000C
/-- IMG_ERR_OFFSET (R63, Table 2-17). -/
def IMG_ERR_OFFSET : Nat := 0x200010
/-- IMG_PROGRESS (R63, Table 2-17). -/
def IMG_PROGRESS : Nat := 0x200014
/-- IMG_SRC_ADDR_LO (R63, Table 2-18). -/
def IMG_SRC_ADDR_LO : Nat := 0x200018
/-- IMG_SRC_ADDR_HI (R63, Table 2-18). -/
def IMG_SRC_ADDR_HI : Nat := 0x20001C
/-- IMG_KEYSLOT (R63, Table 2-20). -/
def IMG_KEYSLOT : Nat := 0x200044
/-- IMG_KEY_REVOKE (R63, Table 2-20). -/
def IMG_KEY_REVOKE : Nat := 0x200048
/-- IMG_LOCK (R63, Table 2-21). -/
def IMG_LOCK : Nat := 0x20004C
/-- IMG_BIND_STATUS (R63, Table 2-21). -/
def IMG_BIND_STATUS : Nat := 0x200050
/-- IMG_CAUSE (R63, Table 2-22). -/
def IMG_CAUSE : Nat := 0x200054
/-- IMG_ENABLE (R63, Table 2-22). -/
def IMG_ENABLE : Nat := 0x200058
/-- IMG_SWAP_PENDING (R63, Table 2-22). -/
def IMG_SWAP_PENDING : Nat := 0x20005C
/-- IMG_COUNT (R63, Table 2-22). -/
def IMG_COUNT : Nat := 0x200060
/-- GLB_VERSION (R87, Table 3-10). -/
def GLB_VERSION : Nat := 0x0
/-- GLB_STRAP (R87, Table 3-10). -/
def GLB_STRAP : Nat := 0x4
/-- GLB_STATUS (R87, Table 3-11). -/
def GLB_STATUS : Nat := 0x8
/-- GLB_RESET (R87, Table 3-11). -/
def GLB_RESET : Nat := 0xC
/-- GLB_IRQ_STATUS (R87, Table 3-12). -/
def GLB_IRQ_STATUS : Nat := 0x10
/-- GLB_CAUSE (R87, Table 3-13). -/
def GLB_CAUSE : Nat := 0x14
/-- GLB_ENABLE (R87, Table 3-13). -/
def GLB_ENABLE : Nat := 0x18
/-- GLB_ERR_ADDR (R87, Table 3-13). -/
def GLB_ERR_ADDR : Nat := 0x1C
/-- PWR_OPPOINT (R88, Table 3-16). -/
def PWR_OPPOINT : Nat := 0x100080
/-- PWR_OPPOINT_STAT (R88, Table 3-16). -/
def PWR_OPPOINT_STAT : Nat := 0x100084
/-- PWR_REFUSED_DOMAIN (R88, Table 3-16). -/
def PWR_REFUSED_DOMAIN : Nat := 0x100090
/-- PWR_CAUSE (R88, Table 3-17). -/
def PWR_CAUSE : Nat := 0x100088
/-- PWR_ENABLE (R88, Table 3-17). -/
def PWR_ENABLE : Nat := 0x10008C
/-- PWR_DEEP (R88, Table 3-17). -/
def PWR_DEEP : Nat := 0x100094
/-- PWR_CLK_STAT (R88, Table 3-17). -/
def PWR_CLK_STAT : Nat := 0x100098
/-- PWR_LOCK (R88, Table 3-17). -/
def PWR_LOCK : Nat := 0x10009C
/-- TIM_NOW_NS (R119, Table 4-7). -/
def TIM_NOW_NS : Nat := 0x300000
/-- TIM_NOW_SEC_LO (R119, Table 4-7). -/
def TIM_NOW_SEC_LO : Nat := 0x300004
/-- TIM_NOW_SEC_HI (R119, Table 4-7). -/
def TIM_NOW_SEC_HI : Nat := 0x300008
/-- TIM_NOW_FRAC (R119, Table 4-7). -/
def TIM_NOW_FRAC : Nat := 0x30000C
/-- TIM_NOW_NS32 (R119, Table 4-7). -/
def TIM_NOW_NS32 : Nat := 0x300010
/-- TIM_INCR_FRAC (R119, Table 4-8). -/
def TIM_INCR_FRAC : Nat := 0x300014
/-- TIM_INCR_INT (R119, Table 4-8). -/
def TIM_INCR_INT : Nat := 0x300018
/-- TIM_ADJ_NS (R119, Table 4-8). -/
def TIM_ADJ_NS : Nat := 0x30001C
/-- TIM_ADJ_CTL (R119, Table 4-8). -/
def TIM_ADJ_CTL : Nat := 0x300020
/-- TIM_ADJ_REM (R119, Table 4-8). -/
def TIM_ADJ_REM : Nat := 0x300024
/-- TIM_ADJ_STAT (R119, Table 4-8). -/
def TIM_ADJ_STAT : Nat := 0x300028
/-- TIM_SET_NS (R119, Table 4-9). -/
def TIM_SET_NS : Nat := 0x30002C
/-- TIM_SET_SEC_LO (R119, Table 4-9). -/
def TIM_SET_SEC_LO : Nat := 0x300030
/-- TIM_SET_SEC_HI (R119, Table 4-9). -/
def TIM_SET_SEC_HI : Nat := 0x300034
/-- TIM_SET_CMD (R119, Table 4-9). -/
def TIM_SET_CMD : Nat := 0x300038
/-- TIM_SYNC_STATE (R119, Table 4-9). -/
def TIM_SYNC_STATE : Nat := 0x30003C
/-- TIM_DISC_OWNER (R119, Table 4-9). -/
def TIM_DISC_OWNER : Nat := 0x300040
/-- TIM_REFUSED (R119, Table 4-9). -/
def TIM_REFUSED : Nat := 0x300058
/-- TIM_CAUSE (R119, Table 4-10). -/
def TIM_CAUSE : Nat := 0x300044
/-- TIM_ENABLE (R119, Table 4-10). -/
def TIM_ENABLE : Nat := 0x300048
/-- TIM_LOCK (R119, Table 4-10). -/
def TIM_LOCK : Nat := 0x30004C
/-- HDG_NODE_CFG (R173, Table 6-12). -/
def HDG_NODE_CFG : Nat := 0x600004
/-- HDG_AUTH_SPLIT (R173, Table 6-12). -/
def HDG_AUTH_SPLIT : Nat := 0x600008
/-- HDG_CAUSE (R173, Table 6-12). -/
def HDG_CAUSE : Nat := 0x600010
/-- HDG_ENABLE (R173, Table 6-12). -/
def HDG_ENABLE : Nat := 0x600014
/-- HDG_LOCK (R173, Table 6-12). -/
def HDG_LOCK : Nat := 0x600018
/-- HDG_ECC_TABLE (R173, Table 6-12). -/
def HDG_ECC_TABLE : Nat := 0x60001C
/-- CIS_CAUSE (R205, Table 7-6). -/
def CIS_CAUSE : Nat := 0x700000
/-- CIS_ENABLE (R205, Table 7-6). -/
def CIS_ENABLE : Nat := 0x700004
/-- CIS_LOCK (R205, Table 7-6). -/
def CIS_LOCK : Nat := 0x700008
/-- CIS_FDB_AGE (R205, Table 7-6). -/
def CIS_FDB_AGE : Nat := 0x70000C
/-- CIS_ECC_CORR (R205, Table 7-7). -/
def CIS_ECC_CORR : Nat := 0x700010
/-- CIS_ECC_THRESH (R205, Table 7-7). -/
def CIS_ECC_THRESH : Nat := 0x700014
/-- CIS_STOMP (R205, Table 7-7). -/
def CIS_STOMP : Nat := 0x700018
/-- CIS_QUAR_COUNT (R205, Table 7-7). -/
def CIS_QUAR_COUNT : Nat := 0x70001C
/-- CIS_QUAR_LAST (R205, Table 7-7). -/
def CIS_QUAR_LAST : Nat := 0x700020
/-- CIS_QUAR_CTL (R205, Table 7-7). -/
def CIS_QUAR_CTL : Nat := 0x700024
/-- FUR_CTL[i] (R243, Table 9-16). -/
def FUR_CTL (i : Nat) : Nat := 0x901000 + 0x100 * i
/-- FUR_STAT[i] (R243, Table 9-16). -/
def FUR_STAT (i : Nat) : Nat := 0x901004 + 0x100 * i
/-- FUR_CYCLE[i] (R243, Table 9-16). -/
def FUR_CYCLE (i : Nat) : Nat := 0x901008 + 0x100 * i
/-- FUR_EFFECTIVE[i] (R243, Table 9-16). -/
def FUR_EFFECTIVE (i : Nat) : Nat := 0x90100C + 0x100 * i
/-- FUR_MODE_CMD[i] (R243, Table 9-16). -/
def FUR_MODE_CMD (i : Nat) : Nat := 0x901010 + 0x100 * i
/-- FUR_OFFSET[i] (R243, Table 9-16). -/
def FUR_OFFSET (i : Nat) : Nat := 0x901014 + 0x100 * i
/-- FUR_START_NS32[i] (R243, Table 9-16). -/
def FUR_START_NS32 (i : Nat) : Nat := 0x901018 + 0x100 * i
/-- FUR_GUARD[i] (R243, Table 9-17). -/
def FUR_GUARD (i : Nat) : Nat := 0x90101C + 0x100 * i
/-- FUR_CONTAIN[i] (R243, Table 9-17). -/
def FUR_CONTAIN (i : Nat) : Nat := 0x901020 + 0x100 * i
/-- FUR_CNT[i][j] (R243, Table 9-17). -/
def FUR_CNT (i j : Nat) : Nat := 0x901040 + 0x100 * i + 0x4 * j
/-- FUR_PORT_STAT[i] (R243, Table 9-18). -/
def FUR_PORT_STAT (i : Nat) : Nat := 0x904000 + 0x20 * i
/-- FUR_PORT_CMD[i] (R243, Table 9-18). -/
def FUR_PORT_CMD (i : Nat) : Nat := 0x904004 + 0x20 * i
/-- FUR_PORT_DRIFT[i] (R243, Table 9-18). -/
def FUR_PORT_DRIFT (i : Nat) : Nat := 0x904008 + 0x20 * i
/-- FUR_PORT_ADMIT[i] (R243, Table 9-18). -/
def FUR_PORT_ADMIT (i : Nat) : Nat := 0x90400C + 0x20 * i
/-- FUR_PORT_VIOL[i] (R243, Table 9-18). -/
def FUR_PORT_VIOL (i : Nat) : Nat := 0x904010 + 0x20 * i
/-- FUR_PORT_CONTAINS[i] (R243, Table 9-18). -/
def FUR_PORT_CONTAINS (i : Nat) : Nat := 0x904014 + 0x20 * i
/-- FUR_PORT_LASTV[i] (R243, Table 9-18). -/
def FUR_PORT_LASTV (i : Nat) : Nat := 0x904018 + 0x20 * i
/-- FUR_PORT_RELAYED[i] (R243, Table 9-18). -/
def FUR_PORT_RELAYED (i : Nat) : Nat := 0x90401C + 0x20 * i
/-- CNF_CAUSE (R278, Table 10-14). -/
def CNF_CAUSE : Nat := 0xA00000
/-- CNF_ENABLE (R278, Table 10-14). -/
def CNF_ENABLE : Nat := 0xA00004
/-- CNF_LOCK (R278, Table 10-14). -/
def CNF_LOCK : Nat := 0xA00008
/-- CNF_EVENT (R278, Table 10-14). -/
def CNF_EVENT : Nat := 0xA0000C
/-- CNF_ECC_CORR (R278, Table 10-15). -/
def CNF_ECC_CORR : Nat := 0xA00010
/-- CNF_ECC_THRESH (R278, Table 10-15). -/
def CNF_ECC_THRESH : Nat := 0xA00014
/-- CNF_INGEST (R278, Table 10-15). -/
def CNF_INGEST : Nat := 0xA00018
/-- CNF_LOAD (R278, Table 10-15). -/
def CNF_LOAD : Nat := 0xA0001C
/-- CNF_STORE (R278, Table 10-15). -/
def CNF_STORE : Nat := 0xA00020
/-- CNF_ROW_LATE (R278, Table 10-15). -/
def CNF_ROW_LATE : Nat := 0xA00024
/-- CNF_BASIN_CTL[i] (R278, Table 10-16). -/
def CNF_BASIN_CTL (i : Nat) : Nat := 0xA01000 + 0x80 * i
/-- CNF_BASIN_STAT[i] (R278, Table 10-16). -/
def CNF_BASIN_STAT (i : Nat) : Nat := 0xA01004 + 0x80 * i
/-- CNF_BASIN_RATE[i] (R278, Table 10-16). -/
def CNF_BASIN_RATE (i : Nat) : Nat := 0xA01008 + 0x80 * i
/-- CNF_BASIN_PERIOD_NS[i] (R278, Table 10-16). -/
def CNF_BASIN_PERIOD_NS (i : Nat) : Nat := 0xA0100C + 0x80 * i
/-- CNF_BASIN_PERIOD_FRAC[i] (R278, Table 10-16). -/
def CNF_BASIN_PERIOD_FRAC (i : Nat) : Nat := 0xA01010 + 0x80 * i
/-- CNF_BASIN_LATENCY[i] (R278, Table 10-16). -/
def CNF_BASIN_LATENCY (i : Nat) : Nat := 0xA01014 + 0x80 * i
/-- CNF_BASIN_STREAMS[i] (R278, Table 10-16). -/
def CNF_BASIN_STREAMS (i : Nat) : Nat := 0xA01018 + 0x80 * i
/-- CNF_RING_BASE_LO[i] (R278, Table 10-17). -/
def CNF_RING_BASE_LO (i : Nat) : Nat := 0xA01020 + 0x80 * i
/-- CNF_RING_BASE_HI[i] (R278, Table 10-17). -/
def CNF_RING_BASE_HI (i : Nat) : Nat := 0xA01024 + 0x80 * i
/-- CNF_RING_CTL[i] (R278, Table 10-17). -/
def CNF_RING_CTL (i : Nat) : Nat := 0xA01028 + 0x80 * i
/-- CNF_RING_SLOT_BYTES[i] (R278, Table 10-17). -/
def CNF_RING_SLOT_BYTES (i : Nat) : Nat := 0xA0102C + 0x80 * i
/-- CNF_RING_HEAD[i] (R278, Table 10-17). -/
def CNF_RING_HEAD (i : Nat) : Nat := 0xA01030 + 0x80 * i
/-- CNF_ROW_SEQ[i] (R278, Table 10-17). -/
def CNF_ROW_SEQ (i : Nat) : Nat := 0xA01034 + 0x80 * i
/-- CNF_ROWS[i] (R278, Table 10-17). -/
def CNF_ROWS (i : Nat) : Nat := 0xA01038 + 0x80 * i
/-- CNF_ROWS_DROPPED[i] (R278, Table 10-17). -/
def CNF_ROWS_DROPPED (i : Nat) : Nat := 0xA0103C + 0x80 * i
/-- CNF_ROWS_SKIPPED[i] (R278, Table 10-17). -/
def CNF_ROWS_SKIPPED (i : Nat) : Nat := 0xA01040 + 0x80 * i
/-- CNF_FILLS[i] (R278, Table 10-17). -/
def CNF_FILLS (i : Nat) : Nat := 0xA01044 + 0x80 * i
/-- CNF_LAST_SEC[i] (R278, Table 10-17). -/
def CNF_LAST_SEC (i : Nat) : Nat := 0xA01048 + 0x80 * i
/-- CNF_LAST_ROW[i] (R278, Table 10-17). -/
def CNF_LAST_ROW (i : Nat) : Nat := 0xA0104C + 0x80 * i
/-- CNF_STR_CTL[i] (R278, Table 10-18). -/
def CNF_STR_CTL (i : Nat) : Nat := 0xA20000 + 0x80 * i
/-- CNF_STR_STAT[i] (R278, Table 10-18). -/
def CNF_STR_STAT (i : Nat) : Nat := 0xA20004 + 0x80 * i
/-- CNF_STR_LAST_NS32[i] (R278, Table 10-18). -/
def CNF_STR_LAST_NS32 (i : Nat) : Nat := 0xA20008 + 0x80 * i
/-- CNF_STR_TRANSIT[i] (R278, Table 10-18). -/
def CNF_STR_TRANSIT (i : Nat) : Nat := 0xA2000C + 0x80 * i
/-- CNF_STR_CNT[i][j] (R278, Table 10-18). -/
def CNF_STR_CNT (i j : Nat) : Nat := 0xA20010 + 0x80 * i + 0x4 * j
/-- PUB_CAUSE (R298, Table 11-11). -/
def PUB_CAUSE : Nat := 0xB00000
/-- PUB_ENABLE (R298, Table 11-11). -/
def PUB_ENABLE : Nat := 0xB00004
/-- PUB_LOCK (R298, Table 11-11). -/
def PUB_LOCK : Nat := 0xB00008
/-- PUB_EVENT (R298, Table 11-11). -/
def PUB_EVENT : Nat := 0xB0000C
/-- PUB_UTC_OFFSET (R298, Table 11-11). -/
def PUB_UTC_OFFSET : Nat := 0xB00010
/-- PUB_TIMEQ (R298, Table 11-11). -/
def PUB_TIMEQ : Nat := 0xB00014
/-- PUB_ECC_CORR (R298, Table 11-11). -/
def PUB_ECC_CORR : Nat := 0xB00018
/-- PUB_ECC_THRESH (R298, Table 11-11). -/
def PUB_ECC_THRESH : Nat := 0xB0001C
/-- PUB_UPD_W1 (R298, Table 11-12). -/
def PUB_UPD_W1 : Nat := 0xB00020
/-- PUB_UPD_W2 (R298, Table 11-12). -/
def PUB_UPD_W2 : Nat := 0xB00024
/-- PUB_UPD_W0 (R298, Table 11-12). -/
def PUB_UPD_W0 : Nat := 0xB00028
/-- PUB_UPD_STAT (R298, Table 11-12). -/
def PUB_UPD_STAT : Nat := 0xB0002C
/-- PUB_EVR_BASE_LO[i] (R298, Table 11-13). -/
def PUB_EVR_BASE_LO (i : Nat) : Nat := 0xB00100 + 0x20 * i
/-- PUB_EVR_BASE_HI[i] (R298, Table 11-13). -/
def PUB_EVR_BASE_HI (i : Nat) : Nat := 0xB00104 + 0x20 * i
/-- PUB_EVR_CTL[i] (R298, Table 11-13). -/
def PUB_EVR_CTL (i : Nat) : Nat := 0xB00108 + 0x20 * i
/-- PUB_EVR_HEAD[i] (R298, Table 11-13). -/
def PUB_EVR_HEAD (i : Nat) : Nat := 0xB0010C + 0x20 * i
/-- PUB_EVR_SEQ[i] (R298, Table 11-13). -/
def PUB_EVR_SEQ (i : Nat) : Nat := 0xB00110 + 0x20 * i
/-- PUB_CNT[i] (R298, Table 11-13). -/
def PUB_CNT (i : Nat) : Nat := 0xB00200 + 0x4 * i
/-- PUB_GP_STAT[i] (R298, Table 11-14). -/
def PUB_GP_STAT (i : Nat) : Nat := 0xB01000 + 0x10 * i
/-- PUB_GP_STNUM[i] (R298, Table 11-14). -/
def PUB_GP_STNUM (i : Nat) : Nat := 0xB01004 + 0x10 * i
/-- PUB_GP_SQNUM[i] (R298, Table 11-14). -/
def PUB_GP_SQNUM (i : Nat) : Nat := 0xB01008 + 0x10 * i
/-- PUB_GP_DIGEST[i] (R298, Table 11-14). -/
def PUB_GP_DIGEST (i : Nat) : Nat := 0xB0100C + 0x10 * i
/-- PUB_SV_STAT[i] (R298, Table 11-14). -/
def PUB_SV_STAT (i : Nat) : Nat := 0xB03000 + 0x10 * i
/-- PUB_SV_FRAMES[i] (R298, Table 11-14). -/
def PUB_SV_FRAMES (i : Nat) : Nat := 0xB03004 + 0x10 * i
/-- PUB_SV_MISSED[i] (R298, Table 11-14). -/
def PUB_SV_MISSED (i : Nat) : Nat := 0xB03008 + 0x10 * i
/-- PUB_SUB_STAT[i] (R298, Table 11-15). -/
def PUB_SUB_STAT (i : Nat) : Nat := 0xB20000 + 0x10 * i
/-- PUB_SUB_STNUM[i] (R298, Table 11-15). -/
def PUB_SUB_STNUM (i : Nat) : Nat := 0xB20004 + 0x10 * i
/-- PUB_SUB_SQNUM[i] (R298, Table 11-15). -/
def PUB_SUB_SQNUM (i : Nat) : Nat := 0xB20008 + 0x10 * i
/-- PUB_SUB_DEADLINE[i] (R298, Table 11-15). -/
def PUB_SUB_DEADLINE (i : Nat) : Nat := 0xB2000C + 0x10 * i
/-- KRN_CAUSE (R327, Table 12-13). -/
def KRN_CAUSE : Nat := 0xC00000
/-- KRN_ENABLE (R327, Table 12-13). -/
def KRN_ENABLE : Nat := 0xC00004
/-- KRN_LOCK (R327, Table 12-13). -/
def KRN_LOCK : Nat := 0xC00008
/-- KRN_EVENT (R327, Table 12-13). -/
def KRN_EVENT : Nat := 0xC0000C
/-- KRN_ECC_CORR (R327, Table 12-13). -/
def KRN_ECC_CORR : Nat := 0xC00010
/-- KRN_ECC_THRESH (R327, Table 12-13). -/
def KRN_ECC_THRESH : Nat := 0xC00014
/-- KRN_ENG_CTL[i] (R327, Table 12-14). -/
def KRN_ENG_CTL (i : Nat) : Nat := 0xC01000 + 0x100 * i
/-- KRN_ENG_STAT[i] (R327, Table 12-14). -/
def KRN_ENG_STAT (i : Nat) : Nat := 0xC01004 + 0x100 * i
/-- KRN_ENG_START[i] (R327, Table 12-14). -/
def KRN_ENG_START (i : Nat) : Nat := 0xC01008 + 0x100 * i
/-- KRN_EVQ[i] (R327, Table 12-14). -/
def KRN_EVQ (i : Nat) : Nat := 0xC0100C + 0x100 * i
/-- KRN_TIMERS[i] (R327, Table 12-14). -/
def KRN_TIMERS (i : Nat) : Nat := 0xC01010 + 0x100 * i
/-- KRN_HWIN_LO[i] (R327, Table 12-14). -/
def KRN_HWIN_LO (i : Nat) : Nat := 0xC01014 + 0x100 * i
/-- KRN_HWIN_HI[i] (R327, Table 12-14). -/
def KRN_HWIN_HI (i : Nat) : Nat := 0xC01018 + 0x100 * i
/-- KRN_HWIN_CTL[i] (R327, Table 12-14). -/
def KRN_HWIN_CTL (i : Nat) : Nat := 0xC0101C + 0x100 * i
/-- KRN_FAULT[i] (R327, Table 12-14). -/
def KRN_FAULT (i : Nat) : Nat := 0xC01020 + 0x100 * i
/-- KRN_FAULT_PC[i] (R327, Table 12-14). -/
def KRN_FAULT_PC (i : Nat) : Nat := 0xC01024 + 0x100 * i
/-- KRN_WDOG[i] (R327, Table 12-14). -/
def KRN_WDOG (i : Nat) : Nat := 0xC01028 + 0x100 * i
/-- KRN_CNT[i][j] (R327, Table 12-15). -/
def KRN_CNT (i j : Nat) : Nat := 0xC01040 + 0x100 * i + 0x4 * j
/-- KRN_THR[i][j] (R327, Table 12-15). -/
def KRN_THR (i j : Nat) : Nat := 0xC01080 + 0x100 * i + 0x4 * j
/-- RDR_CAUSE (R369, Table 14-9). -/
def RDR_CAUSE : Nat := 0xD00000
/-- RDR_ENABLE (R369, Table 14-9). -/
def RDR_ENABLE : Nat := 0xD00004
/-- RDR_LOCK (R369, Table 14-9). -/
def RDR_LOCK : Nat := 0xD00008
/-- RDR_EVENT (R369, Table 14-9). -/
def RDR_EVENT : Nat := 0xD0000C
/-- RDR_POLICY (R369, Table 14-9). -/
def RDR_POLICY : Nat := 0xD00010
/-- RDR_SLOTS (R369, Table 14-9). -/
def RDR_SLOTS : Nat := 0xD00014
/-- RDR_ECC_CORR (R369, Table 14-9). -/
def RDR_ECC_CORR : Nat := 0xD00018
/-- RDR_ECC_THRESH (R369, Table 14-9). -/
def RDR_ECC_THRESH : Nat := 0xD0001C
/-- RDR_HOME_LO (R369, Table 14-10). -/
def RDR_HOME_LO : Nat := 0xD00020
/-- RDR_HOME_HI (R369, Table 14-10). -/
def RDR_HOME_HI : Nat := 0xD00024
/-- RDR_HOME_CTL (R369, Table 14-10). -/
def RDR_HOME_CTL : Nat := 0xD00028
/-- RDR_JNL_BASE_LO (R369, Table 14-10). -/
def RDR_JNL_BASE_LO : Nat := 0xD00030
/-- RDR_JNL_BASE_HI (R369, Table 14-10). -/
def RDR_JNL_BASE_HI : Nat := 0xD00034
/-- RDR_JNL_CTL (R369, Table 14-10). -/
def RDR_JNL_CTL : Nat := 0xD00038
/-- RDR_JNL_HEAD (R369, Table 14-10). -/
def RDR_JNL_HEAD : Nat := 0xD0003C
/-- RDR_JNL_SEQ (R369, Table 14-10). -/
def RDR_JNL_SEQ : Nat := 0xD00040
/-- RDR_CMD (R369, Table 14-10). -/
def RDR_CMD : Nat := 0xD00050
/-- RDR_CMD_ARG[i] (R369, Table 14-10). -/
def RDR_CMD_ARG (i : Nat) : Nat := 0xD00054 + 0x4 * i
/-- RDR_CMD_STAT (R369, Table 14-10). -/
def RDR_CMD_STAT : Nat := 0xD00060
/-- RDR_CMD_RESULT (R369, Table 14-10). -/
def RDR_CMD_RESULT : Nat := 0xD00064
/-- RDR_ENG_LOAD[i] (R369, Table 14-10). -/
def RDR_ENG_LOAD (i : Nat) : Nat := 0xD00100 + 0x4 * i
/-- RDR_CNT[i] (R369, Table 14-10). -/
def RDR_CNT (i : Nat) : Nat := 0xD00200 + 0x4 * i
/-- TNK_CAUSE (R394, Table 15-9). -/
def TNK_CAUSE : Nat := 0xE00000
/-- TNK_ENABLE (R394, Table 15-9). -/
def TNK_ENABLE : Nat := 0xE00004
/-- TNK_LOCK (R394, Table 15-9). -/
def TNK_LOCK : Nat := 0xE00008
/-- TNK_HOST_RIGHTS (R394, Table 15-9). -/
def TNK_HOST_RIGHTS : Nat := 0xE0000C
/-- TNK_LEASE (R394, Table 15-9). -/
def TNK_LEASE : Nat := 0xE00010
/-- TNK_LEASE_STAT (R394, Table 15-9). -/
def TNK_LEASE_STAT : Nat := 0xE00014
/-- TNK_ECC_CORR (R394, Table 15-10). -/
def TNK_ECC_CORR : Nat := 0xE00018
/-- TNK_ECC_THRESH (R394, Table 15-10). -/
def TNK_ECC_THRESH : Nat := 0xE0001C
/-- TNK_POISON_COUNT (R394, Table 15-10). -/
def TNK_POISON_COUNT : Nat := 0xE00020
/-- TNK_POISON_LAST (R394, Table 15-10). -/
def TNK_POISON_LAST : Nat := 0xE00024
/-- TNK_REFUSED_LAST (R394, Table 15-10). -/
def TNK_REFUSED_LAST : Nat := 0xE00028
/-- TNK_LK_FORCE (R394, Table 15-10). -/
def TNK_LK_FORCE : Nat := 0xE0002C
/-- TNK_LK_EVENT (R394, Table 15-10). -/
def TNK_LK_EVENT : Nat := 0xE00030
/-- TNK_LK_FOREIGN (R394, Table 15-10). -/
def TNK_LK_FOREIGN : Nat := 0xE00034
/-- TNK_BANK[i] (R394, Table 15-10). -/
def TNK_BANK (i : Nat) : Nat := 0xE00100 + 0x4 * i
/-- TNK_LK[i] (R394, Table 15-11). -/
def TNK_LK (i : Nat) : Nat := 0xE01000 + 0x4 * i
/-- TNK_LK_OWNER[i] (R394, Table 15-11). -/
def TNK_LK_OWNER (i : Nat) : Nat := 0xE01400 + 0x4 * i
/-- TNK_REGION_BASE[i][j] (R394, Table 15-11). -/
def TNK_REGION_BASE (i j : Nat) : Nat := 0xE02000 + 0x80 * i + 0x10 * j
/-- TNK_REGION_LAST[i][j] (R394, Table 15-11). -/
def TNK_REGION_LAST (i j : Nat) : Nat := 0xE02004 + 0x80 * i + 0x10 * j
/-- TNK_REGION_CTL[i][j] (R394, Table 15-11). -/
def TNK_REGION_CTL (i j : Nat) : Nat := 0xE02008 + 0x80 * i + 0x10 * j
/-- TNK_CONFLICT[i] (R394, Table 15-11). -/
def TNK_CONFLICT (i : Nat) : Nat := 0xE04000 + 0x4 * i
/-- TNK_REFUSED[i] (R394, Table 15-11). -/
def TNK_REFUSED (i : Nat) : Nat := 0xE04100 + 0x4 * i
/-- MBX_CAUSE (R395, Table 15-12). -/
def MBX_CAUSE : Nat := 0xE08000
/-- MBX_ENABLE (R395, Table 15-12). -/
def MBX_ENABLE : Nat := 0xE08004
/-- MBX_EVENT (R395, Table 15-12). -/
def MBX_EVENT : Nat := 0xE08008
/-- MBX_HOST_VEC[i] (R395, Table 15-12). -/
def MBX_HOST_VEC (i : Nat) : Nat := 0xE08010 + 0x4 * i
/-- MBX_RX_PEND_LO[i] (R395, Table 15-12). -/
def MBX_RX_PEND_LO (i : Nat) : Nat := 0xE08020 + 0x8 * i
/-- MBX_RX_PEND_HI[i] (R395, Table 15-12). -/
def MBX_RX_PEND_HI (i : Nat) : Nat := 0xE08024 + 0x8 * i
/-- MBX_ACK_PEND_LO[i] (R395, Table 15-12). -/
def MBX_ACK_PEND_LO (i : Nat) : Nat := 0xE08040 + 0x8 * i
/-- MBX_ACK_PEND_HI[i] (R395, Table 15-12). -/
def MBX_ACK_PEND_HI (i : Nat) : Nat := 0xE08044 + 0x8 * i
/-- MBX_BIND[i] (R395, Table 15-12). -/
def MBX_BIND (i : Nat) : Nat := 0xE08100 + 0x4 * i
/-- MBX_CH_STAT[i] (R395, Table 15-12). -/
def MBX_CH_STAT (i : Nat) : Nat := 0xE08200 + 0x4 * i
/-- MBX_CNT[i] (R395, Table 15-12). -/
def MBX_CNT (i : Nat) : Nat := 0xE08300 + 0x4 * i
/-- FLM_CAUSE (R420, Table 16-10). -/
def FLM_CAUSE : Nat := 0xF04000
/-- FLM_ENABLE (R420, Table 16-10). -/
def FLM_ENABLE : Nat := 0xF04004
/-- FLM_LOCK (R420, Table 16-10). -/
def FLM_LOCK : Nat := 0xF04008
/-- FLM_EVENT (R420, Table 16-10). -/
def FLM_EVENT : Nat := 0xF0400C
/-- FLM_FLAG_SET (R420, Table 16-10). -/
def FLM_FLAG_SET : Nat := 0xF04010
/-- FLM_FLAG_CLR (R420, Table 16-10). -/
def FLM_FLAG_CLR : Nat := 0xF04014
/-- FLM_FLAG_IRQ (R420, Table 16-10). -/
def FLM_FLAG_IRQ : Nat := 0xF04018
/-- FLM_FLAG_EVENT (R420, Table 16-10). -/
def FLM_FLAG_EVENT : Nat := 0xF0401C
/-- FLM_BANK_STAT (R420, Table 16-10). -/
def FLM_BANK_STAT : Nat := 0xF04020
/-- FLM_PIN_IN_LO (R420, Table 16-10). -/
def FLM_PIN_IN_LO : Nat := 0xF04024
/-- FLM_PIN_IN_HI (R420, Table 16-10). -/
def FLM_PIN_IN_HI : Nat := 0xF04028
/-- FLM_ECC_CORR (R420, Table 16-10). -/
def FLM_ECC_CORR : Nat := 0xF0402C
/-- FLM_ECC_THRESH (R420, Table 16-10). -/
def FLM_ECC_THRESH : Nat := 0xF04030
/-- FLM_PIN_CFG[i] (R420, Table 16-11). -/
def FLM_PIN_CFG (i : Nat) : Nat := 0xF04100 + 0x4 * i
/-- FLM_ENG_CTL[i] (R420, Table 16-12). -/
def FLM_ENG_CTL (i : Nat) : Nat := 0xF08000 + 0x100 * i
/-- FLM_ENG_STAT[i] (R420, Table 16-12). -/
def FLM_ENG_STAT (i : Nat) : Nat := 0xF08004 + 0x100 * i
/-- FLM_ENG_MATCH[i] (R420, Table 16-12). -/
def FLM_ENG_MATCH (i : Nat) : Nat := 0xF08008 + 0x100 * i
/-- FLM_ENG_CLK[i] (R420, Table 16-12). -/
def FLM_ENG_CLK (i : Nat) : Nat := 0xF0800C + 0x100 * i
/-- FLM_ENG_SHIFT[i] (R420, Table 16-12). -/
def FLM_ENG_SHIFT (i : Nat) : Nat := 0xF08010 + 0x100 * i
/-- FLM_ENG_PINS[i] (R420, Table 16-12). -/
def FLM_ENG_PINS (i : Nat) : Nat := 0xF08014 + 0x100 * i
/-- FLM_ENG_K01[i] (R420, Table 16-13). -/
def FLM_ENG_K01 (i : Nat) : Nat := 0xF08018 + 0x100 * i
/-- FLM_ENG_K23[i] (R420, Table 16-13). -/
def FLM_ENG_K23 (i : Nat) : Nat := 0xF0801C + 0x100 * i
/-- FLM_ENG_SL[i] (R420, Table 16-13). -/
def FLM_ENG_SL (i : Nat) : Nat := 0xF08020 + 0x100 * i
/-- FLM_ENG_RL[i] (R420, Table 16-13). -/
def FLM_ENG_RL (i : Nat) : Nat := 0xF08024 + 0x100 * i
/-- FLM_ENG_EDGE[i] (R420, Table 16-13). -/
def FLM_ENG_EDGE (i : Nat) : Nat := 0xF08028 + 0x100 * i
/-- FLM_ENG_FAULT[i] (R420, Table 16-13). -/
def FLM_ENG_FAULT (i : Nat) : Nat := 0xF0802C + 0x100 * i
/-- FLM_TXQ[i] (R420, Table 16-13). -/
def FLM_TXQ (i : Nat) : Nat := 0xF08030 + 0x100 * i
/-- FLM_RXQ[i] (R420, Table 16-13). -/
def FLM_RXQ (i : Nat) : Nat := 0xF08034 + 0x100 * i
/-- FLM_Q_STAT[i] (R420, Table 16-13). -/
def FLM_Q_STAT (i : Nat) : Nat := 0xF08038 + 0x100 * i
/-- FLM_ENG_MARK[i] (R420, Table 16-13). -/
def FLM_ENG_MARK (i : Nat) : Nat := 0xF0803C + 0x100 * i
/-- FLM_DMA_TX[i] (R420, Table 16-13). -/
def FLM_DMA_TX (i : Nat) : Nat := 0xF08040 + 0x100 * i
/-- FLM_DMA_RX[i] (R420, Table 16-13). -/
def FLM_DMA_RX (i : Nat) : Nat := 0xF08044 + 0x100 * i
/-- FLM_DMA_CTL[i] (R420, Table 16-13). -/
def FLM_DMA_CTL (i : Nat) : Nat := 0xF08048 + 0x100 * i
/-- FLM_ENG_CNT[i][j] (R420, Table 16-13). -/
def FLM_ENG_CNT (i j : Nat) : Nat := 0xF08060 + 0x100 * i + 0x4 * j
/-- FLM_PROG[i][j] (R420, Table 16-13). -/
def FLM_PROG (i j : Nat) : Nat := 0xF0C000 + 0x80 * i + 0x4 * j
/-- HST_CAUSE (R441, Table 17-12). -/
def HST_CAUSE : Nat := 0x1000000
/-- HST_ENABLE (R441, Table 17-12). -/
def HST_ENABLE : Nat := 0x1000004
/-- HST_LOCK (R441, Table 17-12). -/
def HST_LOCK : Nat := 0x1000008
/-- HST_EVENT (R441, Table 17-12). -/
def HST_EVENT : Nat := 0x100000C
/-- HST_BLK_IRQ (R441, Table 17-12). -/
def HST_BLK_IRQ : Nat := 0x1000010
/-- HST_FATAL (R441, Table 17-12). -/
def HST_FATAL : Nat := 0x1000014
/-- HST_LINK (R441, Table 17-12). -/
def HST_LINK : Nat := 0x1000018
/-- HST_RESYNC (R441, Table 17-12). -/
def HST_RESYNC : Nat := 0x1000020
/-- HST_RESYNC_ADDR_LO (R441, Table 17-12). -/
def HST_RESYNC_ADDR_LO : Nat := 0x1000024
/-- HST_RESYNC_ADDR_HI (R441, Table 17-12). -/
def HST_RESYNC_ADDR_HI : Nat := 0x1000028
/-- HST_RESYNC_NONCE_LO (R441, Table 17-12). -/
def HST_RESYNC_NONCE_LO : Nat := 0x100002C
/-- HST_RESYNC_NONCE_HI (R441, Table 17-12). -/
def HST_RESYNC_NONCE_HI : Nat := 0x1000030
/-- HST_RESYNC_STATUS (R441, Table 17-12). -/
def HST_RESYNC_STATUS : Nat := 0x1000034
/-- HST_SQ_BASE_LO[i] (R441, Table 17-13). -/
def HST_SQ_BASE_LO (i : Nat) : Nat := 0x1010000 + 0x40 * i
/-- HST_SQ_BASE_HI[i] (R441, Table 17-13). -/
def HST_SQ_BASE_HI (i : Nat) : Nat := 0x1010004 + 0x40 * i
/-- HST_SQ_CTL[i] (R441, Table 17-13). -/
def HST_SQ_CTL (i : Nat) : Nat := 0x1010008 + 0x40 * i
/-- HST_SQ_DOORBELL[i] (R441, Table 17-13). -/
def HST_SQ_DOORBELL (i : Nat) : Nat := 0x101000C + 0x40 * i
/-- HST_SQ_COUNT[i] (R441, Table 17-13). -/
def HST_SQ_COUNT (i : Nat) : Nat := 0x1010010 + 0x40 * i
/-- HST_CQ_BASE_LO[i] (R441, Table 17-13). -/
def HST_CQ_BASE_LO (i : Nat) : Nat := 0x1010100 + 0x40 * i
/-- HST_CQ_BASE_HI[i] (R441, Table 17-13). -/
def HST_CQ_BASE_HI (i : Nat) : Nat := 0x1010104 + 0x40 * i
/-- HST_CQ_CTL[i] (R441, Table 17-13). -/
def HST_CQ_CTL (i : Nat) : Nat := 0x1010108 + 0x40 * i
/-- HST_CQ_DOORBELL[i] (R441, Table 17-13). -/
def HST_CQ_DOORBELL (i : Nat) : Nat := 0x101010C + 0x40 * i
/-- HST_CQ_COUNT[i] (R441, Table 17-13). -/
def HST_CQ_COUNT (i : Nat) : Nat := 0x1010110 + 0x40 * i
/-- HST_TX_BASE_LO[i] (R441, Table 17-13). -/
def HST_TX_BASE_LO (i : Nat) : Nat := 0x1010200 + 0x40 * i
/-- HST_TX_BASE_HI[i] (R441, Table 17-13). -/
def HST_TX_BASE_HI (i : Nat) : Nat := 0x1010204 + 0x40 * i
/-- HST_TX_CTL[i] (R441, Table 17-13). -/
def HST_TX_CTL (i : Nat) : Nat := 0x1010208 + 0x40 * i
/-- HST_TX_DOORBELL[i] (R441, Table 17-13). -/
def HST_TX_DOORBELL (i : Nat) : Nat := 0x101020C + 0x40 * i
/-- HST_TX_COUNT[i] (R441, Table 17-13). -/
def HST_TX_COUNT (i : Nat) : Nat := 0x1010210 + 0x40 * i
/-- HST_RX_BASE_LO[i] (R441, Table 17-13). -/
def HST_RX_BASE_LO (i : Nat) : Nat := 0x1010400 + 0x40 * i
/-- HST_RX_BASE_HI[i] (R441, Table 17-13). -/
def HST_RX_BASE_HI (i : Nat) : Nat := 0x1010404 + 0x40 * i
/-- HST_RX_CTL[i] (R441, Table 17-13). -/
def HST_RX_CTL (i : Nat) : Nat := 0x1010408 + 0x40 * i
/-- HST_RX_DOORBELL[i] (R441, Table 17-13). -/
def HST_RX_DOORBELL (i : Nat) : Nat := 0x101040C + 0x40 * i
/-- HST_RX_COUNT[i] (R441, Table 17-13). -/
def HST_RX_COUNT (i : Nat) : Nat := 0x1010410 + 0x40 * i
/-- HST_RX_BUF[i] (R441, Table 17-13). -/
def HST_RX_BUF (i : Nat) : Nat := 0x1010414 + 0x40 * i
/-- HST_IRQ_PEND[i] (R441, Table 17-14). -/
def HST_IRQ_PEND (i : Nat) : Nat := 0x1010800 + 0x4 * i
/-- HST_IRQ_CTL (R441, Table 17-14). -/
def HST_IRQ_CTL : Nat := 0x1010820
/-- HST_FCNT[i] (R441, Table 17-14). -/
def HST_FCNT (i : Nat) : Nat := 0x1010900 + 0x4 * i
/-- CUL_CAUSE (R465, Table 18-12). -/
def CUL_CAUSE : Nat := 0x1100000
/-- CUL_ENABLE (R465, Table 18-12). -/
def CUL_ENABLE : Nat := 0x1100004
/-- CUL_LOCK (R465, Table 18-12). -/
def CUL_LOCK : Nat := 0x1100008
/-- CUL_CTL (R465, Table 18-12). -/
def CUL_CTL : Nat := 0x110000C
/-- CUL_CMD (R465, Table 18-12). -/
def CUL_CMD : Nat := 0x1100010
/-- CUL_CMD_STAT (R465, Table 18-12). -/
def CUL_CMD_STAT : Nat := 0x1100014
/-- CUL_STAT (R465, Table 18-13). -/
def CUL_STAT : Nat := 0x1100018
/-- CUL_EPOCH (R465, Table 18-13). -/
def CUL_EPOCH : Nat := 0x110001C
/-- CUL_EPOCH_SEEN (R465, Table 18-13). -/
def CUL_EPOCH_SEEN : Nat := 0x1100020
/-- CUL_PARTNER_EPOCH (R465, Table 18-13). -/
def CUL_PARTNER_EPOCH : Nat := 0x1100024
/-- CUL_TIME_DIFF (R465, Table 18-13). -/
def CUL_TIME_DIFF : Nat := 0x1100028
/-- CUL_HB_AGE (R465, Table 18-13). -/
def CUL_HB_AGE : Nat := 0x110002C
/-- CUL_SETTLE (R465, Table 18-13). -/
def CUL_SETTLE : Nat := 0x1100030
/-- CUL_PEER_TANK (R465, Table 18-13). -/
def CUL_PEER_TANK : Nat := 0x1100034
/-- CUL_PEER_TIME_FRAC (R465, Table 18-14). -/
def CUL_PEER_TIME_FRAC : Nat := 0x1100038
/-- CUL_PEER_TIME (R465, Table 18-14). -/
def CUL_PEER_TIME : Nat := 0x110003C
/-- CUL_MIRROR_STAT (R465, Table 18-14). -/
def CUL_MIRROR_STAT : Nat := 0x1100040
/-- CUL_PARTNER_ID[i] (R465, Table 18-14). -/
def CUL_PARTNER_ID (i : Nat) : Nat := 0x1100080 + 0x4 * i
/-- CUL_CNT[i] (R465, Table 18-14). -/
def CUL_CNT (i : Nat) : Nat := 0x1100100 + 0x4 * i
/-- FRZ_CTL (R484, Table 19-9). -/
def FRZ_CTL : Nat := 0x1200000
/-- FRZ_ARM (R484, Table 19-9). -/
def FRZ_ARM : Nat := 0x1200004
/-- FRZ_AUTOTHAW (R484, Table 19-9). -/
def FRZ_AUTOTHAW : Nat := 0x1200008
/-- FRZ_STAT (R484, Table 19-9). -/
def FRZ_STAT : Nat := 0x120000C
/-- FRZ_DURATION (R484, Table 19-9). -/
def FRZ_DURATION : Nat := 0x1200010
/-- FRZ_CAUSE (R484, Table 19-9). -/
def FRZ_CAUSE : Nat := 0x1200014
/-- FRZ_ENABLE (R484, Table 19-9). -/
def FRZ_ENABLE : Nat := 0x1200018
/-- FRZ_LOCK (R484, Table 19-9). -/
def FRZ_LOCK : Nat := 0x120001C
/-- SEN_STAT (R485, Table 19-10). -/
def SEN_STAT : Nat := 0x1201000
/-- SEN_CMD (R485, Table 19-10). -/
def SEN_CMD : Nat := 0x1201004
/-- SEN_CMD_STAT (R485, Table 19-10). -/
def SEN_CMD_STAT : Nat := 0x1201008
/-- SEN_TAMPER_CFG (R485, Table 19-10). -/
def SEN_TAMPER_CFG : Nat := 0x120100C
/-- SEN_CAUSE (R485, Table 19-10). -/
def SEN_CAUSE : Nat := 0x1201010
/-- SEN_ENABLE (R485, Table 19-10). -/
def SEN_ENABLE : Nat := 0x1201014
/-- SEN_LOCK (R485, Table 19-10). -/
def SEN_LOCK : Nat := 0x1201018
/-- SEN_RTC_LO (R485, Table 19-10). -/
def SEN_RTC_LO : Nat := 0x120101C
/-- SEN_RTC_HI (R485, Table 19-10). -/
def SEN_RTC_HI : Nat := 0x1201020
/-- SEN_TAMPER_TOTAL (R485, Table 19-10). -/
def SEN_TAMPER_TOTAL : Nat := 0x1201024
/-- SEN_TOKEN[i] (R485, Table 19-11). -/
def SEN_TOKEN (i : Nat) : Nat := 0x1201040 + 0x4 * i
/-- SEN_TOKEN_DIGEST[i] (R485, Table 19-11). -/
def SEN_TOKEN_DIGEST (i : Nat) : Nat := 0x1201060 + 0x4 * i
/-- SEN_PARTNER_ID[i] (R485, Table 19-11). -/
def SEN_PARTNER_ID (i : Nat) : Nat := 0x1201080 + 0x4 * i
/-- SEN_DEVKEY_X[i] (R485, Table 19-11). -/
def SEN_DEVKEY_X (i : Nat) : Nat := 0x12010A0 + 0x4 * i
/-- SEN_DEVKEY_Y[i] (R485, Table 19-11). -/
def SEN_DEVKEY_Y (i : Nat) : Nat := 0x12010C0 + 0x4 * i
/-- SEN_LOG[i][j] (R485, Table 19-11). -/
def SEN_LOG (i j : Nat) : Nat := 0x1201100 + 0x10 * i + 0x4 * j
/-- PWR_TEMP[i] (R509, Table 20-17). -/
def PWR_TEMP (i : Nat) : Nat := 0x100200 + 0x4 * i
/-- PWR_TEMP_MAX (R509, Table 20-17). -/
def PWR_TEMP_MAX : Nat := 0x100220
/-- PWR_TEMP_SPREAD (R509, Table 20-17). -/
def PWR_TEMP_SPREAD : Nat := 0x100224
/-- PWR_AGE[i] (R509, Table 20-17). -/
def PWR_AGE (i : Nat) : Nat := 0x100240 + 0x4 * i
/-- PWR_AGE_STAT (R509, Table 20-17). -/
def PWR_AGE_STAT : Nat := 0x100290
/-- PWR_AGE_THRESH (R509, Table 20-17). -/
def PWR_AGE_THRESH : Nat := 0x100294
/-- MSIX_ADDR_LO[i] (R435, Table 17-2). -/
def MSIX_ADDR_LO (i : Nat) : Nat := 0x10F0000 + 0x10 * i
/-- MSIX_ADDR_HI[i] (R435, Table 17-2). -/
def MSIX_ADDR_HI (i : Nat) : Nat := 0x10F0004 + 0x10 * i
/-- MSIX_DATA[i] (R435, Table 17-2). -/
def MSIX_DATA (i : Nat) : Nat := 0x10F0008 + 0x10 * i
/-- MSIX_CTL[i] (R435, Table 17-2). -/
def MSIX_CTL (i : Nat) : Nat := 0x10F000C + 0x10 * i
/-- MSIX_PBA[i] (R435, Table 17-2). -/
def MSIX_PBA (i : Nat) : Nat := 0x10F1000 + 0x4 * i

end Reg

/-- The registers of the GLB window (Table 17-2). -/
def rowsGLB : List RegRow := [
  ⟨"GLB_BOOT_COUNT", 0x20, 0x2000000, 1, 0x2000000, 1, 0, 0, 0, 0, 0, 0⟩,
  ⟨"GLB_BOOT_US_LO", 0x24, 0x2000000, 1, 0x2000000, 1, 0, 0, 0, 0, 0, 0⟩,
  ⟨"GLB_BOOT_US_HI", 0x28, 0x2000000, 1, 0x2000000, 1, 0, 0, 0, 0, 0, 0⟩,
  ⟨"GLB_HANDOVER", 0x2C, 0x2000000, 1, 0x2000000, 1, 0, 0, 0, 0, 0, 0⟩,
  ⟨"GLB_TRICKLE_RX", 0x30, 0x2000000, 1, 0x2000000, 1, 0, 0, 0, 0, 0xFFFFFFFF, 0⟩,
  ⟨"GLB_TRICKLE_DROP_FULL", 0x34, 0x2000000, 1, 0x2000000, 1, 0, 0, 0, 0, 0xFFFFFFFF, 0⟩,
  ⟨"GLB_TRICKLE_DROP_AGE", 0x38, 0x2000000, 1, 0x2000000, 1, 0, 0, 0, 0, 0xFFFFFFFF, 0⟩,
  ⟨"GLB_TRICKLE_DROP_GAP", 0x3C, 0x2000000, 1, 0x2000000, 1, 0, 0, 0, 0, 0xFFFFFFFF, 0⟩,
  ⟨"GLB_TRICKLE_DROP_ERR", 0x40, 0x2000000, 1, 0x2000000, 1, 0, 0, 0, 0, 0xFFFFFFFF, 0⟩,
  ⟨"GLB_DEVID", 0x80, 0x2000000, 1, 0x4, 8, 0, 0, 0, 0, 0, 0⟩,
  ⟨"GLB_VERSION", 0x0, 0x2000000, 1, 0x2000000, 1, 0, 0, 0, 0, 0, 0x91920100⟩,
  ⟨"GLB_STRAP", 0x4, 0x2000000, 1, 0x2000000, 1, 0, 0, 0, 0, 0, 0⟩,
  ⟨"GLB_STATUS", 0x8, 0x2000000, 1, 0x2000000, 1, 0, 0, 0, 0, 0, 0⟩,
  ⟨"GLB_RESET", 0xC, 0x2000000, 1, 0x2000000, 1, 0, 0, 0, 0, 0, 0⟩,
  ⟨"GLB_IRQ_STATUS", 0x10, 0x2000000, 1, 0x2000000, 1, 0, 0, 0, 0, 0, 0⟩,
  ⟨"GLB_CAUSE", 0x14, 0x2000000, 1, 0x2000000, 1, 0, 0, 0x1F, 0, 0, 0⟩,
  ⟨"GLB_ENABLE", 0x18, 0x2000000, 1, 0x2000000, 1, 0x1F, 0, 0, 0, 0, 0⟩,
  ⟨"GLB_ERR_ADDR", 0x1C, 0x2000000, 1, 0x2000000, 1, 0, 0, 0, 0, 0, 0⟩]

/-- The registers of the PWR window (Table 17-2). -/
def rowsPWR : List RegRow := [
  ⟨"PWR_DOMAIN_CTL", 0x100000, 0x2000000, 1, 0x4, 16, 0, 0x10, 0, 0, 0, 0⟩,
  ⟨"PWR_DOMAIN_STAT", 0x100040, 0x2000000, 1, 0x4, 16, 0, 0, 0, 0, 0, 0⟩,
  ⟨"PWR_OPPOINT", 0x100080, 0x2000000, 1, 0x2000000, 1, 0, 0, 0, 0, 0, 0⟩,
  ⟨"PWR_OPPOINT_STAT", 0x100084, 0x2000000, 1, 0x2000000, 1, 0, 0, 0, 0, 0, 0⟩,
  ⟨"PWR_REFUSED_DOMAIN", 0x100090, 0x2000000, 1, 0x2000000, 1, 0, 0, 0, 0, 0, 0⟩,
  ⟨"PWR_CAUSE", 0x100088, 0x2000000, 1, 0x2000000, 1, 0, 0, 0x1F, 0, 0, 0⟩,
  ⟨"PWR_ENABLE", 0x10008C, 0x2000000, 1, 0x2000000, 1, 0x1F, 0, 0, 0, 0, 0⟩,
  ⟨"PWR_DEEP", 0x100094, 0x2000000, 1, 0x2000000, 1, 0, 0, 0, 0, 0, 0⟩,
  ⟨"PWR_CLK_STAT", 0x100098, 0x2000000, 1, 0x2000000, 1, 0, 0, 0, 0, 0, 0⟩,
  ⟨"PWR_LOCK", 0x10009C, 0x2000000, 1, 0x2000000, 1, 0, 0, 0, 0x1, 0, 0⟩,
  ⟨"PWR_TEMP", 0x100200, 0x2000000, 1, 0x4, 8, 0, 0, 0, 0, 0, 0⟩,
  ⟨"PWR_TEMP_MAX", 0x100220, 0x2000000, 1, 0x2000000, 1, 0, 0, 0, 0, 0xFFF, 0⟩,
  ⟨"PWR_TEMP_SPREAD", 0x100224, 0x2000000, 1, 0x2000000, 1, 0, 0, 0, 0, 0xFF00, 0⟩,
  ⟨"PWR_AGE", 0x100240, 0x2000000, 1, 0x4, 17, 0, 0, 0, 0, 0, 0⟩,
  ⟨"PWR_AGE_STAT", 0x100290, 0x2000000, 1, 0x2000000, 1, 0, 0, 0, 0, 0, 0⟩,
  ⟨"PWR_AGE_THRESH", 0x100294, 0x2000000, 1, 0x2000000, 1, 0, 0xFFF, 0, 0, 0, 0x12C⟩]

/-- The registers of the IMG window (Table 17-2). -/
def rowsIMG : List RegRow := [
  ⟨"IMG_SERIAL", 0x200020, 0x2000000, 1, 0x2000000, 1, 0, 0, 0, 0, 0, 0⟩,
  ⟨"IMG_HASH", 0x200024, 0x2000000, 1, 0x4, 8, 0, 0, 0, 0, 0, 0⟩,
  ⟨"IMG_LOAD", 0x200000, 0x2000000, 1, 0x2000000, 1, 0, 0, 0, 0, 0, 0⟩,
  ⟨"IMG_SWAP", 0x200004, 0x2000000, 1, 0x2000000, 1, 0, 0, 0, 0, 0, 0⟩,
  ⟨"IMG_ABORT", 0x200008, 0x2000000, 1, 0x2000000, 1, 0, 0, 0, 0, 0, 0⟩,
  ⟨"IMG_STATUS", 0x20000C, 0x2000000, 1, 0x2000000, 1, 0, 0, 0, 0, 0, 0xFF0000⟩,
  ⟨"IMG_ERR_OFFSET", 0x200010, 0x2000000, 1, 0x2000000, 1, 0, 0, 0, 0, 0, 0⟩,
  ⟨"IMG_PROGRESS", 0x200014, 0x2000000, 1, 0x2000000, 1, 0, 0, 0, 0, 0, 0⟩,
  ⟨"IMG_SRC_ADDR_LO", 0x200018, 0x2000000, 1, 0x2000000, 1, 0xFFFFFFC0, 0, 0, 0, 0, 0⟩,
  ⟨"IMG_SRC_ADDR_HI", 0x20001C, 0x2000000, 1, 0x2000000, 1, 0xFFFFFFFF, 0, 0, 0, 0, 0⟩,
  ⟨"IMG_KEYSLOT", 0x200044, 0x2000000, 1, 0x2000000, 1, 0, 0, 0, 0, 0, 0⟩,
  ⟨"IMG_KEY_REVOKE", 0x200048, 0x2000000, 1, 0x2000000, 1, 0, 0, 0, 0, 0, 0⟩,
  ⟨"IMG_LOCK", 0x20004C, 0x2000000, 1, 0x2000000, 1, 0, 0, 0, 0x3, 0, 0⟩,
  ⟨"IMG_BIND_STATUS", 0x200050, 0x2000000, 1, 0x2000000, 1, 0, 0, 0, 0, 0, 0⟩,
  ⟨"IMG_CAUSE", 0x200054, 0x2000000, 1, 0x2000000, 1, 0, 0, 0x3F, 0, 0, 0⟩,
  ⟨"IMG_ENABLE", 0x200058, 0x2000000, 1, 0x2000000, 1, 0x3F, 0, 0, 0, 0, 0⟩,
  ⟨"IMG_SWAP_PENDING", 0x20005C, 0x2000000, 1, 0x2000000, 1, 0, 0, 0, 0, 0, 0⟩,
  ⟨"IMG_COUNT", 0x200060, 0x2000000, 1, 0x2000000, 1, 0, 0, 0, 0, 0, 0⟩]

/-- The registers of the TIM window (Table 17-2). -/
def rowsTIM0 : List RegRow := [
  ⟨"TIM_PPS_CTL", 0x300050, 0x2000000, 1, 0x2000000, 1, 0xFFFFF003, 0, 0, 0, 0, 0⟩,
  ⟨"TIM_PPS_OFFSET", 0x300054, 0x2000000, 1, 0x2000000, 1, 0xFFFFFFFF, 0, 0, 0, 0, 0⟩,
  ⟨"TIM_CAP_CTL", 0x300060, 0x2000000, 1, 0x20, 2, 0x3, 0, 0x10, 0, 0, 0⟩,
  ⟨"TIM_CAP_NS", 0x300064, 0x2000000, 1, 0x20, 2, 0, 0, 0, 0, 0, 0⟩,
  ⟨"TIM_CAP_SEC_LO", 0x300068, 0x2000000, 1, 0x20, 2, 0, 0, 0, 0, 0, 0⟩,
  ⟨"TIM_CAP_SEC_HI", 0x30006C, 0x2000000, 1, 0x20, 2, 0, 0, 0, 0, 0, 0⟩,
  ⟨"TIM_CAP_NS32", 0x300070, 0x2000000, 1, 0x20, 2, 0, 0, 0, 0, 0, 0⟩,
  ⟨"TIM_CMP_TARGET", 0x300100, 0x2000000, 1, 0x10, 8, 0xFFFFFFFF, 0, 0, 0, 0, 0⟩,
  ⟨"TIM_CMP_PERIOD", 0x300104, 0x2000000, 1, 0x10, 8, 0xFFFFFFFF, 0, 0, 0, 0, 0⟩,
  ⟨"TIM_CMP_CTL", 0x300108, 0x2000000, 1, 0x10, 8, 0, 0, 0, 0, 0, 0⟩,
  ⟨"TIM_CMP_STAT", 0x30010C, 0x2000000, 1, 0x10, 8, 0, 0, 0x1, 0, 0xFFFF0000, 0⟩,
  ⟨"TIM_CAL_LEVEL", 0x300200, 0x2000000, 1, 0x10, 5, 0, 0, 0, 0, 0xFFFF0000, 0⟩,
  ⟨"TIM_CAL_LATE", 0x300204, 0x2000000, 1, 0x10, 5, 0, 0, 0, 0, 0xFFFFFFFF, 0⟩,
  ⟨"TIM_CAL_DROP", 0x300208, 0x2000000, 1, 0x10, 5, 0, 0, 0, 0, 0xFFFFFFFF, 0⟩,
  ⟨"TIM_CAL_RANGE", 0x30020C, 0x2000000, 1, 0x10, 5, 0, 0, 0, 0, 0xFFFFFFFF, 0⟩,
  ⟨"TIM_TS2_LEVEL", 0x300280, 0x2000000, 1, 0x4, 5, 0, 0, 0, 0, 0xFFFF0000, 0⟩,
  ⟨"TIM_PDELAY", 0x300400, 0x2000000, 1, 0x4, 200, 0xFFFFFFFF, 0, 0, 0, 0, 0⟩,
  ⟨"TIM_LAT_RX", 0x300800, 0x2000000, 1, 0x8, 200, 0xFFFFFFFF, 0, 0, 0, 0, 0⟩,
  ⟨"TIM_LAT_TX", 0x300804, 0x2000000, 1, 0x8, 200, 0xFFFFFFFF, 0, 0, 0, 0, 0⟩,
  ⟨"TIM_TS2_LOST", 0x301000, 0x2000000, 1, 0x4, 200, 0, 0, 0, 0, 0xFFFFFFFF, 0⟩,
  ⟨"TIM_NOW_NS", 0x300000, 0x2000000, 1, 0x2000000, 1, 0, 0, 0, 0, 0, 0⟩,
  ⟨"TIM_NOW_SEC_LO", 0x300004, 0x2000000, 1, 0x2000000, 1, 0, 0, 0, 0, 0, 0⟩,
  ⟨"TIM_NOW_SEC_HI", 0x300008, 0x2000000, 1, 0x2000000, 1, 0, 0, 0, 0, 0, 0⟩,
  ⟨"TIM_NOW_FRAC", 0x30000C, 0x2000000, 1, 0x2000000, 1, 0, 0, 0, 0, 0, 0⟩,
  ⟨"TIM_NOW_NS32", 0x300010, 0x2000000, 1, 0x2000000, 1, 0, 0, 0, 0, 0, 0⟩,
  ⟨"TIM_INCR_FRAC", 0x300014, 0x2000000, 1, 0x2000000, 1, 0, 0, 0, 0, 0, 0⟩,
  ⟨"TIM_INCR_INT", 0x300018, 0x2000000, 1, 0x2000000, 1, 0, 0, 0, 0, 0, 0x1⟩,
  ⟨"TIM_ADJ_NS", 0x30001C, 0x2000000, 1, 0x2000000, 1, 0xFFFFFFFF, 0, 0, 0, 0, 0⟩,
  ⟨"TIM_ADJ_CTL", 0x300020, 0x2000000, 1, 0x2000000, 1, 0, 0, 0, 0, 0, 0⟩,
  ⟨"TIM_ADJ_REM", 0x300024, 0x2000000, 1, 0x2000000, 1, 0, 0, 0, 0, 0, 0⟩]

/-- The registers of the TIM window, continued. -/
def rowsTIM1 : List RegRow := [
  ⟨"TIM_ADJ_STAT", 0x300028, 0x2000000, 1, 0x2000000, 1, 0, 0, 0, 0, 0, 0⟩,
  ⟨"TIM_SET_NS", 0x30002C, 0x2000000, 1, 0x2000000, 1, 0x3FFFFFFF, 0, 0, 0, 0, 0⟩,
  ⟨"TIM_SET_SEC_LO", 0x300030, 0x2000000, 1, 0x2000000, 1, 0xFFFFFFFF, 0, 0, 0, 0, 0⟩,
  ⟨"TIM_SET_SEC_HI", 0x300034, 0x2000000, 1, 0x2000000, 1, 0xFFFF, 0, 0, 0, 0, 0⟩,
  ⟨"TIM_SET_CMD", 0x300038, 0x2000000, 1, 0x2000000, 1, 0, 0, 0, 0, 0, 0⟩,
  ⟨"TIM_SYNC_STATE", 0x30003C, 0x2000000, 1, 0x2000000, 1, 0xFFFF0003, 0, 0, 0, 0, 0⟩,
  ⟨"TIM_DISC_OWNER", 0x300040, 0x2000000, 1, 0x2000000, 1, 0, 0x3F, 0, 0, 0, 0x3F⟩,
  ⟨"TIM_REFUSED", 0x300058, 0x2000000, 1, 0x2000000, 1, 0, 0, 0, 0, 0, 0⟩,
  ⟨"TIM_CAUSE", 0x300044, 0x2000000, 1, 0x2000000, 1, 0, 0, 0xFF3FFF, 0, 0, 0⟩,
  ⟨"TIM_ENABLE", 0x300048, 0x2000000, 1, 0x2000000, 1, 0xFF3FFF, 0, 0, 0, 0, 0⟩,
  ⟨"TIM_LOCK", 0x30004C, 0x2000000, 1, 0x2000000, 1, 0, 0, 0, 0x1, 0, 0⟩]

/-- The registers of the PRT window (Table 17-2). -/
def rowsPRT : List RegRow := [
  ⟨"PRT_CTL", 0x400000, 0x2000000, 1, 0x2000, 200, 0, 0xC, 0, 0, 0, 0⟩,
  ⟨"PRT_STAT", 0x400004, 0x2000000, 1, 0x2000, 200, 0, 0, 0, 0, 0, 0⟩,
  ⟨"PRT_MAXLEN", 0x400008, 0x2000000, 1, 0x2000, 200, 0, 0, 0, 0, 0, 0x600⟩,
  ⟨"PRT_LINKHOLD", 0x40000C, 0x2000000, 1, 0x2000, 200, 0, 0xFF03FF, 0, 0, 0, 0⟩,
  ⟨"PRT_FC", 0x400010, 0x2000000, 1, 0x2000, 200, 0, 0xFFFF000F, 0, 0, 0, 0⟩,
  ⟨"PRT_FC_TX", 0x400014, 0x2000000, 1, 0x2000, 200, 0, 0xFFFFFFFF, 0, 0, 0, 0x8000FFFF⟩,
  ⟨"PRT_PAUSEWD", 0x400018, 0x2000000, 1, 0x2000, 200, 0, 0x3FFFFFF, 0, 0, 0, 0⟩,
  ⟨"PRT_PAUSE_STAT", 0x40001C, 0x2000000, 1, 0x2000, 200, 0, 0, 0, 0, 0, 0⟩,
  ⟨"PRT_TXSTART", 0x400020, 0x2000000, 1, 0x2000, 200, 0, 0, 0, 0, 0, 0x400⟩,
  ⟨"PRT_MACADDR_LO", 0x400024, 0x2000000, 1, 0x2000, 200, 0, 0xFFFFFFFF, 0, 0, 0, 0⟩,
  ⟨"PRT_MACADDR_HI", 0x400028, 0x2000000, 1, 0x2000, 200, 0, 0xFFFF, 0, 0, 0, 0⟩,
  ⟨"PRT_HOLD_STAT", 0x40002C, 0x2000000, 1, 0x2000, 200, 0, 0, 0, 0, 0, 0⟩,
  ⟨"PRT_FEC_CORR", 0x400040, 0x2000000, 1, 0x2000, 200, 0, 0, 0, 0, 0xFFFFFFFF, 0⟩,
  ⟨"PRT_FEC_UNCORR", 0x400044, 0x2000000, 1, 0x2000, 200, 0, 0, 0, 0, 0xFFFFFFFF, 0⟩,
  ⟨"PRT_CAUSE", 0x400030, 0x2000000, 1, 0x2000, 200, 0, 0, 0x7FF, 0, 0, 0⟩,
  ⟨"PRT_ENABLE", 0x400034, 0x2000000, 1, 0x2000, 200, 0x7FF, 0, 0, 0, 0, 0⟩,
  ⟨"PRT_CNT_HALF_LO", 0x400038, 0x2000000, 1, 0x2000, 200, 0, 0, 0xFFFFFFFF, 0, 0, 0⟩,
  ⟨"PRT_CNT_HALF_HI", 0x40003C, 0x2000000, 1, 0x2000, 200, 0, 0, 0xFFFF, 0, 0, 0⟩,
  ⟨"PRT_CNT_LO", 0x401000, 0x2000, 200, 0x8, 48, 0, 0, 0, 0, 0xFFFFFFFF, 0⟩,
  ⟨"PRT_CNT_HI", 0x401004, 0x2000, 200, 0x8, 48, 0, 0, 0, 0, 0, 0⟩,
  ⟨"PRT_LOCK", 0x5F0000, 0x2000000, 1, 0x2000000, 1, 0, 0, 0, 0x1, 0, 0⟩,
  ⟨"PRT_IRQ_SUM", 0x5F0010, 0x2000000, 1, 0x4, 7, 0, 0, 0, 0, 0, 0⟩,
  ⟨"PRT_LANE_STAT", 0x5F0100, 0x2000000, 1, 0x4, 48, 0, 0, 0, 0, 0xFFFF0000, 0⟩]

/-- The registers of the HDG window (Table 17-2). -/
def rowsHDG : List RegRow := [
  ⟨"HDG_TBL_CMD", 0x600040, 0x2000000, 1, 0x2000000, 1, 0, 0, 0, 0, 0, 0⟩,
  ⟨"HDG_TBL_STAT", 0x600044, 0x2000000, 1, 0x2000000, 1, 0, 0, 0, 0, 0, 0⟩,
  ⟨"HDG_TBL_INDEX", 0x600048, 0x2000000, 1, 0x2000000, 1, 0x1FFFF, 0, 0, 0, 0, 0⟩,
  ⟨"HDG_TBL_DATA", 0x600050, 0x2000000, 1, 0x4, 8, 0xFFFFFFFF, 0, 0, 0, 0, 0⟩,
  ⟨"HDG_KEY_CTL", 0x600080, 0x2000000, 1, 0x2000000, 1, 0, 0, 0, 0, 0, 0⟩,
  ⟨"HDG_KEY_ID", 0x600084, 0x2000000, 1, 0x2000000, 1, 0xFFFFFFFF, 0, 0, 0, 0, 0⟩,
  ⟨"HDG_KEY_DATA", 0x600088, 0x2000000, 1, 0x4, 8, 0xFFFFFFFF, 0, 0, 0, 0, 0⟩,
  ⟨"HDG_KEY_STAT", 0x6000A8, 0x2000000, 1, 0x2000000, 1, 0, 0, 0, 0, 0, 0⟩,
  ⟨"HDG_ECC_CORR", 0x600020, 0x2000000, 1, 0x2000000, 1, 0, 0, 0, 0, 0xFFFFFFFF, 0⟩,
  ⟨"HDG_ECC_THRESH", 0x600024, 0x2000000, 1, 0x2000000, 1, 0xFFFFFFFF, 0, 0, 0, 0, 0x3E8⟩,
  ⟨"HDG_AUTH_Q", 0x600028, 0x2000000, 1, 0x2000000, 1, 0, 0, 0, 0, 0xFFFF0000, 0⟩,
  ⟨"HDG_AUTH_MARK_FAIL", 0x60002C, 0x2000000, 1, 0x2000000, 1, 0, 0, 0, 0, 0xFFFFFFFF, 0⟩,
  ⟨"HDG_NODE_COUNT", 0x600030, 0x2000000, 1, 0x2000000, 1, 0, 0, 0, 0, 0, 0⟩,
  ⟨"HDG_DROP", 0x600100, 0x2000000, 1, 0x4, 17, 0, 0, 0, 0, 0xFFFFFFFF, 0⟩,
  ⟨"HDG_RSET_CNT", 0x600200, 0x20, 4, 0x4, 8, 0, 0, 0, 0, 0xFFFFFFFF, 0⟩,
  ⟨"HDG_NODE_CFG", 0x600004, 0x2000000, 1, 0x2000000, 1, 0, 0xFFFFFFFF, 0, 0, 0, 0x190003C⟩,
  ⟨"HDG_AUTH_SPLIT", 0x600008, 0x2000000, 1, 0x2000000, 1, 0, 0xF1F, 0, 0, 0, 0x408⟩,
  ⟨"HDG_CAUSE", 0x600010, 0x2000000, 1, 0x2000000, 1, 0, 0, 0x3F, 0, 0, 0⟩,
  ⟨"HDG_ENABLE", 0x600014, 0x2000000, 1, 0x2000000, 1, 0x3F, 0, 0, 0, 0, 0⟩,
  ⟨"HDG_LOCK", 0x600018, 0x2000000, 1, 0x2000000, 1, 0, 0, 0, 0x1, 0, 0⟩,
  ⟨"HDG_ECC_TABLE", 0x60001C, 0x2000000, 1, 0x2000000, 1, 0, 0, 0, 0, 0, 0⟩]

/-- The registers of the CIS window (Table 17-2). -/
def rowsCIS0 : List RegRow := [
  ⟨"CIS_FDB_CMD", 0x700040, 0x2000000, 1, 0x2000000, 1, 0, 0, 0, 0, 0, 0⟩,
  ⟨"CIS_FDB_STAT", 0x700044, 0x2000000, 1, 0x2000000, 1, 0, 0, 0, 0, 0, 0⟩,
  ⟨"CIS_FDB_INDEX", 0x700048, 0x2000000, 1, 0x2000000, 1, 0xFFFF, 0, 0, 0, 0, 0⟩,
  ⟨"CIS_FDB_DATA", 0x700050, 0x2000000, 1, 0x4, 4, 0xFFFFFFFF, 0, 0, 0, 0, 0⟩,
  ⟨"CIS_MCG_CMD", 0x700060, 0x2000000, 1, 0x2000000, 1, 0, 0, 0, 0, 0, 0⟩,
  ⟨"CIS_MCG_DATA", 0x700080, 0x2000000, 1, 0x4, 8, 0xFFFFFFFF, 0, 0, 0, 0, 0⟩,
  ⟨"CIS_DIST_CFG", 0x700200, 0x2000000, 1, 0x20, 8, 0, 0, 0, 0, 0, 0⟩,
  ⟨"CIS_DIST_USED", 0x700204, 0x2000000, 1, 0x20, 8, 0, 0, 0, 0, 0, 0⟩,
  ⟨"CIS_DIST_FREE", 0x700208, 0x2000000, 1, 0x20, 8, 0, 0, 0, 0, 0, 0⟩,
  ⟨"CIS_DIST_STAGE", 0x70020C, 0x2000000, 1, 0x20, 8, 0, 0, 0, 0, 0xFFFF, 0⟩,
  ⟨"CIS_FDB_COUNT", 0x700210, 0x2000000, 1, 0x20, 8, 0, 0, 0, 0, 0, 0⟩,
  ⟨"CIS_FDB_FULL", 0x700214, 0x2000000, 1, 0x20, 8, 0, 0, 0, 0, 0xFFFFFFFF, 0⟩,
  ⟨"CIS_FDB_MOVES", 0x700218, 0x2000000, 1, 0x20, 8, 0, 0, 0, 0, 0xFFFFFFFF, 0⟩,
  ⟨"CIS_DROP", 0x700100, 0x2000000, 1, 0x4, 7, 0, 0, 0, 0, 0xFFFFFFFF, 0⟩,
  ⟨"CIS_WEIR_CLASS", 0x700400, 0x20, 8, 0x4, 8, 0, 0x7, 0, 0, 0, 0⟩,
  ⟨"CIS_SCHED_CLASS", 0x700500, 0x20, 8, 0x4, 8, 0, 0xFFFF00FF, 0, 0, 0, 0⟩,
  ⟨"CIS_SIPH_CTL", 0x700600, 0x2000000, 1, 0x80, 8, 0x7FF70000, 0, 0, 0, 0, 0x40000⟩,
  ⟨"CIS_SIPH_SAMPLE", 0x700604, 0x2000000, 1, 0x80, 8, 0xFFFF3FFF, 0, 0, 0, 0, 0x10000⟩,
  ⟨"CIS_SIPH_COPIES", 0x700608, 0x2000000, 1, 0x80, 8, 0, 0, 0, 0, 0xFFFFFFFF, 0⟩,
  ⟨"CIS_SIPH_REFUSED", 0x70060C, 0x2000000, 1, 0x80, 8, 0, 0, 0, 0, 0xFFFFFFFF, 0⟩,
  ⟨"CIS_SIPH_SRC_IN", 0x700620, 0x80, 8, 0x4, 7, 0xFFFFFFFF, 0, 0, 0, 0, 0⟩,
  ⟨"CIS_SIPH_SRC_OUT", 0x700640, 0x80, 8, 0x4, 7, 0xFFFFFFFF, 0, 0, 0, 0, 0⟩,
  ⟨"CIS_Q_LEN", 0x710000, 0x20, 204, 0x4, 8, 0, 0, 0, 0, 0, 0⟩,
  ⟨"CIS_Q_DROP", 0x720000, 0x20, 204, 0x4, 8, 0, 0, 0, 0, 0xFFFFFFFF, 0⟩,
  ⟨"CIS_PAUSE_TH", 0x730000, 0x2000000, 1, 0x4, 200, 0, 0, 0, 0, 0, 0⟩,
  ⟨"CIS_ING_CELLS", 0x731000, 0x2000000, 1, 0x4, 200, 0, 0, 0, 0, 0, 0⟩,
  ⟨"CIS_CAUSE", 0x700000, 0x2000000, 1, 0x2000000, 1, 0, 0, 0xFF, 0, 0, 0⟩,
  ⟨"CIS_ENABLE", 0x700004, 0x2000000, 1, 0x2000000, 1, 0xFF, 0, 0, 0, 0, 0⟩,
  ⟨"CIS_LOCK", 0x700008, 0x2000000, 1, 0x2000000, 1, 0, 0, 0, 0x1, 0, 0⟩,
  ⟨"CIS_FDB_AGE", 0x70000C, 0x2000000, 1, 0x2000000, 1, 0, 0xFFFF, 0, 0, 0, 0x12C⟩]

/-- The registers of the CIS window, continued. -/
def rowsCIS1 : List RegRow := [
  ⟨"CIS_ECC_CORR", 0x700010, 0x2000000, 1, 0x2000000, 1, 0, 0, 0, 0, 0xFFFFFFFF, 0⟩,
  ⟨"CIS_ECC_THRESH", 0x700014, 0x2000000, 1, 0x2000000, 1, 0xFFFFFFFF, 0, 0, 0, 0, 0x3E8⟩,
  ⟨"CIS_STOMP", 0x700018, 0x2000000, 1, 0x2000000, 1, 0, 0, 0, 0, 0xFFFFFFFF, 0⟩,
  ⟨"CIS_QUAR_COUNT", 0x70001C, 0x2000000, 1, 0x2000000, 1, 0, 0, 0, 0, 0, 0⟩,
  ⟨"CIS_QUAR_LAST", 0x700020, 0x2000000, 1, 0x2000000, 1, 0, 0, 0, 0, 0, 0x1FFFF⟩,
  ⟨"CIS_QUAR_CTL", 0x700024, 0x2000000, 1, 0x2000000, 1, 0, 0, 0, 0, 0, 0⟩]

/-- The registers of the SLU window (Table 17-2). -/
def rowsSLU : List RegRow := [
  ⟨"SLU_INFO", 0x800000, 0x2000000, 1, 0x1000, 115, 0, 0, 0, 0, 0, 0⟩,
  ⟨"SLU_POOL", 0x800004, 0x2000000, 1, 0x1000, 115, 0, 0, 0, 0, 0, 0x40⟩,
  ⟨"SLU_SEED", 0x800008, 0x2000000, 1, 0x1000, 115, 0, 0, 0, 0, 0, 0x1D2B⟩,
  ⟨"SLU_PRIV", 0x800010, 0x1000, 115, 0x4, 4, 0, 0, 0, 0, 0, 0⟩,
  ⟨"SLU_STAT", 0x800020, 0x2000000, 1, 0x1000, 115, 0, 0, 0, 0, 0, 0⟩,
  ⟨"SLU_GRANTS", 0x800100, 0x1000, 115, 0x20, 42, 0, 0, 0, 0, 0xFFFFFFFF, 0⟩,
  ⟨"SLU_WAIT_LO", 0x800104, 0x1000, 115, 0x20, 42, 0, 0, 0, 0, 0xFFFFFFFF, 0⟩,
  ⟨"SLU_WAIT_HI", 0x800108, 0x1000, 115, 0x20, 42, 0, 0, 0, 0, 0, 0⟩,
  ⟨"SLU_LONGEST", 0x80010C, 0x1000, 115, 0x20, 42, 0, 0, 0, 0, 0xFFFF, 0⟩,
  ⟨"SLU_AGE", 0x800110, 0x1000, 115, 0x20, 42, 0, 0, 0, 0, 0, 0⟩,
  ⟨"SLU_CAUSE", 0x8F0000, 0x2000000, 1, 0x2000000, 1, 0, 0, 0x3, 0, 0, 0⟩,
  ⟨"SLU_ENABLE", 0x8F0004, 0x2000000, 1, 0x2000000, 1, 0x3, 0, 0, 0, 0, 0⟩,
  ⟨"SLU_LOCK", 0x8F0008, 0x2000000, 1, 0x2000000, 1, 0, 0, 0, 0x1, 0, 0⟩,
  ⟨"SLU_REFUSED_INST", 0x8F000C, 0x2000000, 1, 0x2000000, 1, 0, 0, 0, 0, 0, 0⟩,
  ⟨"SLU_HALF_INST", 0x8F0010, 0x2000000, 1, 0x2000000, 1, 0, 0, 0, 0, 0, 0⟩]

/-- The registers of the FUR window (Table 17-2). -/
def rowsFUR : List RegRow := [
  ⟨"FUR_CAUSE", 0x900000, 0x2000000, 1, 0x2000000, 1, 0, 0, 0x3FF, 0, 0, 0⟩,
  ⟨"FUR_ENABLE", 0x900004, 0x2000000, 1, 0x2000000, 1, 0x3FF, 0, 0, 0, 0, 0⟩,
  ⟨"FUR_LOCK", 0x900008, 0x2000000, 1, 0x2000000, 1, 0, 0, 0, 0x1, 0, 0⟩,
  ⟨"FUR_EVENT", 0x90000C, 0x2000000, 1, 0x2000000, 1, 0, 0, 0, 0, 0, 0⟩,
  ⟨"FUR_DROP", 0x900100, 0x2000000, 1, 0x4, 13, 0, 0, 0, 0, 0xFFFFFFFF, 0⟩,
  ⟨"FUR_CTL", 0x901000, 0x2000000, 1, 0x100, 4, 0, 0, 0, 0, 0, 0⟩,
  ⟨"FUR_STAT", 0x901004, 0x2000000, 1, 0x100, 4, 0, 0, 0, 0, 0, 0⟩,
  ⟨"FUR_CYCLE", 0x901008, 0x2000000, 1, 0x100, 4, 0, 0, 0, 0, 0, 0⟩,
  ⟨"FUR_EFFECTIVE", 0x90100C, 0x2000000, 1, 0x100, 4, 0, 0, 0, 0, 0, 0⟩,
  ⟨"FUR_MODE_CMD", 0x901010, 0x2000000, 1, 0x100, 4, 0, 0, 0, 0, 0, 0⟩,
  ⟨"FUR_OFFSET", 0x901014, 0x2000000, 1, 0x100, 4, 0, 0, 0, 0, 0, 0⟩,
  ⟨"FUR_START_NS32", 0x901018, 0x2000000, 1, 0x100, 4, 0, 0, 0, 0, 0, 0⟩,
  ⟨"FUR_GUARD", 0x90101C, 0x2000000, 1, 0x100, 4, 0, 0xFFFFFFFF, 0, 0, 0, 0⟩,
  ⟨"FUR_CONTAIN", 0x901020, 0x2000000, 1, 0x100, 4, 0, 0xFFFF, 0, 0, 0, 0⟩,
  ⟨"FUR_CNT", 0x901040, 0x100, 4, 0x4, 10, 0, 0, 0, 0, 0xFFFFFFFF, 0⟩,
  ⟨"FUR_PORT_STAT", 0x904000, 0x2000000, 1, 0x20, 200, 0, 0, 0, 0, 0, 0⟩,
  ⟨"FUR_PORT_CMD", 0x904004, 0x2000000, 1, 0x20, 200, 0, 0, 0, 0, 0, 0⟩,
  ⟨"FUR_PORT_DRIFT", 0x904008, 0x2000000, 1, 0x20, 200, 0, 0, 0, 0, 0xFFFF0000, 0⟩,
  ⟨"FUR_PORT_ADMIT", 0x90400C, 0x2000000, 1, 0x20, 200, 0, 0, 0, 0, 0xFFFFFFFF, 0⟩,
  ⟨"FUR_PORT_VIOL", 0x904010, 0x2000000, 1, 0x20, 200, 0, 0, 0, 0, 0xFFFFFFFF, 0⟩,
  ⟨"FUR_PORT_CONTAINS", 0x904014, 0x2000000, 1, 0x20, 200, 0, 0, 0, 0, 0xFFFFFFFF, 0⟩,
  ⟨"FUR_PORT_LASTV", 0x904018, 0x2000000, 1, 0x20, 200, 0, 0, 0, 0, 0, 0⟩,
  ⟨"FUR_PORT_RELAYED", 0x90401C, 0x2000000, 1, 0x20, 200, 0, 0, 0, 0, 0xFFFFFFFF, 0⟩]

/-- The registers of the CNF window (Table 17-2). -/
def rowsCNF0 : List RegRow := [
  ⟨"CNF_CAUSE", 0xA00000, 0x2000000, 1, 0x2000000, 1, 0, 0, 0x7FF, 0, 0, 0⟩,
  ⟨"CNF_ENABLE", 0xA00004, 0x2000000, 1, 0x2000000, 1, 0x7FF, 0, 0, 0, 0, 0⟩,
  ⟨"CNF_LOCK", 0xA00008, 0x2000000, 1, 0x2000000, 1, 0, 0, 0, 0x1, 0, 0⟩,
  ⟨"CNF_EVENT", 0xA0000C, 0x2000000, 1, 0x2000000, 1, 0, 0, 0, 0, 0, 0⟩,
  ⟨"CNF_ECC_CORR", 0xA00010, 0x2000000, 1, 0x2000000, 1, 0, 0, 0, 0, 0xFFFFFFFF, 0⟩,
  ⟨"CNF_ECC_THRESH", 0xA00014, 0x2000000, 1, 0x2000000, 1, 0xFFFFFFFF, 0, 0, 0, 0, 0x3E8⟩,
  ⟨"CNF_INGEST", 0xA00018, 0x2000000, 1, 0x2000000, 1, 0, 0, 0, 0, 0xFFFF0000, 0⟩,
  ⟨"CNF_LOAD", 0xA0001C, 0x2000000, 1, 0x2000000, 1, 0, 0, 0, 0, 0, 0⟩,
  ⟨"CNF_STORE", 0xA00020, 0x2000000, 1, 0x2000000, 1, 0, 0, 0, 0, 0, 0⟩,
  ⟨"CNF_ROW_LATE", 0xA00024, 0x2000000, 1, 0x2000000, 1, 0, 0, 0, 0, 0xFFFFFFFF, 0⟩,
  ⟨"CNF_BASIN_CTL", 0xA01000, 0x2000000, 1, 0x80, 16, 0, 0, 0, 0, 0, 0⟩,
  ⟨"CNF_BASIN_STAT", 0xA01004, 0x2000000, 1, 0x80, 16, 0, 0, 0, 0, 0, 0⟩,
  ⟨"CNF_BASIN_RATE", 0xA01008, 0x2000000, 1, 0x80, 16, 0, 0, 0, 0, 0, 0⟩,
  ⟨"CNF_BASIN_PERIOD_NS", 0xA0100C, 0x2000000, 1, 0x80, 16, 0, 0, 0, 0, 0, 0⟩,
  ⟨"CNF_BASIN_PERIOD_FRAC", 0xA01010, 0x2000000, 1, 0x80, 16, 0, 0, 0, 0, 0, 0⟩,
  ⟨"CNF_BASIN_LATENCY", 0xA01014, 0x2000000, 1, 0x80, 16, 0, 0, 0, 0, 0, 0⟩,
  ⟨"CNF_BASIN_STREAMS", 0xA01018, 0x2000000, 1, 0x80, 16, 0, 0, 0, 0, 0, 0⟩,
  ⟨"CNF_RING_BASE_LO", 0xA01020, 0x2000000, 1, 0x80, 16, 0, 0, 0, 0, 0, 0⟩,
  ⟨"CNF_RING_BASE_HI", 0xA01024, 0x2000000, 1, 0x80, 16, 0, 0, 0, 0, 0, 0⟩,
  ⟨"CNF_RING_CTL", 0xA01028, 0x2000000, 1, 0x80, 16, 0, 0, 0, 0, 0, 0⟩,
  ⟨"CNF_RING_SLOT_BYTES", 0xA0102C, 0x2000000, 1, 0x80, 16, 0, 0, 0, 0, 0, 0⟩,
  ⟨"CNF_RING_HEAD", 0xA01030, 0x2000000, 1, 0x80, 16, 0xFFFFFFFF, 0, 0, 0, 0, 0⟩,
  ⟨"CNF_ROW_SEQ", 0xA01034, 0x2000000, 1, 0x80, 16, 0, 0, 0, 0, 0, 0⟩,
  ⟨"CNF_ROWS", 0xA01038, 0x2000000, 1, 0x80, 16, 0, 0, 0, 0, 0xFFFFFFFF, 0⟩,
  ⟨"CNF_ROWS_DROPPED", 0xA0103C, 0x2000000, 1, 0x80, 16, 0, 0, 0, 0, 0xFFFFFFFF, 0⟩,
  ⟨"CNF_ROWS_SKIPPED", 0xA01040, 0x2000000, 1, 0x80, 16, 0, 0, 0, 0, 0xFFFFFFFF, 0⟩,
  ⟨"CNF_FILLS", 0xA01044, 0x2000000, 1, 0x80, 16, 0, 0, 0, 0, 0xFFFFFFFF, 0⟩,
  ⟨"CNF_LAST_SEC", 0xA01048, 0x2000000, 1, 0x80, 16, 0, 0, 0, 0, 0, 0⟩,
  ⟨"CNF_LAST_ROW", 0xA0104C, 0x2000000, 1, 0x80, 16, 0, 0, 0, 0, 0, 0⟩,
  ⟨"CNF_STR_CTL", 0xA20000, 0x2000000, 1, 0x80, 1024, 0, 0, 0, 0, 0, 0⟩]

/-- The registers of the CNF window, continued. -/
def rowsCNF1 : List RegRow := [
  ⟨"CNF_STR_STAT", 0xA20004, 0x2000000, 1, 0x80, 1024, 0, 0, 0, 0, 0, 0⟩,
  ⟨"CNF_STR_LAST_NS32", 0xA20008, 0x2000000, 1, 0x80, 1024, 0, 0, 0, 0, 0, 0⟩,
  ⟨"CNF_STR_TRANSIT", 0xA2000C, 0x2000000, 1, 0x80, 1024, 0, 0, 0, 0, 0xFFFFFFFF, 0⟩,
  ⟨"CNF_STR_CNT", 0xA20010, 0x80, 1024, 0x4, 14, 0, 0, 0, 0, 0xFFFFFFFF, 0⟩]

/-- The registers of the PUB window (Table 17-2). -/
def rowsPUB : List RegRow := [
  ⟨"PUB_CAUSE", 0xB00000, 0x2000000, 1, 0x2000000, 1, 0, 0, 0x1FF, 0, 0, 0⟩,
  ⟨"PUB_ENABLE", 0xB00004, 0x2000000, 1, 0x2000000, 1, 0x1FF, 0, 0, 0, 0, 0⟩,
  ⟨"PUB_LOCK", 0xB00008, 0x2000000, 1, 0x2000000, 1, 0, 0, 0, 0x1, 0, 0⟩,
  ⟨"PUB_EVENT", 0xB0000C, 0x2000000, 1, 0x2000000, 1, 0, 0, 0, 0, 0, 0⟩,
  ⟨"PUB_UTC_OFFSET", 0xB00010, 0x2000000, 1, 0x2000000, 1, 0xFFFFFFFF, 0, 0, 0, 0, 0⟩,
  ⟨"PUB_TIMEQ", 0xB00014, 0x2000000, 1, 0x2000000, 1, 0, 0x9F, 0, 0, 0, 0x1F⟩,
  ⟨"PUB_ECC_CORR", 0xB00018, 0x2000000, 1, 0x2000000, 1, 0, 0, 0, 0, 0xFFFFFFFF, 0⟩,
  ⟨"PUB_ECC_THRESH", 0xB0001C, 0x2000000, 1, 0x2000000, 1, 0xFFFFFFFF, 0, 0, 0, 0, 0x3E8⟩,
  ⟨"PUB_UPD_W1", 0xB00020, 0x2000000, 1, 0x2000000, 1, 0xFFFF, 0, 0, 0, 0, 0⟩,
  ⟨"PUB_UPD_W2", 0xB00024, 0x2000000, 1, 0x2000000, 1, 0xFFFFFFFF, 0, 0, 0, 0, 0⟩,
  ⟨"PUB_UPD_W0", 0xB00028, 0x2000000, 1, 0x2000000, 1, 0, 0, 0, 0, 0, 0⟩,
  ⟨"PUB_UPD_STAT", 0xB0002C, 0x2000000, 1, 0x2000000, 1, 0, 0, 0, 0, 0, 0⟩,
  ⟨"PUB_EVR_BASE_LO", 0xB00100, 0x2000000, 1, 0x20, 4, 0xFFFFFFC0, 0, 0, 0, 0, 0⟩,
  ⟨"PUB_EVR_BASE_HI", 0xB00104, 0x2000000, 1, 0x20, 4, 0xFFFFFFFF, 0, 0, 0, 0, 0⟩,
  ⟨"PUB_EVR_CTL", 0xB00108, 0x2000000, 1, 0x20, 4, 0x8FFFFFFF, 0, 0, 0, 0, 0⟩,
  ⟨"PUB_EVR_HEAD", 0xB0010C, 0x2000000, 1, 0x20, 4, 0xFFFFFFFF, 0, 0, 0, 0, 0⟩,
  ⟨"PUB_EVR_SEQ", 0xB00110, 0x2000000, 1, 0x20, 4, 0, 0, 0, 0, 0, 0⟩,
  ⟨"PUB_CNT", 0xB00200, 0x2000000, 1, 0x4, 19, 0, 0, 0, 0, 0xFFFFFFFF, 0⟩,
  ⟨"PUB_GP_STAT", 0xB01000, 0x2000000, 1, 0x10, 512, 0x80000000, 0, 0, 0, 0, 0⟩,
  ⟨"PUB_GP_STNUM", 0xB01004, 0x2000000, 1, 0x10, 512, 0, 0, 0, 0, 0, 0⟩,
  ⟨"PUB_GP_SQNUM", 0xB01008, 0x2000000, 1, 0x10, 512, 0, 0, 0, 0, 0, 0⟩,
  ⟨"PUB_GP_DIGEST", 0xB0100C, 0x2000000, 1, 0x10, 512, 0, 0, 0, 0, 0, 0⟩,
  ⟨"PUB_SV_STAT", 0xB03000, 0x2000000, 1, 0x10, 64, 0x80000000, 0, 0, 0, 0, 0⟩,
  ⟨"PUB_SV_FRAMES", 0xB03004, 0x2000000, 1, 0x10, 64, 0, 0, 0, 0, 0xFFFFFFFF, 0⟩,
  ⟨"PUB_SV_MISSED", 0xB03008, 0x2000000, 1, 0x10, 64, 0, 0, 0, 0, 0xFFFFFFFF, 0⟩,
  ⟨"PUB_SUB_STAT", 0xB20000, 0x2000000, 1, 0x10, 8192, 0, 0, 0, 0, 0, 0⟩,
  ⟨"PUB_SUB_STNUM", 0xB20004, 0x2000000, 1, 0x10, 8192, 0, 0, 0, 0, 0, 0⟩,
  ⟨"PUB_SUB_SQNUM", 0xB20008, 0x2000000, 1, 0x10, 8192, 0, 0, 0, 0, 0, 0⟩,
  ⟨"PUB_SUB_DEADLINE", 0xB2000C, 0x2000000, 1, 0x10, 8192, 0, 0, 0, 0, 0, 0⟩]

/-- The registers of the KRN window (Table 17-2). -/
def rowsKRN : List RegRow := [
  ⟨"KRN_CAUSE", 0xC00000, 0x2000000, 1, 0x2000000, 1, 0, 0, 0x3FF, 0, 0, 0⟩,
  ⟨"KRN_ENABLE", 0xC00004, 0x2000000, 1, 0x2000000, 1, 0x3FF, 0, 0, 0, 0, 0⟩,
  ⟨"KRN_LOCK", 0xC00008, 0x2000000, 1, 0x2000000, 1, 0, 0, 0, 0x1, 0, 0⟩,
  ⟨"KRN_EVENT", 0xC0000C, 0x2000000, 1, 0x2000000, 1, 0, 0, 0, 0, 0, 0⟩,
  ⟨"KRN_ECC_CORR", 0xC00010, 0x2000000, 1, 0x2000000, 1, 0, 0, 0, 0, 0xFFFFFFFF, 0⟩,
  ⟨"KRN_ECC_THRESH", 0xC00014, 0x2000000, 1, 0x2000000, 1, 0xFFFFFFFF, 0, 0, 0, 0, 0x3E8⟩,
  ⟨"KRN_ENG_CTL", 0xC01000, 0x2000000, 1, 0x100, 32, 0, 0, 0, 0, 0, 0⟩,
  ⟨"KRN_ENG_STAT", 0xC01004, 0x2000000, 1, 0x100, 32, 0, 0, 0, 0, 0, 0⟩,
  ⟨"KRN_ENG_START", 0xC01008, 0x2000000, 1, 0x100, 32, 0, 0, 0, 0, 0, 0⟩,
  ⟨"KRN_EVQ", 0xC0100C, 0x2000000, 1, 0x100, 32, 0, 0, 0, 0, 0xFFFF0000, 0⟩,
  ⟨"KRN_TIMERS", 0xC01010, 0x2000000, 1, 0x100, 32, 0, 0, 0, 0, 0xFFFF0000, 0⟩,
  ⟨"KRN_HWIN_LO", 0xC01014, 0x2000000, 1, 0x100, 32, 0xFFF00000, 0, 0, 0, 0, 0⟩,
  ⟨"KRN_HWIN_HI", 0xC01018, 0x2000000, 1, 0x100, 32, 0xFFFFFFFF, 0, 0, 0, 0, 0⟩,
  ⟨"KRN_HWIN_CTL", 0xC0101C, 0x2000000, 1, 0x100, 32, 0xB0000000, 0, 0, 0, 0, 0⟩,
  ⟨"KRN_FAULT", 0xC01020, 0x2000000, 1, 0x100, 32, 0, 0, 0, 0, 0, 0⟩,
  ⟨"KRN_FAULT_PC", 0xC01024, 0x2000000, 1, 0x100, 32, 0, 0, 0, 0, 0, 0⟩,
  ⟨"KRN_WDOG", 0xC01028, 0x2000000, 1, 0x100, 32, 0, 0xFFFFFFFF, 0, 0, 0, 0⟩,
  ⟨"KRN_CNT", 0xC01040, 0x100, 32, 0x4, 14, 0, 0, 0, 0, 0xFFFFFFFF, 0⟩,
  ⟨"KRN_THR", 0xC01080, 0x100, 32, 0x4, 16, 0, 0, 0, 0, 0, 0⟩]

/-- The registers of the RDR window (Table 17-2). -/
def rowsRDR : List RegRow := [
  ⟨"RDR_CAUSE", 0xD00000, 0x2000000, 1, 0x2000000, 1, 0, 0, 0x1FF, 0, 0, 0⟩,
  ⟨"RDR_ENABLE", 0xD00004, 0x2000000, 1, 0x2000000, 1, 0x1FF, 0, 0, 0, 0, 0⟩,
  ⟨"RDR_LOCK", 0xD00008, 0x2000000, 1, 0x2000000, 1, 0, 0, 0, 0x1, 0, 0⟩,
  ⟨"RDR_EVENT", 0xD0000C, 0x2000000, 1, 0x2000000, 1, 0, 0, 0, 0, 0, 0⟩,
  ⟨"RDR_POLICY", 0xD00010, 0x2000000, 1, 0x2000000, 1, 0, 0x100, 0, 0, 0, 0⟩,
  ⟨"RDR_SLOTS", 0xD00014, 0x2000000, 1, 0x2000000, 1, 0, 0, 0, 0, 0, 0x1000⟩,
  ⟨"RDR_ECC_CORR", 0xD00018, 0x2000000, 1, 0x2000000, 1, 0, 0, 0, 0, 0xFFFFFFFF, 0⟩,
  ⟨"RDR_ECC_THRESH", 0xD0001C, 0x2000000, 1, 0x2000000, 1, 0xFFFFFFFF, 0, 0, 0, 0, 0x3E8⟩,
  ⟨"RDR_HOME_LO", 0xD00020, 0x2000000, 1, 0x2000000, 1, 0xFFFFFFC0, 0, 0, 0, 0, 0⟩,
  ⟨"RDR_HOME_HI", 0xD00024, 0x2000000, 1, 0x2000000, 1, 0xFFFFFFFF, 0, 0, 0, 0, 0⟩,
  ⟨"RDR_HOME_CTL", 0xD00028, 0x2000000, 1, 0x2000000, 1, 0xB0000000, 0, 0, 0, 0, 0⟩,
  ⟨"RDR_JNL_BASE_LO", 0xD00030, 0x2000000, 1, 0x2000000, 1, 0xFFFFFFC0, 0, 0, 0, 0, 0⟩,
  ⟨"RDR_JNL_BASE_HI", 0xD00034, 0x2000000, 1, 0x2000000, 1, 0xFFFFFFFF, 0, 0, 0, 0, 0⟩,
  ⟨"RDR_JNL_CTL", 0xD00038, 0x2000000, 1, 0x2000000, 1, 0xBFFFFFFF, 0, 0, 0, 0, 0⟩,
  ⟨"RDR_JNL_HEAD", 0xD0003C, 0x2000000, 1, 0x2000000, 1, 0xFFFFFFFF, 0, 0, 0, 0, 0⟩,
  ⟨"RDR_JNL_SEQ", 0xD00040, 0x2000000, 1, 0x2000000, 1, 0, 0, 0, 0, 0, 0⟩,
  ⟨"RDR_CMD", 0xD00050, 0x2000000, 1, 0x2000000, 1, 0, 0, 0, 0, 0, 0⟩,
  ⟨"RDR_CMD_ARG", 0xD00054, 0x2000000, 1, 0x4, 3, 0xFFFFFFFF, 0, 0, 0, 0, 0⟩,
  ⟨"RDR_CMD_STAT", 0xD00060, 0x2000000, 1, 0x2000000, 1, 0, 0, 0, 0, 0, 0⟩,
  ⟨"RDR_CMD_RESULT", 0xD00064, 0x2000000, 1, 0x2000000, 1, 0, 0, 0, 0, 0, 0⟩,
  ⟨"RDR_ENG_LOAD", 0xD00100, 0x2000000, 1, 0x4, 32, 0, 0, 0, 0, 0, 0⟩,
  ⟨"RDR_CNT", 0xD00200, 0x2000000, 1, 0x4, 15, 0, 0, 0, 0, 0xFFFFFFFF, 0⟩]

/-- The registers of the TNK window (Table 17-2). -/
def rowsTNK0 : List RegRow := [
  ⟨"TNK_CAUSE", 0xE00000, 0x2000000, 1, 0x2000000, 1, 0, 0, 0xFF, 0, 0, 0⟩,
  ⟨"TNK_ENABLE", 0xE00004, 0x2000000, 1, 0x2000000, 1, 0xFF, 0, 0, 0, 0, 0⟩,
  ⟨"TNK_LOCK", 0xE00008, 0x2000000, 1, 0x2000000, 1, 0, 0, 0, 0x1, 0, 0⟩,
  ⟨"TNK_HOST_RIGHTS", 0xE0000C, 0x2000000, 1, 0x2000000, 1, 0, 0xF, 0, 0, 0, 0x1⟩,
  ⟨"TNK_LEASE", 0xE00010, 0x2000000, 1, 0x2000000, 1, 0, 0, 0, 0, 0, 0⟩,
  ⟨"TNK_LEASE_STAT", 0xE00014, 0x2000000, 1, 0x2000000, 1, 0, 0, 0, 0, 0, 0⟩,
  ⟨"TNK_ECC_CORR", 0xE00018, 0x2000000, 1, 0x2000000, 1, 0, 0, 0, 0, 0xFFFFFFFF, 0⟩,
  ⟨"TNK_ECC_THRESH", 0xE0001C, 0x2000000, 1, 0x2000000, 1, 0xFFFFFFFF, 0, 0, 0, 0, 0x3E8⟩,
  ⟨"TNK_POISON_COUNT", 0xE00020, 0x2000000, 1, 0x2000000, 1, 0, 0, 0, 0, 0, 0⟩,
  ⟨"TNK_POISON_LAST", 0xE00024, 0x2000000, 1, 0x2000000, 1, 0, 0, 0, 0, 0, 0⟩,
  ⟨"TNK_REFUSED_LAST", 0xE00028, 0x2000000, 1, 0x2000000, 1, 0, 0, 0, 0, 0, 0⟩,
  ⟨"TNK_LK_FORCE", 0xE0002C, 0x2000000, 1, 0x2000000, 1, 0, 0, 0, 0, 0, 0⟩,
  ⟨"TNK_LK_EVENT", 0xE00030, 0x2000000, 1, 0x2000000, 1, 0, 0, 0, 0, 0, 0⟩,
  ⟨"TNK_LK_FOREIGN", 0xE00034, 0x2000000, 1, 0x2000000, 1, 0, 0, 0, 0, 0xFFFFFFFF, 0⟩,
  ⟨"TNK_BANK", 0xE00100, 0x2000000, 1, 0x4, 64, 0, 0, 0, 0, 0, 0x3F00⟩,
  ⟨"TNK_LK", 0xE01000, 0x2000000, 1, 0x4, 256, 0, 0, 0, 0, 0, 0⟩,
  ⟨"TNK_LK_OWNER", 0xE01400, 0x2000000, 1, 0x4, 256, 0, 0, 0, 0, 0, 0⟩,
  ⟨"TNK_REGION_BASE", 0xE02000, 0x80, 42, 0x10, 8, 0, 0x3FFFF8, 0, 0, 0, 0⟩,
  ⟨"TNK_REGION_LAST", 0xE02004, 0x80, 42, 0x10, 8, 0, 0x3FFFF8, 0, 0, 0, 0⟩,
  ⟨"TNK_REGION_CTL", 0xE02008, 0x80, 42, 0x10, 8, 0, 0x3, 0, 0, 0, 0⟩,
  ⟨"TNK_CONFLICT", 0xE04000, 0x2000000, 1, 0x4, 42, 0, 0, 0, 0, 0xFFFFFFFF, 0⟩,
  ⟨"TNK_REFUSED", 0xE04100, 0x2000000, 1, 0x4, 42, 0, 0, 0, 0, 0xFFFFFFFF, 0⟩,
  ⟨"MBX_CAUSE", 0xE08000, 0x2000000, 1, 0x2000000, 1, 0, 0, 0x7, 0, 0, 0⟩,
  ⟨"MBX_ENABLE", 0xE08004, 0x2000000, 1, 0x2000000, 1, 0x7, 0, 0, 0, 0, 0⟩,
  ⟨"MBX_EVENT", 0xE08008, 0x2000000, 1, 0x2000000, 1, 0, 0, 0, 0, 0, 0⟩,
  ⟨"MBX_HOST_VEC", 0xE08010, 0x2000000, 1, 0x4, 4, 0xFFFF, 0, 0, 0, 0, 0⟩,
  ⟨"MBX_RX_PEND_LO", 0xE08020, 0x2000000, 1, 0x8, 4, 0, 0, 0xFFFFFFFF, 0, 0, 0⟩,
  ⟨"MBX_RX_PEND_HI", 0xE08024, 0x2000000, 1, 0x8, 4, 0, 0, 0xFFFFFFFF, 0, 0, 0⟩,
  ⟨"MBX_ACK_PEND_LO", 0xE08040, 0x2000000, 1, 0x8, 4, 0, 0, 0xFFFFFFFF, 0, 0, 0⟩,
  ⟨"MBX_ACK_PEND_HI", 0xE08044, 0x2000000, 1, 0x8, 4, 0, 0, 0xFFFFFFFF, 0, 0, 0⟩]

/-- The registers of the TNK window, continued. -/
def rowsTNK1 : List RegRow := [
  ⟨"MBX_BIND", 0xE08100, 0x2000000, 1, 0x4, 64, 0, 0, 0, 0, 0, 0x3F3F⟩,
  ⟨"MBX_CH_STAT", 0xE08200, 0x2000000, 1, 0x4, 64, 0, 0, 0, 0, 0, 0⟩,
  ⟨"MBX_CNT", 0xE08300, 0x2000000, 1, 0x4, 6, 0, 0, 0, 0, 0xFFFFFFFF, 0⟩]

/-- The registers of the FLM window (Table 17-2). -/
def rowsFLM0 : List RegRow := [
  ⟨"FLM_CAUSE", 0xF04000, 0x2000000, 1, 0x2000000, 1, 0, 0, 0x7FF, 0, 0, 0⟩,
  ⟨"FLM_ENABLE", 0xF04004, 0x2000000, 1, 0x2000000, 1, 0x7FF, 0, 0, 0, 0, 0⟩,
  ⟨"FLM_LOCK", 0xF04008, 0x2000000, 1, 0x2000000, 1, 0, 0, 0, 0x1, 0, 0⟩,
  ⟨"FLM_EVENT", 0xF0400C, 0x2000000, 1, 0x2000000, 1, 0, 0, 0, 0, 0, 0⟩,
  ⟨"FLM_FLAG_SET", 0xF04010, 0x2000000, 1, 0x2000000, 1, 0, 0, 0, 0, 0, 0⟩,
  ⟨"FLM_FLAG_CLR", 0xF04014, 0x2000000, 1, 0x2000000, 1, 0, 0, 0, 0, 0, 0⟩,
  ⟨"FLM_FLAG_IRQ", 0xF04018, 0x2000000, 1, 0x2000000, 1, 0xFFFFFFFF, 0, 0, 0, 0, 0⟩,
  ⟨"FLM_FLAG_EVENT", 0xF0401C, 0x2000000, 1, 0x2000000, 1, 0, 0, 0xFFFFFFFF, 0, 0, 0⟩,
  ⟨"FLM_BANK_STAT", 0xF04020, 0x2000000, 1, 0x2000000, 1, 0, 0, 0, 0, 0, 0⟩,
  ⟨"FLM_PIN_IN_LO", 0xF04024, 0x2000000, 1, 0x2000000, 1, 0, 0, 0, 0, 0, 0⟩,
  ⟨"FLM_PIN_IN_HI", 0xF04028, 0x2000000, 1, 0x2000000, 1, 0, 0, 0, 0, 0, 0⟩,
  ⟨"FLM_ECC_CORR", 0xF0402C, 0x2000000, 1, 0x2000000, 1, 0, 0, 0, 0, 0xFFFFFFFF, 0⟩,
  ⟨"FLM_ECC_THRESH", 0xF04030, 0x2000000, 1, 0x2000000, 1, 0xFFFFFFFF, 0, 0, 0, 0, 0x3E8⟩,
  ⟨"FLM_PIN_CFG", 0xF04100, 0x2000000, 1, 0x4, 64, 0, 0, 0, 0, 0, 0xFF000000⟩,
  ⟨"FLM_ENG_CTL", 0xF08000, 0x2000000, 1, 0x100, 48, 0, 0, 0, 0, 0, 0⟩,
  ⟨"FLM_ENG_STAT", 0xF08004, 0x2000000, 1, 0x100, 48, 0, 0, 0x3000000, 0, 0, 0⟩,
  ⟨"FLM_ENG_MATCH", 0xF08008, 0x2000000, 1, 0x100, 48, 0xFFFFFFFF, 0, 0, 0, 0, 0⟩,
  ⟨"FLM_ENG_CLK", 0xF0800C, 0x2000000, 1, 0x100, 48, 0, 0, 0, 0, 0, 0x10000⟩,
  ⟨"FLM_ENG_SHIFT", 0xF08010, 0x2000000, 1, 0x100, 48, 0, 0, 0, 0, 0, 0x20200000⟩,
  ⟨"FLM_ENG_PINS", 0xF08014, 0x2000000, 1, 0x100, 48, 0, 0, 0, 0, 0, 0⟩,
  ⟨"FLM_ENG_K01", 0xF08018, 0x2000000, 1, 0x100, 48, 0, 0, 0, 0, 0, 0⟩,
  ⟨"FLM_ENG_K23", 0xF0801C, 0x2000000, 1, 0x100, 48, 0, 0, 0, 0, 0, 0⟩,
  ⟨"FLM_ENG_SL", 0xF08020, 0x2000000, 1, 0x100, 48, 0, 0, 0, 0, 0, 0⟩,
  ⟨"FLM_ENG_RL", 0xF08024, 0x2000000, 1, 0x100, 48, 0, 0, 0, 0, 0, 0⟩,
  ⟨"FLM_ENG_EDGE", 0xF08028, 0x2000000, 1, 0x100, 48, 0, 0, 0, 0, 0, 0⟩,
  ⟨"FLM_ENG_FAULT", 0xF0802C, 0x2000000, 1, 0x100, 48, 0, 0, 0, 0, 0, 0⟩,
  ⟨"FLM_TXQ", 0xF08030, 0x2000000, 1, 0x100, 48, 0, 0, 0, 0, 0, 0⟩,
  ⟨"FLM_RXQ", 0xF08034, 0x2000000, 1, 0x100, 48, 0, 0, 0, 0, 0, 0⟩,
  ⟨"FLM_Q_STAT", 0xF08038, 0x2000000, 1, 0x100, 48, 0, 0, 0, 0, 0, 0⟩,
  ⟨"FLM_ENG_MARK", 0xF0803C, 0x2000000, 1, 0x100, 48, 0, 0, 0, 0, 0, 0⟩]

/-- The registers of the FLM window, continued. -/
def rowsFLM1 : List RegRow := [
  ⟨"FLM_DMA_TX", 0xF08040, 0x2000000, 1, 0x100, 48, 0, 0, 0, 0, 0, 0⟩,
  ⟨"FLM_DMA_RX", 0xF08044, 0x2000000, 1, 0x100, 48, 0, 0, 0, 0, 0, 0⟩,
  ⟨"FLM_DMA_CTL", 0xF08048, 0x2000000, 1, 0x100, 48, 0, 0, 0, 0, 0, 0⟩,
  ⟨"FLM_ENG_CNT", 0xF08060, 0x100, 48, 0x4, 6, 0, 0, 0, 0, 0xFFFFFFFF, 0⟩,
  ⟨"FLM_PROG", 0xF0C000, 0x80, 48, 0x4, 32, 0, 0, 0, 0, 0, 0⟩]

/-- The registers of the HST window (Table 17-2). -/
def rowsHST0 : List RegRow := [
  ⟨"HST_CAUSE", 0x1000000, 0x2000000, 1, 0x2000000, 1, 0, 0, 0x7F, 0, 0, 0⟩,
  ⟨"HST_ENABLE", 0x1000004, 0x2000000, 1, 0x2000000, 1, 0x7F, 0, 0, 0, 0, 0⟩,
  ⟨"HST_LOCK", 0x1000008, 0x2000000, 1, 0x2000000, 1, 0, 0, 0, 0x1, 0, 0⟩,
  ⟨"HST_EVENT", 0x100000C, 0x2000000, 1, 0x2000000, 1, 0, 0, 0, 0, 0, 0⟩,
  ⟨"HST_BLK_IRQ", 0x1000010, 0x2000000, 1, 0x2000000, 1, 0, 0xB0FF0000, 0, 0, 0, 0⟩,
  ⟨"HST_FATAL", 0x1000014, 0x2000000, 1, 0x2000000, 1, 0, 0, 0, 0, 0, 0⟩,
  ⟨"HST_LINK", 0x1000018, 0x2000000, 1, 0x2000000, 1, 0, 0, 0, 0, 0, 0⟩,
  ⟨"HST_RESYNC", 0x1000020, 0x2000000, 1, 0x2000000, 1, 0, 0, 0, 0, 0, 0⟩,
  ⟨"HST_RESYNC_ADDR_LO", 0x1000024, 0x2000000, 1, 0x2000000, 1, 0xFFFFFFC0, 0, 0, 0, 0, 0⟩,
  ⟨"HST_RESYNC_ADDR_HI", 0x1000028, 0x2000000, 1, 0x2000000, 1, 0xFFFFFFFF, 0, 0, 0, 0, 0⟩,
  ⟨"HST_RESYNC_NONCE_LO", 0x100002C, 0x2000000, 1, 0x2000000, 1, 0xFFFFFFFF, 0, 0, 0, 0, 0⟩,
  ⟨"HST_RESYNC_NONCE_HI", 0x1000030, 0x2000000, 1, 0x2000000, 1, 0xFFFFFFFF, 0, 0, 0, 0, 0⟩,
  ⟨"HST_RESYNC_STATUS", 0x1000034, 0x2000000, 1, 0x2000000, 1, 0, 0, 0, 0, 0, 0⟩,
  ⟨"HST_SQ_BASE_LO", 0x1010000, 0x2000000, 1, 0x40, 4, 0xFFFFFFC0, 0, 0, 0, 0, 0⟩,
  ⟨"HST_SQ_BASE_HI", 0x1010004, 0x2000000, 1, 0x40, 4, 0xFFFFFFFF, 0, 0, 0, 0, 0⟩,
  ⟨"HST_SQ_CTL", 0x1010008, 0x2000000, 1, 0x40, 4, 0xF000003, 0, 0, 0, 0, 0⟩,
  ⟨"HST_SQ_DOORBELL", 0x101000C, 0x2000000, 1, 0x40, 4, 0, 0, 0, 0, 0, 0⟩,
  ⟨"HST_SQ_COUNT", 0x1010010, 0x2000000, 1, 0x40, 4, 0, 0, 0, 0, 0, 0⟩,
  ⟨"HST_CQ_BASE_LO", 0x1010100, 0x2000000, 1, 0x40, 4, 0xFFFFFFC0, 0, 0, 0, 0, 0⟩,
  ⟨"HST_CQ_BASE_HI", 0x1010104, 0x2000000, 1, 0x40, 4, 0xFFFFFFFF, 0, 0, 0, 0, 0⟩,
  ⟨"HST_CQ_CTL", 0x1010108, 0x2000000, 1, 0x40, 4, 0xFFFFFFF, 0, 0, 0, 0, 0⟩,
  ⟨"HST_CQ_DOORBELL", 0x101010C, 0x2000000, 1, 0x40, 4, 0, 0, 0, 0, 0, 0⟩,
  ⟨"HST_CQ_COUNT", 0x1010110, 0x2000000, 1, 0x40, 4, 0, 0, 0, 0, 0, 0⟩,
  ⟨"HST_TX_BASE_LO", 0x1010200, 0x2000000, 1, 0x40, 8, 0xFFFFFFC0, 0, 0, 0, 0, 0⟩,
  ⟨"HST_TX_BASE_HI", 0x1010204, 0x2000000, 1, 0x40, 8, 0xFFFFFFFF, 0, 0, 0, 0, 0⟩,
  ⟨"HST_TX_CTL", 0x1010208, 0x2000000, 1, 0x40, 8, 0xF000003, 0, 0, 0, 0, 0⟩,
  ⟨"HST_TX_DOORBELL", 0x101020C, 0x2000000, 1, 0x40, 8, 0, 0, 0, 0, 0, 0⟩,
  ⟨"HST_TX_COUNT", 0x1010210, 0x2000000, 1, 0x40, 8, 0, 0, 0, 0, 0, 0⟩,
  ⟨"HST_RX_BASE_LO", 0x1010400, 0x2000000, 1, 0x40, 8, 0xFFFFFFC0, 0, 0, 0, 0, 0⟩,
  ⟨"HST_RX_BASE_HI", 0x1010404, 0x2000000, 1, 0x40, 8, 0xFFFFFFFF, 0, 0, 0, 0, 0⟩]

/-- The registers of the HST window, continued. -/
def rowsHST1 : List RegRow := [
  ⟨"HST_RX_CTL", 0x1010408, 0x2000000, 1, 0x40, 8, 0xF000003, 0, 0, 0, 0, 0⟩,
  ⟨"HST_RX_DOORBELL", 0x101040C, 0x2000000, 1, 0x40, 8, 0, 0, 0, 0, 0, 0⟩,
  ⟨"HST_RX_COUNT", 0x1010410, 0x2000000, 1, 0x40, 8, 0, 0, 0, 0, 0, 0⟩,
  ⟨"HST_RX_BUF", 0x1010414, 0x2000000, 1, 0x40, 8, 0x3FFF, 0, 0, 0, 0, 0x800⟩,
  ⟨"HST_IRQ_PEND", 0x1010800, 0x2000000, 1, 0x4, 8, 0, 0, 0xFFFFFFFF, 0, 0, 0⟩,
  ⟨"HST_IRQ_CTL", 0x1010820, 0x2000000, 1, 0x2000000, 1, 0x1, 0, 0, 0, 0, 0⟩,
  ⟨"HST_FCNT", 0x1010900, 0x2000000, 1, 0x4, 8, 0, 0, 0, 0, 0xFFFFFFFF, 0⟩,
  ⟨"MSIX_ADDR_LO", 0x10F0000, 0x2000000, 1, 0x10, 256, 0xFFFFFFFC, 0, 0, 0, 0, 0⟩,
  ⟨"MSIX_ADDR_HI", 0x10F0004, 0x2000000, 1, 0x10, 256, 0xFFFFFFFF, 0, 0, 0, 0, 0⟩,
  ⟨"MSIX_DATA", 0x10F0008, 0x2000000, 1, 0x10, 256, 0xFFFFFFFF, 0, 0, 0, 0, 0⟩,
  ⟨"MSIX_CTL", 0x10F000C, 0x2000000, 1, 0x10, 256, 0x1, 0, 0, 0, 0, 0x1⟩,
  ⟨"MSIX_PBA", 0x10F1000, 0x2000000, 1, 0x4, 8, 0, 0, 0, 0, 0, 0⟩]

/-- The registers of the CUL window (Table 17-2). -/
def rowsCUL : List RegRow := [
  ⟨"CUL_CAUSE", 0x1100000, 0x2000000, 1, 0x2000000, 1, 0, 0, 0xFFF, 0, 0, 0⟩,
  ⟨"CUL_ENABLE", 0x1100004, 0x2000000, 1, 0x2000000, 1, 0xFFF, 0, 0, 0, 0, 0⟩,
  ⟨"CUL_LOCK", 0x1100008, 0x2000000, 1, 0x2000000, 1, 0, 0, 0, 0x1, 0, 0⟩,
  ⟨"CUL_CTL", 0x110000C, 0x2000000, 1, 0x2000000, 1, 0x2, 0x3FF0001, 0, 0, 0, 0x140001⟩,
  ⟨"CUL_CMD", 0x1100010, 0x2000000, 1, 0x2000000, 1, 0, 0, 0, 0, 0, 0⟩,
  ⟨"CUL_CMD_STAT", 0x1100014, 0x2000000, 1, 0x2000000, 1, 0, 0, 0, 0, 0, 0⟩,
  ⟨"CUL_STAT", 0x1100018, 0x2000000, 1, 0x2000000, 1, 0, 0, 0, 0, 0, 0x70⟩,
  ⟨"CUL_EPOCH", 0x110001C, 0x2000000, 1, 0x2000000, 1, 0, 0, 0, 0, 0, 0⟩,
  ⟨"CUL_EPOCH_SEEN", 0x1100020, 0x2000000, 1, 0x2000000, 1, 0, 0, 0, 0, 0, 0⟩,
  ⟨"CUL_PARTNER_EPOCH", 0x1100024, 0x2000000, 1, 0x2000000, 1, 0, 0, 0, 0, 0, 0⟩,
  ⟨"CUL_TIME_DIFF", 0x1100028, 0x2000000, 1, 0x2000000, 1, 0, 0, 0, 0, 0, 0⟩,
  ⟨"CUL_HB_AGE", 0x110002C, 0x2000000, 1, 0x2000000, 1, 0, 0, 0, 0, 0, 0xFFFF⟩,
  ⟨"CUL_SETTLE", 0x1100030, 0x2000000, 1, 0x2000000, 1, 0, 0, 0, 0, 0, 0⟩,
  ⟨"CUL_PEER_TANK", 0x1100034, 0x2000000, 1, 0x2000000, 1, 0x803FFFF8, 0, 0, 0, 0, 0⟩,
  ⟨"CUL_PEER_TIME_FRAC", 0x1100038, 0x2000000, 1, 0x2000000, 1, 0, 0, 0, 0, 0, 0⟩,
  ⟨"CUL_PEER_TIME", 0x110003C, 0x2000000, 1, 0x2000000, 1, 0, 0, 0, 0, 0, 0⟩,
  ⟨"CUL_MIRROR_STAT", 0x1100040, 0x2000000, 1, 0x2000000, 1, 0, 0, 0, 0, 0, 0⟩,
  ⟨"CUL_PARTNER_ID", 0x1100080, 0x2000000, 1, 0x4, 8, 0, 0, 0, 0, 0, 0⟩,
  ⟨"CUL_CNT", 0x1100100, 0x2000000, 1, 0x4, 14, 0, 0, 0, 0, 0xFFFFFFFF, 0⟩]

/-- The registers of the FRZ window (Table 17-2). -/
def rowsFRZ : List RegRow := [
  ⟨"FRZ_CTL", 0x1200000, 0x2000000, 1, 0x2000000, 1, 0, 0x2, 0, 0, 0, 0⟩,
  ⟨"FRZ_ARM", 0x1200004, 0x2000000, 1, 0x2000000, 1, 0, 0x7, 0, 0, 0, 0⟩,
  ⟨"FRZ_AUTOTHAW", 0x1200008, 0x2000000, 1, 0x2000000, 1, 0, 0xFFFF, 0, 0, 0, 0⟩,
  ⟨"FRZ_STAT", 0x120000C, 0x2000000, 1, 0x2000000, 1, 0, 0, 0, 0, 0, 0⟩,
  ⟨"FRZ_DURATION", 0x1200010, 0x2000000, 1, 0x2000000, 1, 0, 0, 0, 0, 0, 0⟩,
  ⟨"FRZ_CAUSE", 0x1200014, 0x2000000, 1, 0x2000000, 1, 0, 0, 0x3, 0, 0, 0⟩,
  ⟨"FRZ_ENABLE", 0x1200018, 0x2000000, 1, 0x2000000, 1, 0x3, 0, 0, 0, 0, 0⟩,
  ⟨"FRZ_LOCK", 0x120001C, 0x2000000, 1, 0x2000000, 1, 0, 0, 0, 0x3, 0, 0⟩,
  ⟨"SEN_STAT", 0x1201000, 0x2000000, 1, 0x2000000, 1, 0, 0, 0, 0, 0, 0⟩,
  ⟨"SEN_CMD", 0x1201004, 0x2000000, 1, 0x2000000, 1, 0, 0, 0, 0, 0, 0⟩,
  ⟨"SEN_CMD_STAT", 0x1201008, 0x2000000, 1, 0x2000000, 1, 0, 0, 0, 0, 0, 0⟩,
  ⟨"SEN_TAMPER_CFG", 0x120100C, 0x2000000, 1, 0x2000000, 1, 0xFFFF0F0F, 0, 0, 0, 0, 0⟩,
  ⟨"SEN_CAUSE", 0x1201010, 0x2000000, 1, 0x2000000, 1, 0, 0, 0x1F, 0, 0, 0⟩,
  ⟨"SEN_ENABLE", 0x1201014, 0x2000000, 1, 0x2000000, 1, 0x1F, 0, 0, 0, 0, 0⟩,
  ⟨"SEN_LOCK", 0x1201018, 0x2000000, 1, 0x2000000, 1, 0, 0, 0, 0x1, 0, 0⟩,
  ⟨"SEN_RTC_LO", 0x120101C, 0x2000000, 1, 0x2000000, 1, 0, 0, 0, 0, 0, 0⟩,
  ⟨"SEN_RTC_HI", 0x1201020, 0x2000000, 1, 0x2000000, 1, 0, 0, 0, 0, 0, 0⟩,
  ⟨"SEN_TAMPER_TOTAL", 0x1201024, 0x2000000, 1, 0x2000000, 1, 0, 0, 0, 0, 0, 0⟩,
  ⟨"SEN_TOKEN", 0x1201040, 0x2000000, 1, 0x4, 8, 0xFFFFFFFF, 0, 0, 0, 0, 0⟩,
  ⟨"SEN_TOKEN_DIGEST", 0x1201060, 0x2000000, 1, 0x4, 8, 0, 0, 0, 0, 0, 0⟩,
  ⟨"SEN_PARTNER_ID", 0x1201080, 0x2000000, 1, 0x4, 8, 0, 0, 0, 0, 0, 0⟩,
  ⟨"SEN_DEVKEY_X", 0x12010A0, 0x2000000, 1, 0x4, 8, 0, 0, 0, 0, 0, 0⟩,
  ⟨"SEN_DEVKEY_Y", 0x12010C0, 0x2000000, 1, 0x4, 8, 0, 0, 0, 0, 0, 0⟩,
  ⟨"SEN_LOG", 0x1201100, 0x10, 16, 0x4, 4, 0, 0, 0, 0, 0, 0⟩]

/-- The rows of the 1 MiB window that an address lies in (Table 17-2). -/
def rowsAt (a : Nat) : List RegRow :=
  match a / 0x100000 with
  | 0 => rowsGLB
  | 1 => rowsPWR
  | 2 => rowsIMG
  | 3 => rowsTIM0 ++ rowsTIM1
  | 4 => rowsPRT
  | 5 => rowsPRT
  | 6 => rowsHDG
  | 7 => rowsCIS0 ++ rowsCIS1
  | 8 => rowsSLU
  | 9 => rowsFUR
  | 10 => rowsCNF0 ++ rowsCNF1
  | 11 => rowsPUB
  | 12 => rowsKRN
  | 13 => rowsRDR
  | 14 => rowsTNK0 ++ rowsTNK1
  | 15 => rowsFLM0 ++ rowsFLM1
  | 16 => rowsHST0 ++ rowsHST1
  | 17 => rowsCUL
  | 18 => rowsFRZ
  | _ => []

/-- Whether a row holds the register at an address. -/
def RegRow.holds (r : RegRow) (a : Nat) : Bool :=
  decide (r.base ≤ a) && decide ((a - r.base) / r.s1 < r.c1) && decide ((a - r.base) % r.s1 / r.s2 < r.c2)
    && decide ((a - r.base) % r.s1 % r.s2 = 0)

/-- The register at a BAR0 offset; none is an unassigned address (R6). -/
def findReg (a : Nat) : Option RegRow := (rowsAt a).find? (fun r => r.holds a)

/-- Requesters and beats per grant of sluice instance `i` (Table 8-1): `SLU_INFO` as an instance gives it. -/
def slu_info_reset (i : Nat) : Nat := (sluBeats i) * 0x10000 + sluRequesters i

/-- The reset value of the register at an address: the table's, and the ones that depend on the index. -/
def regReset (key : Nat) : Word :=
  let a := key % 0x2000000
  match findReg a with
  | none => 0
  | some r =>
    if r.base = 0x100040 && a = 0x100040 then 2
    else if r.base = 0x800000 then BitVec.ofNat 32 (slu_info_reset ((a - 0x800000) / 0x1000))
    else if r.base = 0xE02004 then
      (if (a - 0xE02004) % 0x80 = 0 && tankOwnerAtReset ((a - 0xE02004) / 0x80) then 0x3FFFF8 else 0)
    else if r.base = 0xE02008 then
      (if (a - 0xE02008) % 0x80 = 0 && tankOwnerAtReset ((a - 0xE02008) / 0x80) then 3 else 0)
    else BitVec.ofNat 32 r.rst

end Sys2Proof.Machine
end

