-- ==== Sys2Proof/Machine/Ops.lean ====
section
/-!
DEFINITION. The named operations over memory and registers that every meaning uses: sparse tables, bit fields, byte
orders, the register file, causes and counters, MSI-X, power domains, the clock reading and tank memory.
-/
namespace Sys2Proof.Machine

/-- The answer of every meaning: a state, a fault or a refusal. -/
abbrev Answer := Host.Outcome State Fault Refusal

/-! ### Sparse tables -/

/-- The entry at `i`; an unlisted index reads as `d i`. -/
def tabGet {α : Type} (d : Nat → α) : Tab α → Nat → α
  | [], i => d i
  | (k, v) :: t, i => if k = i then v else tabGet d t i

/-- `t` with entry `i` set to `v`, in canonical form: writing what an unlisted index reads as removes the entry. -/
def tabSet {α : Type} [DecidableEq α] (d : Nat → α) : Tab α → Nat → α → Tab α
  | [], i, v => if v = d i then [] else [(i, v)]
  | (k, w) :: t, i, v =>
    if i < k then (if v = d i then (k, w) :: t else (i, v) :: (k, w) :: t)
    else if i = k then (if v = d i then t else (i, v) :: t)
    else (k, w) :: tabSet d t i v

/-- Whether a table is in canonical form above `lo`: indices strictly rising, no entry at its default. -/
def tabWf {α : Type} [DecidableEq α] (d : Nat → α) : Nat → Tab α → Bool
  | _, [] => true
  | lo, (k, v) :: t => decide (lo ≤ k) && decide (v ≠ d k) && tabWf d (k + 1) t

/-- Every index of a table whose entry meets `p`. -/
def tabKeys {α : Type} (p : Nat → α → Bool) (t : Tab α) : List Nat :=
  (t.filter (fun e => p e.1 e.2)).map (fun e => e.1)

/-- The numbers `i`, `i + 1`, … that `p` admits, of `n` numbers, in rising order. -/
def keepFrom (p : Nat → Bool) : Nat → Nat → List Nat
  | 0, _ => []
  | n + 1, i => if p i then i :: keepFrom p n (i + 1) else keepFrom p n (i + 1)

/-- The first number of `i`, `i + 1`, … that `p` admits, of `n` numbers. -/
def firstFrom (p : Nat → Bool) : Nat → Nat → Option Nat
  | 0, _ => none
  | n + 1, i => if p i then some i else firstFrom p n (i + 1)

/-! ### Bit fields and byte orders -/

/-- Bits `[hi:lo]` of a register word, as a number. -/
def fld (w : Word) (hi lo : Nat) : Nat := w.toNat / 2 ^ lo % 2 ^ (hi + 1 - lo)

/-- A register word with bits `[hi:lo]` replaced. -/
def setFld (w : Word) (hi lo : Nat) (x : Nat) : Word :=
  (w &&& ~~~(BitVec.ofNat 32 ((2 ^ (hi + 1 - lo) - 1) * 2 ^ lo)))
    ||| BitVec.ofNat 32 (x % 2 ^ (hi + 1 - lo) * 2 ^ lo)

/-- Bit `i` of a register word. -/
def bitOf (w : Word) (i : Nat) : Bool := w.getLsbD i

/-- A Boolean as a field value. -/
def b2n (b : Bool) : Nat := if b then 1 else 0

/-- The little-endian number that a list of bytes spells (R3). -/
def leNat : List Byte → Nat
  | [] => 0
  | b :: t => b.toNat + 256 * leNat t

/-- The big-endian number that a list of bytes spells (a frame on the wire, R3). -/
def beNat (l : List Byte) : Nat := l.foldl (fun acc b => acc * 256 + b.toNat) 0

/-- A number as `n` bytes, little-endian. -/
def leBytes : Nat → Nat → List Byte
  | 0, _ => []
  | n + 1, x => BitVec.ofNat 8 (x % 256) :: leBytes n (x / 256)

/-- A number as `n` bytes, big-endian. -/
def beBytes (n x : Nat) : List Byte := (leBytes n x).reverse

/-- `len` bytes of a list from offset `off`; bytes beyond its end read 0. -/
def slice (l : List Byte) (off len : Nat) : List Byte :=
  let r := (l.drop off).take len
  r ++ List.replicate (len - r.length) 0

/-- The little-endian field of `len` bytes at offset `off`. -/
def leAt (l : List Byte) (off len : Nat) : Nat := leNat ((l.drop off).take len)

/-- The big-endian field of `len` bytes at offset `off`. -/
def beAt (l : List Byte) (off len : Nat) : Nat := beNat (slice l off len)

/-- `l` with the bytes at offset `off` replaced by `new`. -/
def patch (l : List Byte) (off : Nat) (new : List Byte) : List Byte :=
  l.take off ++ new ++ l.drop (off + new.length)

/-- Zero bytes. -/
def zeros (n : Nat) : List Byte := List.replicate n 0

/-- A 32-bit word read as a signed number. -/
def signed (w : Word) : Int := w.toInt

/-- One step of the reflected CRC-32C over one bit (R33, polynomial 0x1EDC_6F41). -/
def crc32cBit (c : BitVec 32) : BitVec 32 :=
  if c.getLsbD 0 then (c >>> 1) ^^^ 0x82F63B78 else c >>> 1

/-- CRC-32C of a list of bytes (R33): initial value all ones, result inverted. -/
def crc32c (l : List Byte) : BitVec 32 :=
  ~~~(l.foldl (fun c b =>
    crc32cBit (crc32cBit (crc32cBit (crc32cBit (crc32cBit (crc32cBit (crc32cBit (crc32cBit
      (c ^^^ b.setWidth 32))))))))) 0xFFFFFFFF)

/-! ### The register file -/

/-- The registers that each function has its own copy of (R95, R286, R424). -/
def isBanked (a : Nat) : Bool :=
  (decide (0x1010000 ≤ a) && decide (a < 0x1020000)) || (decide (0x10F0000 ≤ a) && decide (a < 0x10F1020)) || (decide (0x1000024 ≤ a) && decide (a ≤ 0x1000030))
    || (decide (0xB00020 ≤ a) && decide (a ≤ 0xB0002C)) || (decide (0x300004 ≤ a) && decide (a ≤ 0x300010))

/-- The key of a register in the register file: its BAR0 offset, and the function for a banked register. -/
def regKey (f a : Nat) : Nat := if isBanked a then a + 0x2000000 * f else a

/-- A register's word. -/
def regGet (s : State) (a : Nat) : Word := tabGet regReset s.regs a

/-- The state with one register set. -/
def regSet (s : State) (a : Nat) (w : Word) : State := { s with regs := tabSet regReset s.regs a w }

/-- Bits `[hi:lo]` of a register. -/
def regFld (s : State) (a hi lo : Nat) : Nat := fld (regGet s a) hi lo

/-- The state with bits `[hi:lo]` of a register replaced. -/
def regSetFld (s : State) (a hi lo x : Nat) : State := regSet s a (setFld (regGet s a) hi lo x)

/-- Bit `i` of a register. -/
def regBit (s : State) (a i : Nat) : Bool := bitOf (regGet s a) i

/-- The state with every register of a window `[lo, hi)` of keys at its reset value. -/
def regClear (s : State) (keep : Nat → Bool) : State := { s with regs := s.regs.filter (fun e => keep e.1) }

/-- The lock bit register of the block an address lies in: RWL fields are read-only while its bit 0 is set (R7). -/
def lockReg (a : Nat) : Option Nat :=
  match a / 0x100000 with
  | 1 => some Reg.PWR_LOCK
  | 3 => some Reg.TIM_LOCK
  | 4 => some Reg.PRT_LOCK
  | 5 => some Reg.PRT_LOCK
  | 6 => some Reg.HDG_LOCK
  | 7 => some Reg.CIS_LOCK
  | 8 => some Reg.SLU_LOCK
  | 9 => some Reg.FUR_LOCK
  | 10 => some Reg.CNF_LOCK
  | 11 => some Reg.PUB_LOCK
  | 12 => some Reg.KRN_LOCK
  | 13 => some Reg.RDR_LOCK
  | 14 => some Reg.TNK_LOCK
  | 15 => some Reg.FLM_LOCK
  | 16 => some Reg.HST_LOCK
  | 17 => some Reg.CUL_LOCK
  | 18 => some Reg.FRZ_LOCK
  | _ => none

/-- Whether the RWL fields at an address are locked. -/
def locked (s : State) (a : Nat) : Bool :=
  match lockReg a with
  | some l => regBit s l 0
  | none => false

/-- What a write of `v` leaves in a register that held `old` (R7): RW and unlocked RWL fields take the value, a 1 clears
a W1C bit and sets a W1S bit, every other bit stays. -/
def writeByType (r : RegRow) (lck : Bool) (old v : Word) : Word :=
  let m := BitVec.ofNat 32 (if lck then r.rw else r.rw ||| r.rwl)
  let w := (old &&& ~~~m) ||| (v &&& m)
  let w := w &&& ~~~(v &&& BitVec.ofNat 32 r.w1c)
  w ||| (v &&& BitVec.ofNat 32 r.w1s)

/-! ### What the outside sees -/

/-- Record something the device puts out. -/
def emit (s : State) (o : Out) : State := { s with out := o :: s.out }

/-- The number of the next free value, and the state after it is used (log entry 7). -/
def fresh (s : State) : Nat × State := (s.freeCtr, { s with freeCtr := s.freeCtr + 1 })

/-- What an unlisted host function holds: MSI-X off, bus mastering and relaxed ordering enabled (log entry 8), nothing fetched. -/
def hostFn0 : HostFn :=
  { msixEnable := false, busMaster := true, relaxed := true, turn := 0, sq := [], tx := [], rx := [], held := [], sinceIrq := [] }

/-- Host function `f` beside its registers. -/
def fnGet (s : State) (f : Nat) : HostFn := tabGet (fun _ => hostFn0) s.hst.fn f

/-- The state with host function `f` replaced. -/
def fnSet (s : State) (f : Nat) (h : HostFn) : State :=
  { s with hst := { s.hst with fn := tabSet (fun _ => hostFn0) s.hst.fn f h } }

/-- The vector-control word and the pending-bit word of vector `v` of a function, and the pending bits that stand for it while MSI-X is not
enabled (R435, R436). -/
def msixCtl (f v : Nat) : Nat := regKey f (Reg.MSIX_CTL v)
def msixPba (f v : Nat) : Nat := regKey f (Reg.MSIX_PBA (v / 32))
def irqPend (f v : Nat) : Nat := regKey f (Reg.HST_IRQ_PEND (v / 32))

/-- Signal vector `v` of function `f` (R435, R436): sent, held pending while masked, or set in HST_IRQ_PEND while MSI-X
is not enabled. -/
def msix (s : State) (f v : Nat) : State :=
  if (fnGet s f).msixEnable then
    if regBit s (msixCtl f v) 0 then regSetFld s (msixPba f v) (v % 32) (v % 32) 1 else emit s (.msix f v)
  else regSetFld s (irqPend f v) (v % 32) (v % 32) 1

/-! ### Causes and counters -/

/-- The cause registers: cause, enable, bit of GLB_IRQ_STATUS (Table 3-12). -/
def causeRegs : List (Nat × Nat × Nat) :=
  [(Reg.GLB_CAUSE, Reg.GLB_ENABLE, 0), (Reg.PWR_CAUSE, Reg.PWR_ENABLE, 1), (Reg.IMG_CAUSE, Reg.IMG_ENABLE, 2),
   (Reg.TIM_CAUSE, Reg.TIM_ENABLE, 3), (Reg.HDG_CAUSE, Reg.HDG_ENABLE, 5), (Reg.CIS_CAUSE, Reg.CIS_ENABLE, 6),
   (Reg.SLU_CAUSE, Reg.SLU_ENABLE, 7), (Reg.FUR_CAUSE, Reg.FUR_ENABLE, 8), (Reg.CNF_CAUSE, Reg.CNF_ENABLE, 9),
   (Reg.PUB_CAUSE, Reg.PUB_ENABLE, 10), (Reg.KRN_CAUSE, Reg.KRN_ENABLE, 11), (Reg.RDR_CAUSE, Reg.RDR_ENABLE, 12),
   (Reg.TNK_CAUSE, Reg.TNK_ENABLE, 13), (Reg.MBX_CAUSE, Reg.MBX_ENABLE, 13), (Reg.FLM_CAUSE, Reg.FLM_ENABLE, 14),
   (Reg.HST_CAUSE, Reg.HST_ENABLE, 15), (Reg.CUL_CAUSE, Reg.CUL_ENABLE, 16), (Reg.FRZ_CAUSE, Reg.FRZ_ENABLE, 17),
   (Reg.SEN_CAUSE, Reg.SEN_ENABLE, 17)]

/-- Whether an address is a port's PRT_CAUSE. -/
def isPortCause (a : Nat) : Bool :=
  decide (0x400000 ≤ a) && decide (a < 0x400000 + 0x2000 * 200) && decide ((a - 0x400000) % 0x2000 = 0x30)

/-- Whether some port has an enabled cause pending (PRT_IRQ_SUM, Table 5-10). Only listed registers can be non-zero. -/
def portIrq (s : State) : Bool :=
  s.regs.any (fun e => isPortCause e.1 && decide (e.2 &&& regGet s (e.1 + 4) ≠ 0))

/-- GLB_IRQ_STATUS (Table 3-12), computed from the cause and enable registers. -/
def irqStatus (s : State) : Word :=
  causeRegs.foldl (fun acc c => if regGet s c.1 &&& regGet s c.2.1 ≠ 0 then acc ||| (1#32 <<< c.2.2) else acc)
    (if portIrq s then 0x10#32 else 0#32)

/-- The vector of HST_BLK_IRQ, signalled each time a bit of GLB_IRQ_STATUS changes from 0 to 1 (Table 17-8). -/
def blockIrq (before : Word) (s : State) : State :=
  if regBit s Reg.HST_BLK_IRQ 31 && decide (irqStatus s &&& ~~~before ≠ 0) then
    msix s (regFld s Reg.HST_BLK_IRQ 29 28) (regFld s Reg.HST_BLK_IRQ 23 16)
  else s

/-- Set bits of a cause register, and signal the block interrupt when that raises a bit of GLB_IRQ_STATUS. -/
def raise (s : State) (cause bit : Nat) : State :=
  blockIrq (irqStatus s) (regSet s cause (regGet s cause ||| (1#32 <<< bit)))

/-- Add `n` to a 32-bit counter; when its bit 31 sets, raise the block's COUNTER cause (log entry 11). -/
def countBy (s : State) (a cause bit n : Nat) : State :=
  let old := regGet s a
  let new := old + BitVec.ofNat 32 n
  let s := regSet s a new
  if !old.getLsbD 31 && new.getLsbD 31 then raise s cause bit else s

/-- Add 1 to a 32-bit counter of a block whose COUNTER cause is bit 0. -/
def count (s : State) (a cause : Nat) : State := countBy s a cause 0 1

/-- Add 1 to bits `[hi:lo]` of a register, saturating. -/
def satInc (s : State) (a hi lo : Nat) : State :=
  let v := regFld s a hi lo
  if v + 1 < 2 ^ (hi + 1 - lo) then regSetFld s a hi lo (v + 1) else s

/-! ### Host memory -/

/-- Write bytes to the memory of a function with or without the relaxed-ordering attribute; while its Bus Master Enable is clear the
write is discarded and counted in HST_FCNT[7] (R422). -/
def hostPut (s : State) (f addr : Nat) (bytes : List Byte) (relaxed : Bool) : State :=
  if (fnGet s f).busMaster then emit s (.hostWrite f addr bytes relaxed)
  else count s (regKey f (Reg.HST_FCNT 7)) Reg.HST_CAUSE

/-- A write that takes the attribute from the function's Relaxed Ordering Enable (R434). -/
def hostWrite (s : State) (f addr : Nat) (bytes : List Byte) : State := hostPut s f addr bytes (fnGet s f).relaxed

/-- A write that never carries the attribute: completions, seal and SEQ words, summaries, context homes (R434, R358). -/
def hostOrdered (s : State) (f addr : Nat) (bytes : List Byte) : State := hostPut s f addr bytes false

/-! ### Power, reset and the host's reach -/

/-- STATE of a power domain: 0 OFF, 1 ON_SEQ, 2 ON, 3 OFF_SEQ. -/
def domState (s : State) (d : Nat) : Nat := regFld s (Reg.PWR_DOMAIN_STAT d) 2 0

/-- A domain is on (log entry 12: neither OFF nor in a sequence). -/
def domOn (s : State) (d : Nat) : Bool := decide (domState s d = 2)

/-- The domain that powers a switch port (Table 1-1). -/
def portDomain (p : Nat) : Nat := if p < 192 then 5 + p / 48 else if p < 200 then 9 else if p < 204 then 2 else 3

/-- The domain of the block that an address belongs to (Table 1-1, R28). -/
def addrDomain (a : Nat) : Nat :=
  match a / 0x100000 with
  | 4 => portDomain ((a - 0x400000) / 0x2000)
  | 5 => if a < 0x400000 + 0x2000 * 200 then portDomain ((a - 0x400000) / 0x2000) else 3
  | 6 => 3
  | 7 => 3
  | 8 => 3
  | 9 => 3
  | 10 => 14
  | 11 => 3
  | 12 => if 0xC01000 ≤ a && a < 0xC01000 + 0x100 * 32 then 10 + (a - 0xC01000) / 0x100 / 8 else 3
  | 13 => 3
  | 14 => 3
  | 15 => if a < 0xF02000 then 3 else 15
  | 16 => 2
  | 17 => 16
  | _ => 1

/-- Whether the device answers the host at an address: not before the PCIe link is up, frozen (R469) or in deep standby (R85), and only in the
GLB window while D2 is off or a system reset runs (R67, R87). -/
def hostReach (s : State) (a : Nat) : Bool :=
  s.pwr.linkUp && !s.pwr.porstLow && !s.frz.frozen && !s.pwr.deep
    && (decide (a < 0x100000) || (!s.pwr.resetRun && domOn s 2))

/-- The domain-off cause of the global block for an access (R28). -/
def domainOff (s : State) (f a : Nat) : State :=
  raise { regSet s Reg.GLB_ERR_ADDR (BitVec.ofNat 32 (f * 0x2000000 + a)) with rdata := 0 } Reg.GLB_CAUSE 1

/-- Run a register access of the host: no effect when it does not reach the device, the domain-off cause when the block
is off, else `k`. -/
def hostAccess (s : State) (f a : Nat) (k : State → State) : State :=
  if !hostReach s a then { s with rdata := 0 }
  else if !domOn s (addrDomain a) then domainOff s f a
  else k s

/-- The islands execute: PORST_N is high, no system reset runs, the device is neither frozen nor in deep standby
(R64, R67, R85, R468). -/
def active (s : State) : Bool := !s.pwr.porstLow && !s.pwr.resetRun && !s.frz.frozen && !s.pwr.deep

/-- An event inside the device: it comes about only while the islands execute (log entry 13). -/
def event (s : State) (k : State → State) : Answer := .next (if active s then k s else s)

/-- A register access of host function `f` at address `a`. -/
def hostCmd (s : State) (f a : Nat) (k : State → State) : Answer := .next (hostAccess s f a k)

/-- The event of a unit in domain `d`: it comes about only while the domain is on. -/
def domEvent (s : State) (d : Nat) (k : State → State) : Answer := event s (fun s => if domOn s d then k s else s)

/-- GLB_STATUS.FULL: full service is running. -/
def fullService (s : State) : Bool := regBit s Reg.GLB_STATUS 2

/-- GLB_STATUS.TRICKLE: trickle service is running (R71). -/
def trickleOn (s : State) : Bool := regBit s Reg.GLB_STATUS 1

/-- A port receives in full service: from the commit, but P000 to P007 only once the handover is complete (R76). -/
def portServed (s : State) (p : Nat) : Bool := s.img.running.isSome && (fullService s || decide (8 ≤ p))

/-- Trickle service has the port's MAC (R76). -/
def trickleHas (s : State) (p : Nat) : Bool := decide (p < 8) && trickleOn s

/-! ### Time -/

/-- ns32 as the clock holds it (R97). -/
def nowNs32 (s : State) : Word := s.clk.ns32

/-- The replica of an island is valid: it may launch and compare (R100). -/
def replicaReady (s : State) (island : Nat) : Bool := tabGet (fun _ => false) s.clk.replicaOk island

/-- A target is reached when (now − target) mod 2³², read as signed, is not negative (R98). -/
def reached (now target : Word) : Bool := decide (0 ≤ (now - target).toInt)

/-- The number of whole microseconds of elapsed time. -/
def nowUs (s : State) : Nat := s.now / 1000

/-! ### Tank memory (R370 to R381) -/

/-- A byte of tank memory; every reset leaves 0 (R373). -/
def tankByte (s : State) (x : Nat) : Byte := tabGet (fun _ => 0) s.tnk.mem x

/-- Bytes of tank memory from an offset. -/
def tankRead (s : State) (x : Nat) : Nat → List Byte
  | 0 => []
  | n + 1 => tankByte s x :: tankRead s (x + 1) n

/-- The mask of written bytes of a poisoned word; none is a clean word. -/
def poisonOf (s : State) (x : Nat) : Option (BitVec 8) := tabGet (fun _ => none) s.tnk.poison (x / 8)

/-- Store one byte, and mark it written in a poisoned word: the word is clean when its last byte is written (R381). -/
def tankStoreByte (s : State) (x : Nat) (b : Byte) : State :=
  let s := { s with tnk := { s.tnk with mem := tabSet (fun _ => 0) s.tnk.mem x b } }
  match poisonOf s x with
  | none => s
  | some m =>
    let m' := m ||| (1#8 <<< (x % 8))
    if m' = 0xFF then
      regSet { s with tnk := { s.tnk with poison := tabSet (fun _ => none) s.tnk.poison (x / 8) none } }
        Reg.TNK_POISON_COUNT (regGet s Reg.TNK_POISON_COUNT - 1)
    else { s with tnk := { s.tnk with poison := tabSet (fun _ => none) s.tnk.poison (x / 8) (some m') } }

/-- Store bytes from an offset. -/
def tankWrite (s : State) (x : Nat) : List Byte → State
  | [] => s
  | b :: t => tankWrite (tankStoreByte s x b) (x + 1) t

/-- The view a tank access goes through (Table 15-1). -/
inductive TankOp where
  | load | store | setAlias | clearAlias
  deriving DecidableEq, Repr

/-- The bank of an offset (R370). -/
def tankBank (x : Nat) : Nat := x / 8 % 64

/-- Whether region `r` of master `m` covers bytes `x` to `x + n − 1` with the grant an access needs (R378). -/
def regionGrants (s : State) (m r x n : Nat) (write : Bool) : Bool :=
  let base := regFld s (Reg.TNK_REGION_BASE m r) 21 3
  let last := regFld s (Reg.TNK_REGION_LAST m r) 21 3
  decide (base * 8 ≤ x) && decide (x + n ≤ last * 8 + 8) && regBit s (Reg.TNK_REGION_CTL m r) (if write then 1 else 0)

/-- Whether an access is allowed by lease and regions (R375, R378); the supervisor reaches every bank. -/
def tankAllowed (s : State) (m x n : Nat) (write : Bool) : Bool :=
  let b := Reg.TNK_BANK (tankBank x)
  if m = 32 then true
  else if regBit s b 16 then decide (regFld s b 13 8 = m)
  else (List.range 8).any (fun r => regionGrants s m r x n write)

/-- CORE cycles of running time, 1.25 GHz. -/
def coreCycle (s : State) : Nat := s.run * 5 / 4

/-- Remember a word that master `m` is about to write (R374). -/
def tankNote (s : State) (m x : Nat) : State :=
  let w := x / 8
  let l := s.tnk.recent.filter (fun r => decide (r.word ≠ w) && decide (coreCycle s ≤ r.cycle + 1))
  { s with tnk := { s.tnk with
    recent := { word := w, bytes := tankRead s (8 * w) 8, poisoned := (poisonOf s x).isSome, master := m, cycle := coreCycle s } :: l } }

/-- The word as a plain read by master `m` finds it when it meets another master's write at the array: as before that write (R374). -/
def tankOld (s : State) (m x : Nat) : Option TankOld :=
  s.tnk.recent.find? (fun r => decide (r.word = x / 8) && decide (r.master ≠ m) && decide (coreCycle s ≤ r.cycle + 1))

/-- How a tank access ended. -/
inductive TankResult where
  | data (bytes : List Byte)
  | poisoned
  | refused
  deriving DecidableEq, Repr

/-- The record of a refused access (R379): counted, recorded with its master and offset, raised. -/
def tankRefuse (s : State) (m off : Nat) : State :=
  let s := count s (Reg.TNK_REFUSED m) Reg.TNK_CAUSE
  let s := regSet s Reg.TNK_REFUSED_LAST (BitVec.ofNat 32 (m * 0x400000 + off % 0x400000))
  raise s Reg.TNK_CAUSE 3

/-- One access of at most one 8-byte word by master `m` (R370 to R381): judged by lease and regions, then performed. A set
or clear alias store ORs or clears the written bits in the old value (R333), and is refused in a poisoned word (R381). -/
def tankAccess (s : State) (m x : Nat) (op : TankOp) (n : Nat) (bytes : List Byte) : TankResult × State :=
  let write := decide (op ≠ .load)
  if !tankAllowed s m x n write then (.refused, tankRefuse s m x)
  else
    let poisoned := decide (poisonOf s x ≠ none)
    match op with
    | .load =>
      (match tankOld s m x with
        | some r => if r.poisoned then (.poisoned, s) else (.data (slice r.bytes (x % 8) n), s)
        | none => if poisoned then (.poisoned, s) else (.data (tankRead s x n), s))
    | .store => (.data [], tankWrite (tankNote s m x) x (bytes.take n))
    | .setAlias =>
      if poisoned then (.refused, tankRefuse s m x)
      else (.data [], tankWrite (tankNote s m x) x (List.zipWith (· ||| ·) (tankRead s x n) bytes))
    | .clearAlias =>
      if poisoned then (.refused, tankRefuse s m x)
      else (.data [], tankWrite (tankNote s m x) x (List.zipWith (fun a b => a &&& ~~~b) (tankRead s x n) bytes))

/-- Free the lock `i`: TNK_LK_OWNER is its only home (R383). -/
def lockFree (s : State) (i : Nat) : State := regSet s (Reg.TNK_LK_OWNER i) 0

/-- Record a lock and a master in TNK_LK_EVENT and raise a lock cause (R384, R385). -/
def lockEvent (s : State) (i m bit : Nat) : State :=
  raise (regSet s Reg.TNK_LK_EVENT (BitVec.ofNat 32 (m * 256 + i))) Reg.TNK_CAUSE bit

/-- Free every lock that master `m` holds; the last one is recorded and LOCK_RECLAIMED raised (R385). -/
def locksReclaim (s : State) (m : Nat) : State :=
  let mine := (List.range 256).filter (fun i => decide (regGet s (Reg.TNK_LK_OWNER i) = BitVec.ofNat 32 (0x40 + m)))
  match mine.getLast? with
  | none => s
  | some i => lockEvent (mine.foldl lockFree s) i m 7

/-- A lock read by master `m` (R383): 0 and owned when free or held by `m`, else the owner's ID plus 1. -/
def lockRead (s : State) (m i : Nat) : Nat × State :=
  let w := regGet s (Reg.TNK_LK_OWNER i)
  if !bitOf w 6 then (0, regSet s (Reg.TNK_LK_OWNER i) (BitVec.ofNat 32 (0x40 + m)))
  else if fld w 5 0 = m then (0, s)
  else (fld w 5 0 + 1, s)

/-- A lock write by master `m` (R384): the owner frees the lock, any other write is counted as foreign. -/
def lockWrite (s : State) (m i : Nat) : State :=
  let w := regGet s (Reg.TNK_LK_OWNER i)
  if bitOf w 6 && decide (fld w 5 0 = m) then lockFree s i
  else lockEvent (count s Reg.TNK_LK_FOREIGN Reg.TNK_CAUSE) i m 6

/-- A ring signals after every so many records written (R270, R295, R367): whether it does so now, and the records since then. -/
def everyNth (every since : Nat) : Bool × Nat :=
  if every = 0 then (false, 0) else if every ≤ since + 1 then (true, 0) else (false, since + 1)

end Sys2Proof.Machine
end

