-- ==== Sys2Proof/Machine/Sections.lean ====
section
/-!
DEFINITION. The sections of the structure image as the blocks read them: which section a unit runs (R62), and the records of
its arrays (R41).
-/
namespace Sys2Proof.Machine

/-- The section of a type and instance in an image. -/
def imageSection (i : Image) (type inst : Nat) : Option ImgSection :=
  i.sections.find? (fun x => decide (x.type = type) && decide (x.inst = inst))

/-- The section that a unit runs: the running image's, or the one it keeps while its swap has not applied (R62). -/
def unitSection (s : State) (type inst unit : Nat) : Option ImgSection :=
  match s.img.units.find? (fun u => decide (u.type = type) && decide (u.unit = unit)) with
  | some u => u.old
  | none =>
    match s.img.running with
    | some i => imageSection i type inst
    | none => none

/-- The section of the running image. -/
def runSection (s : State) (type : Nat) : Option ImgSection :=
  match s.img.running with
  | some i => imageSection i type 0
  | none => none

/-- Byte `off` of a flat section, 0 when the section is absent. -/
def flatByte (s : State) (type off : Nat) : Nat :=
  match runSection s type with
  | some x => leAt x.payload off 1
  | none => 0

/-- A little-endian field of a flat section. -/
def flatField (s : State) (type off len : Nat) : Nat :=
  match runSection s type with
  | some x => leAt x.payload off len
  | none => 0

/-- The directory entry of an array: record size, count and offset (R41). -/
def arrayEntry (payload : List Byte) (arr : Nat) : Option (Nat × Nat × Nat) :=
  let n := leAt payload 0 2
  match (List.range n).find? (fun j => decide (leAt payload (16 + 16 * j) 2 = arr)) with
  | some j => some (leAt payload (18 + 16 * j) 2, leAt payload (20 + 16 * j) 4, leAt payload (24 + 16 * j) 4)
  | none => none

/-- The number of records of an array; an absent array is empty. -/
def arrayCount (x : Option ImgSection) (arr : Nat) : Nat :=
  match x with
  | none => 0
  | some x =>
    match arrayEntry x.payload arr with
    | some e => e.2.1
    | none => 0

/-- Record `i` of an array. -/
def arrayRec (x : Option ImgSection) (arr i : Nat) : Option (List Byte) :=
  match x with
  | none => none
  | some x =>
    match arrayEntry x.payload arr with
    | some e => if i < e.2.1 then some (slice x.payload (e.2.2 + e.1 * i) e.1) else none
    | none => none

/-- The records of an array. -/
def arrayAll (x : Option ImgSection) (arr : Nat) : List (List Byte) :=
  (List.range (arrayCount x arr)).filterMap (arrayRec x arr)

/-- The bytes of an array of one-byte records from an offset. -/
def arrayBytes (x : Option ImgSection) (arr off len : Nat) : List Byte :=
  match x with
  | none => []
  | some x =>
    match arrayEntry x.payload arr with
    | some e => slice x.payload (e.2.2 + off) len
    | none => []

/-- Bits `[hi:lo]` of a number. -/
def nbits (w hi lo : Nat) : Nat := w / 2 ^ lo % 2 ^ (hi + 1 - lo)

/-- Bit `i` of a number. -/
def nbit (w i : Nat) : Bool := w.testBit i

/-! ### Districts and lanes (R34 to R37) -/

/-- The number of districts. -/
def districtCount (s : State) : Nat := flatByte s 2 0

/-- A field of a DISTRICTS record. -/
def districtField (s : State) (d off len : Nat) : Nat := flatField s 2 (8 + 64 * d + off) len

/-- Whether a front port or uplink is a member of a district. -/
def isMember (s : State) (d p : Nat) : Bool :=
  decide (d < districtCount s) && decide (p < 200) && nbit (districtField s d 0 32) p

/-- The district of a front port or uplink (R36: at most one). -/
def portDistrict (s : State) (p : Nat) : Option Nat := (List.range 8).find? (fun d => isMember s d p)

/-- The members of a district. -/
def members (s : State) (d : Nat) : List Nat := (List.range 200).filter (isMember s d)

/-- A district is output-queued above 64 members (R36). -/
def isOq (s : State) (d : Nat) : Bool := decide (64 < (members s d).length)

/-- RESERVE of a class (Table 2-6). -/
def reserveOf (s : State) (d c : Nat) : Nat := flatField s 3 (64 * d + 8 + 2 * c) 2

/-- The sum of the reserves of a district's classes. -/
def reserveSum (s : State) (d : Nat) : Nat := (List.range 8).foldl (fun a c => a + reserveOf s d c) 0

/-- The PORT byte of a front port (Table 2-4). -/
def portByte (s : State) (p : Nat) : Nat := flatByte s 1 (64 + p)

/-- The mode of an uplink (Table 5-1). -/
def uplinkMode (s : State) (u : Nat) : Nat := flatByte s 1 (48 + u) % 4

/-! ### The units of a swap (Table 2-12) -/

/-- Raise a cause of the loader. -/
def imgRaise (s : State) (bit : Nat) : State := raise s Reg.IMG_CAUSE bit

/-- IMG_SWAP_PENDING: a bit for each type with a unit that has not applied. -/
def swapShow (s : State) : State :=
  regSet s Reg.IMG_SWAP_PENDING
    (s.img.units.foldl (fun (w : Word) u => w ||| (1#32 <<< u.type)) 0)

/-- When the last unit has applied, the swaps that have committed are complete. -/
def swapSettle (s : State) : State :=
  let s := swapShow s
  if s.img.units.isEmpty && decide (s.img.swapsOpen ≠ 0) then
    let n := min 65535 (regFld s Reg.IMG_COUNT 31 16 + s.img.swapsOpen)
    imgRaise (regSetFld { s with img := { s.img with swapsOpen := 0 } } Reg.IMG_COUNT 31 16 n) 0
  else s

/-- A unit is pending. -/
def unitPends (s : State) (type unit : Nat) : Bool := s.img.units.any (fun u => decide (u.type = type) && decide (u.unit = unit))

/-- The unit runs the new section from here. -/
def unitTake (s : State) (type unit : Nat) : State :=
  { s with img := { s.img with units := s.img.units.filter (fun u => !(decide (u.type = type) && decide (u.unit = unit))) } }

end Sys2Proof.Machine
end

