-- ==== Sys2Proof/Machine/Frames.lean ====
section
/-!
DEFINITION. What the headgate and the MACs read from a frame and write into it: tags, keys, checks of length, redundancy tags
and trailers (R125, R154, R156, R162, R167; the tag layouts are IEC 62439-3's and IEEE 802.1Q's, log entry 20).
-/
namespace Sys2Proof.Machine

/-- The length of a frame, from destination address to frame check. -/
def frameLen (bytes : List Byte) : Nat := bytes.length + 4

/-- The cells a frame of `bytes` occupies (R174). -/
def cellsOf (bytes : List Byte) : Nat := (frameLen bytes + 255) / 256

/-- What stage 1 reads from a frame (R154, R156, R162). -/
structure Parsed where
  hsr : Option Nat
  tag : Option Nat
  etype : Nat
  /-- The first byte after the last EtherType. -/
  l3 : Nat
  prp : Option (Nat × Nat)
  appid : Nat
  ipv4 : Option (List Byte)
  bad : Bool
  deriving DecidableEq, Repr

/-- LSDU size of a frame that carries a PRP trailer: the bytes after the EtherType, one VLAN tag not counted. -/
def prpLsdu (bytes : List Byte) : Nat :=
  bytes.length - 14 - (if beAt bytes 12 2 = 0x8100 then 4 else 0)

/-- A recognised PRP trailer: sequence number and LAN identifier (R162). -/
def prpTrailer (bytes : List Byte) : Option (Nat × Nat) :=
  let n := bytes.length
  if 20 ≤ n ∧ beAt bytes (n - 2) 2 = 0x88FB ∧ beAt bytes (n - 4) 2 % 4096 = prpLsdu bytes % 4096 then
    some (beAt bytes (n - 6) 2, beAt bytes (n - 4) 2 / 4096)
  else none

/-- Whether the IPv4 header at `l3` makes the frame bad: version 4, a header length of 5 to 15 words, and the header runs past
the end (R172). -/
def ipv4Bad (bytes : List Byte) (l3 stop : Nat) : Bool :=
  let b := beAt bytes l3 1
  decide (l3 < stop) && decide (b / 16 = 4) && decide (5 ≤ b % 16) && decide (stop < l3 + b % 16 * 4)

/-- The IPV4 key of a frame, when it has one (R156). -/
def ipv4Key (bytes : List Byte) (l3 stop : Nat) : Option (List Byte) :=
  let b := beAt bytes l3 1
  let ihl := b % 16 * 4
  let proto := beAt bytes (l3 + 9) 1
  if l3 < stop ∧ b / 16 = 4 ∧ 20 ≤ ihl ∧ l3 + ihl + 4 ≤ stop ∧ beAt bytes (l3 + 6) 2 % 0x4000 = 0 ∧ (proto = 6 ∨ proto = 17)
  then
    some (2#8 :: (slice bytes (l3 + 12) 8 ++ [BitVec.ofNat 8 proto, 0] ++ slice bytes (l3 + ihl) 4 ++ [0, 0]))
  else none

/-- Stage 1 on a frame from a port that may carry HSR tags or PRP trailers. -/
def parseFrame (bytes : List Byte) (hsrPort prpPort : Bool) : Parsed :=
  let n := bytes.length
  let isHsr := hsrPort && decide (beAt bytes 12 2 = 0x892F)
  let o := if isHsr then 18 else 12
  let isTag := decide (beAt bytes o 2 = 0x8100)
  let o2 := if isTag then o + 4 else o
  let prp := if prpPort then prpTrailer bytes else none
  let stop := if prp.isSome then n - 6 else n
  let et := beAt bytes o2 2
  let l3 := o2 + 2
  { hsr := if isHsr then some (beAt bytes 16 2) else none
    tag := if isTag then some (beAt bytes (o + 2) 2) else none
    etype := et
    l3 := l3
    prp := prp
    appid := if (et = 0x88B8 ∨ et = 0x88B9 ∨ et = 0x88BA) ∧ l3 + 2 ≤ stop then beAt bytes l3 2 else 0
    ipv4 := if et = 0x0800 then ipv4Key bytes l3 stop else none
    bad := decide (n < l3) || (decide (et = 0x0800) && ipv4Bad bytes l3 stop) }

/-- The search key of stage 5 (R156). -/
def streamKey (bytes : List Byte) (p : Parsed) (vid : Nat) : List Byte :=
  match p.ipv4 with
  | some k => k
  | none => 1#8 :: (slice bytes 0 6 ++ beBytes 2 (vid % 4096) ++ beBytes 2 p.etype ++ beBytes 2 p.appid ++ zeros 4)

/-- Destination and source address as numbers, first byte on the wire highest. -/
def dstMac (bytes : List Byte) : Nat := beAt bytes 0 6
def srcMac (bytes : List Byte) : Nat := beAt bytes 6 6

/-- A group address: bit 0 of its first byte. -/
def isGroup (mac : Nat) : Bool := nbit mac 40

/-- 01-80-C2-00-00-00 to 01-80-C2-00-00-0F. -/
def isReserved (mac : Nat) : Bool := decide (mac / 16 = 0x0180C200000)

/-- A frame with its VLAN tag, if any, taken out, and one put in when `tci` is given; a recognised HSR tag stays first and unchanged. -/
def retag (bytes : List Byte) (hsr : Bool) (tci : Option Nat) : List Byte :=
  let o := if hsr then 18 else 12
  let rest := if beAt bytes o 2 = 0x8100 then bytes.drop (o + 4) else bytes.drop o
  let tag := match tci with
    | some t => beBytes 2 0x8100 ++ beBytes 2 t
    | none => []
  bytes.take o ++ tag ++ rest

/-- A frame without its HSR tag or recognised PRP trailer (R167). -/
def stripRed (bytes : List Byte) (t : Option RedTag) : List Byte :=
  match t with
  | none => bytes
  | some t => if t.hsr then bytes.take 12 ++ bytes.drop 18 else bytes.take (bytes.length - 6)

/-- A frame with an HSR tag: path 0 for the A port and 1 for the B port, the LSDU size and the sequence number. -/
def insertHsr (bytes : List Byte) (lanB : Bool) (seq : Nat) : List Byte :=
  let size := (bytes.length + 6 - 14) % 4096
  bytes.take 12 ++ beBytes 2 0x892F ++ beBytes 2 (b2n lanB * 4096 + size) ++ beBytes 2 seq ++ bytes.drop 12

/-- A frame with a PRP trailer: sequence number, LAN identifier 0xA or 0xB with the LSDU size, suffix. -/
def insertPrp (bytes : List Byte) (lanB : Bool) (seq : Nat) : List Byte :=
  let b := bytes ++ zeros 6
  bytes ++ beBytes 2 seq ++ beBytes 2 ((0xA + b2n lanB) * 4096 + prpLsdu b % 4096) ++ beBytes 2 0x88FB

/-- A frame padded with zero bytes to `n` bytes. -/
def padTo (n : Nat) (bytes : List Byte) : List Byte := bytes ++ zeros (n - bytes.length)

/-- Index of the size counter of a good frame of `len` bytes, from the first of the seven (Table 5-4). -/
def sizeBucket (len : Nat) : Nat :=
  if len ≤ 64 then 0 else if len ≤ 127 then 1 else if len ≤ 255 then 2 else if len ≤ 511 then 3
  else if len ≤ 1023 then 4 else if len ≤ 1518 then 5 else 6

/-! ### PTP event messages (R104 to R106) -/

/-- Where a PTP header starts, and for UDP, to a port of `ports`, the offset of the UDP header and whether it is over IPv6. The HSR tag may
also stand ahead of the VLAN tags, where R162 puts it (log entry 97). -/
def ptpHeader (bytes : List Byte) (ports : List Nat) : Option (Nat × Option (Nat × Bool)) :=
  let isVlan := fun (o : Nat) => decide (beAt bytes o 2 = 0x8100) || decide (beAt bytes o 2 = 0x88A8)
  let isHsr := fun (o : Nat) => decide (beAt bytes o 2 = 0x892F)
  let skip := fun (o : Nat) => if isVlan o then o + 4 else o
  let o := if isHsr 12 then skip (skip 18) else (let o := skip (skip 12); if isHsr o then o + 6 else o)
  let et := beAt bytes o 2
  if et = 0x88F7 then some (o + 2, none)
  else if et = 0x0800 ∧ beAt bytes (o + 2) 1 = 0x45 ∧ beAt bytes (o + 11) 1 = 17 ∧ ports.contains (beAt bytes (o + 24) 2) then
    some (o + 30, some (o + 22, false))
  else if et = 0x86DD ∧ beAt bytes (o + 8) 1 = 17 ∧ ports.contains (beAt bytes (o + 44) 2) then
    some (o + 50, some (o + 42, true))
  else none

/-- The PTP event message that a frame carries, where the device recognises one (R104): as `ptpHeader`. -/
def ptpAt (bytes : List Byte) : Option (Nat × Option (Nat × Bool)) :=
  match ptpHeader bytes [319] with
  | some (h, u) =>
    if beAt bytes h 1 % 16 ≤ 3 ∧ h + 34 ≤ bytes.length ∧ h + 34 ≤ 256 then some (h, u) else none
  | none => none

/-- messageType of a recognised message: 0 Sync, 1 Delay_Req, 2 Pdelay_Req, 3 Pdelay_Resp. -/
def ptpType (bytes : List Byte) (h : Nat) : Nat := beAt bytes h 1 % 16

/-- correctionField with an amount added in units of 2⁻¹⁶ ns, saturating at its maximum; the maximum stays (R106). -/
def corrAdd (field : BitVec 64) (delta : Int) : BitVec 64 :=
  if field = 0x7FFFFFFFFFFFFFFF then field
  else
    let t := field.toInt + delta
    if 0x7FFFFFFFFFFFFFFF < t then 0x7FFFFFFFFFFFFFFF else BitVec.ofInt 64 t

/-- The ones'-complement sum of the 16-bit words of a list of bytes. -/
def onesSum : List Byte → Nat
  | [] => 0
  | [a] => a.toNat * 256
  | a :: b :: t => a.toNat * 256 + b.toNat + onesSum t

/-- A ones'-complement sum folded to 16 bits. -/
def onesFold (n : Nat) : Nat :=
  let n := n % 65536 + n / 65536
  let n := n % 65536 + n / 65536
  n % 65536 + n / 65536

/-- The bytes of a frame with an edit at `off`, and the UDP checksum, when there is one, updated for the changed bytes: a zero
checksum over IPv4 stays zero (R106). -/
def ptpPatch (bytes : List Byte) (u : Option (Nat × Bool)) (off : Nat) (new : List Byte) : List Byte :=
  let out := patch bytes off new
  match u with
  | none => out
  | some (u, v6) =>
    let old := beAt bytes (u + 6) 2
    let align := fun (l : List Byte) => if off % 2 = u % 2 then l else 0#8 :: l
    let sum := onesFold ((65535 - old) + onesSum (align new)
      + (65535 * (new.length + 1) - onesSum (align (slice bytes off new.length))))
    let chk := 65535 - sum
    if old = 0 ∧ v6 = false then out else patch out (u + 6) (beBytes 2 (if chk = 0 then 65535 else chk))

/-- correctionField of a message with an amount added (R105, R106). -/
def ptpCorrect (bytes : List Byte) (h : Nat) (u : Option (Nat × Bool)) (delta : Int) : List Byte :=
  let c := BitVec.ofNat 64 (beAt bytes (h + 8) 8)
  ptpPatch bytes u (h + 8) (beBytes 8 (corrAdd c delta).toNat)

end Sys2Proof.Machine
end

