-- ==== Sys2Proof/Machine/Cells.lean ====
section
/-!
DEFINITION. Cells, frame records and output queues of the cistern (R174, R175, R189 to R193): allocation, references, and the
weir's decisions. Occupancies are computed from the frames, never stored.
-/
namespace Sys2Proof.Machine

/-- The handle that names no frame (Table 12-3). -/
def noFrame : Nat := 0x1FFFF

/-- A value free among the first `n` numbers (log entry 7), and the state after it is drawn. -/
def freePick (s : State) (n : Nat) : Nat × State :=
  let r := fresh s
  ((Config.freeValue 32 r.1).toNat % n, r.2)

/-! ### Frame records -/

/-- The frame record of a handle. -/
def frameGet (s : State) (h : Nat) : Option Frame := tabGet (fun _ => none) s.cis.frames h

/-- The state with a frame record replaced; `none` frees its cells. -/
def frameSet (s : State) (h : Nat) (x : Option Frame) : State :=
  { s with cis := { s.cis with frames := tabSet (fun _ => none) s.cis.frames h x } }

/-- The state with a frame record changed, if the handle names one. -/
def frameMod (s : State) (h : Nat) (k : Frame → Frame) : State :=
  match frameGet s h with
  | some f => frameSet s h (some (k f))
  | none => s

/-- The frames of the cistern with their handles. -/
def frameAll (s : State) : List (Nat × Frame) :=
  s.cis.frames.filterMap (fun e => match e.2 with | some f => some (e.1, f) | none => none)

/-- Free a frame that nothing refers to and that no stage has in hand (R175). A partition copy releases its staging copy (R179), which is none
itself. -/
def frameSettle (s : State) (h : Nat) : State :=
  match frameGet s h with
  | some f =>
    if f.refs = 0 ∧ f.inHand = false then
      let s := frameSet s h none
      match f.staged with
      | none => s
      | some k =>
        let s := frameMod s k (fun g => { g with refs := g.refs - 1 })
        match frameGet s k with
        | some g => if g.refs = 0 ∧ g.inHand = false then frameSet s k none else s
        | none => s
    else s
  | none => s

/-- Take a reference. -/
def refAdd (s : State) (h : Nat) : State := frameMod s h (fun f => { f with refs := f.refs + 1 })

/-- Release a reference; the cells are freed when the count reaches zero (R175). -/
def refDrop (s : State) (h : Nat) : State := frameSettle (frameMod s h (fun f => { f with refs := f.refs - 1 })) h

/-- A stage lets a frame go. -/
def frameLetGo (s : State) (h : Nat) : State := frameSettle (frameMod s h (fun f => { f with inHand := false })) h

/-! ### Cells -/

/-- The open builds of the engines (R310). -/
def buildsAll (s : State) : List Build :=
  s.krn.eng.flatMap (fun e => e.2.threads.filterMap (fun t => t.2.build))

/-- The cells that are not on a free list. The cell whose number names a frame is not taken again before that frame ends, also when the
frame's cells have been freed (DESIGN CHOICE, log entry 99). -/
def cellsTaken (s : State) : List Nat :=
  (frameAll s).flatMap (fun e => e.1 :: e.2.cells) ++ s.cis.quarantined.map (fun q => q.1)
    ++ (buildsAll s).flatMap (fun b => b.cells.map (fun c => c.2))

/-- The free cells of a bank group. -/
def groupFree (taken : List Nat) (g : Nat) : List Nat :=
  (keepFrom (fun r => !taken.contains (16 * r + g)) 6144 0).map (fun r => 16 * r + g)

/-- Take a cell from the next bank group in rotation whose free list is not empty (R174): after the group of the frame's last cell, or for a
first cell after that of the last frame (DESIGN CHOICE, log entry 102); which of its free cells is a free choice (log entry 7). -/
def pickCell (s : State) (last : Option Nat) : Option Nat × State :=
  let taken := cellsTaken s
  let from_ := match last with
    | some c => c % 16 + 1
    | none => s.cis.group
  let groups := (List.range 16).map (fun i => (from_ + i) % 16)
  match groups.find? (fun g => !(groupFree taken g).isEmpty) with
  | none => (none, s)
  | some g =>
    let free := groupFree taken g
    let r := freePick s free.length
    (free[r.1]?, if last.isSome then r.2 else { r.2 with cis := { r.2.cis with group := (g + 1) % 16 } })

/-! ### Queues -/

/-- The key of the queue of port `p`, class `c` and district `d`; front ports and uplinks have one district's queues. -/
def queueKey (p c d : Nat) : Nat := (p * 8 + c) * 8 + d

/-- An output queue, oldest entry first. -/
def queueGet (s : State) (q : Nat) : List QEntry := tabGet (fun _ => []) s.cis.queues q

/-- The state with an output queue replaced. -/
def queueSet (s : State) (q : Nat) (l : List QEntry) : State :=
  { s with cis := { s.cis with queues := tabSet (fun _ => []) s.cis.queues q l } }

/-- The cells that the siphon copies of a queue charge (R193). -/
def siphonCells (s : State) (q : Nat) : Nat :=
  (queueGet s q).foldl (fun a e => match e.siphon with | some x => a + x.2.2 | none => a) 0

/-- The district whose queues a frame of district `d` joins at a port: the port's own at a front port or uplink, which a directed frame may
reach from another district (R181). -/
def outDistrict (s : State) (p d : Nat) : Nat :=
  if p < 200 then (match portDistrict s p with | some x => x | none => d) else d

/-- The cells of regular frames charged to a queue: to its reserve and to the shared pool (R189). -/
def queueCharge (s : State) (p c d : Nat) : Nat × Nat :=
  (frameAll s).foldl (fun a e =>
    if e.2.tc = c ∧ (p < 200 ∨ e.2.district = d) then
      e.2.dests.foldl (fun a x => if x.port = p then (a.1 + x.reserve, a.2 + x.shared) else a) a
    else a) (0, 0)

/-- Q of a queue: every cell charged to it. -/
def queueQ (s : State) (p c d : Nat) : Nat :=
  let r := queueCharge s p c d
  r.1 + r.2 + siphonCells s (queueKey p c d)

/-- Q_s of a queue: the cells charged to the shared pool. -/
def queueQs (s : State) (p c d : Nat) : Nat := (queueCharge s p c d).2 + siphonCells s (queueKey p c d)

/-! ### Pools -/

/-- Quarantined cells of a district (R203). -/
def quarantinedIn (s : State) (d : Nat) : Nat := (s.cis.quarantined.filter (fun q => decide (q.2 = d))).length

/-- Cells of a district: frames that are no partition copies, and builds. -/
def stagingUsed (s : State) (d : Nat) : Nat :=
  (frameAll s).foldl (fun a e => if e.2.district = d ∧ e.2.oqCopy = false then a + e.2.cells.length else a) 0
    + ((buildsAll s).filter (fun b => decide (b.district = d))).foldl (fun a b => a + b.cells.length) 0

/-- Every physical cell of a district in use (CIS_DIST_USED). -/
def districtUsed (s : State) (d : Nat) : Nat :=
  (frameAll s).foldl (fun a e => if e.2.district = d then a + e.2.cells.length else a) 0
    + ((buildsAll s).filter (fun b => decide (b.district = d))).foldl (fun a b => a + b.cells.length) 0

/-- The shared cells in use of a shared-memory district (R189, R310). -/
def sharedUsed (s : State) (d : Nat) : Nat :=
  (frameAll s).foldl (fun a e => if e.2.district = d then a + e.2.shared else a) 0
    + ((buildsAll s).filter (fun b => decide (b.district = d))).foldl (fun a b => a + b.cells.length) 0

/-- CELLS of a district. -/
def districtCells (s : State) (d : Nat) : Nat := districtField s d 36 4

/-- The staging pool of an output-queued district (R178). -/
def stagingPool (s : State) (d : Nat) : Nat :=
  districtCells s d - districtField s d 44 4 * (members s d).length - quarantinedIn s d

/-- STAGE_LIMIT of an output-queued district (R180). -/
def stageLimit (s : State) (d : Nat) : Nat := stagingPool s d / (members s d).length

/-- F of a district: the free shared cells, or the staging pool's free cells in an output-queued district (R177, R189). -/
def poolFree (s : State) (d : Nat) : Nat :=
  if isOq s d then stagingPool s d - stagingUsed s d
  else districtCells s d - ((members s d).length + 4) * reserveSum s d - quarantinedIn s d - sharedUsed s d

/-- F within a partition of an output-queued district (R192). -/
def partitionFree (s : State) (p d : Nat) : Nat :=
  districtField s d 44 4 - reserveSum s d
    - (frameAll s).foldl (fun a e =>
        if e.2.oqCopy ∧ e.2.district = d ∧ e.2.dests.any (fun x => decide (x.port = p)) then a + e.2.shared else a) 0

/-- The cells of the frames received on a port (R194). -/
def ingressCells (s : State) (p : Nat) : Nat :=
  (frameAll s).foldl (fun a e => if e.2.ingress = p ∧ e.2.oqCopy = false then a + e.2.cells.length else a) 0

/-- Staging cells of a district that an ingress port holds, an internal port among them (R180). -/
def stagedBy (s : State) (p d : Nat) : Nat :=
  (frameAll s).foldl (fun a e =>
    if e.2.ingress = p ∧ e.2.oqCopy = false ∧ e.2.district = d then a + e.2.cells.length else a) 0

/-- The cells that the copies in a partition of an output-queued district occupy (R178). -/
def partitionUsed (s : State) (p d : Nat) : Nat :=
  (frameAll s).foldl (fun a e =>
    if e.2.oqCopy ∧ e.2.district = d ∧ e.2.dests.any (fun x => decide (x.port = p)) then a + e.2.cells.length else a) 0

/-- The pool that a frame of district `d` draws on has a free cell: the pool of CELLS (R177), the staging pool, or the partition of port
`copy` (R178). -/
def cellRoom (s : State) (d : Nat) (copy : Option Nat) : Bool :=
  if districtCount s ≤ d then true
  else
    match copy with
    | some p => decide (partitionUsed s p d < districtField s d 44 4)
    | none =>
      if isOq s d then decide (stagingUsed s d < stagingPool s d)
      else decide (districtUsed s d + quarantinedIn s d < districtCells s d)

/-- A cell for a frame of district `d` whose last cell is `last`. -/
def cellFor (s : State) (d : Nat) (copy last : Option Nat) : Option Nat × State :=
  if cellRoom s d copy then pickCell s last else (none, s)

/-- The same for one class (R194). -/
def ingressClassCells (s : State) (p c : Nat) : Nat :=
  (frameAll s).foldl (fun a e =>
    if e.2.ingress = p ∧ e.2.oqCopy = false ∧ e.2.tc = c then a + e.2.cells.length else a) 0

/-- αF for a signed 3-bit k (R189). -/
def alphaF (k f : Nat) : Nat := if k < 4 then f * 2 ^ k else f / 2 ^ (8 - k)

/-! ### The weir -/

/-- Count a weir refusal of a frame at a queue (R190). -/
def weirDrop (s : State) (p c : Nat) : State :=
  count (count s (Reg.CIS_Q_DROP p c) Reg.CIS_CAUSE) (Reg.CIS_DROP 0) Reg.CIS_CAUSE

/-- The decision for one cell at one destination (R189): admitted to the reserve of a unicast frame's queue, to the shared
pool, or refused. Answers the destination, and whether it took a shared cell. -/
def weirDecide (unicast : Bool) (reserve q qs af : Nat) (x : Dest) : Dest × Bool :=
  if x.refused then (x, false)
  else if unicast && decide (q < reserve) then ({ x with reserve := x.reserve + 1, decided := x.decided + 1 }, false)
  else if qs < af then ({ x with shared := x.shared + 1, decided := x.decided + 1 }, true)
  else ({ x with refused := true }, false)

/-- Decide the next cell of a frame for each of its destinations in turn, against one reading of F (R189 to R192). -/
def weirCell (s : State) (h : Nat) : State :=
  match frameGet s h with
  | none => s
  | some f =>
    let copy := f.oqCopy
    let alpha := regFld s (Reg.CIS_WEIR_CLASS f.district f.tc) 2 0
    let unicast := copy || decide (f.dests.length = 1)
    let rs := f.dests.map (fun x =>
      let free := if copy then partitionFree s x.port f.district else poolFree s f.district
      let d := outDistrict s x.port f.district
      weirDecide unicast (reserveOf s f.district f.tc) (queueQ s x.port f.tc d) (queueQs s x.port f.tc d) (alphaF alpha free) x)
    let s := frameSet s h (some { f with
      dests := rs.map (fun r => r.1)
      offered := f.offered + 1
      shared := f.shared + b2n (rs.any (fun r => r.2)) })
    (List.zip f.dests rs).foldl (fun s e => if !e.1.refused && e.2.1.refused then weirDrop s e.1.port f.tc else s) s

/-- Give a frame its next cell when it has fewer than its decided count needs (R174). Without a free cell every destination that has not
refused the frame does, as the weir refuses (DESIGN CHOICE, log entry 103). -/
def cellTake (s : State) (h : Nat) : State :=
  match frameGet s h with
  | none => s
  | some f =>
    if f.offered < f.cells.length then s
    else
      let r := cellFor s f.district (if f.oqCopy then f.dests.head?.map (fun x => x.port) else none) f.cells.getLast?
      match r.1 with
      | some c => frameMod r.2 h (fun f => { f with cells := f.cells ++ [c] })
      | none =>
        let s := f.dests.foldl (fun s x => if x.refused then s else weirDrop s x.port f.tc) r.2
        frameMod s h (fun f => { f with dests := f.dests.map (fun x => { x with refused := true }) })

/-- The reception of a frame is over: the destinations that refused it keep no charge (R190). -/
def chargesRelease (s : State) (h : Nat) : State :=
  frameMod s h (fun f =>
    let ds := f.dests.map (fun x => if x.refused then { x with reserve := 0, shared := 0 } else x)
    { f with dests := ds, shared := min f.shared (ds.foldl (fun a x => max a x.shared) 0) })

/-- Decide `n` further cells of a frame. In an output-queued district staging is governed by R180 alone, and the weir decides
at transfer (R192). -/
def weirCells (s : State) (h : Nat) : Nat → State
  | 0 => s
  | n + 1 =>
    let s := cellTake s h
    match frameGet s h with
    | none => s
    | some f =>
      let s := if isOq s f.district && !f.oqCopy then frameMod s h (fun f => { f with offered := f.offered + 1 })
        else weirCell s h
      weirCells s h n

end Sys2Proof.Machine
end

