-- ==== Sys2Proof/Machine/CulBase.lean ====
section
/-!
DEFINITION. What the blocks read of the twin (R451, R458 to R460): the role, the publisher gate, and the mirror records on their way to the
partner.
-/
namespace Sys2Proof.Machine

/-- The role of the chip (Table 18-4): 0 ALONE, 1 PAIRING, 2 ACTIVE, 3 STANDBY, 4 TAKEBACK, 5 FENCED. -/
def culRole (s : State) : Nat := regFld s Reg.CUL_STAT 2 0

/-- The chip stands by: it mirrors its partner (R460). -/
def culStandby (s : State) : Bool := decide (culRole s = 3) || decide (culRole s = 4)

/-- Paired (R445). -/
def culPaired (s : State) : Bool := regBit s Reg.CUL_STAT 12

/-- The publisher is gated in every role but ALONE and ACTIVE, and while a handover runs (Table 18-4, R456). -/
def pubGated (s : State) : Bool := (decide (culRole s ≠ 0) && decide (culRole s ≠ 2)) || s.cul.handover.isSome

/-- A bit of the MIRROR byte of the TWIN section (R39). -/
def culMirrors (s : State) (k : Nat) : Bool := nbit (flatByte s 14 2) k

/-- Count in CUL_CNT[k]. -/
def culCount (s : State) (k : Nat) : State := count s (Reg.CUL_CNT k) Reg.CUL_CAUSE

/-- A message with its check (R443). -/
def culSeal (b : List Byte) : List Byte := b ++ leBytes 4 (crc32c b).toNat

/-- The 64-byte units that messages occupy in the replay buffer. -/
def msgUnits (b : List Byte) : Nat := (b.length + 63) / 64
def replayUnits (s : State) : Nat := s.cul.replay.foldl (fun a m => a + msgUnits m.bytes) 0

/-- A MIRROR message (Table 18-7). -/
def mirrorMsg (s : State) (r : Nat × Nat × List Byte) (lseq : Nat) : List Byte :=
  culSeal (leBytes 1 3 ++ leBytes 1 r.1 ++ leBytes 2 r.2.1 ++ leBytes 4 lseq ++ leBytes 2 r.2.2.length ++ zeros 2
    ++ leBytes 4 (regGet s Reg.CUL_EPOCH).toNat ++ r.2.2)

/-- Send pending records in order while the replay buffer has room for them (R444); records of an object are counted. -/
def culFlush (s : State) : List (Nat × Nat × List Byte) → State
  | [] => { s with cul := { s.cul with pendRec := [] } }
  | r :: t =>
    let n := (s.cul.lseqSent + 1) % 2 ^ 32
    let m := mirrorMsg s r n
    if replayUnits s + msgUnits m ≤ 4096 then
      let s := if r.1 < 4 then culCount s 4 else s
      culFlush (emit { s with cul := { s.cul with lseqSent := n, replay := s.cul.replay ++ [{ lseq := n, bytes := m }] } } (.culvert m)) t
    else { s with cul := { s.cul with pendRec := r :: t } }

/-- The record of an object takes its place in the list of pending records: that of the one it replaces, or the last. -/
def recPut (l : List (Nat × Nat × List Byte)) (r : Nat × Nat × List Byte) : List (Nat × Nat × List Byte) :=
  if l.any (fun x => decide (x.1 = r.1) && decide (x.2.1 = r.2.1)) then
    l.map (fun x => if x.1 = r.1 ∧ x.2.1 = r.2.1 then r else x)
  else l ++ [r]

/-- A record for the twin: of class `cls` of Table 18-7; it goes at once while the replay buffer has room, and waits otherwise, one per
object (R459, R460). -/
def culPend (s : State) (cls index : Nat) (payload : List Byte) : State :=
  if culRole s = 2 ∧ culPaired s ∧ culMirrors s cls then culFlush s (recPut s.cul.pendRec (cls, index, payload)) else s

/-- The time record (Table 18-8). -/
def culTime (s : State) : State :=
  let s := { s with cul := { s.cul with timeFrom := s.run } }
  culPend s 2 0 (leBytes 4 s.clk.incFrac.toNat ++ leBytes 1 s.clk.incInt.toNat ++ leBytes 1 (regFld s Reg.TIM_SYNC_STATE 1 0)
    ++ leBytes 2 (regFld s Reg.TIM_SYNC_STATE 31 16) ++ zeros 8)

/-- A record is refused: SYNCED clears (R460, R461). -/
def mirrorRefuse (s : State) : State :=
  let s := culCount { s with cul := { s.cul with passRefused := true } } 6
  if culStandby s then regSetFld s Reg.CUL_STAT 9 9 0 else s

end Sys2Proof.Machine
end

