-- ==== Sys2Proof/Machine/Power.lean ====
section
/-!
DEFINITION. Power domains as shared operations: requests (R79 to R83, R512) and the PLL each domain runs from.
-/
namespace Sys2Proof.Machine

/-- The bit of PWR_CLK_STAT of the PLL that clocks a domain (Table 3-17, R512). -/
def domPll (d : Nat) : Nat :=
  if d = 1 then 0 else if d = 2 then 9 else if d ≤ 4 then 2 else if d ≤ 8 then 3 else if d = 9 then 4
  else if d ≤ 13 then 5 else if d = 14 then 6 else if d = 15 then 7 else 8

/-- The policy of a domain without a record: ALWAYS_ON with RETAIN = 0 (R82). -/
def policy0 : DomPolicy := { mode := 0, retain := false, idleHold := 0 }

/-- The policy in force of a domain. -/
def domPolicy (s : State) (d : Nat) : DomPolicy := tabGet (fun _ => policy0) s.pwr.policy d

/-- REQ of a domain: 0 POLICY, 1 ON, 2 OFF (Table 3-15). -/
def domReqField (s : State) (d : Nat) : Nat := regFld s (Reg.PWR_DOMAIN_CTL d) 1 0

/-- Whether a domain keeps the SRAM that RETAIN selects: the register overrides the policy while REQ is not 0 (Table 3-15). -/
def domRetain (s : State) (d : Nat) : Bool :=
  if domReqField s d = 0 then (domPolicy s d).retain else regBit s (Reg.PWR_DOMAIN_CTL d) 4

/-- Record a refused power request (R83, R85, R512). -/
def pwrRefuse (s : State) (d : Nat) : State :=
  raise (regSet s Reg.PWR_REFUSED_DOMAIN (BitVec.ofNat 32 d)) Reg.PWR_CAUSE 3

/-- Start an on-sequence and count the wake (Table 3-6). -/
def startOn (s : State) (d : Nat) : State :=
  satInc (regSetFld s (Reg.PWR_DOMAIN_STAT d) 2 0 1) (Reg.PWR_DOMAIN_STAT d) 31 16

/-- Start an off-sequence (Table 3-6). -/
def startOff (s : State) (d : Nat) : State := regSetFld s (Reg.PWR_DOMAIN_STAT d) 2 0 3

/-- The cycle of SUP at 400 MHz (Table 3-3), counted from 1. -/
def supCycle (s : State) : Nat := s.now * 2 / 5 + 1

/-- The idle timer of a cluster's domain restarts (R80, R81). -/
def idleRestart (s : State) (d : Nat) : State :=
  if 10 ≤ d ∧ d ≤ 13 then { s with pwr := { s.pwr with idleFrom := tabSet (fun _ => none) s.pwr.idleFrom (d - 10) none } } else s

/-- Hold a request as pending, or none: PENDING and its kind (R79). -/
def domPend (s : State) (d : Nat) (on : Option Bool) : State :=
  regSetFld { s with pwr := { s.pwr with pendingOn := tabSet (fun _ => false) s.pwr.pendingOn d (on.getD false) } }
    (Reg.PWR_DOMAIN_STAT d) 3 3 (b2n on.isSome)

/-- An ON request reaches Table 3-6: an OFF request of the same SUP cycle is discarded, so that an off-sequence it has started has not
begun (R80); else it starts a sequence, or is held while one runs, of which the latest is kept. -/
def domOn1 (s : State) (d : Nat) : State :=
  let st := domState s d
  let undo := decide (st = 3) && decide (tabGet (fun _ => 0) s.pwr.offAt d = supCycle s)
  let s := { s with pwr := { s.pwr with onAt := tabSet (fun _ => 0) s.pwr.onAt d (supCycle s) } }
  if undo then idleRestart (regSetFld (domPend s d none) (Reg.PWR_DOMAIN_STAT d) 2 0 2) d
  else if st = 1 ∨ st = 3 then domPend s d (some true)
  else if st = 0 then startOn s d
  else s

/-- An OFF request reaches Table 3-6: discarded in the SUP cycle of an ON request, and the idle timer restarts (R80). -/
def domOff1 (s : State) (d : Nat) : State :=
  let st := domState s d
  if tabGet (fun _ => 0) s.pwr.onAt d = supCycle s then idleRestart s d
  else if st = 1 ∨ st = 3 then domPend s d (some false)
  else if st = 2 then startOff { s with pwr := { s.pwr with offAt := tabSet (fun _ => 0) s.pwr.offAt d (supCycle s) } } d
  else s

/-- A request reaches Table 3-6. -/
def domRequest (s : State) (d : Nat) (on : Bool) : State := if on then domOn1 s d else domOff1 s d

/-- The PLL that clocks a domain has locked (Table 3-17). -/
def domClocked (s : State) (d : Nat) : Bool := regBit s Reg.PWR_CLK_STAT (domPll d)

/-- An ON request of a wake source or of the policy (R81, R83): discarded while the host holds the domain OFF, refused while
the PLL of the domain has not locked (R512). -/
def domOnRequest (s : State) (d : Nat) : State :=
  if domReqField s d = 2 then s
  else if !domClocked s d then pwrRefuse s d
  else domRequest s d true

/-- An OFF request of the policy or of the idle timer (R81, R83): discarded while the host holds the domain ON. -/
def domOffRequest (s : State) (d : Nat) : State :=
  if domReqField s d = 1 then s else domRequest s d false

end Sys2Proof.Machine
end

