-- ==== Sys2Proof/Machine/RiderOps.lean ====
section
/-!
DEFINITION. Engines, contexts and slots as shared operations: the context map (R351), placement (R355, R356), paging (R357,
R358), the journal (R367) and the host rings of records (R269, R295).
-/
namespace Sys2Proof.Machine

/-! ### Engines and threads -/

/-- A thread that has not started. -/
def thread0 : KThread :=
  { started := false, regs := [], pc := 0, wait := none, event := none, issued := 0, since := 0, window := zeros 512, reqs := []
    build := none, cycHi := 0, resume := 0, lastExc := 0, scratch := 0, latchNs := 0, latchSec := 0, latchFrac := 0, berTag := 0
    berAddr := 0, berLen := 0, berNext := 0, crcCfg := 0, crcState := 0, csumCfg := 0, csumState := 0, timerStat := 0
    refused := none, ready := 0, hold := none, ended := 0 }

/-- An engine in no mask: memories zero, nothing queued. -/
def eng0 : KrnEng :=
  { imem := [], dmem := [], queue := [], timers := [], kept := [], threads := [], order := 0, startCyc := 0, initEnds := none
    memHalt := false, abortHalts := false, nThreads := 0, entry := 0, last := 15, free := 0, fired := [] }

/-- Engine `e` beside its registers. -/
def engGet (s : State) (e : Nat) : KrnEng := tabGet (fun _ => eng0) s.krn.eng e

/-- The state with engine `e` replaced. -/
def engSet (s : State) (e : Nat) (x : KrnEng) : State :=
  { s with krn := { s.krn with eng := tabSet (fun _ => eng0) s.krn.eng e x } }

/-- Thread `t` of engine `e`. -/
def thrGet (s : State) (e t : Nat) : KThread := tabGet (fun _ => thread0) (engGet s e).threads t

/-- The state with a thread replaced. -/
def thrSet (s : State) (e t : Nat) (x : KThread) : State :=
  let g := engGet s e
  engSet s e { g with threads := tabSet (fun _ => thread0) g.threads t x }

/-- STATE of an engine: 0 EMPTY, 1 INIT, 2 RUNNING, 3 HALTED, 4 OFF (Table 12-14). -/
def engState (s : State) (e : Nat) : Nat := regFld s (Reg.KRN_ENG_STAT e) 2 0

/-- READY of an engine. -/
def engReady (s : State) (e : Nat) : Bool := regBit s (Reg.KRN_ENG_STAT e) 8

/-- SLOT of an engine: its personality slot. -/
def engSlot (s : State) (e : Nat) : Nat := regFld s (Reg.KRN_ENG_STAT e) 13 9

/-- The domain of an engine's cluster (Table 1-1). -/
def engDomain (e : Nat) : Nat := 10 + e / 8

/-- A field of the header of the personality in slot `p` that engine `e` runs or is to run (Table 12-7). -/
def persField (s : State) (p e off len : Nat) : Nat :=
  match arrayRec (unitSection s 9 p e) 0x0901 0 with
  | some r => leAt r off len
  | none => 0

/-- ENGINE_MASK of a personality slot in the running image. -/
def persMask (s : State) (p : Nat) : Nat :=
  match s.img.running with
  | some i =>
    match arrayRec (imageSection i 9 p) 0x0901 0 with
    | some r => leAt r 4 4
    | none => 0
  | none => 0

/-- Count in KRN_CNT[e][k]. -/
def krnCount (s : State) (e k : Nat) : State := count s (Reg.KRN_CNT e k) Reg.KRN_CAUSE

/-- Raise a cause of the engine block and record its engine and thread (KRN_EVENT). -/
def krnRaise (s : State) (e t bit : Nat) : State :=
  raise (regSet s Reg.KRN_EVENT (BitVec.ofNat 32 (bit * 2 ^ 24 + e * 256 + t))) Reg.KRN_CAUSE bit

/-- Raise a field that keeps the most seen since its last read. -/
def regHigh (s : State) (a hi lo v : Nat) : State := if regFld s a hi lo < v then regSetFld s a hi lo v else s

/-! ### Rings of records in host memory -/

/-- Write record `seq` of a ring of 2^log slots of `size` bytes at a base in function `f`: its data first, then the word that
makes it visible, which lies at offset 0 (R268, R295, R434). -/
def ringWrite (s : State) (f base log size seq : Nat) (word : Nat) (rest : List Byte) : State :=
  let a := base + seq % 2 ^ log * size
  hostOrdered (hostWrite s f (a + 4) rest) f a (leBytes 4 word)

/-- A 64-bit host address held in two registers, 64-byte aligned. -/
def hostAddr (s : State) (lo hi : Nat) : Nat := (regGet s hi).toNat * 2 ^ 32 + regFld s lo 31 6 * 64

/-! ### Contexts -/

/-- A context that has never been placed. -/
def ctx0 : Ctx :=
  { mode := .dormant, owner := 0, slot := none, pinned := false, resident := false, mirror := false, moving := none
    data := zeros 512, dirty := false, weight := 0, cycles := 0, wasHot := false, lastRun := none, lastUse := 0
    declared := none, fresh := false, first := false }

/-- The contexts that some entry of the map names. -/
def ctxLive (s : State) : List (Nat × Ctx) :=
  s.rdr.ctx.filterMap (fun e => match e.2 with | some c => some (e.1, c) | none => none)

/-- A context-map entry. -/
def ctxGet (s : State) (c : Nat) : Ctx :=
  match tabGet (fun _ => none) s.rdr.ctx c with
  | some x => x
  | none => ctx0

/-- The state with a context-map entry replaced. -/
def ctxSet (s : State) (c : Nat) (x : Ctx) : State :=
  { s with rdr := { s.rdr with ctx := tabSet (fun _ => none) s.rdr.ctx c (if x = ctx0 then none else some x) } }

/-- The state with a context-map entry changed. -/
def ctxMod (s : State) (c : Nat) (k : Ctx → Ctx) : State := ctxSet s c (k (ctxGet s c))

/-- The section of the rider, and its policy record (Table 14-3). -/
def riderSection (s : State) : Option ImgSection := unitSection s 10 0 0
def riderPolicy (s : State) (off len : Nat) : Nat :=
  match arrayRec (riderSection s) 0x0A01 0 with
  | some r => leAt r off len
  | none => 0

/-- The declaration of a context (Table 14-2). -/
def ctxDecl (s : State) (c : Nat) : Option (List Byte) :=
  (arrayAll (runSection s 10) 0x0A02).find? (fun r => decide (leAt r 0 2 = c))

/-- The initial state of a declared context: 512 zero bytes without HAS_INIT (R353). -/
def ctxInit (s : State) (decl : List Byte) : List Byte :=
  if nbit (leAt decl 3 1) 4 then
    match arrayRec (runSection s 10) 0x0A03 (leAt decl 8 4) with
    | some r => slice r 0 512
    | none => zeros 512
  else zeros 512

/-- Hot slots in use, and the lowest-numbered free one (R358). -/
def slotsUsed (s : State) : List Nat := (ctxLive s).filterMap (fun e => e.2.slot)
def slotFree (s : State) : Option Nat :=
  let used := slotsUsed s
  firstFrom (fun i => !used.contains i) 4096 0

/-- Count in RDR_CNT[k]. -/
def rdrCount (s : State) (k : Nat) : State := count s (Reg.RDR_CNT k) Reg.RDR_CAUSE

/-- Raise a cause of the rider and record its context (RDR_EVENT). -/
def rdrRaise (s : State) (c bit : Nat) : State :=
  raise (regSet s Reg.RDR_EVENT (BitVec.ofNat 32 (bit * 2 ^ 24 + c % 65536))) Reg.RDR_CAUSE bit

/-! ### Load and placement (R355, R356) -/

/-- W of the hot contexts that an engine owns. -/
def engLoad (s : State) (e : Nat) : Nat :=
  (ctxLive s).foldl (fun a x => if x.2.mode = .hot ∧ x.2.owner = e then a + x.2.weight else a) 0

/-- The capacity of an engine: 1000 at FULL and 500 at LOW. -/
def engCap (s : State) (e : Nat) : Nat := if regBit s Reg.PWR_OPPOINT_STAT (e / 8) then 500 else 1000

/-- U of an engine with `extra` added to its load. -/
def engUse (s : State) (e extra : Nat) : Nat := (engLoad s e + extra) * 1000 / engCap s e

/-- An engine is eligible for the contexts of a personality slot (R355). -/
def engEligible (s : State) (p e : Nat) : Bool :=
  nbit (persMask s p) e
    && ((decide (engState s e = 2) && engReady s e)
      || (decide (domState s (engDomain e) = 0) && decide (domReqField s (engDomain e) ≠ 2)))

/-- The eligible engines of a personality slot, ascending. -/
def eligible (s : State) (p : Nat) : List Nat := (List.range 32).filter (engEligible s p)

/-- The engine with the least U of a list; ties go to the lower number. -/
def leastUse (s : State) (l : List Nat) : Option Nat :=
  l.foldl (fun a e =>
    match a with
    | none => some e
    | some b => if engUse s e 0 < engUse s b 0 then some e else some b) none

/-- The engine with the greatest U of a list; ties go to the lower number. -/
def mostUse (s : State) (l : List Nat) : Option Nat :=
  l.foldl (fun a e =>
    match a with
    | none => some e
    | some b => if engUse s b 0 < engUse s e 0 then some e else some b) none

/-- Where the new-context rule of Table 14-4 puts a context of weight `w` among engines `l`. -/
def placeAmong (s : State) (l : List Nat) (w : Nat) : Option Nat :=
  let policy := regFld s Reg.RDR_POLICY 1 0
  if policy = 1 then
    match l.find? (fun e => decide (engUse s e w ≤ riderPolicy s 10 2)) with
    | some e => some e
    | none => leastUse s l
  else if policy = 2 then
    let fit := l.filter (fun e => decide (engCap s e = 1000) && decide (engUse s e w ≤ riderPolicy s 12 2))
    if fit.isEmpty then leastUse s l else leastUse s fit
  else leastUse s l

/-! ### Journal (R367) -/

/-- Write a journal record of kind `k` for context `c` moving from engine `a` to engine `b` (0xFF none), with U as it stood. -/
def journal (s : State) (k reason c a b : Nat) (uFrom uTo : Nat) : State :=
  let x := ctxGet s c
  let ctl := Reg.RDR_JNL_CTL
  let log := regFld s ctl 27 24
  let seq := (regGet s Reg.RDR_JNL_SEQ).toNat
  let head := (regGet s Reg.RDR_JNL_HEAD).toNat
  if !regBit s ctl 31 then s
  else if 2 ^ log ≤ (seq + 2 ^ 32 - head) % 2 ^ 32 then rdrRaise (rdrCount s 9) c 6
  else
    let slot := if k = 12 then 0xFFFF else match x.slot with
      | some n => n
      | none => 0xFFFF
    let f := regFld s ctl 29 28
    let rest := leBytes 1 k ++ leBytes 1 reason ++ leBytes 2 c ++ leBytes 1 a ++ leBytes 1 b ++ leBytes 2 slot
      ++ leBytes 4 (nowNs32 s).toNat ++ leBytes 2 uFrom ++ leBytes 2 uTo ++ leBytes 2 (if k = 12 then 0 else x.weight)
      ++ leBytes 2 s.rdr.interval ++ zeros 8
    let s := ringWrite s f (hostAddr s Reg.RDR_JNL_BASE_LO Reg.RDR_JNL_BASE_HI) log 32 seq (2 ^ 31 + seq % 2 ^ 31) rest
    let s := regSet s Reg.RDR_JNL_SEQ (BitVec.ofNat 32 (seq + 1))
    let n := everyNth (regFld s ctl 15 0) s.rdr.jnlSince
    let s := { s with rdr := { s.rdr with jnlSince := n.2 } }
    if n.1 then msix s f (regFld s ctl 23 16) else s

/-- A journal record with the U of the engines as they stand. -/
def journalNow (s : State) (k reason c a b : Nat) : State :=
  journal s k reason c a b (if a < 32 then engUse s a 0 else 0) (if b < 32 then engUse s b 0 else 0)

/-! ### Paging (R357, R358) -/

/-- Whether an engine holds an event for a context, queued or in a thread. -/
def engHolds (s : State) (e c : Nat) : Bool :=
  let g := engGet s e
  g.queue.any (fun v => decide (v.ctx = some c))
    || g.threads.any (fun t => match t.2.event with | some v => decide (v.ctx = some c) | none => false)

/-- Whether the hold queue holds an event for a context. -/
def holds (s : State) (c : Nat) : Bool := s.rdr.hold.any (fun x => decide (x.1 = c))

/-- RESIDENT, or treated so: a chip that stands by keeps every context declared MIRROR (R357, R460). -/
def ctxStays (s : State) (x : Ctx) : Bool := x.resident || (x.mirror && culStandby s)

/-- The victim for eviction: the least recently dispatched HOT context that may leave (R357). -/
def victim (s : State) : Option Nat :=
  let may := (ctxLive s).filter (fun e =>
    decide (e.2.mode = .hot) && !e.2.pinned && !ctxStays s e.2 && e.2.moving.isNone && !engHolds s e.2.owner e.1
      && !holds s e.1)
  may.foldl (fun a e =>
    match a with
    | none => some e.1
    | some b => if e.2.lastUse < (ctxGet s b).lastUse then some e.1 else some b) none

/-- Page operations in flight. -/
def pagesInFlight (s : State) : Nat :=
  ((ctxLive s).filter (fun e => decide (e.2.mode = .out) || decide (e.2.mode = .in_))).length

/-- Begin a page-out of context `c` (Table 14-1). -/
def pageOutStart (s : State) (c reason : Nat) : State :=
  journalNow (ctxMod s c (fun x => { x with mode := .out })) 6 reason c (ctxGet s c).owner 0xFF

/-- Start the page-in of context `c`, when it is still COLD and fewer than 8 pages are in flight: into a free slot, or after the eviction
of a victim (R357). -/
def pageInOne (s : State) (c : Nat) : State :=
  if (ctxGet s c).mode ≠ .cold ∨ 8 ≤ pagesInFlight s then s
  else
    match slotFree s with
    | some n =>
      ctxMod { s with rdr := { s.rdr with noSlot := s.rdr.noSlot.filter (fun i => decide (i ≠ c)) } } c
        (fun x => { x with mode := .in_, slot := some n })
    | none =>
      let s := if s.rdr.noSlot.contains c then s else rdrRaise { s with rdr := { s.rdr with noSlot := s.rdr.noSlot ++ [c] } } c 4
      match victim s with
      | some v => pageOutStart s v 3
      | none => s

/-- Begin the page-ins that are wanted, in order, while slots and the 8 operations allow (R357, R358). -/
def pageInStart (s : State) (l : List Nat) : State := l.foldl pageInOne s

/-- Evict ahead of demand while fewer than FREE_TARGET slots are free (R357); `n` bounds the operations. -/
def pageAhead (s : State) : Nat → State
  | 0 => s
  | n + 1 =>
    let out := ((ctxLive s).filter (fun e => decide (e.2.mode = .out))).length
    if 4096 - (slotsUsed s).length + out < riderPolicy s 14 2 ∧ pagesInFlight s < 8 then
      match victim s with
      | some v => pageAhead (pageOutStart s v 4) n
      | none => s
    else s

/-- Start whatever paging is due; while the home is off the rider pages nothing (R357). -/
def pageKick (s : State) : State :=
  if regBit s Reg.RDR_HOME_CTL 31 then pageAhead (pageInStart s s.rdr.pageIns) 8 else s

/-- Want context `c` in a slot. -/
def pageWant (s : State) (c : Nat) : State :=
  if s.rdr.pageIns.contains c then pageKick s
  else pageKick { s with rdr := { s.rdr with pageIns := s.rdr.pageIns ++ [c] } }

/-- Cancel the timers of a context on an engine's wheel. -/
def timersCancel (s : State) (e c : Nat) : State :=
  let g := engGet s e
  engSet s e { g with timers := g.timers.filter (fun t => decide (t.ctx ≠ some c)) }

/-- Wake the cluster of an engine on which a context is placed (R355, Table 3-5), journalled as WAKE. -/
def placeWake (s : State) (e : Nat) : State :=
  if domState s (engDomain e) = 0 then
    journalNow (domOnRequest s (engDomain e)) 12 0 0 0xFF (e / 8 * 8)
  else s

end Sys2Proof.Machine
end

