-- ==== Sys2Proof/Machine/Engine.lean ====
section
/-!
DEFINITION. Engines as shared operations: registers of a thread, cluster cycles, and the dispatch of events to waiting threads (R306,
R336, R350).
-/
namespace Sys2Proof.Machine

/-- A general register: w0 reads 0 (R328). -/
def wGet (l : Tab Word) (r : Nat) : Word := if r = 0 then 0 else tabGet (fun _ => 0) l r

/-- The registers after a write; a write to w0 has no effect (R328). -/
def wSet (l : Tab Word) (r : Nat) (v : Word) : Tab Word := if r = 0 then l else tabSet (fun _ => 0) l r v

/-- Cycles that the cluster of engine `e` has run: one a ns at FULL, one every two at LOW. -/
def clusterCyc (s : State) (e : Nat) : Nat := tabGet (fun _ => 0) s.krn.half (e / 8) / 2

/-- The cluster of engine `e` is at LOW (R84). -/
def engLow (s : State) (e : Nat) : Bool := regBit s Reg.PWR_OPPOINT_STAT (e / 8)

/-- A figure in cluster cycles, at FULL and at LOW (Tables 13-7 and 13-9). -/
def engCost (s : State) (e full low : Nat) : Nat := if engLow s e then low else full

/-- The thread may issue again after `n` cluster cycles. -/
def thrCost (s : State) (e t n : Nat) : State :=
  let x := thrGet s e t
  thrSet s e t { x with ready := max x.ready (clusterCyc s e + n) }

/-- The island of Table 19-4 of an engine's cluster, whose replica the engine reads (R100). -/
def engIsland (e : Nat) : Nat := 9 + e / 8

/-- The replica that an engine reads is valid. -/
def engReplica (s : State) (e : Nat) : Bool := replicaReady s (engIsland e)

/-! ### Who may issue (R300) -/

/-- A far access that stalls its thread: all but a posted store. -/
def farStalls (f : Far) : Bool :=
  match f.op with
  | .store _ _ => false
  | _ => true

/-- A posted store that a fence waits for: to tank memory, its aliases and mailbox channels, or to the host window (R347). -/
def fenceHolds (tank host : Bool) (f : Far) : Bool :=
  match f.op with
  | .store a _ => if a < 0x80000000 then tank else host
  | _ => false

/-- The far accesses of a thread that are not complete. -/
def farOf (s : State) (e t : Nat) : List Far := s.krn.far.filter (fun f => decide (f.eng = e) && decide (f.thr = t))

/-- The thread is stalled: on the cycles of its last instruction, on a memory access, a fence or the replica (R300). -/
def thrStalled (s : State) (e t : Nat) : Bool :=
  let x := thrGet s e t
  decide (clusterCyc s e < x.ready) || (farOf s e t).any farStalls
    || (match x.hold with
      | some .replica => !engReplica s e
      | some (.fence a b) => (farOf s e t).any (fenceHolds a b)
      | none => false)

/-- The thread is in RUN: its engine and its cluster run, it has started and does not wait for an event. -/
def thrRuns (s : State) (e t : Nat) : Bool :=
  let x := thrGet s e t
  x.started && x.wait.isNone && (decide (engState s e = 1) || decide (engState s e = 2)) && domOn s (engDomain e)

/-- The thread that the engine issues from: the first runnable one after the thread that issued last, wrapping (R300). -/
def krnPick (s : State) (e : Nat) : Option Nat :=
  ((List.range 16).map (fun i => ((engGet s e).last + 1 + i) % 16)).find? (fun t => thrRuns s e t && !thrStalled s e t)

/-- Thread `t` is the one that may issue in this cluster cycle (R300). -/
def krnMay (s : State) (e t : Nat) : Bool := decide ((engGet s e).free ≤ clusterCyc s e) && decide (krnPick s e = some t)

/-- The engine's issue slot of this cycle goes to a thread. -/
def slotTake (s : State) (e t : Nat) : State :=
  engSet s e { engGet s e with last := t, free := clusterCyc s e + 1 }

/-- The thread's far accesses that stall it are given up, and nothing holds it any more. -/
def farDrop (s : State) (e t : Nat) : State :=
  let far := s.krn.far.filter (fun f => !(decide (f.eng = e) && decide (f.thr = t) && farStalls f))
  let s := { s with krn := { s.krn with far := far } }
  thrSet s e t { thrGet s e t with hold := none }

/-- Every far access of an engine is given up. -/
def farClear (s : State) (e : Nat) : State :=
  { s with krn := { s.krn with far := s.krn.far.filter (fun f => decide (f.eng ≠ e)) } }

/-- The engine's cluster is off, or the engine has woken with it and is not READY: the rider holds its contexts' events (R355). -/
def engWaking (s : State) (e : Nat) : Bool :=
  !domOn s (engDomain e)
    || (decide (engState s e = 1)
      && (decide (regFld s (Reg.KRN_ENG_START e) 1 0 = 1) || decide (regFld s (Reg.KRN_ENG_START e) 1 0 = 2)))

/-- A thread of the engine handles an event of the context. -/
def engRuns (g : KrnEng) (c : Nat) : Bool :=
  g.threads.any (fun t => match t.2.event with | some v => decide (v.ctx = some c) | none => false)

/-- An event may be taken: no thread handles another event of its context (R306). -/
def dispatchable (g : KrnEng) (v : KEvent) : Bool :=
  match v.ctx with
  | none => true
  | some c => !engRuns g c

/-- The thread that has waited longest. -/
def firstWaiter (g : KrnEng) : Option Nat :=
  (g.threads.foldl (fun a t =>
    match t.2.wait, a with
    | none, _ => a
    | some w, none => some (t.1, w.order)
    | some w, some b => if w.order < b.2 then some (t.1, w.order) else a) none).map (fun x => x.1)

/-- The registers with which a thread continues after an exception (R350). -/
def excRegs (t code : Nat) : Tab Word := wSet (wSet [] 1 (BitVec.ofNat 32 t)) 2 (BitVec.ofNat 32 (0x100 + code))

/-- Thread `t` of engine `e` takes an event: the context's 512 bytes are its window, and EVWAIT answers 0 or the thread continues at
RESUME after an exception (R306, R336, R350). -/
def threadTake (s : State) (e t : Nat) (v : KEvent) : State :=
  let x := thrGet s e t
  match x.wait with
  | none => s
  | some w =>
    let x := match w.after with
      | some code => { x with regs := excRegs t code, pc := x.resume }
      | none => { x with regs := wSet x.regs w.rd 0 }
    let s := thrSet s e t { x with
      wait := none, event := some v, issued := 0, since := clusterCyc s e, reqs := [], ready := clusterCyc s e + engCost s e 20 13
      window := match v.ctx with | some c => (ctxGet s c).data | none => x.window }
    let s := match v.ctx with
      | some c =>
        let s := { s with rdr := { s.rdr with uses := s.rdr.uses + 1 } }
        ctxMod s c (fun y => { y with lastUse := s.rdr.uses, lastRun := some e })
      | none => s
    krnCount s e 0

/-- An engine dispatches events: it is RUNNING and READY and its cluster is on (R322). -/
def engDispatches (s : State) (e : Nat) : Bool := decide (engState s e = 2) && engReady s e && domOn s (engDomain e)

/-- Waiting threads take events, the longest waiting first, each the oldest that it may take (R306); `n` bounds them. -/
def krnDispatchN (e : Nat) : Nat → State → State
  | 0, s => s
  | n + 1, s =>
    let g := engGet s e
    match firstWaiter g, g.queue.find? (dispatchable g) with
    | some t, some v => krnDispatchN e n (threadTake (engSet s e { g with queue := g.queue.eraseP (dispatchable g) }) e t v)
    | _, _ => s

/-- Whatever threads of engine `e` can take an event now take it. -/
def krnDispatch (s : State) (e : Nat) : State := if engDispatches s e then krnDispatchN e 16 s else s

end Sys2Proof.Machine
end

