-- ==== Sys2Proof/Machine/Event.lean ====
section
/-!
DEFINITION. Posting events to the Kuern engines through the context map (R14, R304, R351, R352).
-/
namespace Sys2Proof.Machine

/-- What became of a posted event: in an engine's queue or the hold queue, dropped for the state of its context, or refused
for want of room. -/
inductive Posted where
  | taken | dropped | refused
  deriving DecidableEq, Repr

/-- The entries of an engine's event queue that an event may use: only TIMER, MAILBOX, SEND_DONE and AUTH_DONE use the last 32 (R304). -/
def queueLimit (kind : Nat) : Nat := if kind = 2 ∨ kind = 3 ∨ kind = 4 ∨ kind = 6 then 256 else 224

/-- The reference that a queued FRAME event holds (R175). -/
def eventRef (s : State) (v : KEvent) : State := if v.frame = noFrame then s else refAdd s v.frame

/-- Put an event into the queue of engine `e`; a waiting thread takes it if it can. -/
def queueEvent (s : State) (e : Nat) (v : KEvent) : State :=
  let g := engGet s e
  krnDispatch (regHigh (engSet s e { g with queue := g.queue ++ [v] }) (Reg.KRN_EVQ e) 31 16 (g.queue.length + 1)) e

/-- Post to the queue of engine `e`, if it has room. -/
def postQueue (s : State) (e : Nat) (v : KEvent) : Posted × State :=
  if (engGet s e).queue.length < queueLimit v.kind then (.taken, queueEvent (eventRef s v) e v) else (.refused, s)

/-- Post to the hold queue (R352): counted as held; a full queue refuses. -/
def postHold (s : State) (c : Nat) (v : KEvent) : Posted × State :=
  if s.rdr.hold.length < 2048 then
    let s := eventRef s v
    (.taken, rdrCount { s with rdr := { s.rdr with hold := s.rdr.hold ++ [(c, v)] } } 4)
  else (.refused, s)

/-- An event with FIRST set when it is the first for its context on this engine since placement (Table 12-3). -/
def withFirst (s : State) (c : Nat) (v : KEvent) : KEvent × State :=
  if (ctxGet s c).first then ({ v with first := true }, ctxMod s c (fun x => { x with first := false })) else (v, s)

/-- Post an event for context `c` through the map (R351). Events that were held before it keep their place, and the events of a
context whose engine wakes with its cluster wait in the hold queue (R355). -/
def postContext (s : State) (c : Nat) (v : KEvent) : Posted × State :=
  let x := ctxGet s c
  match x.mode with
  | .hot =>
    if x.moving.isSome || holds s c || engWaking s x.owner then postHold s c v
    else
      let r := withFirst s c v
      match postQueue r.2 x.owner r.1 with
      | (.taken, t) => (.taken, t)
      | _ => (.refused, s)
  | .cold =>
    match postHold s c v with
    | (.taken, t) => (.taken, pageWant t c)
    | p => p
  | .in_ => postHold s c v
  | .out => postHold s c v
  | .dormant => (.dropped, rdrCount s 5)
  | .poisoned => (.dropped, rdrCount s 6)
  | .orphan => (.dropped, rdrCount s 7)

/-- Post an event: with a context through the map, without one to engine `e` (R304, R351). -/
def post (s : State) (e : Nat) (v : KEvent) : Posted × State :=
  match v.ctx with
  | some c => postContext s c v
  | none => postQueue s e v

/-- Post an engine-generated event: it waits in its source while it finds no room, behind those that wait for the same queue,
and is never lost (R304). -/
def postOwn (s : State) (e : Nat) (v : KEvent) : State :=
  let wait := { s with krn := { s.krn with waiting := s.krn.waiting ++ [(e, v)] } }
  if s.krn.waiting.any (fun w => decide (w.1 = e)) then wait
  else
    match post s e v with
    | (.refused, _) => wait
    | (_, t) => t

/-- The event of a kind, with nothing in its fields; other kinds than FRAME carry the time of posting (Table 12-3). -/
def eventOf (s : State) (kind : Nat) (ctx : Option Nat) (arg0 arg1 : Word) (payload : List Byte) : KEvent :=
  { kind := kind, replay := false, first := false, ctx := ctx, frame := noFrame, port := 0, ns32 := nowNs32 s
    frac := s.clk.frac.toNat / 2 ^ 24, auth := 0, len := 0, stream := 0, arg0 := arg0, arg1 := arg1, payload := payload }

/-- Events that wait in their source find room now, oldest first, in order for each queue (R304). -/
def postWaiting (s : State) : List (Nat × KEvent) → State
  | [] => s
  | w :: t => postWaiting (postOwn s w.1 w.2) t

/-- Post a context's held events to its owner in posting order, as the engine's queue admits them (R358, R360, R361). -/
def postHeld (s : State) (c : Nat) : List (Nat × KEvent) → State
  | [] => s
  | h :: t =>
    if h.1 ≠ c then postHeld { s with rdr := { s.rdr with hold := s.rdr.hold ++ [h] } } c t
    else
      let x := ctxGet s c
      if (engGet s x.owner).queue.length < queueLimit h.2.kind ∧ holds s c = false then
        let r := withFirst s c h.2
        postHeld (queueEvent r.2 x.owner r.1) c t
      else postHeld { s with rdr := { s.rdr with hold := s.rdr.hold ++ [h] } } c t

/-- Release the held events of context `c` when it is HOT, not moving, and its engine does not wake. -/
def holdRelease (s : State) (c : Nat) : State :=
  let x := ctxGet s c
  if x.mode = .hot ∧ x.moving.isNone ∧ !engWaking s x.owner then
    let l := s.rdr.hold
    postHeld { s with rdr := { s.rdr with hold := [] } } c l
  else s

/-- Room has appeared in queues: held events and events that wait in their source are posted. -/
def postRoom (s : State) : State :=
  let cs := (s.rdr.hold.map (fun h => h.1)).dedup
  let s := cs.foldl holdRelease s
  let w := s.krn.waiting
  postWaiting { s with krn := { s.krn with waiting := [] } } w

/-- Drop the held and queued events of a context, releasing their references; counted under reason `k` of RDR_CNT. -/
def eventsDrop (s : State) (c k : Nat) : State :=
  let held := s.rdr.hold.filter (fun h => decide (h.1 = c))
  let e := (ctxGet s c).owner
  let g := engGet s e
  let queued := g.queue.filter (fun v => decide (v.ctx = some c))
  let s := { s with rdr := { s.rdr with hold := s.rdr.hold.filter (fun h => decide (h.1 ≠ c)) } }
  let s := engSet s e { g with queue := g.queue.filter (fun v => decide (v.ctx ≠ some c)) }
  (held.map (fun h => h.2) ++ queued).foldl (fun s v =>
    let s := rdrCount s k
    if v.frame = noFrame then s else refDrop s v.frame) s

/-- A mailbox message for engine `e` on channel `c` (R389): a MAILBOX event without a context. -/
def postMailbox (s : State) (e c : Nat) : State :=
  postOwn (krnCount s e 9) e (eventOf s 3 none (BitVec.ofNat 32 c) 0 [])

/-- Create context `c` from its declaration on engine `e` in slot `n` (Table 14-1, R368): CONTEXT_NEW is posted once the engine is
READY. -/
def ctxCreate (s : State) (c n e : Nat) (decl : List Byte) (reason : Nat) : State :=
  let flags := leAt decl 3 1
  let x : Ctx := { ctx0 with
    mode := .hot, owner := e, slot := some n, pinned := nbit flags 1, resident := nbit flags 2, mirror := nbit flags 3
    data := ctxInit s decl, weight := leAt decl 6 2, wasHot := true, lastUse := s.rdr.uses, declared := some (leAt decl 4 1)
    fresh := true, first := true }
  placeWake (journalNow (rdrCount (ctxSet s c x) 13) 1 reason c 0xFF e) e

/-- Post CONTEXT_NEW for the fresh contexts of an engine that is READY (R368). -/
def postFresh (s : State) (e : Nat) : State :=
  if engState s e = 2 ∧ engReady s e then
    (ctxLive s).foldl (fun s x =>
      if x.2.fresh && decide (x.2.owner = e) then
        postOwn (ctxMod s x.1 (fun y => { y with fresh := false })) e (eventOf s 7 (some x.1) 0 0 [])
      else s) s
  else s

end Sys2Proof.Machine
end

