-- ==== Sys2Proof/Machine/Completion.lean ====
section
/-!
DEFINITION. How work completes: the completion queues of the host functions (R431, R433), the two-step queues (R108), the
outcome of engine sends (R312).
-/
namespace Sys2Proof.Machine

/-! ### Two-step queues (R108, R109) -/

/-- Add 1 to a counter of the time block, whose COUNTER cause is bit 13 (Table 4-10). -/
def timCount (s : State) (a : Nat) : State := countBy s a Reg.TIM_CAUSE 13 1

/-- The group of a port: PQ0 to PQ3, or the uplinks. -/
def portGroup (p : Nat) : Nat := if p < 192 then p / 48 else 4

/-- The entries of a group's two-step queue. -/
def ts2Get (s : State) (g : Nat) : List Ts2 := tabGet (fun _ => []) s.clk.ts2 g

/-- The state with a two-step queue replaced. -/
def ts2Set (s : State) (g : Nat) (l : List Ts2) : State :=
  { s with clk := { s.clk with ts2 := tabSet (fun _ => []) s.clk.ts2 g l } }

/-- Free the entry of a port and tag: its record has been delivered. -/
def ts2Free (s : State) (x : Option (Nat × Nat)) : State :=
  match x with
  | none => s
  | some (p, tag) =>
    ts2Set s (portGroup p) ((ts2Get s (portGroup p)).eraseP (fun e => decide (e.port = p) && decide (e.tag = tag)))

/-- Record a departure in the two-step queue of a port's group (R108), or lose it when the queue holds 64 (R109). Answers 1 for
recorded, 2 for lost. -/
def ts2Take (s : State) (p tag : Nat) (ns32 : Word) (frac : Nat) : Nat × State :=
  let g := portGroup p
  let l := ts2Get s g
  if l.length < 64 then
    (1, regHigh (ts2Set s g (l ++ [{ port := p, tag := tag, ns32 := ns32, frac := frac }])) (Reg.TIM_TS2_LEVEL g) 31 16
      (l.length + 1))
  else (2, raise (timCount s (Reg.TIM_TS2_LOST p)) Reg.TIM_CAUSE 11)

/-! ### Queues and rings of a function -/

/-- The banked register at `off` of queue `q` of a kind: 0 SQ, 1 CQ, 2 TX, 3 RX (Table 17-13). -/
def hostQ (f kind q off : Nat) : Nat :=
  regKey f (0x1010000 + (if kind = 0 then 0 else if kind = 1 then 0x100 else if kind = 2 then 0x200 else 0x400) + 0x40 * q + off)

/-- CTL, DOORBELL and COUNT of a queue. -/
def qCtl (f kind q : Nat) : Nat := hostQ f kind q 8
def qDoorbell (f kind q : Nat) : Nat := hostQ f kind q 12
def qCount (f kind q : Nat) : Nat := hostQ f kind q 16

/-- EN and N of a queue. -/
def qOn (s : State) (f kind q : Nat) : Bool := regBit s (qCtl f kind q) 31
def qSize (s : State) (f kind q : Nat) : Nat := 2 ^ regFld s (qCtl f kind q) 27 24

/-- The base address of a queue. -/
def qBase (s : State) (f kind q : Nat) : Nat := hostAddr s (hostQ f kind q 0) (hostQ f kind q 4)

/-- Producer less consumer, modulo 2³². -/
def qDiff (a b : Word) : Nat := (a - b).toNat

/-- Count in HST_FCNT[k] of a function. -/
def fcnt (s : State) (f k : Nat) : State := count s (regKey f (Reg.HST_FCNT k)) Reg.HST_CAUSE

/-- Raise a cause of the host block and record it in HST_EVENT. -/
def hstRaise (s : State) (f kind q bit : Nat) : State :=
  raise (regSet s Reg.HST_EVENT (BitVec.ofNat 32 (bit * 2 ^ 24 + f * 256 + kind * 32 + q))) Reg.HST_CAUSE bit

/-! ### Completions (R433, Table 17-7) -/

/-- A completion with nothing in its optional fields. -/
def completion0 (index : Word) (kind source status : Nat) : Completion :=
  { index := index, kind := kind, source := source, status := status, detail := 0, tag := 0, rxinfo := 0, result := 0, ns32 := 0
    frac := 0, stream := 0, twoStep := none, release := none }

/-- The 32 bytes of a completion. -/
def completionBytes (c : Completion) (phase : Nat) : List Byte :=
  leBytes 4 c.index.toNat ++ leBytes 1 c.kind ++ leBytes 1 c.source ++ leBytes 1 c.status ++ leBytes 1 c.detail
    ++ leBytes 2 c.tag ++ leBytes 2 c.rxinfo ++ leBytes 4 c.result.toNat ++ leBytes 4 c.ns32.toNat ++ leBytes 1 c.frac
    ++ zeros 3 ++ leBytes 4 c.stream ++ zeros 3 ++ leBytes 1 phase

/-- What the write of a completion releases: its two-step entry (R108) and its received frame (R432). -/
def completionFree (s : State) (c : Completion) : State :=
  let s := ts2Free s c.twoStep
  match c.release with
  | some h => refDrop s h
  | none => s

/-- Write a completion as completion i of CQ `q`: PHASE is 1 − (⌊i / N⌋ mod 2); TAIL advances; the vector after every IRQ_EVERY. -/
def cqWrite (s : State) (f q : Nat) (c : Completion) : State :=
  let i := (regGet s (qCount f 1 q)).toNat
  let n := qSize s f 1 q
  let s := hostOrdered s f (qBase s f 1 q + i % n * 32) (completionBytes c (1 - i / n % 2))
  let s := completionFree (regSet s (qCount f 1 q) (BitVec.ofNat 32 (i + 1))) c
  let h := fnGet s f
  let k := tabGet (fun _ => 0) h.sinceIrq q + 1
  let every := regFld s (qCtl f 1 q) 15 0
  if every ≠ 0 ∧ every ≤ k then
    msix (fnSet s f { h with sinceIrq := tabSet (fun _ => 0) h.sinceIrq q 0 }) f (regFld s (qCtl f 1 q) 23 16)
  else fnSet s f { h with sinceIrq := tabSet (fun _ => 0) h.sinceIrq q k }

/-- The completions that a CQ owes. -/
def cqHeld (s : State) (f q : Nat) : List Completion := tabGet (fun _ => []) (fnGet s f).held q

/-- The state with the completions that a CQ owes replaced. -/
def cqHeldSet (s : State) (f q : Nat) (l : List Completion) : State :=
  let h := fnGet s f
  fnSet s f { h with held := tabSet (fun _ => []) h.held q l }

/-- A CQ has room: TAIL − HEAD is below N. -/
def cqRoom (s : State) (f q : Nat) : Bool :=
  decide (qDiff (regGet s (qCount f 1 q)) (regGet s (qDoorbell f 1 q)) < qSize s f 1 q)

/-- A completion that a RESYNC holds: of a frame already in the cistern or a calendar (R438). -/
def resyncHolds (s : State) (c : Completion) : Bool :=
  s.hst.paused && decide (c.kind = 2) && decide (c.status ≠ 1) && decide (c.status ≠ 11)

/-- Write the completions of a list that a CQ owes, in order, while it has room; those that a RESYNC holds are kept, `keep` the latest
first. -/
def cqDrainFrom (f q : Nat) (keep : List Completion) : List Completion → State → State
  | [], s => cqHeldSet s f q keep.reverse
  | c :: t, s =>
    if resyncHolds s c then cqDrainFrom f q (c :: keep) t s
    else if cqRoom s f q then cqDrainFrom f q keep t (cqWrite s f q c)
    else cqHeldSet s f q (keep.reverse ++ c :: t)

/-- Write what a CQ owes while it has room (R433, R438). -/
def cqDrain (s : State) (f q : Nat) : State := cqDrainFrom f q [] (cqHeld s f q) s

/-- Complete into CQ `q` (R426, R433): discarded for a disabled CQ, held for a full one, behind those already held, and while a
RESYNC holds it (R438). -/
def complete (s : State) (f q : Nat) (c : Completion) : State :=
  if !qOn s f 1 q then completionFree (fcnt s f 5) c
  else if resyncHolds s c || (cqHeld s f q).any (fun x => !resyncHolds s x) || !cqRoom s f q then
    cqHeldSet s f q (cqHeld s f q ++ [c])
  else cqWrite s f q c

/-! ### The end of a frame's service -/

/-- The CQ that a queue or ring names. -/
def qCq (s : State) (f kind q : Nat) : Nat := regFld s (qCtl f kind q) 1 0

/-- The port of a two-step entry, and the stamp of its record; a transmission that did not end well has an entry and no stamp. -/
abbrev TxStamp := Option (Nat × Option (Word × Nat))

/-- What a transmission on port `p` that did not end well leaves to its completion: its two-step entry, if it has one. -/
def txUnstamped (p : Nat) (t : TxFrame) : TxStamp := if t.twoStep = 1 then some (p, none) else none

/-- The completion of a TX descriptor (R431): with QUIET an OK is not written. -/
def txComplete (s : State) (f ring : Nat) (index : Word) (flags tag status : Nat) (stamp : TxStamp) : State :=
  let s := fcnt s f 1
  let entry := stamp.map (fun x => (x.1, tag))
  if nbit flags 5 && decide (status = 0) then ts2Free s entry
  else
    let c := { completion0 index 2 ring status with tag := tag, twoStep := entry }
    complete s f (qCq s f 2 ring) (match stamp with
      | some (_, some (ns32, frac)) => { c with ns32 := ns32, frac := frac }
      | _ => c)

/-- The outcome of an engine's send (R312, Table 12-5): LINK_DOWN reports as DROPPED (R513); counted; the SEND_DONE event falls due
when it was asked for. -/
def sendOutcome (s : State) (e : Nat) (ctx : Option Nat) (flags tag status : Nat) (stamp : TxStamp) : State :=
  let status := if status = 10 then 5 else status
  let s := if status ≠ 0 ∧ status ≠ 6 ∧ status ≠ 8 then krnCount s e 5 else s
  if nbit flags 5 || nbit flags 3 then
    let d : SendDone := match stamp with
      | some (p, some (ns32, frac)) =>
        { eng := e, ctx := ctx, tag := tag, status := status, ns32 := ns32, frac := frac, stamped := true, port := some p }
      | _ =>
        { eng := e, ctx := ctx, tag := tag, status := status, ns32 := 0, frac := 0, stamped := false, port := stamp.map (fun x => x.1) }
    { s with krn := { s.krn with sends := s.krn.sends ++ [d] } }
  else s

/-- Complete a frame to whoever injected it, once (R431, R312). `stamp` is the port and the departure of a two-step record; the entry of a
further copy of a frame that has completed is freed at once, since no completion will carry it (R108). -/
def frameComplete (s : State) (h status : Nat) (stamp : TxStamp) : State :=
  match frameGet s h with
  | none => s
  | some f =>
    if f.completed then ts2Free s (stamp.map (fun x => (x.1, f.tag)))
    else
      let s := frameSet s h (some { f with completed := true })
      match f.origin with
      | .host fn ring index => txComplete s fn ring index f.flags f.tag status stamp
      | .engine e _ ctx => sendOutcome s e ctx f.flags f.tag status stamp
      | _ => s

/-- Whether a frame completes when its transmission ends (R431): DIRECTED, TWO_STEP or LAUNCH. -/
def completesAtEnd (f : Frame) : Bool := nbit f.flags 0 || nbit f.flags 3 || nbit f.flags 4

/-- A destination of a frame is decided: queued, or refused, for a port reason or not. A frame that does not complete at its end
completes with the last of them (R431, R513). -/
def destDecided (s : State) (h : Nat) (queued port : Bool) : State :=
  match frameGet s h with
  | none => s
  | some f =>
    let f := { f with
      undecided := f.undecided - 1, queuedOn := f.queuedOn + b2n queued, portRefused := f.portRefused || port }
    let s := frameSet s h (some f)
    if f.undecided ≠ 0 then s
    else if completesAtEnd f then
      if f.queuedOn = 0 then frameComplete s h (if f.portRefused then 10 else 5) none else s
    else frameComplete s h (if f.queuedOn ≠ 0 then 0 else if f.portRefused then 10 else 5) none

end Sys2Proof.Machine
end

