-- ==== Sys2Proof/Machine/PortOps.lean ====
section
/-!
DEFINITION. Ports as shared operations: counters (R145 to R147), speed and wire time (Table 5-2), what a port refuses (R138 to
R143), output queues and calendars, link loss and return (R137 to R143), pause (R129 to R134) and pause requests (R194).
-/
namespace Sys2Proof.Machine

/-! ### Counters -/

/-- A port beside its registers, before anything has happened on it. -/
def port0 : PortX :=
  { phyLink := false, phyFull := false, phySpeed := 0, pcsUp := false, upSince := 0, hold := none, pause := [], wdHold := []
    stop := 0, pauseOut := [], refreshAt := none, loop := false, looped := [], line := 3, rx := none, furStart := none, tx := none }

/-- Port `p` beside its registers. -/
def portGet (s : State) (p : Nat) : PortX := tabGet (fun _ => port0) s.prt p

/-- The state with port `p` replaced. -/
def portSet (s : State) (p : Nat) (x : PortX) : State := { s with prt := tabSet (fun _ => port0) s.prt p x }

/-- Raise a cause of port `p`. -/
def portRaise (s : State) (p bit : Nat) : State := raise s (Reg.PRT_CAUSE p) bit

/-- A counter of port `p` reached half range: its bit and COUNTER (R146). -/
def portHalf (s : State) (p n : Nat) : State :=
  let a := if n < 32 then Reg.PRT_CNT_HALF_LO p else Reg.PRT_CNT_HALF_HI p
  portRaise (regSet s a (regGet s a ||| (1#32 <<< (n % 32)))) p 8

/-- Add 1 to frame counter `n` of port `p` (R145, R146). -/
def portCount (s : State) (p n : Nat) : State :=
  let a := Reg.PRT_CNT_LO p n
  let old := regGet s a
  let s := regSet s a (old + 1)
  if !old.getLsbD 31 && (old + 1).getLsbD 31 then portHalf s p n else s

/-- Bits [47:32] of a live 48-bit counter, by the address of its low word. -/
def cntHiGet (s : State) (a : Nat) : Nat := tabGet (fun _ => 0) s.cntHi a

/-- The state with bits [47:32] of a live 48-bit counter set. -/
def cntHiSet (s : State) (a v : Nat) : State := { s with cntHi := tabSet (fun _ => 0) s.cntHi a v }

/-- Add `k` octets to octet counter `n` of port `p` (R145, R146). -/
def portOctets (s : State) (p n k : Nat) : State :=
  let a := Reg.PRT_CNT_LO p n
  let old := cntHiGet s a * 2 ^ 32 + (regGet s a).toNat
  let new := (old + k) % 2 ^ 48
  let s := cntHiSet (regSet s a (BitVec.ofNat 32 new)) a (new / 2 ^ 32)
  if old < 2 ^ 47 ∧ 2 ^ 47 ≤ new then portHalf s p n else s

/-! ### State of a port -/

/-- PRT_CTL.EN, PRT_STAT.LINK, HOLDING, FLUSHING and EN_PENDING. -/
def portEn (s : State) (p : Nat) : Bool := regBit s (Reg.PRT_CTL p) 0
def portLink (s : State) (p : Nat) : Bool := regBit s (Reg.PRT_STAT p) 0
def portHolding (s : State) (p : Nat) : Bool := regBit s (Reg.PRT_STAT p) 13
def portFlushing (s : State) (p : Nat) : Bool := regBit s (Reg.PRT_STAT p) 14
def portPending (s : State) (p : Nat) : Bool := regBit s (Reg.PRT_STAT p) 15

/-- The speed a port runs at: 0 to 2 for 10, 100 and 1000 Mb/s, 3 for 10 Gb/s, 4 for 25 Gb/s. -/
def portSpeed (s : State) (p : Nat) : Nat :=
  if p < 192 then regFld s (Reg.PRT_STAT p) 9 8 else if uplinkMode s (p - 192) = 1 then 3 else 4

/-- The time of one byte at a speed, in units of 10 ps. -/
def byteTime (speed : Nat) : Nat :=
  if speed = 0 then 80000 else if speed = 1 then 8000 else if speed = 2 then 800 else if speed = 3 then 80 else 32

/-- One pause quantum, 512 bit times, in units of 10 ps (Table 5-2). -/
def quantumTime (speed : Nat) : Nat := 64 * byteTime speed

/-- Running time in units of 10 ps. -/
def runUnits (s : State) : Nat := s.run * 100

/-- Why a port takes no new frame (R138, R141 to R143): the counter of the refusal, DROP_LINK_DOWN or DROP_DISABLED. A port that
is disabled refuses as DISABLED, also while it flushes; while an enable waits for the flush (EN_PENDING) it refuses as LINK_DOWN (DESIGN
CHOICE, log entry 21). -/
def portRefusal (s : State) (p : Nat) : Option Nat :=
  if !domOn s (portDomain p) then some 41
  else if !portEn s p && !portPending s p then some 42
  else if portFlushing s p || !portLink s p then some 41
  else none

/-! ### Furrow membership (R217) -/

/-- The domain and the channel of a Furrow member port (true for B). -/
def furMember (s : State) (p : Nat) : Option (Nat × Bool) :=
  if p < 200 ∧ regBit s (Reg.FUR_PORT_STAT p) 31 then
    some (regFld s (Reg.FUR_PORT_STAT p) 30 29, regBit s (Reg.FUR_PORT_STAT p) 28)
  else none

/-- STATE of a member port: 0 NONE, 1 DOWN, 2 JOINING, 3 ACTIVE, 4 CONTAINED (Table 9-8). -/
def furPortState (s : State) (p : Nat) : Nat := regFld s (Reg.FUR_PORT_STAT p) 2 0

/-- Move a member port to a state; entry to JOINING or DOWN resets its violation run (R235). -/
def furPortTo (s : State) (p st : Nat) : State :=
  let s := regSetFld s (Reg.FUR_PORT_STAT p) 2 0 st
  let s := if st = 1 ∨ st = 2 then regSetFld s (Reg.FUR_PORT_STAT p) 5 4 0 else s
  { s with fur := { s.fur with
      joined := tabSet (fun _ => false) s.fur.joined p false
      contained := tabSet (fun _ => 0) s.fur.contained p 0 } }

/-- STATE of a Furrow domain: 0 OFF, 1 LISTEN, 2 WAITING, 3 RUNNING (Table 9-16). -/
def furState (s : State) (d : Nat) : Nat := regFld s (Reg.FUR_STAT d) 2 0

/-- The FURROW section a domain runs, and a field of its settings (Table 9-9). -/
def furSection (s : State) (d : Nat) : Option ImgSection := unitSection s 6 d d
def furField (s : State) (d off len : Nat) : Nat :=
  match arrayRec (furSection s d) 0x0601 0 with
  | some r => leAt r off len
  | none => 0

/-- The port speed that SPEED of a domain names (Table 9-9). -/
def furSpeed (s : State) (d : Nat) : Nat := furField s d 2 1

/-- A member port's link came up (R218, R235): it joins at the domain's speed, else it is a speed fault. -/
def furLinkUp (s : State) (p : Nat) : State :=
  match furMember s p with
  | none => s
  | some (d, _) =>
    if portSpeed s p = furSpeed s d then
      let s := regSetFld s (Reg.FUR_PORT_STAT p) 3 3 0
      if furPortState s p = 1 then furPortTo s p 2 else s
    else
      let s := regSetFld (if 1 < furPortState s p then furPortTo s p 1 else s) (Reg.FUR_PORT_STAT p) 3 3 1
      raise (regSet s Reg.FUR_EVENT (BitVec.ofNat 32 (d * 256 + p))) Reg.FUR_CAUSE 8

/-- A member port's link went down or the port was disabled (R235). -/
def furLinkDown (s : State) (p : Nat) : State :=
  match furMember s p with
  | none => s
  | some _ => if furPortState s p = 0 then s else furPortTo (regSetFld s (Reg.FUR_PORT_STAT p) 3 3 0) p 1

/-! ### Output queues -/

/-- Place a frame on the queue of a destination (R181): one reference. -/
def queuePut (s : State) (h p : Nat) : State :=
  match frameGet s h with
  | none => s
  | some f =>
    let q := queueKey p f.tc (outDistrict s p f.district)
    refAdd (queueSet s q (queueGet s q ++ [{ handle := h, since := s.run, siphon := none }])) h

/-- Take a destination off a frame: its cells are no longer charged to that queue. -/
def destRemove (s : State) (h p : Nat) : State :=
  frameMod s h (fun f => { f with dests := f.dests.filter (fun x => decide (x.port ≠ p)) })

/-- A destination of a frame that the frame's queue entry or calendar entry leaves without being sent: uncharged, unreferenced,
and completed with a status if the frame waits for its end (R513). -/
def entryGone (s : State) (p : Nat) (e : QEntry) (status : Nat) : State :=
  match e.siphon with
  | some _ => refDrop s e.handle
  | none =>
    let s := match frameGet s e.handle with
      | some f => if completesAtEnd f then frameComplete s e.handle status none else s
      | none => s
    refDrop (destRemove s e.handle p) e.handle

/-- The districts whose queues a port has: its own, or all eight for a host port. -/
def portDistricts (s : State) (p : Nat) : List Nat :=
  if p < 200 then (match portDistrict s p with | some d => [d] | none => []) else List.range 8

/-- The keys of a port's queues. -/
def portQueues (s : State) (p : Nat) : List Nat :=
  (portDistricts s p).flatMap (fun d => (List.range 8).map (fun c => queueKey p c d))

/-! ### Launch calendars (R110 to R113) -/

/-- The calendar of a group. -/
def calGet (s : State) (g : Nat) : List CalEntry := tabGet (fun _ => []) s.clk.cal g

/-- The state with a calendar replaced. -/
def calSet (s : State) (g : Nat) (l : List CalEntry) : State :=
  { s with clk := { s.clk with cal := tabSet (fun _ => []) s.clk.cal g l } }

/-- The policy of a calendar without a record: SEND_LATE, no guard, 100 ns tolerance (R117). -/
def calPolicy0 : CalPolicy := { drop := false, guard := 0, tol := 100 }

/-- The policy in force of a calendar. -/
def calPolicy (s : State) (g : Nat) : CalPolicy := tabGet (fun _ => calPolicy0) s.clk.policy g

/-- target − now, signed, in ns. -/
def targetIn (s : State) (t : Word) : Int := (t - nowNs32 s).toInt

/-- A port's calendar entry that is due first: the least target, and of equal ones the first entered (R111). -/
def calFirst (s : State) (p : Nat) : Option CalEntry :=
  ((calGet s (portGroup p)).filter (fun e => decide (e.port = p))).foldl (fun a e =>
    match a with
    | none => some e
    | some b =>
      if targetIn s e.target < targetIn s b.target ∨ (targetIn s e.target = targetIn s b.target ∧ e.seq < b.seq) then some e
      else some b) none

/-- Take an entry out of its calendar. -/
def calRemove (s : State) (e : CalEntry) : State :=
  let g := portGroup e.port
  calSet s g ((calGet s g).filter (fun x => decide (x.seq ≠ e.seq)))

/-- Free a calendar frame that will not be sent, with a status. -/
def calGone (s : State) (e : CalEntry) (status : Nat) : State :=
  let s := frameComplete (calRemove s e) e.handle status none
  refDrop (destRemove s e.handle e.port) e.handle

/-- Reject every waiting calendar entry whose target a step or set has moved too far ahead (R110). -/
def calRecheck (s : State) : State :=
  (List.range 5).foldl (fun s g =>
    ((calGet s g).filter (fun e => decide (2000000000 < targetIn s e.target))).foldl (fun s e =>
      calGone (raise (timCount s (Reg.TIM_CAL_RANGE g)) Reg.TIM_CAUSE 9) e 3) s) s

/-- Enter a frame with a launch target into the calendar of its port (R110), or reject and free it. The frame's calendar entry
holds a reference as a queue entry does. -/
def calEnter (s : State) (h p : Nat) (target : Word) : State :=
  let g := portGroup p
  let d := targetIn s target
  let reject := fun (s : State) (status : Nat) => destRemove (frameComplete s h status none) h p
  if 2000000000 < d ∨ d < -147483647 then
    reject (raise (timCount s (Reg.TIM_CAL_RANGE g)) Reg.TIM_CAUSE 9) 3
  else if (if g < 4 then 1024 else 256) ≤ (calGet s g).length then reject (raise s Reg.TIM_CAUSE 10) 4
  else
    let e : CalEntry := { port := p, target := target, handle := h, seq := s.clk.calSeq }
    let s := calSet s g (calGet s g ++ [e])
    let s := regHigh s (Reg.TIM_CAL_LEVEL g) 31 16 (calGet s g).length
    refAdd { s with clk := { s.clk with calSeq := s.clk.calSeq + 1 } } h

/-- Whether a launch guard lets a port start `len` bytes, frame check included, now: with preamble, gap and GUARD_NS they end before
the preamble of the next launch (R112). -/
def launchClear (s : State) (p len : Nat) : Bool :=
  match calFirst s p with
  | none => true
  | some e =>
    let b := byteTime (portSpeed s p)
    let need : Int := (((len + 28) * b + (calPolicy s (portGroup p)).guard * 100 : Nat) : Int) * 2 ^ 32
    decide (need ≤ (targetIn s e.target * 2 ^ 32 - s.clk.frac.toNat) * 100)

/-! ### Flush and link state -/

/-- Free every frame queued for a port (R140): each counts in DROP_FLUSH; calendar entries are freed as LINK_DOWN. -/
def portEmpty (s : State) (p : Nat) : State :=
  let s := (portQueues s p).foldl (fun s q =>
    let l := queueGet s q
    l.foldl (fun s e => entryGone (if p < 200 then portCount s p 44 else s) p e 10) (queueSet s q [])) s
  let own := (calGet s (portGroup p)).filter (fun e => decide (e.port = p))
  own.foldl (fun s e => calGone s e 10) s

/-- Begin a flush: FLUSHING until it ends (R140, R142, R143). -/
def portFlush (s : State) (p : Nat) : State :=
  let x := portGet s p
  let s := portSet s p { x with hold := none, pauseOut := [] }
  portEmpty (regSetFld (regSetFld s (Reg.PRT_STAT p) 13 13 0) (Reg.PRT_STAT p) 14 14 1) p

/-- The frame that a looped port is sending to itself ends: whole, or after some bytes (R128). -/
def loopEnd (s : State) (p : Nat) (cut : Option Nat) : State :=
  let x := portGet s p
  if x.loop then portSet s p { x with looped := x.looped.map (fun e => if e.fate.isNone then { e with fate := some cut } else e) } else s

/-- A frame leaves on the line, which a looped port leaves idle (R128). -/
def lineFrame (s : State) (p : Nat) (bytes : List Byte) (cut : Bool) : State :=
  if (portGet s p).loop then s else emit s (.frame p bytes cut)

/-- A frame in transmission is lost after `sent` octets: TX_ABORT (R137, R144). -/
def txLost (s : State) (p sent : Nat) : State :=
  match (portGet s p).tx with
  | none => s
  | some t =>
    let s := loopEnd (portSet s p { portGet s p with tx := none }) p (some sent)
    let s := portOctets (portCount s p 40) p 24 sent
    let s := if t.siphon then s
      else destRemove (match frameGet s t.handle with
        | some f => if completesAtEnd f then frameComplete s t.handle 10 (txUnstamped p t) else s
        | none => s) t.handle p
    refDrop s t.handle

/-- Abort the frame in transmission: it ends on the wire after `sent` octets (R137). -/
def txAbort (s : State) (p sent : Nat) : State :=
  match (portGet s p).tx with
  | none => s
  | some t => txLost (lineFrame s p (t.bytes.take sent) true) p sent

/-- The end of a run of queue entries whose age, in whole µs of the age clock, exceeds a limit in ns (R198). -/
def staleDrop (s : State) (p q limit : Nat) (all : Bool) : List QEntry → State
  | [] => s
  | e :: t =>
    if limit / 1000 < (s.run - e.since) / 1000 then
      let s := queueSet s q ((queueGet s q).filter (fun x => decide (x ≠ e)))
      let s := count (if p < 200 then portCount s p 43 else s) (Reg.CIS_DROP 6) Reg.CIS_CAUSE
      staleDrop (entryGone s p e 5) p q limit all t
    else if all then staleDrop s p q limit all t
    else s

/-- MAX_AGE of a class in ns of running time; 0 is no limit (R198). -/
def maxAge (s : State) (d c : Nat) : Nat := regFld s (Reg.CIS_SCHED_CLASS d c) 31 16 * 1000000

/-- Drop the stale frames of a port's queue: every one at link return (R139), or the heads at a test (R198). -/
def queueAge (s : State) (p q : Nat) (all : Bool) : State :=
  let limit := maxAge s (q % 8) (q / 8 % 8)
  if limit = 0 then s else staleDrop s p q limit all (queueGet s q)

/-- The link of an enabled port returns (R139): the hold stops, stale frames are dropped, LINK_UP is raised; the kept speed is
compared (R103); a stop request that persists sends its frame again (R134). -/
def linkUp (s : State) (p : Nat) : State :=
  let x := portGet s p
  let s := regSetFld (regSetFld s (Reg.PRT_STAT p) 13 13 0) (Reg.PRT_STAT p) 0 0 1
  let speed := if p < 192 then (if x.loop then regFld s (Reg.PRT_STAT p) 9 8 else x.phySpeed) else 3
  let s := regSetFld s (Reg.PRT_STAT p) 9 8 speed
  let out := if x.stop = 0 then [] else [(x.stop, true)]
  let s := portSet s p { x with hold := none, pauseOut := out, refreshAt := none }
  let s := (portQueues s p).foldl (fun s q => queueAge s p q true) s
  let s :=
    if p < 192 ∧ tabGet (fun _ => 0) s.clk.keptSpeed p ≠ speed + 1 then
      raise { s with clk := { s.clk with keptSpeed := tabSet (fun _ => 0) s.clk.keptSpeed p (speed + 1) } } Reg.TIM_CAUSE 12
    else s
  furLinkUp (portRaise s p 0) p

/-! ### What the PCS reports (R120 to R123) -/

/-- The lane of a front port is in sync. -/
def laneSync (s : State) (n : Nat) : Bool := regBit s (Reg.PRT_LANE_STAT n) 0

/-- The speed that a PORT byte fixes: 1 + the speed, 0 for auto-negotiate. -/
def portFixed (s : State) (p : Nat) : Nat := portByte s p % 4

/-- A front port's PHY reports link, but not full duplex at an agreed speed (R121). -/
def portMismatch (s : State) (p : Nat) : Bool :=
  let x := portGet s p
  x.phyLink && (!x.phyFull || (decide (portFixed s p ≠ 0) && decide (portFixed s p ≠ x.phySpeed + 1)) || decide (2 < x.phySpeed))

/-- The PCS of an enabled port reports it up; a reported speed other than the one it runs at takes it down (R121 to R123). -/
def pcsReport (s : State) (p : Nat) : Bool :=
  let x := portGet s p
  if p < 192 then
    !trickleHas s p && laneSync s (p / 4) && x.phyLink && !portMismatch s p
      && (!portLink s p || decide (regFld s (Reg.PRT_STAT p) 9 8 = x.phySpeed))
  else decide (uplinkMode s (p - 192) ≠ 0) && regBit s (Reg.PRT_STAT p) 1 && !regBit s (Reg.PRT_STAT p) 2
    && !regBit s (Reg.PRT_STAT p) 3

/-- What a port's line carries (R123, R128, R142), as in `Out.line`: a disabled port holds its link down; a looped port sends idle; an uplink
sends remote fault while its receive side is not up, and idle while it receives remote fault. -/
def lineSends (s : State) (p : Nat) : Nat :=
  if !portEn s p then 3
  else if (portGet s p).loop then 2
  else if p < 192 then 0
  else if uplinkMode s (p - 192) = 0 then 3
  else if !regBit s (Reg.PRT_STAT p) 1 || regBit s (Reg.PRT_STAT p) 2 then 1
  else if regBit s (Reg.PRT_STAT p) 3 then 2
  else 0

/-- Put out what a port's line carries when that changes. -/
def lineEval (s : State) (p : Nat) : State :=
  let v := lineSends s p
  let x := portGet s p
  if x.line = v then s else emit (portSet s p { x with line := v }) (.line p v)

/-- Take up what the PCS reports: MISMATCH on its rise, and since when the PCS reports the port up. -/
def pcsEval (s : State) (p : Nat) : State :=
  let x := portGet s p
  let s :=
    if p < 192 then
      let m := portMismatch s p
      let s := if m && !regBit s (Reg.PRT_STAT p) 12 then portRaise s p 2 else s
      regSetFld s (Reg.PRT_STAT p) 12 12 (b2n m)
    else s
  let up := pcsReport s p
  lineEval (if up && !x.pcsUp then portSet s p { x with pcsUp := true, upSince := s.run }
    else portSet s p { x with pcsUp := up }) p

/-- The debounce of a port's link-up has completed (R139). -/
def debounced (s : State) (p : Nat) : Bool :=
  let x := portGet s p
  pcsReport s p && x.pcsUp && decide (x.upSince + regFld s (Reg.PRT_LINKHOLD p) 23 16 * 1000000 ≤ s.run)

/-! ### Pause (R129 to R134, R194) -/

/-- Whether a pause state of a port holds: classes 0 to 7, or 8 for the port. In the cycle of its timer's end a new pause time still finds
it held (R130, Table 1-10, log entry 93). -/
def pauseHolds (s : State) (p st : Nat) : Bool :=
  match tabGet (fun _ => none) (portGet s p).pause st with
  | some h => decide (runUnits s ≤ h.ends)
  | none => false

/-- Whether pause holds a class of a port. -/
def classPaused (s : State) (p c : Nat) : Bool := pauseHolds s p 8 || pauseHolds s p c

/-- Whether the watchdog's ignore window runs for a pause state. -/
def wdHolding (s : State) (p st : Nat) : Bool :=
  match tabGet (fun _ => none) (portGet s p).wdHold st with
  | some t => decide (s.run < t)
  | none => false

/-- Set or clear a pause state of a port. -/
def pauseSet (s : State) (p st : Nat) (h : Option PauseHold) : State :=
  let x := portGet s p
  portSet s p { x with pause := tabSet (fun _ => none) x.pause st h }

/-- Load a pause time of some quanta (R130): zero releases; a time that reloads a state that still holds keeps its start (R131). -/
def pauseLoad (s : State) (p st quanta : Nat) : State :=
  if quanta = 0 then pauseSet s p st none
  else
    let since := match tabGet (fun _ => none) (portGet s p).pause st with
      | some h => if pauseHolds s p st then h.since else s.run
      | none => s.run
    pauseSet s p st (some { ends := runUnits s + quanta * quantumTime (portSpeed s p), since := since })

/-- PRT_FC.MODE: 1 PAUSE, 2 PFC, anything else off. -/
def pauseMode (s : State) (p : Nat) : Nat := regFld s (Reg.PRT_FC p) 1 0

/-- Whether the port may send pause frames: TX_EN, and not a Furrow member (R129, R133). -/
def pauseMaySend (s : State) (p : Nat) : Bool := regBit s (Reg.PRT_FC p) 3 && (furMember s p).isNone

/-- A stop or a release request of one pause state (R133, R134): a frame waits for the next frame boundary. -/
def pauseAsk (s : State) (p st : Nat) (stop : Bool) : State :=
  let x := portGet s p
  let bit : BitVec 9 := 1#9 <<< st
  let keep := if stop then x.stop ||| bit else x.stop &&& ~~~bit
  let out := if portLink s p then x.pauseOut ++ [(bit, stop)] else x.pauseOut
  let refresh := if keep = 0 then none else x.refreshAt
  portSet s p { x with stop := keep, pauseOut := out, refreshAt := refresh }

/-- Compare one count with the thresholds of a port (R194). -/
def pauseTest (s : State) (p st cells : Nat) : State :=
  let xoff := regFld s (Reg.CIS_PAUSE_TH p) 31 16
  let xon := regFld s (Reg.CIS_PAUSE_TH p) 15 0
  let on := (portGet s p).stop.getLsbD st
  if xoff ≠ 0 ∧ xoff ≤ cells ∧ !on then pauseAsk s p st true
  else if on ∧ (cells ≤ xon ∨ xoff = 0) then pauseAsk s p st false
  else s

/-- Pause requests of one port (R194). -/
def pauseEval (s : State) (p : Nat) : State :=
  if pauseMode s p = 1 then pauseTest s p 8 (ingressCells s p)
  else if pauseMode s p = 2 then
    (List.range 8).foldl (fun s c =>
      if regBit s (Reg.PRT_FC p) (24 + c) then pauseTest s p c (ingressClassCells s p c) else s) s
  else s

/-- The ports whose thresholds are set: only a listed CIS_PAUSE_TH can be other than 0. -/
def pausePorts (s : State) : List Nat :=
  s.regs.filterMap (fun e =>
    if 0x730000 ≤ e.1 ∧ e.1 < 0x730000 + 4 * 200 then some ((e.1 - 0x730000) / 4) else none)

/-- Pause requests of every port after cells have been taken or freed (R194). -/
def pauseSweep (s : State) : State := (pausePorts s).foldl pauseEval s

/-- An event that takes or frees cells: the cistern's pause requests follow it. -/
def flowEvent (s : State) (k : State → State) : Answer := event s (fun s => pauseSweep (k s))

end Sys2Proof.Machine
end

