-- ==== Sys2Proof/Machine/HeadgateOps.lean ====
section
/-!
DEFINITION. Stages 1 to 8 of the headgate as shared operations (R149 to R171): port role, VLAN, redundancy, streams, policing and
authentication.
-/
namespace Sys2Proof.Machine

/-! ### Tables -/

/-- A port-role record: PVID 1, priority n to TCn, group 0, role NONE, ACCEPT ALL for a port without one (R153). -/
def role0 : List Byte := [1, 0, 0x88, 0xC6, 0xFA, 0, 0, 0]
def roleGet (s : State) (p : Nat) : List Byte := tabGet (fun _ => role0) s.hdg.roles p

/-- ROLE of a port: 0 NONE, 1 PRP_A, 2 PRP_B, 3 HSR_A, 4 HSR_B, 5 INTERLINK; and its redundancy set. -/
def portRole (s : State) (p : Nat) : Nat := nbits (leAt (roleGet s p) 6 1) 2 0
def portSetNo (s : State) (p : Nat) : Nat := nbits (leAt (roleGet s p) 6 1) 4 3

/-- GROUP and PVID of a port. -/
def portVlanGroup (s : State) (p : Nat) : Nat := leAt (roleGet s p) 5 1 % 64
def portPvid (s : State) (p : Nat) : Nat := leAt (roleGet s p) 0 2 % 4096

/-- A VLAN entry (Table 6-3). -/
def vlanGet (s : State) (v : Nat) : List Byte := tabGet (fun _ => zeros 16) s.hdg.vlans v
def vlanValid (s : State) (v : Nat) : Bool := nbit (leAt (vlanGet s v) 11 1) 0
def vlanHas (s : State) (v g : Nat) : Bool := nbit (leAt (vlanGet s v) 0 8) g
def vlanFid (s : State) (v : Nat) : Nat := leAt (vlanGet s v) 8 2 % 4096
def vlanDistrict (s : State) (v : Nat) : Nat := leAt (vlanGet s v) 10 1 % 8

/-- A stream entry (Table 6-4); KEY_TYPE 0 is empty. -/
def streamGet (s : State) (i : Nat) : List Byte := tabGet (fun _ => zeros 32) s.hdg.streams i

/-- The 17 key bytes of an entry: KEY_TYPE and KEY. -/
def streamKeyOf (r : List Byte) : List Byte := r.take 1 ++ slice r 4 16

/-- The bucket of a key (R157). -/
def streamBucket (key : List Byte) : Nat := (crc32c key).toNat % 16384

/-- The stream ID of a key: its bucket's ways, then the CAM (R157). -/
def streamFind (s : State) (key : List Byte) : Option Nat :=
  let b := streamBucket key
  ((List.range 4).map (fun w => 4 * b + w) ++ (tabKeys (fun i _ => decide (65536 ≤ i)) s.hdg.streams)).find?
    (fun i => decide (streamKeyOf (streamGet s i) = key))

/-- Count a headgate drop (R172). -/
def hdgDrop (s : State) (r : Nat) : State := count s (Reg.HDG_DROP r) Reg.HDG_CAUSE

/-- Count in HDG_RSET_CNT[set][k]. -/
def rsetCount (s : State) (set k : Nat) : State := count s (Reg.HDG_RSET_CNT set k) Reg.HDG_CAUSE

/-! ### Redundancy (R162 to R166) -/

/-- The ports of a set with a role. -/
def setPorts (s : State) (set role : Nat) : List Nat :=
  (List.range 200).filter (fun p => decide (portRole s p = role) && decide (portSetNo s p = set) && decide (role ≠ 0))

/-- PRT_MACADDR of a port as a number, first byte on the wire highest. -/
def portMac (s : State) (p : Nat) : Nat := regFld s (Reg.PRT_MACADDR_HI p) 15 0 * 2 ^ 32 + (regGet s (Reg.PRT_MACADDR_LO p)).toNat

/-- The entries of the node table. -/
def nodesAll (s : State) : List (Nat × Node) :=
  s.hdg.nodes.filterMap (fun e => match e.2 with | some n => some (e.1, n) | none => none)

/-- The entry of a source address and set. -/
def nodeFind (s : State) (mac set : Nat) : Option (Nat × Node) :=
  (nodesAll s).find? (fun e => decide (e.2.mac = mac) && decide (e.2.set = set))

/-- The state with a node entry replaced. -/
def nodeSet (s : State) (i : Nat) (n : Option Node) : State :=
  { s with hdg := { s.hdg with nodes := tabSet (fun _ => none) s.hdg.nodes i n } }

/-- A free node entry (log entry 7). -/
def nodeFree (s : State) : Option Nat × State :=
  let used := (nodesAll s).map (fun e => e.1)
  let free := keepFrom (fun i => !used.contains i) 8192 0
  if free.isEmpty then (none, s)
  else
    let r := freePick s free.length
    (free[r.1]?, r.2)

/-- Count in NODE_FULL and raise the cause (R164). -/
def nodeFull (s : State) (set : Nat) : State := raise (rsetCount s set 6) Reg.HDG_CAUSE 1

/-- What R165 makes of sequence `seq` at an entry: none for a duplicate, else top and window as they become, and whether the window
was reset. -/
def windowJudge (top : Nat) (window : BitVec 256) (seq : Nat) : Option (Nat × BitVec 256 × Bool) :=
  let d : Int := (BitVec.ofNat 16 (seq + 65536 - top)).toInt
  if 0 < d then some (seq, (window <<< d.toNat) ||| 1#256, false)
  else if -255 ≤ d then
    if window.getLsbD (-d).toNat then none else some (top, window ||| (1#256 <<< (-d).toNat), false)
  else some (seq, 1#256, true)

/-- The answer of stage 4 for a frame: pass, drop with a reason, or wait on a pending bit. -/
inductive RedAnswer where
  | pass | drop (r : Nat) | wait
  deriving DecidableEq, Repr

/-- A pending bit takes its place at an entry: the other LAN's pending frame can no longer be restored whole (R166). -/
def nodePend (n : Node) (lanB : Bool) (pb : PendBit) : Node :=
  if lanB then { n with pendB := some pb, pendA := n.pendA.map (fun x => { x with saved := none }) }
  else { n with pendA := some pb, pendB := n.pendB.map (fun x => { x with saved := none }) }

/-- Duplicate discard of a frame with a recognised tag or trailer (R164 to R166). `top` 65536 in a saved pair stands for an entry
that did not exist. -/
def redJudge (s : State) (h mac : Nat) (t : RedTag) : RedAnswer × State :=
  match nodeFind s mac t.set with
  | none =>
    let r := nodeFree s
    match r.1 with
    | none => (.pass, nodeFull s t.set)
    | some i =>
      let n : Node := { mac := mac, set := t.set, proxy := false, top := t.seq, window := 1, send := 0, last := s.run
                        forgotten := false, pendA := none, pendB := none }
      (.pass, nodeSet r.2 i (some (nodePend n t.lanB { handle := h, seq := t.seq, saved := some (65536, 0) })))
  | some (i, n) =>
    let other := if t.lanB then n.pendA else n.pendB
    let forgotten := n.forgotten || decide (n.last + regFld s Reg.HDG_NODE_CFG 31 16 * 1000000 < s.run)
    let n := { n with last := s.run, forgotten := false }
    let pb : PendBit := { handle := h, seq := t.seq, saved := some (n.top, n.window) }
    if forgotten then
      (.pass, rsetCount (nodeSet s i (some (nodePend { n with top := t.seq, window := 1 } t.lanB pb))) t.set 4)
    else
      match windowJudge n.top n.window t.seq with
      | none =>
        match other with
        | some o => if o.seq = t.seq then (.wait, nodeSet s i (some n)) else (.drop 4, rsetCount (nodeSet s i (some n)) t.set 2)
        | none => (.drop 4, rsetCount (nodeSet s i (some n)) t.set 2)
      | some (top, window, reset) =>
        let s := nodeSet s i (some (nodePend { n with top := top, window := window } t.lanB pb))
        (.pass, if reset then rsetCount s t.set 4 else s)

/-- The frames that wait on the bit of a sequence number of a node. -/
def redWaiters (s : State) (mac : Nat) (t : RedTag) : List Nat :=
  (frameAll s).filterMap (fun e =>
    if e.2.waiting then
      match e.2.red with
      | some u => if u.set = t.set ∧ u.seq = t.seq ∧ srcMac e.2.bytes = mac then some e.1 else none
      | none => none
    else none)

/-- The accepted bit of a frame whose check passed becomes firm (R166); answers whether the frame had one. -/
def redFirm (s : State) (h mac : Nat) (t : RedTag) : Bool × State :=
  match nodeFind s mac t.set with
  | none => (false, s)
  | some (i, n) =>
    let mine := if t.lanB then n.pendB else n.pendA
    match mine with
    | some pb =>
      if pb.handle = h then
        let n := if t.lanB then { n with pendB := none } else { n with pendA := none }
        (true, rsetCount (nodeSet s i (some n)) t.set (b2n t.lanB))
      else (false, s)
    | none => (false, s)

/-- The accepted bit of a frame whose check failed is taken back (R166), which changes the entry for the other LAN's pending frame. -/
def redRestore (s : State) (h mac : Nat) (t : RedTag) : State :=
  match nodeFind s mac t.set with
  | none => s
  | some (i, n) =>
    let mine := if t.lanB then n.pendB else n.pendA
    match mine with
    | some pb =>
      if pb.handle ≠ h then s
      else
        let keep := fun (o : Option PendBit) => o.map (fun x => { x with saved := none })
        let n := if t.lanB then { n with pendB := none, pendA := keep n.pendA } else { n with pendA := none, pendB := keep n.pendB }
        match pb.saved with
        | some (top, window) => if top = 65536 then nodeSet s i none else nodeSet s i (some { n with top := top, window := window })
        | none =>
          let k := (n.top + 65536 - pb.seq) % 65536
          let n := if k < 256 then { n with window := n.window &&& ~~~(1#256 <<< k) } else n
          nodeSet s i (some n)
    | none => s

/-! ### Policing (R168) -/

/-- The level of a bucket now, in units of 1/8,000,000 byte: RATE_KBPS × 125 bytes a second is RATE_KBPS units a ns. -/
def policerLevel (s : State) (x : Policer) : Nat := min (x.burst * 8000000) (x.level + (s.run - x.since) * x.rate)

/-- Take a frame of `len` bytes from policer `i`: whether it conforms. A policer without a record passes every frame. -/
def policerTake (s : State) (i len : Nat) : Bool × State :=
  match tabGet (fun _ => none) s.hdg.policers i with
  | none => (true, s)
  | some x =>
    let level := policerLevel s x
    let put := fun (l : Nat) =>
      { s with hdg := { s.hdg with
          policers := tabSet (fun _ => none) s.hdg.policers i (some { x with level := l, since := s.run }) } }
    if len * 8000000 ≤ level then (true, put (level - len * 8000000)) else (false, put level)

/-! ### Stages 1 to 7 -/

/-- Mark a frame as dropped by stages 1 to 7. -/
def markDrop (s : State) (h r : Nat) : State := frameMod s h (fun f => { f with drop := some r })

/-- Stages 5 to 7: stream, stream action and policing (R156 to R158, R168). -/
def stages567 (s : State) (h : Nat) : State :=
  match frameGet s h with
  | none => s
  | some f =>
    let role := portRole s f.ingress
    let pr := parseFrame f.bytes (role = 3 || role = 4) (role = 1 || role = 2)
    match streamFind s (streamKey f.bytes pr f.vid) with
    | none =>
      if isReserved (dstMac f.bytes) then markDrop s h 7 else s
    | some i =>
      let r := streamGet s i
      let act := leAt r 1 1
      let auth := leAt r 2 1
      let pol := leAt r 24 2
      let s := frameSet s h (some { f with
        stream := i, action := act % 8, tc := if nbit act 4 then act / 32 else f.tc
        authMode := auth % 4, authAlg := nbits auth 4 2, keyIndex := leAt r 3 1
        context := leAt r 20 2, confStream := leAt r 22 2 % 1024 })
      if nbit act 3 then markDrop s h 6
      else if nbit pol 15 then
        let q := policerTake s (pol % 1024) (frameLen f.bytes)
        if q.1 then q.2 else markDrop q.2 h 8
      else s

/-- Stage 4 and what follows it. -/
def stages4567 (s : State) (h : Nat) : State :=
  match frameGet s h with
  | none => s
  | some f =>
    let role := portRole s f.ingress
    let set := portSetNo s f.ingress
    let mac := srcMac f.bytes
    let own := (decide (role = 3) || decide (role = 4)) &&
      ((setPorts s set 3 ++ setPorts s set 4).any (fun p => decide (portMac s p = mac))
        || (match nodeFind s mac set with | some (_, n) => n.proxy | none => false))
    if own then markDrop (rsetCount s set 5) h 5
    else
      match f.red with
      | none => stages567 s h
      | some t =>
        match redJudge s h mac t with
        | (.pass, s) => stages567 s h
        | (.drop r, s) => markDrop s h r
        | (.wait, s) => frameMod s h (fun f => { f with waiting := true })

/-- Stages 1 to 7 on the frame of a handle (R149 to R158, R168). -/
def headgate (s : State) (h : Nat) : State :=
  match frameGet s h with
  | none => s
  | some f =>
    let p := f.ingress
    let role := portRole s p
    let hsrPort := decide (role = 3) || decide (role = 4)
    let prpPort := decide (role = 1) || decide (role = 2)
    let pr := parseFrame f.bytes hsrPort prpPort
    let rec8 := roleGet s p
    let flags := leAt rec8 7 1
    let tci := match pr.tag with
      | some t => t
      | none => 0
    let vidTag := tci % 4096
    let tagged := pr.tag.isSome && decide (vidTag ≠ 0)
    let vid := if tagged then vidTag else portPvid s p
    let pcp := if pr.tag.isSome then tci / 8192 else nbits flags 6 4
    let tc := leAt rec8 2 3 / 8 ^ pcp % 8
    let red : Option RedTag :=
      match pr.hsr, pr.prp with
      | some seq, _ => some { set := portSetNo s p, lanB := decide (role = 4), seq := seq, hsr := true }
      | none, some (seq, _) => some { set := portSetNo s p, lanB := decide (role = 2), seq := seq, hsr := false }
      | none, none => none
    let s := match pr.prp with
      | some (_, lan) => if lan ≠ (if role = 1 then 0xA else 0xB) then rsetCount s (portSetNo s p) 3 else s
      | none => s
    let s := frameSet s h (some { f with vid := vid, pcp := pcp, tc := tc, red := red })
    let accept := flags % 4
    if pr.bad || (hsrPort && pr.hsr.isNone) then markDrop s h 0
    else if (accept = 1 ∧ !tagged) ∨ (accept = 2 ∧ tagged) then markDrop s h 1
    else if vidTag = 4095 ∧ pr.tag.isSome then markDrop s h 2
    else if !vlanValid s vid then markDrop s h 2
    else if (nbit flags 2 && !vlanHas s vid (portVlanGroup s p)) || decide (some (vlanDistrict s vid) ≠ portDistrict s p) then
      markDrop s h 3
    else stages4567 s h

/-! ### Authentication (R169 to R171) -/

/-- Slot 0 CURRENT or 1 NEXT of a key-table entry. -/
def keyGet (s : State) (entry slot : Nat) : Option Key := tabGet (fun _ => none) s.hdg.keys (2 * entry + slot)

/-- Bytes of a tag by algorithm (Table 6-7). -/
def tagLen (alg : Nat) : Nat := if alg = 1 then 10 else if alg = 2 then 16 else if alg = 3 then 32 else if alg = 4 then 8 else 16

/-- The tag a key makes over the covered bytes: HMAC-SHA256 truncated, or AES-GMAC with the first 16 key bytes (Table 6-7). -/
def tagOf (alg : Nat) (key iv covered : List Byte) : List Byte :=
  if alg ≤ 3 then (beBytes 32 (Config.hmacSha256 key covered).toNat).take (tagLen alg)
  else (beBytes 16 (Config.gmac (key.take 16) iv covered).toNat).take (tagLen alg)

/-- Lanes of the headgate: SHA-256 (larger values act as 16) and GHASH (R169). -/
def shaLanes (s : State) : Nat := min 16 (regFld s Reg.HDG_AUTH_SPLIT 4 0)
def ghashLanes (s : State) : Nat := min 8 (regFld s Reg.HDG_AUTH_SPLIT 11 8)

/-- Whether a verification runs on a GHASH lane: the algorithm of the key it looked up. -/
def jobIsGmac (k n : Option Key) : Bool :=
  match k with
  | some x => decide (4 ≤ x.alg)
  | none => match n with | some x => decide (4 ≤ x.alg) | none => false

/-- Free lanes take the oldest waiting frames of their algorithm, which look up their key as they begin (R169, R171). -/
def authStart (s : State) : List Nat → State
  | [] => s
  | h :: t =>
    match frameGet s h with
    | none => authStart { s with hdg := { s.hdg with authQ := s.hdg.authQ.filter (fun x => decide (x ≠ h)) } } t
    | some f =>
      let j : AuthJob := { handle := h, key := keyGet s f.keyIndex 0, next := keyGet s f.keyIndex 1 }
      let gm := jobIsGmac j.key j.next
      let busy := (s.hdg.authRun.filter (fun x => decide (jobIsGmac x.key x.next = gm))).length
      if busy < (if gm then ghashLanes s else shaLanes s) then
        authStart { s with hdg := { s.hdg with
          authQ := s.hdg.authQ.filter (fun x => decide (x ≠ h)), authRun := s.hdg.authRun ++ [j] } } t
      else authStart s t

/-- A frame whose check passed enters the verification queue: true, or false when the queue of 128 is full (R169). -/
def authEnter (s : State) (h : Nat) : Bool × State :=
  if s.hdg.authQ.length < 128 then
    let s := { s with hdg := { s.hdg with authQ := s.hdg.authQ ++ [h] } }
    let s := regHigh s Reg.HDG_AUTH_Q 31 16 s.hdg.authQ.length
    (true, authStart s s.hdg.authQ)
  else (false, s)

end Sys2Proof.Machine
end

