-- ==== Sys2Proof/Machine/Ber.lean ====
section
/-!
DEFINITION. BER as the publisher, confluence and the walker read it: headers of one- and two-octet tags with definite lengths of 1 to
4 length octets (Table 12-6), and the GOOSE and SV messages they carry (Table 11-2; the SV element tags are IEC 61850-9-2's, log
entry 22).
-/
namespace Sys2Proof.Machine

/-- The header at the start of `l`: tag, header length and value length. -/
def berHeader (l : List Byte) : Option (Nat × Nat × Nat) :=
  match l with
  | [] => none
  | t :: rest =>
    let two := decide (t.toNat % 32 = 31)
    let tag := if two then t.toNat * 256 + beAt rest 0 1 else t.toNat
    let rest := if two then rest.drop 1 else rest
    let h := if two then 2 else 1
    match rest with
    | [] => none
    | b :: body =>
      if b.toNat < 128 then some (tag, h + 1, b.toNat)
      else
        let n := b.toNat - 128
        if n = 0 ∨ 4 < n ∨ body.length < n then none else some (tag, h + 1 + n, beNat (body.take n))

/-- The elements of a constructed value: tags and contents; none when one does not decode. `fuel` bounds the elements. -/
def berList : Nat → List Byte → Option (List (Nat × List Byte))
  | 0, l => if l.isEmpty then some [] else none
  | fuel + 1, l =>
    if l.isEmpty then some []
    else
      match berHeader l with
      | none => none
      | some (tag, h, len) =>
        if l.length < h + len then none
        else
          match berList fuel (l.drop (h + len)) with
          | none => none
          | some t => some ((tag, (l.drop h).take len) :: t)

/-- The element of a tag. -/
def berFind (l : List (Nat × List Byte)) (tag : Nat) : Option (List Byte) :=
  match l.find? (fun e => decide (e.1 = tag)) with
  | some e => some e.2
  | none => none

/-- A non-negative INTEGER, modulo 2³². -/
def berWord (l : List Byte) : Word := BitVec.ofNat 32 (beNat l)

/-- A length in its shortest form. -/
def berLen (n : Nat) : List Byte :=
  if n < 128 then [BitVec.ofNat 8 n] else if n < 256 then [0x81, BitVec.ofNat 8 n] else 0x82 :: beBytes 2 n

/-- A TLV with a one-octet tag. -/
def berTlv (tag : Nat) (l : List Byte) : List Byte := BitVec.ofNat 8 tag :: (berLen l.length ++ l)

/-- A non-negative INTEGER in its minimal form. -/
def berInt (n : Nat) : List Byte :=
  if n < 0x80 then beBytes 1 n else if n < 0x8000 then beBytes 2 n else if n < 0x800000 then beBytes 3 n
  else if n < 0x80000000 then beBytes 4 n else beBytes 5 n

/-- The PDU of a GOOSE or SV frame: the value of the TLV that follows Reserved2. -/
def pduAt (bytes : List Byte) (l3 tag : Nat) : Option (List Byte) :=
  let l := bytes.drop (l3 + 8)
  match berHeader l with
  | some (t, h, len) => if t = tag ∧ h + len ≤ l.length then some ((l.drop h).take len) else none
  | none => none

/-- The elements of a goosePdu, when it decodes and every element of Table 11-2 is there. -/
def goosePdu (bytes : List Byte) (l3 : Nat) : Option (List (Nat × List Byte)) :=
  match pduAt bytes l3 0x61 with
  | none => none
  | some v =>
    match berList 32 v with
    | none => none
    | some l =>
      if [0x80, 0x81, 0x82, 0x83, 0x84, 0x85, 0x86, 0x87, 0x88, 0x89, 0x8A, 0xAB].all (fun t => (berFind l t).isSome) then some l
      else none

/-- The value and quality pairs of seqData. -/
def seqPairs (l : List Byte) : List (Word × Word) :=
  (List.range (l.length / 8)).map (fun i => (BitVec.ofNat 32 (beAt l (8 * i) 4), BitVec.ofNat 32 (beAt l (8 * i + 4) 4)))

/-- The ASDU at a place of an SV frame that carries `num` (IEC 61850-9-2: svID, smpCnt, confRev, smpSynch, seqData). -/
def svAsdu (stream auth : Nat) (ns32 : Word) (frac num pos : Nat) (v : List Byte) : Option Asdu :=
  match berList 16 v with
  | none => none
  | some e =>
    match berFind e 0x80, berFind e 0x82, berFind e 0x83, berFind e 0x85, berFind e 0x87 with
    | some svid, some cnt, some rev, some syn, some data =>
      if data.length % 8 ≠ 0 then none
      else
        some { stream := stream, pos := pos, num := num, svid := crc32c svid, smpCnt := beNat cnt % 65536
               confRev := berWord rev, smpSynch := beNat syn % 256, pairs := seqPairs data, auth := auth
               ns32 := ns32, frac := frac }
    | _, _, _, _, _ => none

/-- The ASDUs of a list of elements from a place; none when one has not the form of an ASDU. -/
def svAsduList (stream auth : Nat) (ns32 : Word) (frac num : Nat) : Nat → List (Nat × List Byte) → Option (List Asdu)
  | _, [] => some []
  | pos, a :: t =>
    match (if a.1 = 0x30 then svAsdu stream auth ns32 frac num pos a.2 else none), svAsduList stream auth ns32 frac num (pos + 1) t with
    | some x, some l => some (x :: l)
    | _, _ => none

/-- The ASDUs that the savPdu of an SV frame decodes into (R514): noASDU is 1 to 8 and agrees with their number. -/
def svDecode (bytes : List Byte) (l3 stream auth : Nat) (ns32 : Word) (frac : Nat) : Option (List Asdu) :=
  match (pduAt bytes l3 0x60).bind (berList 8) with
  | none => none
  | some l =>
    match berFind l 0x80, (berFind l 0xA2).bind (berList 8) with
    | some n, some asdus =>
      let num := beNat n
      if num = 0 ∨ 8 < num ∨ num ≠ asdus.length then none else svAsduList stream auth ns32 frac num 0 asdus
    | _, _ => none

/-- What an SV frame hands to confluence: its ASDUs, or one entry with a decode fault, which is an entry of 0 ASDUs (R514). -/
def svAsdus (bytes : List Byte) (l3 stream auth : Nat) (ns32 : Word) (frac : Nat) : List Asdu :=
  match svDecode bytes l3 stream auth ns32 frac with
  | some l => l
  | none =>
    [{ stream := stream, pos := 0, num := 0, svid := 0, smpCnt := 0, confRev := 0, smpSynch := 0, pairs := [], auth := auth
       ns32 := ns32, frac := frac }]

end Sys2Proof.Machine
end

