-- ==== Sys2Proof/Machine/Clock.lean ====
section
/-!
DEFINITION. The PTP clock: the tick (R89), steps, sets and slews (R92 to R94), captures and PPS_OUT (R115, R116).
-/
namespace Sys2Proof.Machine

/-- The clock with `delta` units of 2⁻³² ns added to {SEC, NS, FRAC}, with carry and borrow across the second; ns32 moves by
the whole nanoseconds that NS moved (R89, R97). -/
def clkAdd (c : Clock) (delta : Int) : Clock :=
  let t : Int := ((c.ns.toNat * 2 ^ 32 + c.frac.toNat : Nat) : Int) + delta
  let whole := t / 2 ^ 32
  let secs := whole / 1000000000
  { c with
    sec := c.sec + BitVec.ofInt 48 secs
    ns := BitVec.ofNat 30 (whole % 1000000000).toNat
    frac := BitVec.ofNat 32 (t % 2 ^ 32).toNat
    ns32 := c.ns32 + BitVec.ofInt 32 (whole - c.ns.toNat) }

/-- What a slew adds in one cycle, in units of 2⁻²⁴ ns: its rate, or exactly the remainder in its last cycle (R92). -/
def slewPart (w : Slew) : Nat := min w.rate w.remaining

/-- One TIME cycle (R89): the increment, and the slew on top of it. A slew that has used up its total stays at 0 until it is
reported done. -/
def clkTick (c : Clock) : Clock :=
  let inc : Int := ((c.incInt.toNat * 2 ^ 32 + c.incFrac.toNat : Nat) : Int)
  match c.slew with
  | none => clkAdd c inc
  | some w =>
    let d : Int := ((slewPart w * 256 : Nat) : Int)
    clkAdd { c with slew := some { w with remaining := w.remaining - slewPart w } } (inc + (if w.negative then -d else d))

/-- The whole signed nanoseconds of a slew that remain, rounded toward zero (TIM_ADJ_REM). -/
def slewRem (w : Slew) : Word :=
  let n := w.remaining / 2 ^ 24
  if w.negative then -(BitVec.ofNat 32 n) else BitVec.ofNat 32 n

/-- TIM_ADJ_REM: of the slew in progress, or of the one a command ended (R92). -/
def adjRem (c : Clock) : Word :=
  match c.slew with
  | some w => slewRem w
  | none => c.lost

/-- A command's write ends any slew in progress; its remainder is lost, and shown until the next command takes effect: without a slew, a
command that finds none waiting ends what was shown (R92). -/
def slewStop (c : Clock) : Clock :=
  match c.slew with
  | some w => { c with slew := none, lost := slewRem w }
  | none => if c.held.isEmpty then { c with lost := 0 } else c

/-- The clock with SEC and NS loaded and FRAC 0 (R93); ns32 follows by the same amount (R97). -/
def clkSet (c : Clock) (sec : BitVec 48) (ns : Nat) : Clock :=
  { c with
    sec := sec, ns := BitVec.ofNat 30 ns, frac := 0
    ns32 := BitVec.ofNat 32 (sec.toNat * 1000000000 + ns) }

/-- The clock with a signed number of nanoseconds added to {SEC, NS}; FRAC is unchanged (R92). -/
def clkStep (c : Clock) (adj : Word) : Clock := clkAdd c (adj.toInt * 2 ^ 32)

/-- Start a slew of `adj` ns at `rate` units of 2⁻²⁴ ns per cycle (R92). -/
def slewStart (c : Clock) (adj : Word) (rate : Nat) : Clock :=
  { slewStop c with slew := some { remaining := adj.toInt.natAbs * 2 ^ 24, rate := rate, negative := adj.msb }, lost := 0 }

/-- Start a slew; a slew of nothing ends itself and raises SLEW_DONE (R92). -/
def slewBegin (s : State) (adj : Word) (rate : Nat) : State :=
  if adj = 0 then raise { s with clk := { slewStop s.clk with lost := 0 } } Reg.TIM_CAUSE 1
  else { s with clk := slewStart s.clk adj rate }

/-- After a step or set took effect: the commands held behind it, each as if its write arrived now (R94). A held slew starts;
the next step or set waits for its own instant. -/
def heldTake (s : State) : List HeldClk → State
  | [] => { s with clk := { s.clk with held := [] } }
  | .slew adj rate :: t => heldTake (slewBegin s adj rate) t
  | h :: t => { s with clk := { slewStop s.clk with held := h :: t, wait := 32 } }

/-- A STEP or SET whose write reaches TIME: it ends the slew and waits 32 TIME cycles for its instant, or is held behind the one that
waits (R94). -/
def clkHold (s : State) (h : HeldClk) : State :=
  { s with clk := { slewStop s.clk with
      held := s.clk.held ++ [h], wait := if s.clk.held.isEmpty then 32 else s.clk.wait } }

/-- Run a discipline write of master `m`: only the discipliner's has an effect (R90). -/
def disciplined (s : State) (m : Nat) (k : State → State) : State :=
  if regFld s Reg.TIM_DISC_OWNER 5 0 = m then k s
  else raise (regSet s Reg.TIM_REFUSED (BitVec.ofNat 32 m)) Reg.TIM_CAUSE 3

/-- A write by master `m` to a register of the time block: a host function's write passes the host's reach. -/
def timWrite (s : State) (m a : Nat) (k : State → State) : Answer :=
  if 36 ≤ m ∧ m < 40 then hostCmd s (m - 36) a (fun s => disciplined s m k)
  else event s (fun s => disciplined s m k)

/-- Raise a cause of the time block; during a freeze it is held until thaw (R467). -/
def raiseTim (s : State) (bit : Nat) : State :=
  if s.frz.frozen then { s with frz := { s.frz with heldTim := s.frz.heldTim ||| (1#32 <<< bit) } }
  else raise s Reg.TIM_CAUSE bit

/-- An event in TIME: also during a freeze with TIME_RUN (R467). -/
def timeEvent (s : State) (k : State → State) : Answer :=
  .next (if active s || (s.frz.frozen && s.frz.timeRun) then k s else s)

/-- Capture the clock in channel `c` (R115). -/
def capture (s : State) (c : Nat) : State :=
  let full := regBit s (Reg.TIM_CAP_CTL c) 3
  let s := regSet s (Reg.TIM_CAP_NS c) (s.clk.ns.setWidth 32)
  let s := regSet s (Reg.TIM_CAP_SEC_LO c) (s.clk.sec.setWidth 32)
  let s := regSet s (Reg.TIM_CAP_SEC_HI c) ((s.clk.sec >>> 32).setWidth 32)
  let s := regSet s (Reg.TIM_CAP_NS32 c) s.clk.ns32
  let s := regSetFld s (Reg.TIM_CAP_CTL c) 3 3 1
  let s := if full then raiseTim (regSetFld s (Reg.TIM_CAP_CTL c) 4 4 1) 6 else s
  raiseTim s (4 + c)

/-- The number of the last edge instant that the clock has reached: a second boundary plus TIM_PPS_OFFSET (R116). -/
def ppsIndex (s : State) : Int :=
  (((s.clk.sec.toNat * 1000000000 + s.clk.ns.toNat : Nat) : Int) - (regGet s Reg.TIM_PPS_OFFSET).toInt) / 1000000000

/-- Edge instants up to now are behind PPS_OUT: when its mode or offset is set, which makes no edge of a past instant (log entry 98). -/
def ppsAlign (s : State) : State := { s with clk := { s.clk with ppsSec := ppsIndex s } }

/-- Edge instants that a backward step has brought ahead again are produced again (R116). -/
def ppsBack (s : State) : State := if ppsIndex s < s.clk.ppsSec then ppsAlign s else s

/-- A rising instant of PPS_OUT: it is high until WIDTH_US after it; while it is high already, the ball shows no edge (R116). -/
def ppsRise (s : State) : State :=
  let fall := s.now + regFld s Reg.TIM_PPS_CTL 31 12 * 1000
  let was := s.clk.ppsHigh
  let s := { s with clk := { s.clk with ppsHigh := true, ppsFall := some fall } }
  if was then s else emit s (.pps true)

/-- Channel `n` fires (R114): FIRED and the cause; PPS_OUT when it is selected; a periodic channel moves its target past now
and counts the periods it skipped; any other disarms. -/
def cmpFire (s : State) (n : Nat) : State :=
  let target := regGet s (Reg.TIM_CMP_TARGET n)
  let period := (regGet s (Reg.TIM_CMP_PERIOD n)).toNat
  let s := regSetFld s (Reg.TIM_CMP_STAT n) 0 0 1
  let s := raiseTim s (16 + n)
  let s := if n = 0 ∧ regFld s Reg.TIM_PPS_CTL 1 0 = 2 then ppsRise s else s
  if 1000 ≤ period ∧ period ≤ 2000000000 then
    let k := (nowNs32 s - target).toNat / period + 1
    let missed := regFld s (Reg.TIM_CMP_STAT n) 31 16
    let s := regSetFld s (Reg.TIM_CMP_STAT n) 31 16 (min 65535 (missed + (k - 1)))
    regSet s (Reg.TIM_CMP_TARGET n) (target + BitVec.ofNat 32 (k * period))
  else { s with clk := { s.clk with cmpArmed := s.clk.cmpArmed &&& ~~~(1#8 <<< n) } }

/-- The domain of an island of Table 19-4 that keeps a replica (R100); none for an island without one. -/
def replicaDomain (island : Nat) : Option Nat :=
  if 4 ≤ island ∧ island ≤ 12 then some (island + 1)
  else if island = 13 then some 14 else if island = 14 then some 15 else if island = 15 then some 16 else none

end Sys2Proof.Machine
end

