-- ==== Sys2Proof/Machine/ConfOps.lean ====
section
/-!
DEFINITION. Confluence as shared operations (R244 to R276): ingest, sample times and numbers, the store, grids, interpolation, rows.
Times are whole numbers of 2⁻³² ns since the PTP epoch.
-/
namespace Sys2Proof.Machine

/-! ### Records and accessors -/

/-- One second, and one nanosecond, in units of 2⁻³² ns. -/
def tSecond : Int := 1000000000 * 2 ^ 32
def tNano : Int := 2 ^ 32

/-- The latest instant a late sample can belong to before another one: samples lie less than a second before their arrival (R247, R248). -/
def wantedSpan : Int := 2 * tSecond

/-- A quotient rounded to the nearest whole number, ties up; `den` is positive. -/
def divUp (num : Int) (den : Nat) : Int := (2 * num + den) / (2 * den)

/-- A quotient rounded to the nearest whole number, ties away from zero. -/
def divAway (num : Int) (den : Nat) : Int := if num < 0 then -(divUp (-num) den) else divUp num den

/-- The clock's time. -/
def clkTime (c : Clock) : Int := ((c.sec.toNat * 1000000000 + c.ns.toNat : Nat) : Int) * 2 ^ 32 + c.frac.toNat

/-- A stamp of ns32 and FRAC (1/256 ns) extended to full seconds against the clock (R99, R245). -/
def stampTime (s : State) (ns32 : Word) (frac : Nat) : Int :=
  (((s.clk.sec.toNat * 1000000000 + s.clk.ns.toNat : Nat) : Int) + (ns32 - s.clk.ns32).toInt) * 2 ^ 32 + ((frac * 2 ^ 24 : Nat) : Int)

/-- A stream with nothing stored. -/
def cnfStr0 : CnfStream :=
  { store := [], newest := none, synced := none, tooOld := 0, lastAt := 0, marks := [], wanted := [] }

/-- A basin that is STOPPED and has written nothing. -/
def cnfBas0 : CnfBasin :=
  { next := none, last := none, discont := false, step := false, lost := 0, cols := [], holds := [], rows := [], sinceIrq := 0 }

def cnfStr (s : State) (i : Nat) : CnfStream := tabGet (fun _ => cnfStr0) s.cnf.str i
def cnfStrSet (s : State) (i : Nat) (x : CnfStream) : State :=
  { s with cnf := { s.cnf with str := tabSet (fun _ => cnfStr0) s.cnf.str i x } }
def cnfBas (s : State) (b : Nat) : CnfBasin := tabGet (fun _ => cnfBas0) s.cnf.basin b
def cnfBasSet (s : State) (b : Nat) (x : CnfBasin) : State :=
  { s with cnf := { s.cnf with basin := tabSet (fun _ => cnfBas0) s.cnf.basin b x } }

/-- The map entries of a basin in a section (Table 10-5), and whether they name a stream. -/
def mapOf (x : Option ImgSection) (b : Nat) : List (List Byte) := (arrayAll x 0x0703).filter (fun r => decide (leAt r 3 1 = b))
def mapNames (x : Option ImgSection) (b i : Nat) : Bool := (mapOf x b).any (fun r => decide (leAt r 0 2 % 1024 = i))

/-- A basin that has not applied a swap yet and that the stream feeds: the stream runs its old record with it, so that the basin is not
disturbed before its safe point (DESIGN CHOICE, log entry 110). -/
def strHeld (s : State) (i : Nat) : Option UnitPend :=
  s.img.units.find? (fun u => decide (u.type = 7) && mapNames u.old u.unit i)

/-- The record of a stream (Table 10-1), of a basin (Table 10-4), and the map entries of a basin (Table 10-5) by column. -/
def strRec (s : State) (i : Nat) : Option (List Byte) :=
  match strHeld s i with
  | some u => arrayRec u.old 0x0702 i
  | none => arrayRec (runSection s 7) 0x0702 i
def strField (s : State) (i off len : Nat) : Nat :=
  match strRec s i with
  | some r => leAt r off len
  | none => 0
def basRec (s : State) (b : Nat) : Option (List Byte) :=
  (arrayAll (unitSection s 7 0 b) 0x0701).find? (fun r => decide (leAt r 0 1 = b))
def basField (s : State) (b off len : Nat) : Nat :=
  match basRec s b with
  | some r => leAt r off len
  | none => 0
def basMap (s : State) (b : Nat) : List (List Byte) := mapOf (unitSection s 7 0 b) b

/-- The streams of a basin, in ascending index (R255). -/
def basStreams (s : State) (b : Nat) : List Nat :=
  let used := (basMap s b).map (fun r => leAt r 0 2 % 1024)
  (List.range 1024).filter (fun i => used.contains i)

/-- The basins that a stream feeds. -/
def strBasins (s : State) (i : Nat) : List Nat :=
  (List.range 16).filter (fun b => (basMap s b).any (fun r => decide (leAt r 0 2 % 1024 = i)))

/-- STATE of a stream: 0 IDLE, 1 WAIT, 2 RUN, 3 SILENT; of a basin: 0 STOPPED, 1 WAITING, 2 RUNNING. -/
def strState (s : State) (i : Nat) : Nat := regFld s (Reg.CNF_STR_STAT i) 29 28
def strTo (s : State) (i st : Nat) : State := regSetFld s (Reg.CNF_STR_STAT i) 29 28 st
def basState (s : State) (b : Nat) : Nat := regFld s (Reg.CNF_BASIN_STAT b) 17 16
def basTo (s : State) (b st : Nat) : State := regSetFld s (Reg.CNF_BASIN_STAT b) 17 16 st

/-- Count in CNF_STR_CNT[i][k] by `n`. -/
def strCountBy (s : State) (i k n : Nat) : State := countBy s (Reg.CNF_STR_CNT i k) Reg.CNF_CAUSE 0 n
def strCount (s : State) (i k : Nat) : State := strCountBy s i k 1

/-- Raise a cause of confluence and record its basin and stream (CNF_EVENT). -/
def cnfRaise (s : State) (b i bit : Nat) : State :=
  raise (regSet s Reg.CNF_EVENT (BitVec.ofNat 32 (bit * 2 ^ 24 + b * 65536 + i))) Reg.CNF_CAUSE bit

/-- A status code has come up for a stream: it shows in the next row of each basin it feeds (R266). -/
def strMark (s : State) (i code : Nat) : State :=
  let x := cnfStr s i
  cnfStrSet s i { x with marks := x.marks ++ (strBasins s i).map (fun b => (b, code)) }

/-- The replica of island CONF is valid and D14 is on: the ingest queue takes ASDUs (R245). -/
def cnfReady (s : State) : Bool := domOn s 14 && replicaReady s 13

/-- Hand the ASDUs of a frame to the ingest queue; false when the queue is full (R159, R245). -/
def cnfHand (s : State) (l : List Asdu) : Bool × State :=
  if cnfReady s ∧ s.cnf.ingest.length + l.length ≤ 512 ∧ s.cnf.ingest.length < 512 then
    let s := { s with cnf := { s.cnf with ingest := s.cnf.ingest ++ l } }
    (true, regHigh s Reg.CNF_INGEST 31 16 s.cnf.ingest.length)
  else (false, s)

/-! ### Time and number of a sample (R247 to R250) -/

/-- The offset of sample j of RATE within its second. -/
def sampleOff (j rate : Nat) : Int := divUp (((j * 1000000000 * 2 ^ 32 : Nat) : Int)) rate

/-- The candidates for j that a smpCnt gives (R247). -/
def smpIndices (cnt rate : Nat) : List Nat :=
  if rate ≤ 65536 then (if cnt < rate then [cnt] else [])
  else if cnt + 65536 < rate then [cnt, cnt + 65536] else if cnt < rate then [cnt] else []

/-- The latest time not later than `a` + 100 µs that a candidate gives, with its sample number (R247, R250). -/
def smpTime (a : Int) (cnt rate : Nat) : Option (Int × Int) :=
  (smpIndices cnt rate).foldl (fun best j =>
    let off := sampleOff j rate
    let sec := (a + 100000 * tNano - off) / tSecond
    let t := sec * tSecond + off
    match best with
    | none => some (t, sec * rate + j)
    | some (u, n) => if u < t then some (t, sec * rate + j) else some (u, n)) none

/-- How the sync policy of a stream takes a smpSynch: none refused, true synchronised, false arrival-timed (Table 10-2). -/
def syncTake (policy synch : Nat) : Option Bool :=
  if policy = 3 then some false
  else if policy = 0 then some (decide (synch ≠ 0))
  else if policy = 1 then (if synch = 0 then none else some true)
  else if synch = 2 then some true else none

/-- The wrap of an arrival-timed stream (Table 10-1). -/
def strWrap (s : State) (i : Nat) : Nat :=
  let w := strField s i 12 4
  let rate := strField s i 4 4
  if w ≠ 0 then w else if rate ≤ 65536 then rate else 65536

/-- The signed difference of two smpCnt values modulo a wrap, into −wrap/2 to wrap/2 − 1 (R250). -/
def wrapDiff (a b wrap : Nat) : Int :=
  let d := (a + wrap - b % wrap) % wrap
  if d < (wrap + 1) / 2 then (d : Int) else (d : Int) - wrap

/-- Ts of a rate. -/
def samplePeriod (rate : Nat) : Int := divUp tSecond rate

/-! ### The store (R249 to R252, R264) -/

/-- A stored sample is present for a channel of a stream (R252). -/
def samplePresent (flags : Nat) (x : Sample) (ch : Nat) : Bool :=
  match x.quals[ch]? with
  | none => false
  | some q =>
    let v := q.toNat % 4
    !(q.getLsbD 11 && !nbit flags 1) && !(nbit flags 2 && (decide (v = 1) || decide (v = 2)))

/-- The time of sample `n` of a stream: as stored; else as its number gives it when synchronised (R247); else Ts by Ts from a sample that is
known (log entry 109). -/
def sampleTime (s : State) (i : Nat) (x : Sample) (n : Int) : Int :=
  let c := cnfStr s i
  let rate := strField s i 4 4
  match c.store.find? (fun (y : Sample) => decide (y.n = n)) with
  | some y => y.t
  | none => if c.synced = some true then n / rate * tSecond + sampleOff (n % rate).toNat rate
      else x.t + (n - x.n) * samplePeriod rate

/-- Whether a column of a channel was filled at `g` for want of a late sample: its mode needs that sample there (R258, R264). -/
def lateServes (s : State) (i : Nat) (x : Sample) (b ch : Nat) (g : Int) : Bool :=
  let mode := basField s b 2 1
  let at_ := sampleTime s i x
  let bracket := fun (n : Int) => decide (at_ n ≤ g) && decide (g < at_ (n + 1))
  samplePresent (strField s i 0 1) x ch &&
    (if mode = 0 then decide ((x.t - g).natAbs ≤ (basField s b 16 2 : Int) * tNano)
    else if mode = 1 then decide (x.t ≤ g) && decide (g < x.t + samplePeriod (strField s i 4 4))
    else (if mode = 2 then [x.n - 1, x.n] else [x.n - 2, x.n - 1, x.n, x.n + 1]).any bracket)

/-- Count a stored sample once in LATE when a row was filled for want of it (R264). -/
def strLate (s : State) (i : Nat) (x : Sample) : State :=
  let c := cnfStr s i
  if c.wanted.any (fun w => lateServes s i x w.1 w.2.1 w.2.2) then cnfRaise (strCount s i 6) 0 i 5 else s

/-- Clear the store of a stream and take a sample as its newest: a restart (R249, R251). -/
def strRestart (s : State) (i : Nat) (x : Sample) : State :=
  let s := cnfRaise (strMark s i 4) 0 i 4
  let c := cnfStr s i
  strLate (cnfStrSet s i { c with store := [x], newest := some x.n, tooOld := 0 }) i x

/-- Store a sample in place or as the newest, keeping the samples from newest − HISTORY + 1 (R250). -/
def strStore (s : State) (i : Nat) (x : Sample) (newest : Int) : State :=
  let c := cnfStr s i
  let hist : Int := (strField s i 16 2 : Nat)
  let kept := (c.store ++ [x]).filter (fun (y : Sample) => decide (newest - hist < y.n))
  strLate (cnfStrSet s i { c with store := kept, newest := some newest, tooOld := 0 }) i x

/-- A sample becomes the newest of its stream: QUAL_CHANGE against the previous newest (R252), and the status fields. -/
def strNewest (s : State) (i : Nat) (x : Sample) : State :=
  let c := cnfStr s i
  let prev := match c.newest with
    | some n => c.store.find? (fun (y : Sample) => decide (y.n = n))
    | none => none
  let s := match prev with
    | some y => if y.quals = x.quals then s else strCount s i 12
    | none => s
  let cls := if x.synch ≤ 2 then x.synch else 3
  regSetFld (regSetFld s (Reg.CNF_STR_STAT i) 31 30 cls) (Reg.CNF_STR_STAT i) 15 0 x.smpCnt

/-- Classify an accepted sample (Table 10-3); `restart` for the first after a restart or a change of timing kind. -/
def strClassify (s : State) (i : Nat) (x : Sample) (synced first : Bool) : State :=
  let c := cnfStr s i
  let hist : Int := (strField s i 16 2 : Nat)
  match c.newest with
  | none =>
    let s := strNewest s i x
    let c := cnfStr s i
    strLate (cnfStrSet s i { c with store := [x], newest := some x.n, tooOld := 0 }) i x
  | some n =>
    let d := x.n - n
    if first then strRestart (strNewest s i x) i x
    else if hist ≤ d then strRestart (strNewest (strCount s i 7) i x) i x
    else if 0 < d then strStore (strNewest (strCountBy s i 5 (d - 1).toNat) i x) i x x.n
    else if d ≤ -hist then
      let s := strCount s i 3
      if 2 ≤ c.tooOld then strRestart (strNewest (strCount s i 7) i x) i x
      else cnfStrSet s i { cnfStr s i with tooOld := c.tooOld + 1 }
    else if c.store.any (fun y => decide (y.n = x.n)) then strCount s i 1
    else if synced then strStore (strCount s i 2) i x n
    else strCount s i 4

/-- Refuse an ASDU: counted under `k`, with a status code when it has one. -/
def asduRefuse (s : State) (i k : Nat) (code : Option Nat) : State :=
  let s := strCount s i k
  let s := if k = 9 then cnfRaise s 0 i 9 else s
  match code with
  | some c => strMark s i c
  | none => s

/-- An ASDU leaves the crossing into CONF: the tests of R246 (an entry of 0 ASDUs is a decode fault, R514), then its time, its number and the store. -/
def asduIngest (s : State) (a : Asdu) : State :=
  let i := a.stream
  let flags := strField s i 0 1
  let rate := strField s i 4 4
  let policy := strField s i 1 1
  let need := strField s i 3 1
  let stamp := stampTime s a.ns32 a.frac
  let kind := syncTake policy a.smpSynch
  let synced := decide (a.smpSynch ≠ 0) && decide (policy ≠ 3)
  if !regBit s (Reg.CNF_STR_CTL i) 0 || (strRec s i).isNone then asduRefuse s i 10 none
  else if a.num = 0 then asduRefuse s i 9 (some 8)
  else if (a.auth = 2 ∧ !nbit flags 4) ∨ (a.auth = 3 ∧ !nbit flags 3) then asduRefuse s i 10 (some 7)
  else if a.pairs.length ≠ strField s i 2 1 ∨ (need ≠ 0 ∧ a.num ≠ need)
      ∨ (strField s i 20 4 ≠ 0 ∧ strField s i 20 4 ≠ a.svid.toNat) ∨ (strField s i 24 4 ≠ 0 ∧ strField s i 24 4 ≠ a.confRev.toNat)
      ∨ (synced ∧ (smpIndices a.smpCnt rate).isEmpty) then asduRefuse s i 9 (some 8)
  else
    match kind with
    | none => asduRefuse s i 10 (some 6)
    | some sync =>
      let c := cnfStr s i
      let arrival := stamp - (strField s i 8 4 : Nat) * tNano - ((a.num - 1 - a.pos : Nat) : Int) * samplePeriod rate
      let prevCnt := match c.newest with
        | some n => (match c.store.find? (fun (y : Sample) => decide (y.n = n)) with | some y => y.smpCnt | none => 0)
        | none => 0
      let tn : Int × Int :=
        if sync then (match smpTime stamp a.smpCnt rate with | some r => r | none => (arrival, 0))
        else (arrival, match c.newest with
          | some n => n + wrapDiff a.smpCnt prevCnt (strWrap s i)
          | none => a.smpCnt)
      let x : Sample := { n := tn.2, t := tn.1, values := a.pairs.map (fun p => p.1), quals := a.pairs.map (fun p => p.2)
                          smpCnt := a.smpCnt, synch := a.smpSynch }
      let changed := decide (c.synced = some (!sync))
      let s := strCount s i 0
      let s := if changed then strCount s i 8 else s
      let s := if sync ∧ stamp < tn.1 then strCount s i 11 else s
      let transit := ((stamp - tn.1) / tNano).toNat
      let s := if sync ∧ tn.1 ≤ stamp ∧ (regGet s (Reg.CNF_STR_TRANSIT i)).toNat < transit then
          regSet s (Reg.CNF_STR_TRANSIT i) (BitVec.ofNat 32 (min transit 0xFFFFFFFF)) else s
      let s := regSet (strTo s i 2) (Reg.CNF_STR_LAST_NS32 i) a.ns32
      let s := cnfStrSet s i { cnfStr s i with synced := some sync, lastAt := s.run }
      strClassify s i x sync changed

/-! ### Grids (R254) -/

/-- PERIOD_NS and PERIOD_FRAC of a rate. -/
def periodNs (rate : Nat) : Nat := 1000000000 / rate
def periodFrac (rate : Nat) : Nat := (1000000000 % rate * 2 ^ 32 * 2 + rate) / (2 * rate)

/-- The grid instant k of second S of a basin. -/
def gridTime (s : State) (b sec k : Nat) : Int :=
  let rate := basField s b 4 4
  (sec : Int) * tSecond + (basField s b 8 4 : Nat) * tNano + (k : Int) * ((periodNs rate * 2 ^ 32 + periodFrac rate : Nat) : Int)

/-- The instant after one. -/
def gridNext (s : State) (b : Nat) (i : Nat × Nat) : Nat × Nat :=
  if i.2 + 1 < basField s b 4 4 then (i.1, i.2 + 1) else (i.1 + 1, 0)

/-- The first grid instant at or after a time. -/
def gridFrom (s : State) (b : Nat) (t : Int) : Nat × Nat :=
  let sec := (t / tSecond).toNat
  let rate := basField s b 4 4
  let p : Int := ((periodNs rate * 2 ^ 32 + periodFrac rate : Nat) : Int)
  let past := t - gridTime s b sec 0
  let k := ((past + p - 1) / p).toNat
  let k := if 0 < k ∧ t ≤ gridTime s b sec (k - 1) then k - 1 else k
  if k < rate then (sec, k) else (sec + 1, 0)

/-- LATENCY_NS of a basin as a time. -/
def basLatency (s : State) (b : Nat) : Int := (basField s b 12 4 : Nat) * tNano

/-- Apply a basin (Table 10-10): with RUN set and the replica valid it waits for its start instant. Its columns keep what they last wrote. -/
def basApply (s : State) (b : Nat) : State :=
  if regBit s (Reg.CNF_BASIN_CTL b) 0 && (basRec s b).isSome && cnfReady s then
    let x := cnfBas s b
    let next := gridFrom s b (clkTime s.clk + basLatency s b)
    basTo (cnfBasSet s b { x with next := some next, last := none, discont := true }) b 1
  else s

/-- A basin starts with no column written (R265). -/
def basFresh (s : State) (b : Nat) : State := cnfBasSet s b { cnfBas s b with cols := [], holds := [] }

/-- A basin stops: no further row falls due; rows already computed still seal. -/
def basStop (s : State) (b : Nat) : State :=
  basTo (cnfBasSet s b { cnfBas s b with next := none, last := none }) b 0

/-! ### Values (R257 to R261) -/

/-- The value of a channel of a sample, signed. -/
def sampleVal (x : Sample) (ch : Nat) : Int :=
  match x.values[ch]? with
  | some v => v.toInt
  | none => 0

/-- The quality of a channel of a sample. -/
def sampleQual (x : Sample) (ch : Nat) : Word :=
  match x.quals[ch]? with
  | some q => q
  | none => 0

/-- How bad a validity is: good, questionable, invalid (R261). -/
def validityRank (v : Nat) : Nat := if v = 0 then 0 else if v = 3 then 1 else 2

/-- The quality of a value computed from samples whose weights are not zero (R261). -/
def qualOf (qs : List Word) : Word :=
  let bits := qs.foldl (fun a q => a ||| (q &&& 0x3FFC#32)) 0#32
  let rank := qs.foldl (fun a q => max a (validityRank (q.toNat % 4))) 0
  let v : Word := if rank = 0 then 0 else if rank = 1 then 3 else 1
  (bits ||| v) ||| (if 1 < qs.length then 0x2000#32 else 0)

/-- The Lagrange weights of R259 in units of 2⁻²⁴, for u in units of 2⁻¹⁶: c₋₁, c₀, c₁, c₂. -/
def cubicWeights (u : Int) : Int × Int × Int × Int :=
  let o : Int := 65536
  let den : Nat := 6 * 2 ^ 24
  let cm := divAway (-(u * (u - o) * (u - 2 * o))) den
  let c1 := divAway (-((u + o) * u * (u - 2 * o))) (2 * 2 ^ 24)
  let c2 := divAway ((u + o) * u * (u - o)) den
  (cm, 2 ^ 24 - cm - c1 - c2, c1, c2)

/-- A value that the rules compute: a whole number and an exact quotient added to it, and the qualities of the samples it used. -/
structure CnfValue where
  base : Int
  num : Int
  den : Nat
  quals : List Word
  deriving DecidableEq, Repr

/-- The bracket of g (R257): two stored samples, present for the channel, numbered in a row, with g between them. Where arrival jitter gives
several such pairs the newest counts (DESIGN CHOICE, log entry 109). -/
def bracketAt (ok : List Sample) (g : Int) : Option (Sample × Sample) :=
  let pairs := ok.filterMap (fun a => if a.t ≤ g then
    (ok.find? (fun (b : Sample) => decide (b.n = a.n + 1) && decide (g < b.t))).map (fun b => (a, b)) else none)
  pairs.foldl (fun z p =>
    match z with
    | none => some p
    | some q => if q.1.n < p.1.n then some p else some q) none

/-- The value of a channel at g in a mode of Table 10-6, from the samples of the store; none when one it needs is missing. -/
def valueAt (store : List Sample) (flags ch mode : Nat) (g ts tol : Int) : Option CnfValue :=
  let ok := store.filter (fun x => samplePresent flags x ch)
  let at_ := fun (n : Int) => ok.find? (fun x => decide (x.n = n))
  let one := fun (x : Sample) => some { base := sampleVal x ch, num := 0, den := 1, quals := [sampleQual x ch] : CnfValue }
  let before := (store.filter (fun x => decide (x.t ≤ g))).foldl (fun a x =>
    match a with
    | none => some x
    | some (y : Sample) => if y.t < x.t then some x else some y) none
  if mode = 0 then
    let near := (ok.filter (fun x => decide ((x.t - g).natAbs ≤ tol.natAbs))).foldl (fun a x =>
      match a with
      | none => some x
      | some (y : Sample) =>
        let dx := (x.t - g).natAbs
        let dy := (y.t - g).natAbs
        if dx < dy ∨ (dx = dy ∧ x.t < y.t) then some x else some y) none
    match near with
    | some x => one x
    | none => none
  else if mode = 1 then
    match before with
    | none => none
    | some k => if g < k.t + ts then (match at_ k.n with | some x => one x | none => none) else none
  else
    match bracketAt ok g with
    | none => none
    | some (a, b) =>
      let u := divUp ((g - a.t) * 65536) (b.t - a.t).toNat
      let wrap := decide (u = 65536)
      let y0 := if wrap then b else a
      let u := if wrap then 0 else u
      if mode = 2 then
        if u = 0 then (if wrap then (match at_ (y0.n + 1) with | some _ => one y0 | none => none) else one y0)
        else
          some { base := sampleVal y0 ch, num := (sampleVal b ch - sampleVal y0 ch) * u, den := 65536
                 quals := [sampleQual y0 ch, sampleQual b ch] }
      else
        match at_ (y0.n - 1), at_ (y0.n + 1), at_ (y0.n + 2) with
        | some ym, some y1, some y2 =>
          let w := cubicWeights u
          let ps := [(w.1, ym), (w.2.1, y0), (w.2.2.1, y1), (w.2.2.2, y2)]
          some { base := 0, num := ps.foldl (fun acc p => acc + p.1 * sampleVal p.2 ch) 0, den := 2 ^ 24
                 quals := (ps.filter (fun p => decide (p.1 ≠ 0))).map (fun p => sampleQual p.2 ch) }
        | _, _, _ => none

/-- A value in an INT32 basin: what is added is rounded, and the result saturated so that 0x8000_0000 stays reserved (R260). -/
def int32Of (v : CnfValue) : Word :=
  let x := v.base + divAway v.num v.den
  BitVec.ofInt 32 (if x < -2147483647 then -2147483647 else if 2147483647 < x then 2147483647 else x)

/-- The exponent e with 2^e ≤ num/den < 2^(e+1), searched from below. -/
def expOf (num den : Nat) : Nat → Int → Int
  | 0, e => e
  | fuel + 1, e =>
    if (if 0 ≤ e + 1 then den * 2 ^ (e + 1).toNat ≤ num else den ≤ num * 2 ^ (-(e + 1)).toNat) then expOf num den fuel (e + 1) else e

/-- A value in a FLOAT32 basin: the exact quotient rounded once to the nearest single, ties to even (R260). -/
def float32Of (v : CnfValue) : Word :=
  let num := v.base * v.den + v.num
  let a := num.natAbs
  if a = 0 then 0
  else
    let sign : Nat := if num < 0 then 1 else 0
    let e := expOf a v.den 400 (-150)
    let e := if e < -126 then -126 else e
    let sh := 23 - e
    let n := if 0 ≤ sh then a * 2 ^ sh.toNat else a
    let d := if 0 ≤ sh then v.den else v.den * 2 ^ (-sh).toNat
    let q := n / d
    let r := n % d
    let m := if 2 * r > d ∨ (2 * r = d ∧ q % 2 = 1) then q + 1 else q
    let bits := if m < 2 ^ 23 then m else ((e + 126).toNat) * 2 ^ 23 + m
    BitVec.ofNat 32 (sign * 2 ^ 31 + min bits 0x7F800000)

/-! ### Rows (R262 to R268) -/

/-- What a column writes in a row: value, quality, and whether it was filled and left out for a test sample. -/
structure CnfCell where
  value : Word
  qual : Word
  filled : Bool
  test : Bool
  stream : Nat
  deriving DecidableEq, Repr

/-- The fill of a column (R265). -/
def cellFill (s : State) (b col policy stream : Nat) (float test : Bool) : CnfCell × State :=
  let x := cnfBas s b
  let nan : CnfCell := { value := if float then 0x7FC00000 else 0x80000000, qual := 0x80000001, filled := true, test := test, stream := stream }
  if policy = 1 then ({ nan with value := 0 }, s)
  else if policy = 2 then (nan, s)
  else
    let k := tabGet (fun _ => 0) x.holds col
    let limit := basField s b 18 2
    if limit ≠ 0 ∧ limit ≤ k then (nan, s)
    else
      let last : Word × Word := match tabGet (fun _ => none) x.cols col with
        | some c => c
        | none => (0, 1)
      let v := last.2 &&& 3
      let q := (last.2 &&& ~~~3#32) ||| (if v = 1 then 1 else 3) ||| 0x80#32 ||| 0x80000000#32
      let s := cnfBasSet s b { x with holds := tabSet (fun _ => 0) x.holds col (k + 1) }
      ({ value := last.1, qual := q, filled := true, test := test, stream := stream }, s)

/-- One column of a row at g (R258, R265). -/
def cellAt (s : State) (b col : Nat) (g : Int) : CnfCell × State :=
  let float := nbit (basField s b 1 1) 1
  match (basMap s b).find? (fun r => decide (leAt r 4 2 = col)) with
  | none => ({ value := 0, qual := 1, filled := true, test := false, stream := 1024 }, s)
  | some m =>
    let i := leAt m 0 2 % 1024
    let ch := leAt m 2 1
    let flags := strField s i 0 1
    let mode := basField s b 2 1
    let store := (cnfStr s i).store
    let ts := samplePeriod (strField s i 4 4)
    let tol := (basField s b 16 2 : Nat) * tNano
    match valueAt store flags ch mode g ts tol with
    | some v =>
      let w := if float then float32Of v else int32Of v
      let q := qualOf v.quals
      let x := cnfBas s b
      let s := cnfBasSet s b { x with
        cols := tabSet (fun _ => none) x.cols col (some (w, q)), holds := tabSet (fun _ => 0) x.holds col 0 }
      ({ value := w, qual := q, filled := false, test := false, stream := i }, s)
    | none =>
      let test := (valueAt store (flags ||| 2) ch mode g ts tol).isSome && !nbit flags 1
      let r := cellFill s b col (leAt m 6 1 % 4) i float test
      let c := r.1
      let x := cnfBas r.2 b
      let s := cnfBasSet r.2 b { x with cols := tabSet (fun _ => none) x.cols col (some (c.value, c.qual)) }
      let y := cnfStr s i
      let s := cnfStrSet s i { y with wanted := (b, ch, g) :: y.wanted.filter (fun w => decide (g - w.2.2 ≤ wantedSpan)) }
      (c, count s (Reg.CNF_FILLS b) Reg.CNF_CAUSE)

/-- The columns of a row from `col`. -/
def rowCells (s : State) (b : Nat) (g : Int) (col : Nat) : Nat → List CnfCell × State
  | 0 => ([], s)
  | n + 1 =>
    let r := cellAt s b col g
    let t := rowCells r.2 b g (col + 1) n
    (r.1 :: t.1, t.2)

/-- The status code of a stream in a row (Table 10-8): the highest that applies. -/
def rowStatus (s : State) (b i : Nat) (cells : List CnfCell) : Nat :=
  let own := cells.filter (fun c => decide (c.stream = i))
  let marks := (cnfStr s i).marks.filterMap (fun m => if m.1 = b then some m.2 else none)
  let codes := marks ++ (if strState s i = 0 then [10] else []) ++ (if strState s i = 3 then [5] else [])
    ++ (if own.any (fun c => c.filled && !c.test) then [3] else []) ++ (if own.any (fun c => c.filled && c.test) then [2] else [])
    ++ (if own.any (fun c => decide (c.qual.toNat % 4 ≠ 0)) then [1] else [])
  codes.foldl max 0

/-- Clear what a row of basin `b` has shown of a stream. -/
def rowShown (s : State) (b i code : Nat) : State :=
  let x := cnfStr s i
  regSetFld (cnfStrSet s i { x with marks := x.marks.filter (fun m => decide (m.1 ≠ b)) }) (Reg.CNF_STR_STAT i) 19 16 code

/-- Compute the row of a basin at its next instant (R258 to R266); it waits to be sealed. -/
def rowCompute (s : State) (b : Nat) : State :=
  match (cnfBas s b).next with
  | none => s
  | some i =>
    let g := gridTime s b i.1 i.2
    let r := rowCells s b g 0 (basField s b 20 2)
    let s := r.2
    let strs := basStreams s b
    let codes := strs.map (fun k => rowStatus s b k r.1)
    let s := (List.zip strs codes).foldl (fun s e => rowShown s b e.1 e.2) s
    let classes := strs.map (fun k => regFld s (Reg.CNF_STR_STAT k) 31 30)
    let fills := (r.1.filter (fun c => c.filled)).length
    let x := cnfBas s b
    let flags := regFld s Reg.TIM_SYNC_STATE 1 0 + b2n x.discont * 4 + b2n x.step * 8 + b2n (decide (fills ≠ 0)) * 16
      + b2n (codes.all (fun c => decide (c = 0))) * 32 + b2n (nbit (basField s b 1 1) 1) * 64
    let row : CnfRow :=
      { sec := (g / tSecond).toNat, ns := ((g % tSecond) / tNano).toNat, frac := (g % tNano).toNat, k := i.2, flags := flags
        fills := fills, status := List.zipWith (fun c k => c + 64 * k) codes classes
        cols := r.1.map (fun c => (c.value, c.qual)), deadline := s.run }
    let s := cnfBasSet s b { x with
      next := some (gridNext s b i), last := some i, discont := false, step := false, rows := x.rows ++ [row] }
    let s := { s with cnf := { s.cnf with order := s.cnf.order ++ [b] } }
    if basState s b = 1 then cnfRaise (basTo s b 2) b 0 10 else s

/-- The bytes of a row after its SEAL (Table 10-9); DISCONT also after a lost row. -/
def rowBytes (b seq lost : Nat) (r : CnfRow) : List Byte :=
  let pad := (8 - r.status.length % 8) % 8
  leBytes 4 seq ++ leBytes 6 r.sec ++ leBytes 2 (r.flags ||| (if lost = 0 then 0 else 4)) ++ leBytes 4 r.ns ++ leBytes 4 r.frac ++ leBytes 4 r.k
    ++ leBytes 2 (min r.fills 65535) ++ leBytes 1 (min lost 255) ++ leBytes 1 b
    ++ r.status.map (fun x => BitVec.ofNat 8 x) ++ zeros pad
    ++ r.cols.flatMap (fun c => leBytes 4 c.1.toNat ++ leBytes 4 c.2.toNat)

/-- The slot size of a basin's ring: the row's length rounded up to a multiple of 64 (R267). -/
def rowSlot (s : State) (b : Nat) : Nat :=
  let n := 32 + 8 * (((basStreams s b).length + 7) / 8) + 8 * basField s b 20 2
  (n + 63) / 64 * 64

/-- A row of a basin is written: after IRQ_EVERY of them the vector is signalled (R270). -/
def rowSignal (s : State) (b : Nat) : State :=
  let ctl := Reg.CNF_RING_CTL b
  let x := cnfBas s b
  let r := everyNth (regFld s ctl 15 0) x.sinceIrq
  let s := cnfBasSet s b { x with sinceIrq := r.2 }
  if r.1 then msix s (regFld s ctl 29 28) (regFld s ctl 23 16) else s

/-- Write the oldest computed row to its basin's ring and seal it (R263, R267 to R270): the row, for the publisher, when there was
one. -/
def rowSeal (s : State) (b : Nat) : Option CnfRow × State :=
  let x := cnfBas s b
  match x.rows with
  | [] => (none, s)
  | r :: rest =>
    let s := cnfBasSet { s with cnf := { s.cnf with order := s.cnf.order.erase b } } b { x with rows := rest }
    let s := regSet s (Reg.CNF_LAST_SEC b) (BitVec.ofNat 32 r.sec)
    let s := regSetFld s (Reg.CNF_LAST_ROW b) 16 0 r.k
    let late := s.run - r.deadline
    let s := if (regGet s Reg.CNF_ROW_LATE).toNat < late then regSet s Reg.CNF_ROW_LATE (BitVec.ofNat 32 late) else s
    let ctl := Reg.CNF_RING_CTL b
    let log := regFld s ctl 27 24
    let seq := (regGet s (Reg.CNF_ROW_SEQ b)).toNat
    let ahead := (seq + 2 ^ 32 - (regGet s (Reg.CNF_RING_HEAD b)).toNat) % 2 ^ 32
    let lose := fun (s : State) => cnfBasSet s b { cnfBas s b with lost := (cnfBas s b).lost + 1 }
    if !regBit s ctl 31 then (some r, lose s)
    else if regBit s ctl 30 ∧ 2 ^ log ≤ ahead then
      (some r, lose (cnfRaise (count s (Reg.CNF_ROWS_DROPPED b) Reg.CNF_CAUSE) b 0 6))
    else
      let f := regFld s ctl 29 28
      let s := ringWrite s f (hostAddr s (Reg.CNF_RING_BASE_LO b) (Reg.CNF_RING_BASE_HI b)) log (rowSlot s b) seq
        (2 ^ 31 + seq % 2 ^ 31) (rowBytes b seq (cnfBas s b).lost r)
      let s := cnfBasSet s b { cnfBas s b with lost := 0 }
      (some r, rowSignal (count (regSet s (Reg.CNF_ROW_SEQ b) (BitVec.ofNat 32 (seq + 1))) (Reg.CNF_ROWS b) Reg.CNF_CAUSE) b)

end Sys2Proof.Machine
end

