-- ==== Sys2Proof/Machine/PubBase.lean ====
section
/-!
DEFINITION. The publisher's records and state as its operations read them (R280, R290, R292), and how a unit of a PUBLISH swap applies (R62,
R297).
-/
namespace Sys2Proof.Machine

/-! ### Records and accessors -/

/-- The units of a PUBLISH swap (R62): publications, then republications from 512, then subscriptions from 1024. -/
def subUnit (v : Nat) : Nat := 1024 + v
def svUnit (v : Nat) : Nat := 512 + v

/-- A publication that has had no update. -/
def goose0 : GoosePub :=
  { tSec := 0, tNs := 0, due := none, n := 0, launch := none, content := [], st := 0, sq := 0, old := none, mirror := none
    bump := false, unsent := false }

def gpGet (s : State) (g : Nat) : GoosePub := tabGet (fun _ => goose0) s.pub.goose g
def gpSet (s : State) (g : Nat) (x : GoosePub) : State :=
  { s with pub := { s.pub with goose := tabSet (fun _ => goose0) s.pub.goose g x } }

/-- The record of a publication (Table 11-1), and a field of it. -/
def gpRec (s : State) (g : Nat) : Option (List Byte) := arrayRec (unitSection s 8 0 g) 0x0801 g
def gpField (s : State) (g off len : Nat) : Nat :=
  match gpRec s g with
  | some r => leAt r off len
  | none => 0

/-- The record of a republication (Table 11-5), and a field of it. -/
def svRec (s : State) (v : Nat) : Option (List Byte) := arrayRec (unitSection s 8 0 (svUnit v)) 0x0803 v
def svField (s : State) (v off len : Nat) : Nat :=
  match svRec s v with
  | some r => leAt r off len
  | none => 0

/-- EN, LAUNCH_PENDING, ACTIVE_BUF and STARTED of PUB_GP_STAT. -/
def gpEn (s : State) (g : Nat) : Bool := regBit s (Reg.PUB_GP_STAT g) 31
def gpStarted (s : State) (g : Nat) : Bool := regBit s (Reg.PUB_GP_STAT g) 28

/-- The rows in collection of a republication. -/
def svGet (s : State) (v : Nat) : SvRep := tabGet (fun _ => { rows := [] }) s.pub.sv v
def svSet (s : State) (v : Nat) (l : List CnfRow) : State :=
  { s with pub := { s.pub with sv := tabSet (fun _ => { rows := [] }) s.pub.sv v { rows := l } } }

/-- A subscription beside its registers, before its first valid message. -/
def sub0 : SubX := { deadline := 0, stamp := 0, seen := false, mirror := none }
def subGet (s : State) (v : Nat) : SubX := tabGet (fun _ => sub0) s.pub.sub v
def subSet (s : State) (v : Nat) (x : SubX) : State :=
  { s with pub := { s.pub with sub := tabSet (fun _ => sub0) s.pub.sub v x } }

/-- A field of a subscription's record (Table 11-6). -/
def subField (s : State) (v off len : Nat) : Nat :=
  match arrayRec (unitSection s 8 0 (subUnit v)) 0x0802 v with
  | some r => leAt r off len
  | none => 0

/-- STATE of a subscription: 0 IDLE, 1 WAIT, 2 HEALTHY, 3 EXPIRED. -/
def subState (s : State) (v : Nat) : Nat := regFld s (Reg.PUB_SUB_STAT v) 27 26
def subTo (s : State) (v st : Nat) : State := regSetFld s (Reg.PUB_SUB_STAT v) 27 26 st

/-! ### Loading -/

/-- Load EN of a publication, of a republication, of a subscription; an enabled subscription waits. -/
def gooseLoad (s : State) (g : Nat) : State := regSetFld s (Reg.PUB_GP_STAT g) 31 31 (b2n (nbit (gpField s g 0 1) 0))
def svLoad (s : State) (v : Nat) : State := regSetFld s (Reg.PUB_SV_STAT v) 31 31 (b2n (nbit (svField s v 0 1) 0))
def subLoad (s : State) (v : Nat) : State :=
  let on := b2n (nbit (subField s v 0 1) 0)
  subTo (regSetFld s (Reg.PUB_SUB_STAT v) 31 31 on) v on

/-- A publication, republication or subscription applies (R297, Table 2-12). -/
def publishApply (s : State) (u : Nat) (was : Bool) : State :=
  if u < 512 then
    if (gpRec s u).isSome && was then gooseLoad (gpSet s u { gpGet s u with bump := true }) u
    else gooseLoad (gpSet (regSet s (Reg.PUB_GP_STAT u) 0) u goose0) u
  else if u < 1024 then svLoad (svSet s (u - 512) []) (u - 512)
  else
    let v := u - 1024
    subLoad (regSet (subSet s v { sub0 with mirror := (subGet s v).mirror }) (Reg.PUB_SUB_STAT v) 0) v

/-- A publication stops (R288): no retransmission any more; the copies in a calendar are still launched. -/
def gpStop (s : State) (g : Nat) : State :=
  gpSet (regSetFld s (Reg.PUB_GP_STAT g) 31 31 0) g { gpGet s g with due := none, old := none }

/-- A publication is enabled: it sends nothing until its first accepted update, which carries stNum 1 (R279, R283). -/
def gpStart (s : State) (g : Nat) : State :=
  gpSet (regSetFld (regSetFld s (Reg.PUB_GP_STAT g) 31 31 1) (Reg.PUB_GP_STAT g) 28 28 0) g
    { gpGet s g with due := none, old := none, st := 0, sq := 0, unsent := false }

/-- A publication, republication or subscription that a swap has given a new record takes it, if it is pending (R62). -/
def pubTake (s : State) (u : Nat) : State :=
  if unitPends s 8 u then swapSettle (publishApply (unitTake s 8 u) u (u < 512 && (gpRec s u).isSome)) else s

end Sys2Proof.Machine
end

