-- ==== Sys2Proof/Machine/PubSup.lean ====
section
/-!
DEFINITION. Supervision of subscriptions as shared operations (R292 to R295): the checks of an offered message, states, deadlines,
event records.
-/
namespace Sys2Proof.Machine

/-- Count in PUB_CNT[k] by `n`. -/
def pubCountBy (s : State) (k n : Nat) : State := countBy s (Reg.PUB_CNT k) Reg.PUB_CAUSE 0 n
def pubCount (s : State) (k : Nat) : State := pubCountBy s k 1

/-- The word and the rest of a record (Table 11-9). -/
def supRecord (kind fault v : Nat) (st sq ns32 : Word) (frac auth : Nat) : List Byte :=
  leBytes 1 kind ++ leBytes 1 fault ++ leBytes 2 v ++ leBytes 4 st.toNat ++ leBytes 4 sq.toNat ++ leBytes 4 ns32.toNat
    ++ leBytes 1 frac ++ leBytes 1 auth ++ zeros 10

/-- Write a record to the event ring of a function (R295): the SEQ word it was written with, if it was written. -/
def evrWrite (s : State) (f : Nat) (rest : List Byte) : Nat × State :=
  let ctl := Reg.PUB_EVR_CTL f
  let log := regFld s ctl 27 24
  let seq := (regGet s (Reg.PUB_EVR_SEQ f)).toNat
  let ahead := (seq + 2 ^ 32 - (regGet s (Reg.PUB_EVR_HEAD f)).toNat) % 2 ^ 32
  if !regBit s ctl 31 then (0, s)
  else if 2 ^ log ≤ ahead then (0, raise (pubCount s 17) Reg.PUB_CAUSE 6)
  else
    let word := 2 ^ 31 + seq % 2 ^ 31
    let s := ringWrite s f (hostAddr s (Reg.PUB_EVR_BASE_LO f) (Reg.PUB_EVR_BASE_HI f)) log 32 seq word rest
    let s := regSet s (Reg.PUB_EVR_SEQ f) (BitVec.ofNat 32 (seq + 1))
    let n := everyNth (regFld s ctl 15 0) (tabGet (fun _ => 0) s.pub.evrSince f)
    let s := { s with pub := { s.pub with evrSince := tabSet (fun _ => 0) s.pub.evrSince f n.2 } }
    (word, if n.1 then msix s f (regFld s ctl 23 16) else s)

/-- Emit an event of subscription `v` to its ring and its context (R295); an event refused by an engine's queue or by the hold queue
is counted there (R304, R352). -/
def supEvent (s : State) (v kind fault : Nat) (st sq ns32 : Word) (frac auth : Nat) : State :=
  let flags := subField s v 0 1
  let rest := supRecord kind fault v st sq ns32 frac auth
  let r := if nbit flags 3 then evrWrite s (subField s v 1 1 % 4) rest else (0, s)
  let s := r.2
  if nbit flags 4 then
    let c := subField s v 20 2
    match post s 0 (eventOf s 5 (some c) 0 0 (leBytes 4 r.1 ++ rest)) with
    | (.refused, _) =>
      let x := ctxGet s c
      if x.mode = .hot ∧ x.moving.isNone ∧ holds s c = false ∧ !engWaking s x.owner then krnCount s x.owner 13
      else rdrCount s 8
    | (_, t) => t
  else s

/-- The mirror payload of subscription `v` (Table 18-8). -/
def subRecord (s : State) (v : Nat) : List Byte :=
  let x := subGet s v
  leBytes 1 (subState s v) ++ zeros 3 ++ leBytes 4 (regGet s (Reg.PUB_SUB_STNUM v)).toNat
    ++ leBytes 4 (regGet s (Reg.PUB_SUB_SQNUM v)).toNat ++ leBytes 4 (regGet s (Reg.PUB_SUB_DEADLINE v)).toNat
    ++ leBytes 4 (BitVec.ofInt 32 (x.stamp / tNano)).toNat ++ leBytes 4 ((x.deadline - x.stamp) / (1000000 * tNano)).toNat

/-- The state of subscription `v` goes to the twin (R459). -/
def subMirror (s : State) (v : Nat) : State := culPend s 1 v (subRecord s v)

/-- A subscription expires (Table 11-8). -/
def subExpire (s : State) (v : Nat) : State :=
  let s := satInc (subTo s v 3) (Reg.PUB_SUB_STAT v) 15 0
  let s := raise (pubCount s 11) Reg.PUB_CAUSE 2
  subMirror (supEvent s v 2 0 (regGet s (Reg.PUB_SUB_STNUM v)) (regGet s (Reg.PUB_SUB_SQNUM v)) (regGet s (Reg.PUB_SUB_DEADLINE v))
    ((subGet s v).deadline % tNano / 2 ^ 24).toNat 0) v

/-- A valid message refreshes a subscription: its deadline, its numbers, its state (R293, R294, Table 11-8). -/
def subRefresh (s : State) (v : Nat) (st sq : Word) (tal : Nat) (stamp : Int) (ns32 : Word) (frac auth : Nat) : State :=
  let x := subGet s v
  let tovr := subField s v 16 4
  let tal := if tovr ≠ 0 then tovr else tal
  let s := if 2000 < tal then pubCount s 16 else s
  let tal := min tal 2000
  let s := if subState s v = 2 ∧ x.deadline < stamp then subExpire s v else s
  let was := subState s v
  let other := x.seen ∧ st ≠ regGet s (Reg.PUB_SUB_STNUM v)
  let deadline := stamp + (tal * 1000000 : Nat) * tNano
  let s := subSet s v { x with deadline := deadline, stamp := stamp, seen := true }
  let s := regSet (regSet s (Reg.PUB_SUB_STNUM v) st) (Reg.PUB_SUB_SQNUM v) sq
  let s := regSet s (Reg.PUB_SUB_DEADLINE v) (BitVec.ofInt 32 (deadline / tNano))
  let s := subTo s v 2
  let s := if was = 3 then raise (pubCount s 12) Reg.PUB_CAUSE 3 else s
  let s := if was = 1 ∨ was = 3 then supEvent s v 1 0 st sq ns32 frac auth else s
  subMirror (if other then supEvent s v 3 0 st sq ns32 frac auth else s) v

/-- The first check of Table 11-7 that a message fails, by code; 0 for a valid message. -/
def subFault (s : State) (v auth : Nat) (pdu : Option (List (Nat × List Byte))) : Nat :=
  let flags := subField s v 0 1
  if auth = 2 ∨ (auth = 3 ∧ !nbit flags 2) then 7
  else
    match pdu with
    | none => 1
    | some l =>
      let el := fun (t : Nat) => match berFind l t with | some b => b | none => []
      let crc := subField s v 8 4
      let rev := subField s v 12 4
      let ent := subField s v 22 2
      if crc ≠ 0 ∧ crc ≠ (crc32c (el 0x80)).toNat then 2
      else if rev ≠ 0 ∧ rev ≠ (berWord (el 0x88)).toNat then 3
      else if ent ≠ 0 ∧ ent ≠ (berWord (el 0x8A)).toNat then 4
      else if beNat (el 0x89) ≠ 0 then 5
      else if beNat (el 0x87) ≠ 0 ∧ !nbit flags 1 then 6
      else 0

/-- An offered message of subscription `v` (R292 to R294). -/
def subMessage (s : State) (v : Nat) (bytes : List Byte) (l3 auth : Nat) (ns32 : Word) (frac : Nat) : State :=
  let s := pubCount s 9
  let pdu := goosePdu bytes l3
  let el := fun (t : Nat) => match pdu with
    | some l => (match berFind l t with | some b => b | none => [])
    | none => []
  let st := berWord (el 0x85)
  let sq := berWord (el 0x86)
  let fault := subFault s v auth pdu
  if fault ≠ 0 then
    let s := pubCount s 13
    if regFld s (Reg.PUB_SUB_STAT v) 19 16 = fault then s
    else
      let s := raise (regSetFld s (Reg.PUB_SUB_STAT v) 19 16 fault) Reg.PUB_CAUSE 4
      supEvent s v 4 fault st sq ns32 frac auth
  else
    let s := pubCount s 10
    let x := subGet s v
    let lst := regGet s (Reg.PUB_SUB_STNUM v)
    let lsq := regGet s (Reg.PUB_SUB_SQNUM v)
    if x.seen ∧ st = lst ∧ sq = lsq then subMirror (pubCount s 14) v
    else
      let s := if x.seen ∧ st = lst ∧ lsq.toNat < sq.toNat then pubCountBy s 15 (sq.toNat - lsq.toNat - 1) else s
      subRefresh s v st sq (berWord (el 0x81)).toNat (stampTime s ns32 frac) ns32 frac auth

/-- The enabled subscription that names a stream. -/
def subNamed (s : State) (stream : Nat) : Option Nat :=
  (List.range 8192).find? (fun v => regBit s (Reg.PUB_SUB_STAT v) 31 && decide (subField s v 4 4 % 2 ^ 17 = stream))

/-- Offer a frame to the publisher at stage 9 when an enabled subscription names its stream (R292). A subscription that a swap has changed
takes its new record at this reception (R62), and the stream is looked up again. -/
def pubOffer (s : State) (stream : Nat) (bytes : List Byte) (l3 auth : Nat) (ns32 : Word) (frac : Nat) : State :=
  match subNamed s stream with
  | none => s
  | some v =>
    let s := pubTake s (subUnit v)
    match subNamed s stream with
    | some v => subMessage s v bytes l3 auth ns32 frac
    | none => s

end Sys2Proof.Machine
end

