-- ==== Sys2Proof/Machine/SwitchOps.lean ====
section
/-!
DEFINITION. The switch core as shared operations (R181 to R193, R199 to R201): the forwarding database, destinations and their masks,
numbering (R167), admission to queues, transfer lists and calendars, the siphon, stage 9 (R158, R159), injection (R151).
-/
namespace Sys2Proof.Machine

/-! ### Forwarding database (R182 to R186) -/

/-- A forwarding entry. -/
def fdbGet (s : State) (i : Nat) : Option FdbEntry := tabGet (fun _ => none) s.cis.fdb i

/-- The state with a forwarding entry replaced. -/
def fdbSet (s : State) (i : Nat) (e : Option FdbEntry) : State :=
  { s with cis := { s.cis with fdb := tabSet (fun _ => none) s.cis.fdb i e } }

/-- FDB_ENTRIES of a district, and its first entry. -/
def fdbSize (s : State) (d : Nat) : Nat := if d < districtCount s then districtField s d 40 4 else 0
def fdbBase (s : State) (d : Nat) : Nat := ((List.range d).map (fdbSize s)).foldl (· + ·) 0

/-- The eight ways of a key's bucket (R182); none in a district without entries. -/
def fdbWays (s : State) (d mac fid : Nat) : List Nat :=
  let n := fdbSize s d / 8
  if n = 0 then []
  else
    let b := (crc32c (beBytes 6 mac ++ leBytes 2 fid)).toNat % n
    (List.range 8).map (fun w => fdbBase s d + 8 * b + w)

/-- The entry that holds a key. -/
def fdbFind (s : State) (d mac fid : Nat) : Option Nat :=
  (fdbWays s d mac fid).find? (fun i => match fdbGet s i with
    | some e => decide (e.mac = mac) && decide (e.fid = fid)
    | none => false)

/-- A learned entry has not been refreshed for AGE_S seconds (R184). -/
def fdbExpired (s : State) (e : FdbEntry) : Bool :=
  let age := regFld s Reg.CIS_FDB_AGE 15 0
  e.dynamic && decide (age ≠ 0) && decide (e.seen + age * 1000000000 ≤ s.run)

/-- A way that is free, or else one whose entry meets `p`; which of several is a free choice (log entry 7). -/
def fdbRoom (s : State) (ways : List Nat) (p : FdbEntry → Bool) : Option Nat × State :=
  let free := ways.filter (fun i => (fdbGet s i).isNone)
  let l := if free.isEmpty then ways.filter (fun i => match fdbGet s i with | some e => p e | none => false) else free
  if l.isEmpty then (none, s)
  else
    let r := freePick s l.length
    (l[r.1]?, r.2)

/-- Bit 1 and bit 0 of a district's FLAGS: flooding of unknown unicast, learning. -/
def districtFloods (s : State) (d : Nat) : Bool := nbit (districtField s d 34 1) 1
def districtLearns (s : State) (d : Nat) : Bool := nbit (districtField s d 34 1) 0

/-- The roles and the set that make a port redundant: A, B or neither. -/
def isRingPort (s : State) (p : Nat) : Bool := decide (p < 200) && (decide (portRole s p = 3) || decide (portRole s p = 4))
def isPrpPort (s : State) (p : Nat) : Bool := decide (p < 200) && (decide (portRole s p = 1) || decide (portRole s p = 2))

/-- The A and B ports of a redundancy set, and its interlink. -/
def setAB (s : State) (x : Nat) : List Nat := (List.range 4).flatMap (fun r => setPorts s x (r + 1))
def setInterlink (s : State) (x : Nat) : List Nat := setPorts s x 5

/-- Learn the source address of a frame whose check has passed (R184). -/
def learn (s : State) (h : Nat) : State :=
  match frameGet s h with
  | none => s
  | some f =>
    let mac := srcMac f.bytes
    let d := f.district
    if districtLearns s d && nbit (leAt (vlanGet s f.vid) 11 1) 1 && decide (f.ingress < 200) && !isGroup mac then
      let fid := vlanFid s f.vid
      let dest := if isRingPort s f.ingress || isPrpPort s f.ingress then 0x4000 + portSetNo s f.ingress else f.ingress
      match fdbFind s d mac fid with
      | some i =>
        match fdbGet s i with
        | some e =>
          if !e.dynamic then s
          else
            let t := fdbSet s i (some { e with dest := dest, seen := s.run })
            if e.dest = dest then t else count t (Reg.CIS_FDB_MOVES d) Reg.CIS_CAUSE
        | none => s
      | none =>
        match fdbRoom s (fdbWays s d mac fid) (fdbExpired s) with
        | (some i, s) =>
          fdbSet s i (some { mac := mac, fid := fid, dest := dest, district := d, dynamic := true, seen := s.run })
        | (none, s) => raise (count s (Reg.CIS_FDB_FULL d) Reg.CIS_CAUSE) Reg.CIS_CAUSE 4
    else s

/-! ### Destinations (R181, Table 7-1) -/

/-- The host ports. -/
def hostPorts : List Nat := [200, 201, 202, 203]

/-- A multicast group (R185). -/
def mcgGet (s : State) (g : Nat) : BitVec 256 := tabGet (fun _ => 0) s.cis.mcg g

/-- The ports that a DEST names; none for DROP. -/
def destPorts (s : State) (dest : Nat) : Option (List Nat) :=
  let k := dest / 2 ^ 14
  if k = 0 then some [dest % 256]
  else if k = 1 then some (setAB s (dest % 4))
  else if k = 2 then some ((List.range 204).filter (fun p => (mcgGet s (dest % 1024)).getLsbD p))
  else none

/-- Whether a port is a member of a VLAN within a district; the internal ports are members of every one (R36). -/
def vlanMember (s : State) (d v p : Nat) : Bool :=
  (decide (200 ≤ p) && decide (p < 204))
    || (isMember s d p && decide (vlanDistrict s v = d) && vlanHas s v (portVlanGroup s p))

/-- The ports of a flood. -/
def floodPorts (s : State) (d v : Nat) : List Nat :=
  (members s d).filter (fun p => vlanHas s v (portVlanGroup s p))

/-- The other HSR set of a QuadBox (Table 6-5). -/
def quadSets (s : State) (x : Nat) : List Nat :=
  let home := fun (y : Nat) => (setPorts s y 3 ++ setPorts s y 4).head?.bind (portDistrict s)
  if (setInterlink s x).isEmpty then
    (List.range 4).filter (fun y =>
      decide (y ≠ x) && !(setPorts s y 3).isEmpty && (setInterlink s y).isEmpty && decide (home y = home x))
  else []

/-- The ports of this node towards a set's ring: interlink, internal ports, the other ring of a QuadBox. -/
def nodePorts (s : State) (x : Nat) : List Nat :=
  setInterlink s x ++ hostPorts ++ (quadSets s x).flatMap (fun y => setPorts s y 3 ++ setPorts s y 4)

/-- The redundancy masks of Table 7-1. `hit` is a lookup that found an entry: a flooded unicast is on no known node (log entry 23). -/
def redMask (s : State) (ingress : Nat) (unicast hit : Bool) (l : List Nat) : List Nat :=
  if isPrpPort s ingress then
    let x := portSetNo s ingress
    l.filter (fun p => !(isPrpPort s p && decide (portSetNo s p = x)))
  else if isRingPort s ingress then
    let x := portSetNo s ingress
    let other := (setPorts s x 3 ++ setPorts s x 4).filter (fun p => decide (p ≠ ingress))
    let node := nodePorts s x
    let here := l.filter (fun p => node.contains p)
    if unicast then (if hit && !here.isEmpty then here else other)
    else (other ++ here).dedup
  else l

/-- What R181 finds: a drop reason of Table 7-3, or the destinations. -/
inductive Forwarding where
  | drop (r : Nat)
  | ports (l : List Nat)
  deriving DecidableEq, Repr

/-- The destinations of a frame (R181). -/
def destinations (s : State) (f : Frame) : Forwarding :=
  if 200 ≤ f.ingress ∧ nbit f.flags 0 then .ports [f.dest]
  else
    let mac := dstMac f.bytes
    let unicast := !isGroup mac
    let mask := fun (hit : Bool) (l : List Nat) =>
      Forwarding.ports ((redMask s f.ingress unicast hit l).filter (fun p =>
        decide (p ≠ f.ingress) && vlanMember s f.district f.vid p))
    match fdbFind s f.district mac (vlanFid s f.vid) with
    | some i =>
      match fdbGet s i with
      | some e => (match destPorts s e.dest with | some l => mask true l | none => .drop 4)
      | none => .drop 3
    | none => if unicast && !districtFloods s f.district then .drop 2 else mask false (floodPorts s f.district f.vid)

/-- A frame with fresh destinations. -/
def destsOf (l : List Nat) : List Dest :=
  l.map (fun p => { port := p, reserve := 0, shared := 0, decided := 0, refused := false })

/-- Whether a transparent clock in P2P mode keeps a frame from being forwarded: a Pdelay message of one of its ports, the follow-up of a
response among them, which is no event message (R107). -/
def pdelayHeld (s : State) (f : Frame) : Bool :=
  decide (s.clk.tc.mode = 2) && decide (f.ingress < 200) && s.clk.tc.ports.getLsbD f.ingress
    && (match ptpHeader f.bytes [319, 320] with
      | some (h, _) => decide (h < f.bytes.length) && [2, 3, 10].contains (ptpType f.bytes h)
      | none => false)

/-- Whether stage 9 forwards a frame: FORWARD, and no Furrow frame (R231). -/
def forwards (s : State) (f : Frame) : Bool := nbit f.action 0 && f.furrow.isNone && !pdelayHeld s f

/-- Find the destinations of a frame at its first decided cell. -/
def destsFind (s : State) (h : Nat) : State :=
  match frameGet s h with
  | none => s
  | some f =>
    if f.found || f.drop.isSome then s
    else
      let l := if forwards s f then (match destinations s f with | .ports l => l | .drop _ => []) else []
      frameSet s h (some { f with found := true, dests := destsOf l })

/-! ### Numbering (R167) -/

/-- A ring transit: a frame with a recognised HSR tag from a ring port that leaves on its own ring, or on the other ring of a QuadBox. -/
def ringTransit (s : State) (f : Frame) (x : Nat) : Bool :=
  match f.red with
  | some t => t.hsr && (decide (t.set = x) || (quadSets s t.set).contains x)
  | none => false

/-- A set's own counter gives a number, the first of them 0 (DESIGN CHOICE, log entry 105). -/
def setNumber (s : State) (x : Nat) : Nat × State :=
  let n := tabGet (fun _ => 0) s.hdg.setSend x
  (n, { s with hdg := { s.hdg with setSend := tabSet (fun _ => 0) s.hdg.setSend x ((n + 1) % 65536) } })

/-- The proxy entry of a source address gives a number, the first of them 0; it is created on first use, with a window that the node's first
frame received restarts (DESIGN CHOICE, log entry 105); a full table leaves the set's counter. -/
def proxyNumber (s : State) (mac x : Nat) : Nat × State :=
  match nodeFind s mac x with
  | some (i, n) => (n.send, nodeSet s i (some { n with proxy := true, send := (n.send + 1) % 65536, last := s.run }))
  | none =>
    let r := nodeFree s
    match r.1 with
    | some i =>
      (0, nodeSet r.2 i (some { mac := mac, set := x, proxy := true, top := 0, window := 0, send := 1, last := s.run
                                forgotten := true, pendA := none, pendB := none }))
    | none => setNumber (nodeFull s x) x

/-- Give a frame one sequence number for each set it leaves on (R167). -/
def numberFrame (s : State) (h : Nat) (ports : List Nat) : State :=
  match frameGet s h with
  | none => s
  | some f =>
    (List.range 4).foldl (fun s x =>
      if ports.any (fun p => (isRingPort s p || isPrpPort s p) && decide (portSetNo s p = x)) && !ringTransit s f x then
        let r := if 200 ≤ f.ingress then setNumber s x else proxyNumber s (srcMac f.bytes) x
        frameMod r.2 h (fun f => { f with numbers := f.numbers ++ [(x, r.1)] })
      else s) s

/-! ### Siphon (R193, R199 to R201) -/

/-- Whether a port is in a session's ingress bitmap, or in its egress bitmap; whether a session is enabled. -/
def siphonIn (s : State) (x p : Nat) : Bool := regBit s (Reg.CIS_SIPH_SRC_IN x (p / 32)) (p % 32)
def siphonOut (s : State) (x p : Nat) : Bool := regBit s (Reg.CIS_SIPH_SRC_OUT x (p / 32)) (p % 32)
def siphonOn (s : State) (x : Nat) : Bool := regBit s (Reg.CIS_SIPH_CTL x) 31

/-- A siphon copy's test and queueing (R193, R201): the shared test with the session's ALPHA_K; refused copies count, and a port
that takes no new frame drops the copy as it drops any frame. -/
def siphonTake (s : State) (h x : Nat) : State :=
  match frameGet s h with
  | none => s
  | some f =>
    let ctl := Reg.CIS_SIPH_CTL x
    let p := regFld s ctl 27 20
    let c := regFld s ctl 30 28
    let d := match portDistrict s p with
      | some d => d
      | none => f.district
    let free := if isOq s d && decide (p < 200) then partitionFree s p d else poolFree s d
    let af := alphaF (regFld s ctl 18 16) free
    let cells := cellsOf f.bytes
    if (List.range cells).all (fun i => decide (queueQs s p c d + i < af)) then
      match (if p < 200 then portRefusal s p else none) with
      | some k => portCount s p k
      | none =>
        let q := queueKey p c d
        let snap := regFld s (Reg.CIS_SIPH_SAMPLE x) 13 0
        let snap := if snap = 0 then 0 else if snap < 64 then 64 else snap
        let s := queueSet s q (queueGet s q ++ [{ handle := h, since := s.run, siphon := some (x, snap, cells) }])
        count (refAdd s h) (Reg.CIS_SIPH_COPIES x) Reg.CIS_CAUSE
    else raise (count s (Reg.CIS_SIPH_REFUSED x) Reg.CIS_CAUSE) Reg.CIS_CAUSE 6

/-- A frame matches a session, at most once: counted, and every N-th match copied (R200). -/
def siphonMatch (s : State) (h x : Nat) : State :=
  match frameGet s h with
  | none => s
  | some f =>
    if f.sessions.contains x then s
    else
      let n := regFld s (Reg.CIS_SIPH_SAMPLE x) 31 16
      let n := if n = 0 then 1 else n
      let k := tabGet (fun _ => 0) s.cis.siphCount x + 1
      let s := frameSet s h (some { f with sessions := x :: f.sessions })
      let s := { s with cis := { s.cis with siphCount := tabSet (fun _ => 0) s.cis.siphCount x k } }
      if k % n = 0 then siphonTake s h x else s

/-- The copies that the admission of a frame earns by ingress port, or by port 206 when it is handed to confluence. -/
def siphonIngress (s : State) (h p : Nat) : State :=
  (List.range 8).foldl (fun s x => if siphonOn s x && siphonIn s x p then siphonMatch s h x else s) s

/-- The copies that a frame earns when it is first selected for a port of an egress bitmap. Those of a partition copy refer to its staging
copy while that is held (R179, log entry 102). -/
def siphonEgress (s : State) (h p : Nat) : State :=
  match frameGet s h with
  | none => s
  | some f =>
    let k := match f.staged with
      | some k => if (frameGet s k).isSome then k else h
      | none => h
    (List.range 8).foldl (fun s x =>
      if siphonOn s x && siphonOut s x p && !siphonIn s x f.ingress then siphonMatch s k x else s) s

/-- A partition copy has started: its siphon copies have been taken, and it releases the staging copy (R179). -/
def stagedDrop (s : State) (h : Nat) : State :=
  match (frameGet s h).bind (fun f => f.staged) with
  | some k => refDrop (frameMod s h (fun f => { f with staged := none })) k
  | none => s

/-! ### Queues, calendars and transfers -/

/-- Place a frame whose port takes it: in its calendar when it carries a launch target, else on its queue (R110, R181). A calendar
rejection of a publisher's frame counts in PUB_CNT[4]. -/
def destPlace (s : State) (h p : Nat) : State :=
  match frameGet s h with
  | none => s
  | some f =>
    if nbit f.flags 4 && decide (p < 200) then
      let s := calEnter s h p f.target
      let entered := (calGet s (portGroup p)).any (fun e => decide (e.port = p) && decide (e.handle = h))
      let own := match f.origin with
        | .goose _ => true
        | .sv _ => true
        | _ => false
      if own && !entered then pubCount s 4 else s
    else queuePut s h p

/-- One destination of a frame at stage 9: refused by the weir, refused by its port (R138, R141 to R143), put on the transfer list of
an output-queued district, or queued. -/
def destGo (s : State) (h : Nat) (x : Dest) : State :=
  match frameGet s h with
  | none => s
  | some f =>
    if x.refused then destDecided (destRemove s h x.port) h false false
    else
      match (if x.port < 200 then portRefusal s x.port else none) with
      | some k => destDecided (destRemove (portCount s x.port k) h x.port) h false true
      | none =>
        if isOq s f.district && !f.oqCopy && decide (x.port < 200) then
          let l := tabGet (fun _ => []) s.cis.xfer x.port
          refAdd { s with cis := { s.cis with xfer := tabSet (fun _ => []) s.cis.xfer x.port (l ++ [h]) } } h
        else destDecided (destPlace s h x.port) h true false

/-- Every destination of a frame at stage 9, in ascending order of port; the weir's refusals of a publisher's frame count in
PUB_CNT[3]. -/
def destsGo (s : State) (h : Nat) : State :=
  match frameGet s h with
  | none => s
  | some f =>
    let s := frameSet s h (some { f with undecided := f.dests.length })
    let s := numberFrame s h (f.dests.filterMap (fun x => if x.refused then none else some x.port))
    let own := match f.origin with
      | .goose _ => true
      | .sv _ => true
      | _ => false
    let s := if own && f.dests.any (fun x => x.refused) then pubCount s 3 else s
    f.dests.foldl (fun s x => destGo s h x) s

/-- Forward a frame (R181): to the destinations decided cell by cell, or dropped with a reason of Table 7-3. `other` says that it has
another delivery. -/
def forwardFrame (s : State) (h : Nat) (other : Bool) : State :=
  match frameGet s h with
  | none => s
  | some f =>
    if f.dests.isEmpty then
      let r := match destinations s f with
        | .drop r => some r
        | .ports _ => if other then none else some 3
      frameComplete (match r with
        | some r => count s (Reg.CIS_DROP r) Reg.CIS_CAUSE
        | none => s) h 5 none
    else destsGo s h

/-- The transfer engine takes the frame at the head of a port's transfer list (R179, R192): a copy with a handle of its own, each cell
decided in the partition. -/
def oqTransfer (s : State) (p : Nat) : State :=
  match tabGet (fun _ => []) s.cis.xfer p with
  | [] => s
  | h :: rest =>
    let s := { s with cis := { s.cis with xfer := tabSet (fun _ => []) s.cis.xfer p rest } }
    match frameGet s h with
    | none => s
    | some f =>
      match cellFor s f.district (some p) none with
      | (none, s) => refDrop (destDecided (destRemove (weirDrop s p f.tc) h p) h false false) h
      | (some c, s) =>
        let siphon := (List.range 8).any (fun x => siphonOn s x && siphonOut s x p && !siphonIn s x f.ingress)
        let copy : Frame := { f with
          oqCopy := true, cells := [c], offered := 0, shared := 0, refs := 0, inHand := true, dests := destsOf [p]
          undecided := 1, queuedOn := 0, portRefused := false, completed := f.completed || decide (0 < f.queuedOn) || !completesAtEnd f
          staged := if siphon then some h else none }
        let s := weirCells (frameSet (if siphon then refAdd s h else s) c (some copy)) c (cellsOf f.bytes)
        let refused := match frameGet s c with
          | some g => g.dests.any (fun x => x.refused)
          | none => true
        let s :=
          if refused then destDecided (destRemove s h p) h false false
          else
            match portRefusal s p with
            | some k => destDecided (destRemove (portCount s p k) h p) h false true
            | none => destDecided (destRemove (destPlace s c p) h p) h true false
        refDrop (frameLetGo s c) h

/-! ### Stage 9 (R158, R159) -/

/-- The FRAME event of a frame (Table 12-3). -/
def frameEvent (s : State) (h : Nat) (f : Frame) : KEvent :=
  { eventOf s 1 (some f.context) 0 0 [] with
    frame := h, port := f.ingress, ns32 := f.ns32, frac := f.frac, auth := f.authStatus, len := frameLen f.bytes
    stream := f.stream }

/-- The bytes after the last EtherType of a stored frame begin here. -/
def frameL3 (s : State) (f : Frame) : Nat := (parseFrame f.bytes (isRingPort s f.ingress) (isPrpPort s f.ingress)).l3

/-- TO_CONTEXT: the event, or EVENT_FULL (R159, R352). -/
def toContext (s : State) (h : Nat) (f : Frame) : State :=
  match post s 0 (frameEvent s h f) with
  | (.refused, _) => hdgDrop s 13
  | (_, t) => t

/-- TO_CONFLUENCE: the ASDUs, or CONF_BUSY (R159). What is handed over is the CP source of the siphon (R200). -/
def toConfluence (s : State) (h : Nat) (f : Frame) : State :=
  let r := cnfHand s (svAsdus f.bytes (frameL3 s f) f.confStream f.authStatus f.ns32 f.frac)
  if r.1 then
    (List.range 8).foldl (fun s x =>
      if siphonOn s x && siphonIn s x 206 && !siphonIn s x f.ingress then siphonMatch s h x else s) r.2
  else hdgDrop r.2 14

/-- Stage 9 on a frame whose check passed: the publisher's offer, then each action; then the frame is let go. -/
def dispatch (s : State) (h : Nat) : State :=
  match frameGet s h with
  | none => s
  | some f =>
    let s := pubOffer s f.stream f.bytes (frameL3 s f) f.authStatus f.ns32 f.frac
    let s := if nbit f.action 1 then toContext s h f else s
    let s := if nbit f.action 2 then toConfluence s h f else s
    let s := if forwards s f then forwardFrame s h (nbit f.action 1 || nbit f.action 2) else s
    frameLetGo s h

/-! ### Injection (R151) -/

/-- A frame record with nothing decided. -/
def frame0 (bytes : List Byte) (ingress district : Nat) : Frame :=
  { bytes := bytes, whole := true, ingress := ingress, district := district, vid := 0, pcp := 0, tc := 0, ns32 := 0, frac := 0
    stream := 0x1FFFF, refs := 0, inHand := true, cells := [], offered := 0, shared := 0, dests := [], found := false
    oqCopy := false, queuedOn := 0, undecided := 0, portRefused := false, origin := .wire, flags := 0, dest := 0, target := 0
    refNs32 := 0, refFrac := 0, tag := 0, completed := false, action := 1, context := 0, confStream := 0, authMode := 0
    authAlg := 0, keyIndex := 0, authStatus := 0, drop := none, waiting := false, passed := true, red := none, numbers := []
    furrow := none, cut := none, sessions := [], staged := none }

/-- Store a frame: its handle is its first cell (Table 1-4); none when no cell is free. -/
def frameStore (s : State) (f : Frame) : Option Nat × State :=
  let r := cellFor s f.district (if f.oqCopy then f.dests.head?.map (fun x => x.port) else none) none
  match r.1 with
  | some c => (some c, frameSet r.2 c (some { f with cells := [c] }))
  | none => (none, r.2)

/-- Record the staging cells that an ingress port holds in an output-queued district (CIS_DIST_STAGE.HIGH). -/
def stageHigh (s : State) (d n : Nat) : State :=
  if isOq s d ∧ regFld s (Reg.CIS_DIST_STAGE d) 15 0 < n then regSetFld s (Reg.CIS_DIST_STAGE d) 15 0 n else s

/-- A frame that an internal port injects finds no cell, or no room for its cells within STAGE_LIMIT: it completes as DROPPED. -/
def injectLost (s : State) (f : Frame) (reason : Nat) : State :=
  let s := count s (Reg.CIS_DROP reason) Reg.CIS_CAUSE
  match f.origin with
  | .host fn ring index => txComplete s fn ring index f.flags f.tag 5 none
  | .engine e _ ctx => sendOutcome s e ctx f.flags f.tag 5 none
  | .goose _ => pubCount s 3
  | .sv _ => pubCount s 3
  | _ => s

/-- Inject a whole frame at an internal port: `ports` directs it, else it is looked up; the weir decides every cell, and stage 9
forwards it (R151, R181, R189). In an output-queued district the port's STAGE_LIMIT holds (R180) for a frame that is staged. -/
def inject (s : State) (f : Frame) (ports : Option (List Nat)) : State :=
  let held := stagedBy s f.ingress f.district
  let n := cellsOf f.bytes
  let limit := stageLimit s f.district
  let f := match ports with
    | some l => { f with found := true, dests := destsOf l }
    | none => f
  if isOq s f.district ∧ f.oqCopy = false ∧ limit < held + n then injectLost (stageHigh s f.district limit) f 1
  else
  match frameStore (if f.oqCopy then s else stageHigh s f.district (held + n))
      { f with ns32 := nowNs32 s, frac := s.clk.frac.toNat / 2 ^ 24 } with
  | (none, s) => injectLost s f 0
  | (some h, s) =>
    let s := weirCells (destsFind s h) h (cellsOf f.bytes)
    let lost := match frameGet s h with
      | some f => !f.dests.isEmpty && f.dests.all (fun x => x.refused)
      | none => true
    let s := if lost then s else siphonIngress s h f.ingress
    frameLetGo (forwardFrame s h false) h

end Sys2Proof.Machine
end

