-- ==== Sys2Proof/Machine/PubOps.lean ====
section
/-!
DEFINITION. Publishing as shared operations (R279 to R291, R296, R315): frames as sent, the lane queue, events, retransmissions,
launches, SV republication, takeover.
-/
namespace Sys2Proof.Machine

/-! ### Time -/

/-- The PTP time in whole nanoseconds. -/
def pubNow (s : State) : Nat := s.clk.sec.toNat * 1000000000 + s.clk.ns.toNat

/-- The full time of an ns32 target near now (R99). -/
def targetTime (s : State) (t : Word) : Nat := ((pubNow s : Int) + targetIn s t).toNat

/-! ### Frames (R281, R282, R284, R291) -/

/-- UtcTime of a second and nanosecond (R282). -/
def utcTime (s : State) (sec ns : Nat) : List Byte :=
  let secs := BitVec.ofNat 32 sec - regGet s Reg.PUB_UTC_OFFSET
  let st := regFld s Reg.TIM_SYNC_STATE 1 0
  let q := b2n (regBit s Reg.PUB_TIMEQ 7) * 128 + b2n (decide (st = 0)) * 64 + b2n (decide (st ≠ 2)) * 32 + regFld s Reg.PUB_TIMEQ 4 0
  beBytes 4 secs.toNat ++ beBytes 3 (ns * 2 ^ 24 / 1000000000) ++ [BitVec.ofNat 8 q]

/-- A header with its Length and the simulation bit of Reserved1 (R281). -/
def pubHeader (hdr : List Byte) (apdu : Nat) (sim : Bool) : List Byte :=
  let n := hdr.length
  let h := patch hdr (n - 6) (beBytes 2 (8 + apdu))
  if sim then patch h (n - 4) (beBytes 2 (beAt h (n - 4) 2 % 32768 + 32768)) else h

/-- The TLVs of a template, each whole. -/
def tlvSplit : Nat → List Byte → List (List Byte)
  | 0, _ => []
  | n + 1, l =>
    match berHeader l with
    | some (_, h, len) => l.take (h + len) :: tlvSplit n (l.drop (h + len))
    | none => []

/-- The content of a BOOLEAN that is TRUE: any non-zero octet, which no rule fixes (log entry 7). -/
def berTrue (s : State) : List Byte × State :=
  let r := freePick s 255
  ([BitVec.ofNat 8 (r.1 + 1)], r.2)

/-- The bytes of a template of the PUBLISH section. -/
def templateOf (s : State) (unit off len : Nat) : List Byte := arrayBytes (unitSection s 8 0 unit) 0x0804 off len

/-- The frame of a publication with its content, numbers, t and timeAllowedtoLive (R281, Table 11-2). -/
def gooseFrame (s : State) (g : Nat) (content : List Byte) (st sq : Word) (tSec tNs tal : Nat) : List Byte × State :=
  let t := templateOf s g (gpField s g 28 4) (gpField s g 32 2)
  let n := gpField s g 34 1
  let parts := tlvSplit 3 (t.drop n)
  let sim := nbit (gpField s g 0 1) 1
  let b := if sim then berTrue s else ([0], s)
  let part := fun (i : Nat) => match parts[i]? with
    | some l => l
    | none => []
  let body := part 0 ++ berTlv 0x81 (berInt tal) ++ part 1 ++ part 2 ++ berTlv 0x84 (utcTime s tSec tNs)
    ++ berTlv 0x85 (berInt st.toNat) ++ berTlv 0x86 (berInt sq.toNat) ++ berTlv 0x87 b.1 ++ berTlv 0x88 (berInt (gpField s g 24 4))
    ++ berTlv 0x89 [0] ++ berTlv 0x8A (berInt (gpField s g 36 2)) ++ berTlv 0xAB content
  let apdu := berTlv 0x61 body
  (pubHeader (t.take n) apdu.length sim ++ apdu, b.2)

/-- One ASDU of a republished row (R291). -/
def svAsduBytes (s : State) (v : Nat) (svid : List Byte) (r : CnfRow) : List Byte :=
  let pair := fun (c : Word × Word) =>
    if c.1 = 0x80000000#32 then beBytes 4 0 ++ beBytes 4 (c.2.toNat % 16384 / 4 * 4 + 1) else beBytes 4 c.1.toNat ++ beBytes 4 (c.2.toNat % 16384)
  let cols := (r.cols.drop (svField s v 8 2)).take (svField s v 10 1)
  berTlv 0x30 (svid ++ berTlv 0x82 (beBytes 2 (r.k % 65536)) ++ berTlv 0x83 (beBytes 4 (svField s v 12 4))
    ++ berTlv 0x85 [BitVec.ofNat 8 (if r.flags % 4 = 2 then svField s v 11 1 else 0)] ++ berTlv 0x87 (cols.flatMap pair))

/-- The frame of a republication of some rows (R291). -/
def svFrame (s : State) (v : Nat) (rows : List CnfRow) : List Byte :=
  let t := templateOf s (svUnit v) (svField s v 20 4) (svField s v 24 2)
  let n := svField s v 26 1
  let svid := match tlvSplit 1 (t.drop n) with
    | l :: _ => l
    | [] => []
  let apdu := berTlv 0x60 (berTlv 0x80 (berInt rows.length) ++ berTlv 0xA2 (rows.flatMap (svAsduBytes s v svid)))
  pubHeader (t.take n) apdu.length (nbit (svField s v 0 1) 3) ++ apdu

/-! ### Sending (R279, R280, R289) -/

/-- The ports that one DEST of Table 11-1 names. -/
def pubDest (s : State) (d : Nat) : List Nat :=
  let k := d / 2 ^ 14
  if k = 1 then [d % 256] else if k = 2 then setAB s (d % 4) else []

/-- VID and PCP of a frame of the publisher: of its tag; an untagged or priority-tagged frame's VID, and an untagged one's PCP, are
free values, which no rule states (log entry 7). -/
def pubVid (s : State) (bytes : List Byte) : Nat × Nat × State :=
  let tagged := decide (beAt bytes 12 2 = 0x8100)
  let tci := beAt bytes 14 2
  if tagged ∧ tci % 4096 ≠ 0 then (tci % 4096, tci / 8192, s)
  else
    let v := freePick s 4096
    if tagged then (v.1, tci / 8192, v.2)
    else
      let p := freePick v.2 8
      (v.1, p.1, p.2)

/-- Put a built and tagged frame on PP (R279): looked up or directed, with its launch target when it has one. -/
def pubInject (s : State) (bytes : List Byte) (index : Nat) (sv : Bool) (target : Option Word) : State :=
  let tcd := if sv then svField s index 3 1 else gpField s index 3 1
  let flags := if sv then svField s index 0 1 else gpField s index 0 1
  let look := if sv then nbit flags 1 else nbit flags 2
  let dests := if sv then pubDest s (svField s index 4 2)
    else ((List.range 4).flatMap (fun i => pubDest s (gpField s index (4 + 2 * i) 2))).dedup
  let v := pubVid s bytes
  let f : Frame := { frame0 bytes 205 (tcd / 16 % 8) with
    tc := tcd % 8, vid := v.1, pcp := v.2.1, origin := if sv then .sv index else .goose index
    flags := if target.isSome then 16 else 0
    target := match target with | some t => t | none => 0 }
  let s := pubCount v.2.2 (if sv then 7 else 0)
  let s := if sv then count s (Reg.PUB_SV_FRAMES index) Reg.PUB_CAUSE else s
  inject s f (if look then none else some dests)

/-- Lanes of the publisher by algorithm (R289). -/
def pubLanes (s : State) (gmac : Bool) : Nat := if gmac then 8 - ghashLanes s else 16 - shaLanes s

/-- The algorithm of a lane job, whether it is a frame of the publisher, and the key slot it uses. -/
def laneAlg : LaneJob → Nat
  | .frame _ _ _ _ _ alg => alg
  | .engine _ _ _ _ _ alg _ _ _ _ => alg
def laneFrame : LaneJob → Bool
  | .frame _ _ _ _ _ _ => true
  | .engine _ _ _ _ _ _ _ _ _ _ => false
def laneKey (s : State) : LaneJob → Option Key
  | .frame _ _ _ _ key _ => keyGet s key 0
  | .engine _ _ _ key slot _ _ _ _ _ => keyGet s key slot

/-- Free lanes take the oldest waiting jobs of their algorithm, each with its key slot as it stands; a frame whose last lane has been taken away
is not sent (R289). The first 64 frames of the list are the queue of R289; the publisher holds any further one until there is a place, since
the rule names no loss of it (DEDUCED, log entry 63). -/
def laneStart (s : State) : List LaneJob → List LaneJob → State
  | kept, [] => { s with krn := { s.krn with lanes := kept } }
  | kept, j :: t =>
    let gm := decide (4 ≤ laneAlg j)
    let busy := (s.krn.laneRun.filter (fun x => decide (decide (4 ≤ laneAlg x.job) = gm))).length
    if busy < pubLanes s gm then
      laneStart { s with krn := { s.krn with laneRun := s.krn.laneRun ++ [{ job := j, key := laneKey s j }] } } kept t
    else if pubLanes s gm = 0 && laneFrame j then laneStart (pubCount s 6) kept t
    else laneStart s (kept ++ [j]) t

/-- Waiting jobs look for a lane. -/
def laneKick (s : State) : State := laneStart s [] s.krn.lanes

/-- A job enters the lane queue. -/
def laneEnter (s : State) (j : LaneJob) : State := laneKick { s with krn := { s.krn with lanes := s.krn.lanes ++ [j] } }

/-- Send a built frame: at once without a tag, else by a lane; without a lane of its algorithm it is not sent (R289). -/
def pubSend (s : State) (bytes : List Byte) (index : Nat) (sv : Bool) (target : Option Word) : State :=
  let alg := if sv then svField s index 1 1 else gpField s index 1 1
  let key := if sv then svField s index 2 1 else gpField s index 2 1
  if alg = 0 then pubInject s bytes index sv target
  else if pubLanes s (decide (4 ≤ alg)) = 0 then pubCount s 6
  else laneEnter s (.frame bytes index sv target key alg)

/-- A frame's tag is computed (R289): it is sent, or not, for want of the key. -/
def pubTagged (s : State) (bytes : List Byte) (index : Nat) (sv : Bool) (target : Option Word) (alg : Nat) (key : Option Key) :
    State :=
  match key with
  | some k =>
    if k.alg = alg then
      let tag := tagOf alg k.key (Config.secIv bytes) (Config.secCovered bytes)
      pubInject s (Config.secExtend bytes alg k.id tag) index sv target
    else raise (regSet (pubCount s 5) Reg.PUB_EVENT (BitVec.ofNat 32 index)) Reg.PUB_CAUSE 5
  | none => raise (regSet (pubCount s 5) Reg.PUB_EVENT (BitVec.ofNat 32 index)) Reg.PUB_CAUSE 5

/-! ### Events and retransmissions (R282 to R284, R287, R288) -/

/-- I_n of a publication in ns (R284). -/
def gooseInterval (s : State) (g n : Nat) : Nat :=
  min (gpField s g 12 4 * 2 ^ (n - 1 - gpField s g 20 1)) (gpField s g 16 4) * 1000

/-- timeAllowedtoLive for an interval in ns: twice it, in ms rounded up. -/
def talOf (interval : Nat) : Nat := (2 * interval + 999999) / 1000000

/-- 0xFFFF_FFFF is followed by 1 (R283). -/
def nextNum (w : Word) : Word := if w = 0xFFFFFFFF then 1 else w + 1

/-- The mirror payload of publication `g` (Table 18-8). -/
def gpRecord (s : State) (g : Nat) : List Byte :=
  let st := Reg.PUB_GP_STAT g
  leBytes 4 (regGet s (Reg.PUB_GP_STNUM g)).toNat ++ leBytes 4 (regGet s (Reg.PUB_GP_SQNUM g)).toNat
    ++ leBytes 4 (regGet s (Reg.PUB_GP_DIGEST g)).toNat ++ leBytes 2 (regFld s st 15 0) ++ leBytes 1 (b2n (regBit s st 28)) ++ [0]

/-- The publication's state goes to the twin after a transmission (R296, R459). -/
def gpMirror (s : State) (g : Nat) : State := culPend s 0 g (gpRecord s g)

/-- Build and send a frame of publication `g` with the numbers given, `wait` ns before its next transmission; the numbers of the last frame
built show (R283). -/
def gpTransmit (s : State) (g : Nat) (content : List Byte) (st sq : Word) (tSec tNs wait : Nat) (target : Option Word) : State :=
  let r := gooseFrame s g content st sq tSec tNs (talOf wait)
  let s := regSet (regSet r.2 (Reg.PUB_GP_STNUM g) st) (Reg.PUB_GP_SQNUM g) sq
  gpMirror (pubSend s r.1 g false target) g

/-- An event of a publication is sent now, with the t of its latest event (R282 to R284). -/
def gpEvent (s : State) (g : Nat) : State :=
  let x := gpGet s g
  let st := nextNum x.st
  let wait := gooseInterval s g 1
  let x := { x with n := 1, due := some (pubNow s + wait), st := st, sq := 0, bump := false, unsent := false }
  gpTransmit (gpSet s g x) g x.content st 0 x.tSec x.tNs wait none

/-- A launch event at a target (R288): the frame is built now; the curve of the new state begins when the target passes. -/
def gpLaunch (s : State) (g : Nat) (target : Word) (old : Option (List Byte × Word × Word × Nat × Nat)) : State :=
  let x := gpGet s g
  let st := nextNum x.st
  let x := { x with
    st := st, sq := 0, launch := some target, old := old, bump := false
    unsent := false, due := if old.isSome then x.due else none }
  let s := regSetFld (gpSet s g x) (Reg.PUB_GP_STAT g) 30 30 1
  gpTransmit s g x.content st 0 x.tSec x.tNs (gooseInterval s g 1) (some target)

/-- A pending launch whose target has passed is over: the new state's curve runs from TARGET (R288). -/
def gpSettle (s : State) (g : Nat) : State :=
  let x := gpGet s g
  match x.launch with
  | none => s
  | some t =>
    if reached (nowNs32 s) t then
      let due := if gpEn s g && gpStarted s g then some (targetTime s t + gooseInterval s g 1) else none
      regSetFld (gpSet s g { x with launch := none, old := none, n := 1, due := due }) (Reg.PUB_GP_STAT g) 30 30 0
    else s

/-- Every pending launch whose target has passed is over. -/
def pubSettle (s : State) : State := (s.pub.goose.map (fun e => e.1)).foldl gpSettle s

/-- The next due time on the curve: `x.n` intervals have begun. -/
def gpAdvance (s : State) (g : Nat) (x : GoosePub) (due : Nat) : GoosePub :=
  { x with n := x.n + 1, due := some (due + gooseInterval s g (x.n + 1)) }

/-- A retransmission of the state in force falls due: a publication that a swap has changed takes its new record at this transmission, and
sends with the next stNum and sqNum 0 (R284, Table 2-12). -/
def gpRepeat (s : State) (g due : Nat) : State :=
  let s := pubTake s g
  let x := gpGet s g
  if !gpEn s g || !gpStarted s g then s
  else
    let st := if x.bump then nextNum x.st else x.st
    let sq := if x.bump then 0 else nextNum x.sq
    gpTransmit (gpSet s g { gpAdvance s g x due with st := st, sq := sq, bump := false }) g x.content st sq x.tSec x.tNs
      (gooseInterval s g (x.n + 1)) none

/-- A retransmission falls due (R284, R288). While a launch is pending it is one of the old state: suppressed from 1 ms before the target, and
before that with the target as the next transmission when the one after it would be. A swap of the publication then waits for the launch
(DESIGN CHOICE, log entry 111). -/
def gpRetransmit (s : State) (g : Nat) : State :=
  let s := gpSettle s g
  let x := gpGet s g
  match x.due with
  | none => s
  | some due =>
    if pubNow s < due ∨ !gpEn s g ∨ pubGated s then s
    else
      match x.launch, x.old with
      | some t, some (content, st, sq, sec, ns) =>
        let y := gpAdvance s g x due
        let late := fun (d : Nat) => decide (targetTime s t ≤ d + 1000000)
        let wait := gooseInterval s g (x.n + 1)
        if late due then pubCount (gpSet s g y) 18
        else
          let sq := nextNum sq
          gpTransmit (gpSet s g { y with old := some (content, st, sq, sec, ns) }) g content st sq sec ns
            (if late (due + wait) then targetTime s t - due else wait) none
      | some _, none => s
      | none, _ => gpRepeat s g due

/-! ### Updates (R286 to R288) -/

/-- Read a buffer as master 35, a word at a time: none at a poisoned word or a refused access (READ_ERR). -/
def pubRead (s : State) (x : Nat) : Nat → Option (List Byte) × State
  | 0 => (some [], s)
  | n + 1 =>
    match tankAccess s 35 x .load 8 [] with
    | (.data d, s) =>
      (match pubRead s (x + 8) n with
        | (some l, s) => (some (d ++ l), s)
        | (none, s) => (none, s))
    | (_, s) => (none, s)

/-- Answer an update that was not accepted: counted, recorded and raised (Table 11-4). -/
def pubAnswer (s : State) (u : PubUpdate) (code : Nat) : Nat × State :=
  if code = 1 then (1, s)
  else (code, raise (regSet (pubCount s 2) Reg.PUB_EVENT (BitVec.ofNat 32 (u.pub % 8192))) Reg.PUB_CAUSE 1)

/-- An accepted update: the buffer is active, t is the acceptance or the target, and the event is sent unless the publisher is gated (R282,
R287, R288, R458). The transmission is a safe point of a swap (R62). -/
def pubAccept (s : State) (u : PubUpdate) (content : List Byte) : State :=
  let x := gpGet s u.pub
  let started := gpStarted s u.pub
  let stat := Reg.PUB_GP_STAT u.pub
  let old := if started then some (x.content, x.st, x.sq, x.tSec, x.tNs) else none
  let s := regSetFld (regSetFld (regSetFld s stat 15 0 u.len) stat 28 28 1) stat 29 29 u.buf
  let s := regSet s (Reg.PUB_GP_DIGEST u.pub) (crc32c content)
  let t := if u.op = 2 then targetTime s u.target else pubNow s
  let s := pubCount (gpSet s u.pub { x with content := content, tSec := t / 1000000000, tNs := t % 1000000000 }) 1
  if pubGated s then gpSet s u.pub { gpGet s u.pub with unsent := true, due := none }
  else
    let s := pubTake s u.pub
    if !gpEn s u.pub then s else if u.op = 2 then gpLaunch s u.pub u.target old else gpEvent s u.pub

/-- Whether the bounds of R110 refuse a target. -/
def targetBad (s : State) (t : Word) : Bool := decide (2000000000 < targetIn s t) || decide (targetIn s t < -147483647)

/-- Execute an update (Table 11-4): its code and the state. While a launch of the publication is pending every update is PENDING (R288). -/
def pubUpdate (s : State) (u : PubUpdate) : Nat × State :=
  let s := gpSettle s u.pub
  let flags := gpField s u.pub 0 1
  let max := gpField s u.pub 38 2
  if (gpGet s u.pub).launch.isSome then pubAnswer s u 6
  else if u.op ≠ 1 ∧ u.op ≠ 2 then pubAnswer s u 8
  else if 512 ≤ u.pub ∨ (gpRec s u.pub).isNone ∨ !gpEn s u.pub then pubAnswer s u 2
  else if u.op = 2 ∧ nbit flags 2 then pubAnswer s u 8
  else if 2 ≤ u.buf ∨ (gpStarted s u.pub ∧ u.buf = regFld s (Reg.PUB_GP_STAT u.pub) 29 29) then pubAnswer s u 3
  else if u.len = 0 ∨ max < u.len then pubAnswer s u 4
  else if u.op = 2 ∧ targetBad s u.target then pubAnswer s u 5
  else
    match pubRead s (gpField s u.pub 40 4 + u.buf * ((max + 7) / 8 * 8)) ((u.len + 7) / 8) with
    | (none, s) => pubAnswer s u 7
    | (some l, s) =>
      let content := l.take u.len
      if nbit flags 3 ∧ gpStarted s u.pub ∧ regFld s (Reg.PUB_GP_STAT u.pub) 15 0 = u.len
          ∧ regGet s (Reg.PUB_GP_DIGEST u.pub) = crc32c content then pubAnswer s u 1
      else (0, pubAccept s u content)

/-! ### SV republication (R291) -/

/-- A frame in collection is discarded. -/
def svDiscard (s : State) (v : Nat) : State := pubCount (count s (Reg.PUB_SV_MISSED v) Reg.PUB_CAUSE) 8

/-- A republication takes a sealed row of its basin. -/
def svTake (s : State) (v : Nat) (r : CnfRow) : State :=
  let no := svField s v 7 1
  let rows := (svGet s v).rows
  let s := regSetFld s (Reg.PUB_SV_STAT v) 16 0 r.k
  let goesOn := match rows.getLast? with
    | some l => decide (r.sec = l.sec) && decide (r.k = l.k + 1)
    | none => false
  let s := if !rows.isEmpty && !goesOn then svDiscard s v else s
  let l := if goesOn then rows ++ [r] else if r.k % no = 0 then [r] else []
  if l.length < no ∨ no = 0 then svSet s v l
  else
    let b := svField s v 6 1
    let s := pubTake (svSet s v []) (svUnit v)
    if pubGated s then s
    else if !regBit s (Reg.PUB_SV_STAT v) 31 || decide (svField s v 6 1 ≠ b) || decide (svField s v 7 1 ≠ no) then svDiscard s v
    else
      let g := BitVec.ofNat 32 (r.sec * 1000000000 + r.ns + svField s v 16 4)
      pubSend s (svFrame s v l) v true (if nbit (svField s v 0 1) 2 then some g else none)

/-- Every enabled republication of basin `b` takes a sealed row. -/
def svRow (s : State) (b : Nat) (r : CnfRow) : State :=
  (List.range 64).foldl (fun s v =>
    if regBit s (Reg.PUB_SV_STAT v) 31 && (svRec s v).isSome && decide (svField s v 6 1 = b) then svTake s v r else s) s

/-! ### Clock changes and takeover (R285, R296, R454) -/

/-- A step or set moved the clock by `delta` units of 2⁻³² ns: pending retransmission times and deadlines move with it (R285). -/
def pubShift (s : State) (delta : Int) : State :=
  let s := (s.pub.goose.map (fun e => e.1)).foldl (fun s g =>
    let x := gpGet s g
    gpSet s g { x with due := x.due.map (fun d => ((d : Int) + delta / tNano).toNat) }) s
  (s.pub.sub.map (fun e => e.1)).foldl (fun s v =>
    let x := subGet s v
    if x.seen then
      regSet (subSet s v { x with deadline := x.deadline + delta }) (Reg.PUB_SUB_DEADLINE v)
        (BitVec.ofInt 32 ((x.deadline + delta) / tNano))
    else s) s

/-- The takeover rule of one publication (R296): it continues with the mirrored numbers, or sends an event; no launch of its own is pending any
more. -/
def gpTakeover (s : State) (g : Nat) : State :=
  let s := if (gpGet s g).launch.isSome then
      regSetFld (gpSet s g { gpGet s g with launch := none, old := none }) (Reg.PUB_GP_STAT g) 30 30 0
    else s
  let x := gpGet s g
  let stat := Reg.PUB_GP_STAT g
  let own := (regGet s (Reg.PUB_GP_DIGEST g), regFld s stat 15 0)
  let go := fun (s : State) (st sq : Word) =>
    gpSet s g { gpGet s g with
      st := st, sq := sq + 15, due := some (pubNow s), n := 0, mirror := none, unsent := false }
  if !gpEn s g then s
  else
    match x.mirror with
    | some (st, sq, digest, len) =>
      if !gpStarted s g then gpSet s g { x with st := st, sq := sq }
      else if own = (digest, len) then go s st sq
      else gpEvent (gpSet s g { x with st := st, mirror := none }) g
    | none => if !gpStarted s g then s else if x.unsent then gpEvent s g else go s x.st x.sq

/-- A subscription takes its mirrored values unless its own last valid message is stamped later (R296). -/
def subTakeover (s : State) (v : Nat) : State :=
  let x := subGet s v
  match x.mirror with
  | none => s
  | some b =>
    let stamp := stampTime s (BitVec.ofNat 32 (leAt b 16 4)) 0
    let deadline := stampTime s (BitVec.ofNat 32 (leAt b 12 4)) 0
    if x.seen ∧ stamp < x.stamp then subSet s v { x with mirror := none }
    else
      let s := subSet s v { deadline := deadline, stamp := stamp, seen := true, mirror := none }
      let s := regSet (regSet s (Reg.PUB_SUB_STNUM v) (BitVec.ofNat 32 (leAt b 4 4))) (Reg.PUB_SUB_SQNUM v) (BitVec.ofNat 32 (leAt b 8 4))
      subTo (regSet s (Reg.PUB_SUB_DEADLINE v) (BitVec.ofNat 32 (leAt b 12 4))) v (leAt b 0 1 % 4)

/-- The publisher takes over (R454). -/
def pubTakeover (s : State) : State :=
  let s := (List.range 512).foldl gpTakeover s
  (s.pub.sub.map (fun e => e.1)).foldl subTakeover s

end Sys2Proof.Machine
end

