-- ==== Sys2Proof/Machine/Confluence.lean ====
section
/-!
DEFINITION. The commands of confluence (chapter 10), and what a change of the clock does to it (R273).
-/
namespace Sys2Proof.Machine

/-- ASDU_INGEST (R246): the oldest ASDU of the ingest queue leaves the crossing. -/
def execAsduIngest (s : State) : Answer :=
  domEvent s 14 (fun s =>
    match s.cnf.ingest with
    | [] => s
    | a :: rest => asduIngest { s with cnf := { s.cnf with ingest := rest } } a)

/-- The deadline of a basin's next row (R262), and whether it has come. -/
def rowDeadline (s : State) (b : Nat) : Int :=
  match (cnfBas s b).next with
  | some i => gridTime s b i.1 i.2 + basLatency s b
  | none => 0
def rowDue (s : State) (b : Nat) : Bool :=
  (cnfBas s b).next.isSome && decide (basState s b ≠ 0) && decide (rowDeadline s b ≤ clkTime s.clk)

/-- The basin whose row the row unit computes next, among some: the earliest deadline that has come, the lower basin of two (R263). -/
def rowFirst (s : State) (l : List Nat) : Option Nat :=
  (l.filter (rowDue s)).foldl (fun a b =>
    match a with
    | none => some b
    | some c => if rowDeadline s b < rowDeadline s c then some b else some c) none

/-- ROW_DEADLINE (R262, R263): the row of basin `b` is computed, when it is its turn in the row unit. -/
def execRowDeadline (b : Fin 16) (s : State) : Answer :=
  domEvent s 14 (fun s => if cnfReady s && decide (rowFirst s (List.range 16) = some b.val) then rowCompute s b else s)

/-- ROW_SEAL (R263, R268): the oldest computed row is written and sealed if it is one of basin `b`, and the publisher takes it (R291). -/
def execRowSeal (b : Fin 16) (s : State) : Answer :=
  flowEvent s (fun s =>
    if !domOn s 14 || decide (s.cnf.order.head? ≠ some b.val) then s
    else
      match rowSeal s b with
      | (some r, s) => svRow s b r
      | (none, s) => s)

/-- STREAM_SILENCE (R272). -/
def execStreamSilence (i : Fin 1024) (s : State) : Answer :=
  domEvent s 14 (fun s =>
    if strState s i = 2 ∧ (cnfStr s i).lastAt + strField s i 18 2 * 1000000 < s.run then
      cnfRaise (strCount (strTo s i 3) i 13) 0 i 3
    else s)

/-- BASIN_RUN_SET (R271). -/
def execBasinRunSet (f : Fin 4) (b : Fin 16) (s : State) : Answer :=
  hostCmd s f (Reg.CNF_BASIN_CTL b) (fun s =>
    if locked s (Reg.CNF_BASIN_CTL b) then s
    else
      let s := regSetFld s (Reg.CNF_BASIN_CTL b) 0 0 1
      if basState s b = 0 then basApply (basFresh s b) b else s)

/-- BASIN_RUN_CLEAR (R271). -/
def execBasinRunClear (f : Fin 4) (b : Fin 16) (s : State) : Answer :=
  hostCmd s f (Reg.CNF_BASIN_CTL b) (fun s =>
    if locked s (Reg.CNF_BASIN_CTL b) then s
    else basStop (regSetFld s (Reg.CNF_BASIN_CTL b) 0 0 0) b)

/-- STREAM_ENABLE (R272): IDLE goes to WAIT with an empty store. -/
def execStreamEnable (f : Fin 4) (i : Fin 1024) (s : State) : Answer :=
  hostCmd s f (Reg.CNF_STR_CTL i) (fun s =>
    if locked s (Reg.CNF_STR_CTL i) then s
    else
      let s := regSetFld s (Reg.CNF_STR_CTL i) 0 0 1
      if strState s i = 0 ∧ (strRec s i).isSome then strTo (cnfStrSet s i { cnfStr0 with marks := (cnfStr s i).marks }) i 1 else s)

/-- STREAM_DISABLE (R272): the store is cleared and the stream IDLE. -/
def execStreamDisable (f : Fin 4) (i : Fin 1024) (s : State) : Answer :=
  hostCmd s f (Reg.CNF_STR_CTL i) (fun s =>
    if locked s (Reg.CNF_STR_CTL i) then s
    else strTo (cnfStrSet (regSetFld s (Reg.CNF_STR_CTL i) 0 0 0) i { cnfStr0 with marks := (cnfStr s i).marks }) i 0)

/-- A write of a ring's CTL register that R269 refuses: a change of LOG2_SLOTS, FUNC or VECTOR while EN is set, or EN with values out of
range. `mask` holds the guarded fields. -/
def ringCtlRefused (old v : Word) (mask : Word) : Bool :=
  (bitOf old 31 && decide ((old ^^^ v) &&& mask ≠ 0))
    || (bitOf v 31 && (decide (fld v 27 24 < 4) || decide (fld v 23 16 = 0)))

/-- A write to a register of basin `b`'s ring (R269). -/
def ringRegWrite (s : State) (b a : Nat) (v : Word) : State :=
  let ctl := regGet s (Reg.CNF_RING_CTL b)
  if a = Reg.CNF_RING_CTL b then
    if ringCtlRefused ctl v 0x3FFF0000 || (bitOf v 31 && decide (16 < fld v 27 24)) then cnfRaise s b 0 8
    else
      let s := if fld ctl 15 0 = fld v 15 0 then s else cnfBasSet s b { cnfBas s b with sinceIrq := 0 }
      regSet s a v
  else if bitOf ctl 31 then cnfRaise s b 0 8
  else regSet s a (if a = Reg.CNF_RING_BASE_LO b then v &&& 0xFFFFFFC0 else v)

/-- CNF_RING_CTL_WRITE (R269): a write of CNF_RING_BASE_LO, CNF_RING_BASE_HI or CNF_RING_CTL at address `a`. -/
def execCnfRingCtlWrite (f : Fin 4) (a : Nat) (v : Word) (s : State) : Answer :=
  hostCmd s f a (fun s =>
    match (List.range 16).find? (fun b =>
        decide (a = Reg.CNF_RING_BASE_LO b) || decide (a = Reg.CNF_RING_BASE_HI b) || decide (a = Reg.CNF_RING_CTL b)) with
    | some b => ringRegWrite s b a v
    | none => s)

/-! ### Changes of the clock (R273, R274) -/

/-- How many deadlines of a basin have come, up to `n`, from an instant. -/
def dueCount (s : State) (b : Nat) : Nat × Nat → Nat → Nat
  | _, 0 => 0
  | i, n + 1 => if gridTime s b i.1 i.2 + basLatency s b ≤ clkTime s.clk then 1 + dueCount s b (gridNext s b i) n else 0

/-- Compute the rows of some basins whose deadlines have come, `n` at most, in the order of the row unit (R263). -/
def rowsCompute (l : List Nat) : Nat → State → State
  | 0, s => s
  | n + 1, s =>
    match rowFirst s l with
    | some b => rowsCompute l n (rowCompute s b)
    | none => s

/-- The number of grid instants from one to another. -/
def gridBetween (s : State) (b : Nat) (i j : Nat × Nat) : Nat :=
  let rate := basField s b 4 4
  j.1 * rate + j.2 - (i.1 * rate + i.2)

/-- The clock has moved over more than 16 deadlines of a basin: its rows are skipped. -/
def basSkip (s : State) (b : Nat) : State :=
  match (cnfBas s b).next with
  | none => s
  | some i =>
    if dueCount s b i 17 ≤ 16 then s
    else
      let j := gridFrom s b (clkTime s.clk - basLatency s b + 1)
      let k := gridBetween s b i j
      let x := cnfBas s b
      let s := cnfBasSet s b { x with next := some j, lost := x.lost + k }
      cnfRaise (countBy s (Reg.CNF_ROWS_SKIPPED b) Reg.CNF_CAUSE 0 k) b 0 7

/-- The clock has moved forward: the rows of up to 16 deadlines of a basin are computed at once, more are skipped (R273). -/
def cnfForward (s : State) : State :=
  let l := (List.range 16).filter (fun b => decide (basState s b ≠ 0))
  rowsCompute l 256 (l.foldl basSkip s)

/-- The first row of a basin sealed after a change of the clock shows STEP (R267). -/
def basStep (s : State) (b : Nat) : State :=
  let x := cnfBas s b
  match x.rows with
  | r :: rest => cnfBasSet s b { x with rows := { r with flags := r.flags ||| 8 } :: rest }
  | [] => cnfBasSet s b { x with step := true }

/-- The sample times of a stream that is arrival-timed move with the clock. -/
def strShift (delta : Int) (c : CnfStream) : CnfStream :=
  if c.synced = some false then { c with store := c.store.map (fun x => { x with t := x.t + delta }) } else c

/-- A step or set moved the clock by `delta` units of 2⁻³² ns: every basin owes STEP, and arrival-timed samples move with it (R267, R273). -/
def cnfMoved (s : State) (delta : Int) : State :=
  let s := (List.range 16).foldl basStep s
  { s with cnf := { s.cnf with str := s.cnf.str.map (fun e => (e.1, strShift delta e.2)) } }

/-- The clock that confluence sees has moved by `delta`: forward over deadlines, or back, where a basin restarts when it is by more than
LATENCY_NS (R273). -/
def cnfJump (s : State) (delta : Int) : State :=
  if !domOn s 14 then s
  else if 0 ≤ delta then cnfForward s
  else (List.range 16).foldl (fun s b => if basState s b ≠ 0 ∧ basLatency s b < -delta then basApply s b else s) s

/-- A step or set while confluence runs. -/
def cnfShift (s : State) (delta : Int) : State := cnfJump (cnfMoved s delta) delta

/-- At thaw confluence sees the clock as TIME left it (R274): moved by the freeze and by the steps and sets within it. -/
def cnfThaw (s : State) : State :=
  let ran : Int := ((s.now - s.frz.startAt : Nat) : Int) * tNano
  match s.frz.moved with
  | some m => cnfJump (cnfMoved { s with frz := { s.frz with moved := none } } m) (ran + m)
  | none => cnfJump s ran

end Sys2Proof.Machine
end

