-- ==== Sys2Proof/Machine/Mailbox.lean ====
section
/-!
DEFINITION. Mailbox channels as shared operations (R386 to R392): delivery, acknowledgement, resets and waking.
-/
namespace Sys2Proof.Machine

/-- Run an access of master `m` to a block of CORE at address `a`: a host function's access passes the host's reach, any
other master's comes about while D3 is on. -/
def masterCmd (s : State) (m a : Nat) (k : State → State) : Answer :=
  if 36 ≤ m ∧ m < 40 then hostCmd s (m - 36) a k else domEvent s 3 k

/-- An unlisted channel: empty staging and message. -/
def mbx0 : MbxChan := { staging := zeros 64, msg := zeros 64, wakeLimit := none, since := 0 }

/-- Channel `c` beside its registers. -/
def mbxGet (s : State) (c : Nat) : MbxChan := tabGet (fun _ => mbx0) s.mbx c

/-- The state with channel `c` replaced. -/
def mbxSet (s : State) (c : Nat) (x : MbxChan) : State := { s with mbx := tabSet (fun _ => mbx0) s.mbx c x }

/-- The sender of a channel (MBX_BIND). -/
def mbxSender (s : State) (c : Nat) : Nat := regFld s (Reg.MBX_BIND c) 5 0

/-- The receiver of a channel (MBX_BIND). -/
def mbxReceiver (s : State) (c : Nat) : Nat := regFld s (Reg.MBX_BIND c) 13 8

/-- Bits [1:0] of a channel's STATE: 0 EMPTY, 1 FULL, 3 ACKED (Table 15-5). -/
def mbxState (s : State) (c : Nat) : Nat := regFld s (Reg.MBX_CH_STAT c) 1 0

/-- Whether the message of a channel waits for its receiver's domain. -/
def mbxWakeWait (s : State) (c : Nat) : Bool := regBit s (Reg.MBX_CH_STAT c) 2

/-- Whether the sender of a channel was reset while its message stood. -/
def mbxOrphan (s : State) (c : Nat) : Bool := regBit s (Reg.MBX_CH_STAT c) 3

/-- The domain of a master (Table 1-1). -/
def masterDomain (m : Nat) : Nat :=
  if m < 32 then 10 + m / 8 else if m = 32 then 1 else if 36 ≤ m ∧ m < 40 then 2
  else if m = 34 then 14 else if m = 40 then 16 else if m = 41 then 15 else 3

/-- Count in MBX_CNT[k]. -/
def mbxCount (s : State) (k : Nat) : State := count s (Reg.MBX_CNT k) Reg.MBX_CAUSE

/-- Raise a mailbox cause for channel `c` (MBX_EVENT). -/
def mbxRaise (s : State) (c bit : Nat) : State := raise (regSet s Reg.MBX_EVENT (BitVec.ofNat 32 c)) Reg.MBX_CAUSE bit

/-- Set bit `c` of a pair of pending registers. -/
def mbxPend (s : State) (lo hi : Nat) (c : Nat) : State :=
  let a := if c < 32 then lo else hi
  regSet s a (regGet s a ||| (1#32 <<< (c % 32)))

/-- Tell the sender that a channel has its outcome (R390): a host function's pending bit, and its vector when the binding asks
for it or the outcome is not ACKED. -/
def mbxNotifySender (s : State) (c : Nat) : State :=
  let m := mbxSender s c
  if 36 ≤ m ∧ m < 40 then
    let f := m - 36
    let s := mbxPend s (Reg.MBX_ACK_PEND_LO f) (Reg.MBX_ACK_PEND_HI f) c
    let vec := regFld s (Reg.MBX_HOST_VEC f) 15 8
    if (regBit s (Reg.MBX_BIND c) 16 || decide (regFld s (Reg.MBX_CH_STAT c) 7 6 ≠ 1)) && decide (vec ≠ 0) then msix s f vec
    else s
  else s

/-- A channel becomes EMPTY with nothing held. -/
def mbxEmpty (s : State) (c : Nat) : State :=
  mbxSet (regSet s (Reg.MBX_CH_STAT c) 0) c { mbxGet s c with wakeLimit := none }

/-- A FULL channel gets an outcome (Table 15-6): ACKED with the status, or EMPTY when its sender was reset. -/
def mbxOutcome (s : State) (c status code value : Nat) : State :=
  if mbxOrphan s c then mbxEmpty s c
  else
    let s := regSet s (Reg.MBX_CH_STAT c) (BitVec.ofNat 32 (value % 65536 * 65536 + code % 256 * 256 + status * 64 + 3))
    let s := mbxSet s c { mbxGet s c with wakeLimit := none }
    mbxNotifySender s c

/-- An offset of a channel window that Table 15-5 does not list: it is unassigned (R387), so that a master that the channel's binding names
reads 0 there and writes without effect (R6). -/
def mbxUnassigned (s : State) (m x : Nat) : Bool :=
  decide (0x4C ≤ x % 128) && (decide (mbxSender s (x / 128) = m) || decide (mbxReceiver s (x / 128) = m))

/-- The receiver's ACK write (Table 15-6). -/
def mbxAck (s : State) (c : Nat) (v : Word) : State :=
  if mbxState s c = 1 then mbxOutcome s c 1 (fld v 7 0) (fld v 31 16) else mbxCount s 4

/-- The supervisor's answer to a message (R386): INFO for OP 0x01, else BAD_OP. -/
def supervisorAnswer (s : State) (c : Nat) : State :=
  if leAt (mbxGet s c).msg 0 1 = 1 then mbxAck s c 0x91920000 else mbxAck s c 1

/-- Deliver the message of a FULL channel to its receiver (R389). The rider answers an unknown OP at once (Table 14-6). -/
def mbxDeliver (s : State) (c : Nat) : State :=
  let m := mbxReceiver s c
  if m < 32 then postMailbox s m c
  else if m = 32 then supervisorAnswer s c
  else if m = 33 then
    let op := leAt (mbxGet s c).msg 0 1
    if 1 ≤ op ∧ op ≤ 12 then s else mbxAck (rdrRaise (rdrCount s 11) (leAt (mbxGet s c).msg 2 2) 5) c 6
  else if 36 ≤ m ∧ m < 40 then
    let f := m - 36
    let s := mbxPend s (Reg.MBX_RX_PEND_LO f) (Reg.MBX_RX_PEND_HI f) c
    let vec := regFld s (Reg.MBX_HOST_VEC f) 7 0
    if vec ≠ 0 then msix s f vec else s
  else s

/-- The sender's SEND read (R388, R389, R392): 0 SENT or 1 BUSY. -/
def mbxSend (s : State) (c : Nat) : Nat × State :=
  if mbxState s c ≠ 0 then (1, mbxCount s 1)
  else
    let d := masterDomain (mbxReceiver s c)
    let x := mbxGet s c
    let s := mbxCount s 0
    if domOn s d then
      (0, mbxDeliver (mbxSet (regSet s (Reg.MBX_CH_STAT c) 1) c { x with msg := x.staging, since := s.run }) c)
    else
      let s := mbxSet (regSet s (Reg.MBX_CH_STAT c) 5) c { x with msg := x.staging, wakeLimit := some (s.run + 100000) }
      (0, if regBit s (Reg.MBX_BIND c) 17 then domOnRequest s d else s)

/-- The sender's ACK read (Table 15-6, Table 15-7): the acknowledge word, and an ACKED channel becomes EMPTY. -/
def mbxAckRead (s : State) (c : Nat) : Word × State :=
  if mbxState s c = 3 then
    let w := regGet s (Reg.MBX_CH_STAT c)
    (BitVec.ofNat 32 (fld w 31 16 * 65536 + fld w 7 6 * 256 + fld w 15 8), mbxEmpty s c)
  else (0, s)

/-- A message that waited is delivered: its receiver's domain is on (R392). -/
def mbxWake (s : State) (c : Nat) : State :=
  let s := regSetFld s (Reg.MBX_CH_STAT c) 2 2 0
  mbxDeliver (mbxCount (mbxSet s c { mbxGet s c with wakeLimit := none, since := s.run }) 5) c

/-- The channels in use. -/
def mbxAll : List Nat := List.range 64

/-- The channel whose message stands at a receiver that takes its messages in the order of their arrival: the oldest, the lower channel of
two of one cycle (log entry 10). -/
def mbxOldest (s : State) (m : Nat) : Option Nat :=
  (mbxAll.filter (fun c => decide (mbxState s c = 1) && decide (mbxReceiver s c = m) && !mbxWakeWait s c)).foldl (fun a c =>
    match a with
    | none => some c
    | some b => if (mbxGet s c).since < (mbxGet s b).since then some c else some b) none

/-- Deliver every message that waited for domain `d` (R392). -/
def mbxDomainOn (s : State) (d : Nat) : State :=
  mbxAll.foldl (fun s c =>
    if mbxState s c = 1 && mbxWakeWait s c && decide (masterDomain (mbxReceiver s c) = d) then mbxWake s c else s) s

/-- The receiver reset of master `m` (Table 15-6): its messages are discarded as ABORTED. -/
def mbxReceiverReset (s : State) (m : Nat) : State :=
  mbxAll.foldl (fun s c =>
    if mbxState s c = 1 && decide (mbxReceiver s c = m) then
      if mbxOrphan s c then mbxEmpty s c
      else mbxOutcome (mbxRaise (mbxCount s 2) c 1) c 2 0 0
    else s) s

/-- The sender reset of master `m` (Table 15-6): staging is cleared; a standing message becomes an orphan. -/
def mbxSenderReset (s : State) (m : Nat) : State :=
  mbxAll.foldl (fun s c =>
    if decide (mbxSender s c = m) && decide (mbxState s c ≠ 0) then
      let st := mbxState s c
      let s := mbxSet s c { mbxGet s c with staging := zeros 64 }
      if st = 1 then regSetFld s (Reg.MBX_CH_STAT c) 3 3 1 else mbxEmpty s c
    else s) s

/-- What the reset of a master does to locks and mailboxes (R385, R391). -/
def masterReset (s : State) (m : Nat) : State := mbxSenderReset (mbxReceiverReset (locksReclaim s m) m) m

/-- The commit of a full load empties every channel (Table 15-6). -/
def mbxClearAll (s : State) : State := mbxAll.foldl (fun s c => regSet s (Reg.MBX_CH_STAT c) 0) { s with mbx := [] }

end Sys2Proof.Machine
end

