-- ==== Sys2Proof/Machine/SqOps.lean ====
section
/-!
DEFINITION. Submission queue commands as shared operations (R428, Table 17-3): which one may start, which complete at once for a bad
opcode or argument, and how one completes.
-/
namespace Sys2Proof.Machine

/-- The commands of an SQ that are fetched and not completed, in order. -/
def sqList (s : State) (f q : Nat) : List HostCmd := tabGet (fun _ => []) (fnGet s f).sq q

/-- The state with an SQ's fetched commands replaced. -/
def sqSet (s : State) (f q : Nat) (l : List HostCmd) : State :=
  let h := fnGet s f
  fnSet s f { h with sq := tabSet (fun _ => []) h.sq q l }

/-- Whether bytes `[lo, hi)` of a command are zero. -/
def zeroBytes (b : List Byte) (lo hi : Nat) : Bool := (slice b lo (hi - lo)).all (fun x => decide (x = 0))

/-- The status that a command's envelope earns (Table 17-4): 0, or BAD_OPCODE or BAD_ARG. A FENCE of another kind than 0 or 1 is a bad
argument (DEDUCED). -/
def sqStatus (b : List Byte) : Nat :=
  let op := leAt b 0 1
  if 3 < op then 13
  else if !zeroBytes b 1 2 || !zeroBytes b 4 8 then 14
  else if op = 0 then (if zeroBytes b 8 64 then 0 else 14)
  else if op = 1 then (if leAt b 8 1 ≤ 1 ∧ zeroBytes b 9 64 then 0 else 14)
  else if op = 2 then (if zeroBytes b 9 10 ∧ zeroBytes b 14 16 ∧ zeroBytes b 24 64 then 0 else 14)
  else if leAt b 8 2 = 0x5749 ∧ leAt b 10 1 = 1 ∧ zeroBytes b 11 12 ∧ zeroBytes b 16 64 then 0 else 14

/-- The next command of an SQ to start: none while an earlier FENCE of it has not completed (R429). -/
def sqNext (s : State) (f q : Nat) : Option HostCmd :=
  let l := sqList s f q
  if l.any (fun c => c.started && decide (leAt c.bytes 0 1 = 1)) then none else l.find? (fun c => !c.started)

/-- The commands with the first of an index that has not started marked started. -/
def sqMark (index : Word) : List HostCmd → List HostCmd
  | [] => []
  | c :: t => if c.index = index ∧ c.started = false then { c with started := true } :: t else c :: sqMark index t

/-- Mark a command of an SQ started. -/
def sqStart (s : State) (f q : Nat) (index : Word) : State := sqSet s f q (sqMark index (sqList s f q))

/-- Complete a command of an SQ; one that a reset of the function has discarded is owed nothing (R422). -/
def sqComplete (s : State) (f q : Nat) (index : Word) (cid status detail : Nat) (result : Word) : State :=
  let l := sqList s f q
  if l.any (fun c => decide (c.index = index)) then
    let s := fcnt (sqSet s f q (l.eraseP (fun c => decide (c.index = index)))) f 0
    complete s f (qCq s f 0 q) { completion0 index 1 q status with detail := detail, tag := cid, result := result }
  else s

/-- A rider command that was answered other than OK (Table 14-9, RDR_CNT[11]). -/
def riderRefused (s : State) (ctx : Nat) : State := rdrRaise (rdrCount s 11) ctx 5

/-- Commands of an SQ that complete as soon as they start: those with a bad envelope, and RIDER commands with an unknown OP; `n` bounds
them. -/
def sqSettleN (f q : Nat) : Nat → State → State
  | 0, s => s
  | n + 1, s =>
    match sqNext s f q with
    | none => s
    | some c =>
      let cid := leAt c.bytes 2 2
      let st := sqStatus c.bytes
      let op := leAt c.bytes 8 1
      if st ≠ 0 then sqSettleN f q n (sqComplete s f q c.index cid st 0 0)
      else if leAt c.bytes 0 1 = 2 ∧ (op = 0 ∨ 12 < op) then
        sqSettleN f q n (sqComplete (riderRefused s (leAt c.bytes 10 2)) f q c.index cid 0 6 0)
      else s

/-- Complete what an SQ can complete at once. -/
def sqSettle (s : State) (f q : Nat) : State := sqSettleN f q 16 s

/-- Complete a command of an SQ and what follows it at once. -/
def sqDone (s : State) (f q : Nat) (index : Word) (cid status detail : Nat) (result : Word) : State :=
  sqSettle (sqComplete s f q index cid status detail result) f q

end Sys2Proof.Machine
end

