-- ==== Sys2Proof/Machine/RiderCmd.lean ====
section
/-!
DEFINITION. The rider as shared operations: migration (R360, R361), policies (R356), page operations (R358, R359), and the commands of
Table 14-5 with their answers (R365, R366).
-/
namespace Sys2Proof.Machine

/-! ### Tank access of a block -/

/-- Store bytes as master `m`, one by one; false at the first refusal. -/
def tankPut (s : State) (m x : Nat) : List Byte → Bool × State
  | [] => (true, s)
  | b :: t =>
    match tankAccess s m x .store 1 [b] with
    | (.data _, s) => tankPut s m (x + 1) t
    | (_, s) => (false, s)

/-- Load bytes as master `m`, one by one: how it ended, and the state. -/
def tankTake (s : State) (m x : Nat) : Nat → TankResult × State
  | 0 => (.data [], s)
  | n + 1 =>
    match tankAccess s m x .load 1 [] with
    | (.data l, s) =>
      (match tankTake s m (x + 1) n with
        | (.data t, s) => (.data (l ++ t), s)
        | r => r)
    | r => r

/-! ### Declarations -/

/-- The personality slot of a context's declaration. -/
def ctxPers (s : State) (c : Nat) : Nat :=
  match ctxDecl s c with
  | some d => leAt d 2 1
  | none => 32

/-- Contexts that are pinned or resident. -/
def pinRes (s : State) : Nat := ((ctxLive s).filter (fun x => x.2.pinned || ctxStays s x.2)).length

/-! ### Poison (R27, R359, R364) -/

/-- Bytes that no rule fixes (log entry 7). -/
def freeBytes (s : State) : Nat → List Byte × State
  | 0 => ([], s)
  | n + 1 =>
    let r := fresh s
    let t := freeBytes r.2 n
    (Config.freeValue 8 r.1 :: t.1, t.2)

/-- A context becomes POISONED: its queued and held events are dropped, its bytes are lost; journalled with a reason. -/
def ctxPoison (s : State) (c reason : Nat) : State :=
  let s := eventsDrop s c 6
  let s := journalNow s 8 reason c (ctxGet s c).owner 0xFF
  let d := freeBytes s 512
  let s := ctxMod d.2 c (fun x => { x with mode := .poisoned, data := d.1, moving := none })
  rdrRaise { s with rdr := { s.rdr with pageIns := s.rdr.pageIns.filter (fun i => decide (i ≠ c)) } } c 1

/-! ### Migration (R360, R361) -/

/-- Step 1: the context is MOVING to engine `b`. -/
def migrateStart (s : State) (c b reason : Nat) : State := ctxMod s c (fun x => { x with moving := some (b, s.run, reason) })

/-- The migration is abandoned with a reason: the held events go to the engine that keeps the context. -/
def migrateAbort (s : State) (c reason : Nat) : State :=
  match (ctxGet s c).moving with
  | none => s
  | some (b, _, _) =>
    let s := journalNow s 4 reason c (ctxGet s c).owner b
    holdRelease (rdrCount (ctxMod s c (fun x => { x with moving := none })) 3) c

/-- Steps 3 and 4: timers move, the map names the new engine, whose cluster wakes if it is off (R355), the held events follow. -/
def migrateDone (s : State) (c : Nat) : State :=
  let x := ctxGet s c
  match x.moving with
  | none => s
  | some (b, _, reason) =>
    let ga := engGet s x.owner
    let gb := engGet s b
    let mine := ga.timers.filter (fun t => decide (t.ctx = some c))
    if !engEligible s (ctxPers s c) b then migrateAbort s c 5
    else if 1024 < gb.timers.length + mine.length then migrateAbort s c 8
    else
      let s := engSet s x.owner { ga with timers := ga.timers.filter (fun t => decide (t.ctx ≠ some c)) }
      let s := engSet s b { gb with timers := gb.timers ++ mine }
      let s := regHigh s (Reg.KRN_TIMERS b) 31 16 (gb.timers.length + mine.length)
      let s := journalNow s 3 reason c x.owner b
      let s := ctxMod s c (fun y => { y with owner := b, moving := none, first := true })
      holdRelease (placeWake (rdrCount s 2) b) c

/-! ### Policies (R356) -/

/-- The engine a context counts for in a policy run: the target of its migration, else its owner. -/
def polOwner (x : Ctx) : Nat :=
  match x.moving with
  | some (b, _, _) => b
  | none => x.owner

/-- U of an engine with `extra` added, with the migrations under way counted as done. -/
def polUse (s : State) (e extra : Nat) : Nat :=
  ((ctxLive s).foldl (fun a x => if x.2.mode = .hot ∧ polOwner x.2 = e then a + x.2.weight else a) 0 + extra) * 1000 / engCap s e

/-- The movable contexts of personality slot `p` on engine `e`, ascending. -/
def movables (s : State) (p e : Nat) : List (Nat × Ctx) :=
  (ctxLive s).filter (fun x =>
    decide (x.2.mode = .hot) && !x.2.pinned && x.2.moving.isNone && decide (x.2.owner = e) && decide (ctxPers s x.1 = p)
      && !s.rdr.waits.any (fun w => decide (w.ctx = x.1)))

/-- The context of greatest W of a list; ties go to the lower ID. -/
def heaviest (l : List (Nat × Ctx)) : Option (Nat × Ctx) :=
  l.foldl (fun a x =>
    match a with
    | none => some x
    | some b => if b.2.weight < x.2.weight then some x else a) none

/-- The engine of a list with the least or greatest U; ties go to the lower number. -/
def polBest (s : State) (most : Bool) (l : List Nat) : Option Nat :=
  l.foldl (fun a e =>
    match a with
    | none => some e
    | some b => if (if most then polUse s b 0 < polUse s e 0 else polUse s e 0 < polUse s b 0) then some e else some b) none

/-- BALANCE: one move, if one is due. -/
def polBalance (s : State) (p : Nat) : Option State :=
  let l := eligible s p
  match polBest s true l, polBest s false l with
  | some hi, some lo =>
    let gap := polUse s hi 0 - polUse s lo 0
    if gap ≤ riderPolicy s 8 2 then none
    else
      match heaviest ((movables s p hi).filter (fun x => decide (2 * x.2.weight < gap))) with
      | some x => some (migrateStart s x.1 lo 0)
      | none => none
  | _, _ => none

/-- PACK_FOR_POWER: one move that relieves an engine, if one is due. -/
def polRelieve (s : State) (p : Nat) : Option State :=
  let lim := riderPolicy s 10 2
  let l := eligible s p
  (l.filter (fun e => decide (lim < polUse s e 0))).findSome? (fun e =>
    match heaviest (movables s p e) with
    | none => none
    | some x =>
      match l.find? (fun b => decide (b ≠ e) && decide (polUse s b x.2.weight ≤ lim)) with
      | some b => some (migrateStart s x.1 b 0)
      | none => none)

/-- PACK_FOR_POWER: one move that drains the highest engine with a movable context, if one fits. -/
def polDrain (s : State) (p : Nat) : Option State :=
  let lim := riderPolicy s 10 2
  let l := eligible s p
  match (l.filter (fun e => !(movables s p e).isEmpty)).getLast? with
  | none => none
  | some e =>
    (movables s p e).findSome? (fun x =>
      match l.find? (fun b => decide (b < e) && decide (polUse s b x.2.weight ≤ lim)) with
      | some b => some (migrateStart s x.1 b 0)
      | none => none)

/-- Where LATENCY_FIRST moves a context of weight `w` from engine `e`. -/
def polTarget (s : State) (p e w : Nat) : Option Nat :=
  let others := (eligible s p).filter (fun b => decide (b ≠ e))
  let full := others.filter (fun b => decide (engCap s b = 1000))
  let low := others.filter (fun b => decide (engCap s b ≠ 1000))
  if full.all (fun b => decide (riderPolicy s 12 2 < polUse s b w)) && !low.isEmpty then polBest s false low else polBest s false full

/-- Repeat a move while it finds one; `n` is what is left of MAX_MOVES. -/
def polRepeat (move : State → Option State) : Nat → State → Nat × State
  | 0, s => (0, s)
  | n + 1, s =>
    match move s with
    | some t => polRepeat move n t
    | none => (n + 1, s)

/-- LATENCY_FIRST: each engine above the limit moves its heaviest context. -/
def polLatency (p : Nat) : List Nat → Nat → State → Nat × State
  | [], n, s => (n, s)
  | e :: t, n, s =>
    if n = 0 ∨ polUse s e 0 ≤ riderPolicy s 12 2 then polLatency p t n s
    else
      match heaviest (movables s p e) with
      | none => polLatency p t n s
      | some x =>
        match polTarget s p e x.2.weight with
        | some b => polLatency p t (n - 1) (migrateStart s x.1 b 0)
        | none => polLatency p t n s

/-- The policy of one personality slot. -/
def polSlot (s : State) (n p : Nat) : Nat × State :=
  let k := regFld s Reg.RDR_POLICY 1 0
  if k = 1 then
    let r := polRepeat (fun s => polRelieve s p) n s
    polRepeat (fun s => polDrain s p) r.1 r.2
  else if k = 2 then polLatency p (eligible s p) n s
  else polRepeat (fun s => polBalance s p) n s

/-- Pinned contexts return to their declared engines once those are READY again (R363). -/
def polReturn (s : State) (n : Nat) : Nat × State :=
  (ctxLive s).foldl (fun a x =>
    match x.2.declared with
    | some e =>
      if a.1 ≠ 0 ∧ x.2.pinned ∧ x.2.mode = .hot ∧ x.2.moving.isNone ∧ x.2.owner ≠ e ∧ e < 32 ∧ engState a.2 e = 2
          ∧ engEligible a.2 (ctxPers a.2 x.1) e then
        (a.1 - 1, migrateStart a.2 x.1 e 0)
      else a
    | none => a) (n, s)

/-- The rider runs its policy once for each personality slot, ascending, with `n` migrations left (R356). -/
def polRun (s : State) (n : Nat) : State := ((List.range 32).foldl (fun a p => polSlot a.2 a.1 p) (n, s)).2

/-- What an interval end migrates: pinned contexts that return, then the policy's moves; HOLD_MOVES stops them all (R356, R363). -/
def polInterval (s : State) : State :=
  if regBit s Reg.RDR_POLICY 8 then s
  else
    let r := polReturn s (riderPolicy s 2 1)
    polRun r.2 r.1

/-! ### Commands (R365, R366) -/

/-- The answer of a command: its code and result, or none while it waits. -/
abbrev RiderAns := Option (Nat × Word) × State

/-- A command that ends with a code. -/
def rAns (s : State) (code : Nat) : RiderAns := (some (code, 0), s)

/-- The journal reason of a command: 1 HOST, 2 ENGINE. -/
def riderReason (s : State) : RiderSrc → Nat
  | .mailbox ch => if 36 ≤ mbxSender s ch then 1 else 2
  | _ => 1

/-- The function whose memory ADDR names; none for a mailbox command. -/
def riderFunc : RiderSrc → Option Nat
  | .mailbox _ => none
  | .queue f _ _ _ => some f
  | .register f => some f

/-- CREATE. While paging is on, a full reservoir makes room first. -/
def riderCreate (s : State) (w : RiderWait) : RiderAns :=
  if (ctxGet s w.ctx).mode ≠ .dormant then rAns s 2
  else
    match ctxDecl s w.ctx with
    | none => rAns s 1
    | some d =>
      match slotFree s with
      | some n =>
        let e := if nbit (leAt d 3 1) 1 then some (leAt d 4 1) else placeAmong s (eligible s (leAt d 2 1)) (leAt d 6 2)
        (match e with
          | some e => rAns (pageKick (postFresh (ctxCreate s w.ctx n e d (riderReason s w.src)) e)) 0
          | none => rAns s 3)
      | none =>
        if !regBit s Reg.RDR_HOME_CTL 31 then rAns s 4
        else if (ctxLive s).any (fun x => decide (x.2.mode = .out)) then (none, s)
        else
          match victim s with
          | some v => (none, pageOutStart s v 3)
          | none => rAns s 4

/-- A context leaves for DORMANT (Table 14-1). -/
def ctxRetire (s : State) (c reason : Nat) : State :=
  let e := (ctxGet s c).owner
  let s := eventsDrop (timersCancel s e c) c 5
  let s := rdrCount (journalNow s 2 reason c e 0xFF) 14
  let s := ctxSet s c ctx0
  pageKick { s with rdr := { s.rdr with
    pageIns := s.rdr.pageIns.filter (fun i => decide (i ≠ c)), writeBack := s.rdr.writeBack.filter (fun b => decide (b.1 ≠ c))
    noSlot := s.rdr.noSlot.filter (fun i => decide (i ≠ c)) } }

/-- RETIRE: at the event boundary; a context that moves or pages waits until that is over. -/
def riderRetire (s : State) (w : RiderWait) : RiderAns :=
  let x := ctxGet s w.ctx
  if x.mode = .dormant then rAns s 2
  else if x.mode = .out ∨ x.mode = .in_ ∨ x.moving.isSome ∨ engRuns (engGet s x.owner) w.ctx then (none, s)
  else rAns (ctxRetire s w.ctx (riderReason s w.src)) 0

/-- MOVE. It ends with its migration. -/
def riderMove (s : State) (w : RiderWait) : RiderAns :=
  let x := ctxGet s w.ctx
  if x.pinned then rAns s 8
  else if x.mode ≠ .hot then rAns s 2
  else if 32 ≤ w.engine ∨ !engEligible s (ctxPers s w.ctx) w.engine then rAns s 3
  else if x.moving.isSome then rAns s 5
  else if x.owner = w.engine then rAns s 0
  else (none, migrateStart s w.ctx w.engine (riderReason s w.src))

/-- Set PINNED on the engine that owns the context. -/
def ctxPin (s : State) (c reason : Nat) : State :=
  let e := (ctxGet s c).owner
  journalNow (ctxMod s c (fun x => { x with pinned := true, declared := some e })) 10 reason c e e

/-- PIN: a migration first, if another engine is named. -/
def riderPin (s : State) (w : RiderWait) : RiderAns :=
  let x := ctxGet s w.ctx
  let why := riderReason s w.src
  if x.mode ≠ .hot ∧ x.mode ≠ .cold then rAns s 2
  else if x.moving.isSome then rAns s 5
  else if w.engine = 0xFF ∨ w.engine = x.owner then rAns (ctxPin s w.ctx why) 0
  else if 32 ≤ w.engine ∨ !engEligible s (ctxPers s w.ctx) w.engine then rAns s 3
  else if x.mode = .cold then rAns (ctxPin (ctxMod s w.ctx (fun y => { y with owner := w.engine })) w.ctx why) 0
  else (none, migrateStart s w.ctx w.engine why)

/-- UNPIN. -/
def riderUnpin (s : State) (w : RiderWait) : RiderAns :=
  let x := ctxGet s w.ctx
  if !x.pinned then rAns s 2
  else rAns (journalNow (ctxMod s w.ctx (fun y => { y with pinned := false })) 11 (riderReason s w.src) w.ctx x.owner x.owner) 0

/-- RESIDENT: setting it pages the context in. -/
def riderResident (s : State) (w : RiderWait) : RiderAns :=
  let x := ctxGet s w.ctx
  if x.mode = .dormant then rAns s 2
  else if !nbit w.flags 0 then rAns (ctxMod s w.ctx (fun y => { y with resident := false })) 0
  else if !(x.pinned || ctxStays s x) && decide (4096 ≤ pinRes s) then rAns s 4
  else if x.mode = .cold ∧ !regBit s Reg.RDR_HOME_CTL 31 then rAns s 7
  else
    let s := ctxMod s w.ctx (fun y => { y with resident := true })
    rAns (if x.mode = .cold then pageWant s w.ctx else s) 0

/-- EVICT: when no event of the context is queued, running or held. -/
def riderEvict (s : State) (w : RiderWait) : RiderAns :=
  let x := ctxGet s w.ctx
  if x.pinned || ctxStays s x || x.moving.isSome then rAns s 8
  else if x.mode ≠ .hot then rAns s 2
  else if !regBit s Reg.RDR_HOME_CTL 31 then rAns s 7
  else if engHolds s x.owner w.ctx || holds s w.ctx || decide (8 ≤ pagesInFlight s) then (none, s)
  else rAns (pageOutStart s w.ctx (riderReason s w.src)) 0

/-- A command needs the context in a slot: a page-in first. -/
def riderPage (s : State) (w : RiderWait) : RiderAns :=
  if (ctxGet s w.ctx).mode = .cold then
    if regBit s Reg.RDR_HOME_CTL 31 then (none, pageWant s w.ctx) else rAns s 7
  else (none, s)

/-- The context is not in a slot. -/
def ctxPaged (x : Ctx) : Bool := decide (x.mode = .cold) || decide (x.mode = .out) || decide (x.mode = .in_)

/-- READ: the last committed 512 bytes go to ADDR. -/
def riderRead (s : State) (w : RiderWait) : RiderAns :=
  let x := ctxGet s w.ctx
  if x.mode = .dormant then rAns s 2
  else if ctxPaged x then riderPage s w
  else
    match riderFunc w.src with
    | some f => rAns (hostWrite s f w.addr x.data) 0
    | none =>
      let r := tankPut s 33 w.addr x.data
      rAns r.2 (if r.1 then 0 else 8)

/-- The 512 bytes at ADDR: read from the host with the command, or from tank memory; none when the tank refuses or is poisoned. -/
def riderData (s : State) (w : RiderWait) : Option (List Byte) × State :=
  match riderFunc w.src with
  | some _ => (some (slice w.data 0 512), s)
  | none =>
    match tankTake s 33 w.addr 512 with
    | (.data l, s) => (some l, s)
    | (_, s) => (none, s)

/-- WRITE: at the event boundary. -/
def riderWrite (s : State) (w : RiderWait) : RiderAns :=
  let x := ctxGet s w.ctx
  if x.mode = .dormant ∨ x.mode = .poisoned then rAns s 2
  else if ctxPaged x then riderPage s w
  else if engRuns (engGet s x.owner) w.ctx then (none, s)
  else
    match riderData s w with
    | (some l, s) => rAns (ctxMod s w.ctx (fun y => { y with data := l, dirty := true })) 0
    | (none, s) => rAns s 8

/-- CLEAR_POISON. -/
def riderClear (s : State) (w : RiderWait) : RiderAns :=
  let x := ctxGet s w.ctx
  if x.mode ≠ .poisoned then rAns s 2
  else
    let slot := match x.slot with
      | some n => some n
      | none => slotFree s
    match slot with
    | none => rAns s 4
    | some n =>
      let r := if nbit w.flags 1 then
          (match ctxDecl s w.ctx with
            | some d => (some (ctxInit s d), s)
            | none => (some (zeros 512), s))
        else riderData s w
      match r with
      | (some l, s) =>
        let s := ctxMod s w.ctx (fun y => { y with mode := .hot, data := l, dirty := true, slot := some n, wasHot := true })
        rAns (journalNow s 13 (riderReason s w.src) w.ctx x.owner x.owner) 0
      | (none, s) => rAns s 8

/-- The MAP result (R366). -/
def mapWord (x : Ctx) : Word :=
  let st := match x.mode with
    | .dormant => 0
    | .hot => if x.moving.isSome then 7 else 1
    | .out => 2
    | .cold => 3
    | .in_ => 4
    | .poisoned => 5
    | .orphan => 6
  let placed := decide (st = 1) || decide (st = 2) || decide (st = 4) || decide (st = 7)
  let last := match x.lastRun with
    | some e => e
    | none => x.owner
  let e := if st = 0 then 0 else if placed then x.owner else last
  let slot := match x.slot with
    | some n => if placed then n else 0xFFF
    | none => 0xFFF
  BitVec.ofNat 32 (st + e * 8 + b2n x.pinned * 256 + b2n x.resident * 512 + b2n x.mirror * 1024 + slot * 65536)

/-- MAP: a mailbox command's result goes to its tank offset before the acknowledgement. -/
def riderMap (s : State) (w : RiderWait) : RiderAns :=
  if (ctxDecl s w.ctx).isNone then rAns s 1
  else
    let v := mapWord (ctxGet s w.ctx)
    match riderFunc w.src with
    | some _ => (some (0, v), s)
    | none =>
      let r := tankPut s 33 w.addr (leBytes 4 v.toNat)
      (some (if r.1 then 0 else 8, v), r.2)

/-- RUN_POLICY: the interval timer restarts. It is no interval end, so that HOLD_MOVES does not stop it. -/
def riderPolicyNow (s : State) (_ : RiderWait) : RiderAns :=
  rAns (polRun { s with rdr := { s.rdr with intervalFrom := s.run } } (riderPolicy s 2 1)) 0

/-- Run a command. -/
def riderRun (s : State) (w : RiderWait) : RiderAns :=
  match w.op with
  | 1 => riderCreate s w
  | 2 => riderRetire s w
  | 3 => riderMove s w
  | 4 => riderPin s w
  | 5 => riderUnpin s w
  | 6 => riderResident s w
  | 7 => riderEvict s w
  | 8 => riderRead s w
  | 9 => riderWrite s w
  | 10 => riderClear s w
  | 11 => riderMap s w
  | 12 => riderPolicyNow s w
  | _ => rAns s 6

/-- Answer a command where it came from (R365). -/
def riderAnswer (s : State) (w : RiderWait) (code : Nat) (result : Word) : State :=
  let s := if code = 0 then s else riderRefused s w.ctx
  match w.src with
  | .mailbox ch => mbxAck s ch (BitVec.ofNat 32 (result.toNat % 65536 * 65536 + code))
  | .queue f q index cid => sqDone s f q index cid 0 code result
  | .register _ => regSet (regSet s Reg.RDR_CMD_STAT (BitVec.ofNat 32 code)) Reg.RDR_CMD_RESULT result

/-- Start a command: it is answered, or it waits. -/
def riderStart (s : State) (w : RiderWait) : State :=
  match riderRun s w with
  | (some (code, v), s) => riderAnswer s w code v
  | (none, s) => { s with rdr := { s.rdr with waits := s.rdr.waits ++ [{ w with since := s.run }] } }

/-- The waiting command is answered; a register command that came meanwhile starts. -/
def riderFinish (s : State) (w : RiderWait) (rest : List RiderWait) (code : Nat) (v : Word) : State :=
  let s := riderAnswer { s with rdr := { s.rdr with waits := [] } } w code v
  match rest with
  | [] => s
  | n :: _ => riderStart s n

/-! ### Mirrored contexts (R460) -/

/-- Write a mirror record into the context's hot slot at an event boundary, keep it waiting for one, or refuse it. -/
def mirrorWrite (s : State) (r : Nat × List Byte) : State :=
  let x := ctxGet s r.1
  let wait := { s with cul := { s.cul with ctxRec := s.cul.ctxRec ++ [r] } }
  match x.mode with
  | .hot =>
    if engRuns (engGet s x.owner) r.1 then wait
    else culCount (ctxMod s r.1 (fun y => { y with data := r.2, dirty := true })) 5
  | .cold => if regBit s Reg.RDR_HOME_CTL 31 then pageWant wait r.1 else mirrorRefuse s
  | .out => wait
  | .in_ => wait
  | .dormant => mirrorRefuse s
  | .poisoned => mirrorRefuse s
  | .orphan => mirrorRefuse s

/-- Try every mirror record that waits. -/
def mirrorRetry (s : State) : State :=
  let l := s.cul.ctxRec
  l.foldl mirrorWrite { s with cul := { s.cul with ctxRec := [] } }

/-- A context record for context `c` arrives: a DORMANT context declared MIRROR is created when a slot is free. -/
def mirrorCtx (s : State) (c : Nat) (data : List Byte) : State :=
  let s := { s with cul := { s.cul with ctxRec := s.cul.ctxRec.filter (fun r => decide (r.1 ≠ c)) } }
  match ctxDecl s c with
  | none => mirrorRefuse s
  | some d =>
    if !nbit (leAt d 3 1) 3 then mirrorRefuse s
    else if (ctxGet s c).mode = .dormant then
      let e := if nbit (leAt d 3 1) 1 then some (leAt d 4 1) else placeAmong s (eligible s (leAt d 2 1)) (leAt d 6 2)
      match slotFree s, e with
      | some n, some e => mirrorWrite (postFresh (ctxCreate s c n e d 3) e) (c, data)
      | _, _ => mirrorRefuse s
    else mirrorWrite s (c, data)

/-- Retire the contexts that a swap no longer declares, each at its event boundary (R368). -/
def leaveRetry (s : State) : State :=
  s.rdr.leaving.foldl (fun s c =>
    let x := ctxGet s c
    let s' := { s with rdr := { s.rdr with leaving := s.rdr.leaving.filter (fun i => decide (i ≠ c)) } }
    if x.mode = .dormant then s'
    else if x.mode = .out ∨ x.mode = .in_ ∨ x.moving.isSome ∨ engRuns (engGet s x.owner) c then s
    else ctxRetire s' c 6) s

/-- Run the waiting command again: an event has ended or a page operation is over. MOVE and a PIN that migrates end with their
migration alone. -/
def riderRetry (s : State) : State :=
  let s := leaveRetry (mirrorRetry s)
  match s.rdr.waits with
  | [] => s
  | w :: t =>
    if w.op = 3 ∨ w.op = 4 then s
    else
      match riderRun s w with
      | (some (code, v), s) => riderFinish s w t code v
      | (none, s) => s

/-- A migration of context `c` is over: the command that waits for it ends, OK when its engine owns the context, else BUSY. -/
def riderMoved (s : State) (c : Nat) : State :=
  match s.rdr.waits with
  | [] => s
  | w :: t =>
    if (w.op = 3 ∨ w.op = 4) ∧ w.ctx = c ∧ (ctxGet s c).moving.isNone then
      if (ctxGet s c).owner = w.engine then
        riderFinish (if w.op = 4 then ctxPin s c (riderReason s w.src) else s) w t 0 0
      else riderFinish s w t 5 0
    else s

/-- A waiting command gives up at MIGRATE_TIMEOUT_US (R365): BUSY. -/
def riderGiveUp (s : State) : State :=
  match s.rdr.waits with
  | [] => s
  | w :: t =>
    if w.since + riderPolicy s 16 4 * 1000 < s.run then
      riderFinish (if w.op = 3 ∨ w.op = 4 then migrateAbort s w.ctx 7 else s) w t 5 0
    else s

/-! ### Page operations (R358, R359) -/

/-- A page-out completes: the slot is free, the home is written when the context is dirty; an event held since pages it in again. -/
def pageOutEnd (s : State) (c : Nat) (ecc : Bool) : State :=
  let x := ctxGet s c
  if x.mode ≠ .out then s
  else if ecc then ctxPoison s c 10
  else
    let home := hostAddr s Reg.RDR_HOME_LO Reg.RDR_HOME_HI + 512 * c
    let s := if x.dirty then hostOrdered s (regFld s Reg.RDR_HOME_CTL 29 28) home x.data else s
    let wb := s.rdr.writeBack.filter (fun b => decide (b.1 ≠ c)) ++ [(c, x.data)]
    let s := { s with rdr := { s.rdr with writeBack := wb.drop (wb.length - 8) } }
    let s := rdrCount (ctxMod s c (fun y => { y with mode := .cold, slot := none, data := zeros 512, dirty := false })) 1
    riderRetry (if holds s c || ctxStays s (ctxGet s c) then pageWant s c else pageKick s)

/-- A page-in completes with the home's data, or with an error. Data in the write-back buffer is taken from there. -/
def pageInEnd (s : State) (c : Nat) (home : Option (List Byte)) : State :=
  let x := ctxGet s c
  if x.mode ≠ .in_ then s
  else
    let buf := match s.rdr.writeBack.find? (fun b => decide (b.1 = c)) with
      | some b => some b.2
      | none => home
    let s := { s with rdr := { s.rdr with
      writeBack := s.rdr.writeBack.filter (fun b => decide (b.1 ≠ c)), pageIns := s.rdr.pageIns.filter (fun i => decide (i ≠ c)) } }
    match buf with
    | none => riderRetry (pageKick (rdrRaise (ctxPoison (rdrCount s 12) c 9) c 7))
    | some d =>
      let s := journalNow s 5 3 c 0xFF x.owner
      let s := ctxMod s c (fun y => { y with
        mode := .hot, data := slice d 0 512, dirty := false, wasHot := true, first := y.first || decide (y.lastRun ≠ some y.owner) })
      riderRetry (pageKick (holdRelease (rdrCount s 0) c))

end Sys2Proof.Machine
end

