-- ==== Sys2Proof/Machine/SenOps.lean ====
section
/-!
DEFINITION. The sentinel as shared operations: the registers that show it (R479, R483, Table 19-11), log entries, and its writes (R481).
-/
namespace Sys2Proof.Machine

/-- Word `i` of 32 bytes held as a number, byte 0 least significant. -/
def word256 (x : BitVec 256) (i : Nat) : Word := (x >>> (32 * i)).setWidth 32

/-- Set eight registers to the words of 32 bytes. -/
def regSet256 (s : State) (a : Nat → Nat) (x : BitVec 256) : State := (List.range 8).foldl (fun s i => regSet s (a i) (word256 x i)) s

/-- The 32 bytes that eight registers hold. -/
def regGet256 (s : State) (a : Nat → Nat) : BitVec 256 :=
  BitVec.ofNat 256 ((List.range 8).foldl (fun n i => n + (regGet s (a i)).toNat * 2 ^ (32 * i)) 0)

/-- The sentinel answers: VBAT holds and it has not isolated itself (R86, R478). -/
def senUp (s : State) : Bool := s.sen.vbat && !s.sen.isolated

/-- Entries after the acknowledged one, saturating at 16 (R483). -/
def senUnacked (x : SenState) : Nat := min 16 (x.total - x.acked)

/-- The bound-host token: 32 bytes. -/
def senToken (x : SenState) : List Byte := slice x.token 0 32

/-- The 16 bytes of a log entry (Table 19-7). -/
def logBytes (e : LogEntry) : List Byte :=
  leBytes 1 e.kind ++ leBytes 1 e.actions ++ leBytes 2 e.seq ++ leBytes 4 e.boot.toNat ++ leBytes 6 e.ticks.toNat ++ zeros 2

/-- An empty place of the log. -/
def log0 : LogEntry := { kind := 0, actions := 0, seq := 0, boot := 0, ticks := 0 }

/-- Copy what the sentinel holds into the registers that show it: at step 4 of R69, and after each change while D1 is on (R483); not
during a freeze (R468). -/
def senShow (s : State) : State :=
  if s.frz.frozen || s.pwr.porstLow || s.pwr.deep || decide (s.pwr.romStep < 4) || !senUp s then s
  else
    let x := s.sen
    let s := regSetFld (regSetFld s Reg.SEN_STAT 7 3 (senUnacked x)) Reg.SEN_STAT 2 2 (b2n (decide (x.partner ≠ 0)))
    let s := regSetFld s Reg.SEN_STAT 1 1 (b2n ((senToken x).any (fun b => decide (b ≠ 0))))
    let s := regSetFld s Reg.SEN_STAT 0 0 (b2n x.vbatLost)
    let s := regSet256 (regSet256 s Reg.SEN_TOKEN_DIGEST (Config.sha256 (senToken x))) Reg.SEN_PARTNER_ID x.partner
    let s := regSet s Reg.SEN_TAMPER_TOTAL (BitVec.ofNat 32 (x.newest * 65536 + min x.total 65535))
    (List.range 16).foldl (fun s n =>
      (List.range 4).foldl (fun s w =>
        regSet s (Reg.SEN_LOG n w) (BitVec.ofNat 32 (leAt (logBytes (tabGet (fun _ => log0) x.log n)) (4 * w) 4))) s) s

/-- Raise a cause of SEN_CAUSE while D1 is on; in a freeze at thaw (R468). -/
def senRaise (s : State) (bit : Nat) : State :=
  if s.pwr.porstLow || s.pwr.deep || decide (s.pwr.romStep < 4) then s
  else if s.frz.frozen then { s with frz := { s.frz with heldSen := s.frz.heldSen ||| (1#32 <<< bit) } }
  else raise s Reg.SEN_CAUSE bit

/-- Add a log entry (R483): entry k lies in slot k mod 16. -/
def senLog (s : State) (kind actions : Nat) : State :=
  let x := s.sen
  let e : LogEntry := { kind := kind, actions := actions, seq := x.total % 65536, boot := x.boot, ticks := x.ticks }
  let n := x.total % 16
  let s := { s with sen := { x with log := tabSet (fun _ => log0) x.log n e, newest := n, total := x.total + 1 } }
  senRaise (senShow s) 2

/-- What a tamper action of this SEN cycle has cleared, which applies after a command of the cycle (R481): the token, the partner. -/
def senWiped (x : SenState) : Bool × Bool :=
  match x.wiped with
  | some (t, tok, prt) => if t = x.ticks.toNat then (tok, prt) else (false, false)
  | none => (false, false)

/-- Carry out a sentinel write (Table 19-6, R445). -/
def senApply (s : State) (w : SenWrite) : State :=
  let x := s.sen
  match w with
  | .token b => senLog { s with sen := { x with token := if (senWiped x).1 then zeros 32 else b } } 4 0
  | .clearToken => senLog { s with sen := { x with token := zeros 32 } } 5 0
  | .logAck => senShow { s with sen := { x with acked := x.total } }
  | .ackVbat => senShow { s with sen := { x with vbatLost := false } }
  | .tamperCfg c => senShow { s with sen := { x with cfg := c } }
  | .bind id => senLog { s with sen := { x with partner := if (senWiped x).2 then 0 else id } } 6 0
  | .unbind => senLog { s with sen := { x with partner := 0 } } 7 0

/-- Whether a write belongs to the culvert block. -/
def senOfCul : SenWrite → Bool
  | .bind _ => true
  | .unbind => true
  | .token _ => false
  | .clearToken => false
  | .logAck => false
  | .ackVbat => false
  | .tamperCfg _ => false

/-- Start a sentinel write: BUSY is set, in the block it came from as well (R481, Table 18-12). -/
def senStart (s : State) (w : SenWrite) : State :=
  let s := { s with sen := { s.sen with busy := some w } }
  let s := regSetFld s Reg.SEN_CMD_STAT 31 31 1
  if senOfCul w then regSetFld s Reg.CUL_CMD_STAT 31 31 1 else regSetFld s Reg.SEN_CMD_STAT 1 0 2

/-- The registers show the end of a sentinel write (Tables 18-12 and 19-10). -/
def senEnd (s : State) (ofCul : Bool) : State :=
  let s := regSetFld s Reg.SEN_CMD_STAT 31 31 0
  if ofCul then regSetFld s Reg.CUL_CMD_STAT 31 31 0 else raise (regSetFld s Reg.SEN_CMD_STAT 1 0 0) Reg.SEN_CAUSE 3

/-- The running sentinel write completes (R481); in a freeze the registers follow at thaw. -/
def senDone (s : State) : State :=
  match s.sen.busy with
  | none => s
  | some w =>
    let s := senApply { s with sen := { s.sen with busy := none } } w
    if s.frz.frozen then
      { s with frz := { s.frz with heldSen := s.frz.heldSen ||| (if senOfCul w then 0x80000000 else 0x8) } }
    else senEnd s (senOfCul w)

/-- What the sentinel did during a freeze reaches the registers at thaw. -/
def senThaw (s : State) : State :=
  let h := s.frz.heldSen
  let s := senShow { s with frz := { s.frz with heldSen := 0 } }
  let s := if bitOf h 31 then senEnd s true else s
  let s := if bitOf h 3 then senEnd s false else s
  let s := if bitOf h 2 then raise s Reg.SEN_CAUSE 2 else s
  if bitOf h 0 then raise s Reg.SEN_CAUSE 0 else s

/-- The bound-partner identity, a write of it that runs included. -/
def senPartner (s : State) : BitVec 256 :=
  match s.sen.busy with
  | some (.bind id) => id
  | some .unbind => 0
  | _ => s.sen.partner

end Sys2Proof.Machine
end

