-- ==== Sys2Proof/Machine/CulOps.lean ====
section
/-!
DEFINITION. The twin as shared operations (chapter 18): the peer status block (R463), roles and promotion (R451 to R456), identity and
pairing (R445, R446), heartbeats (R447, R448), the mirror (R459 to R461) and the witness (R457).
-/
namespace Sys2Proof.Machine

/-- Raise a cause of the culvert block. -/
def culRaise (s : State) (bit : Nat) : State := raise s Reg.CUL_CAUSE bit

/-- A bit of CUL_STAT. -/
def culBit (s : State) (i : Nat) : Bool := regBit s Reg.CUL_STAT i
def culBitSet (s : State) (i : Nat) (b : Bool) : State := regSetFld s Reg.CUL_STAT i i (b2n b)

/-- The role of the partner by its last valid heartbeat; 7 unpaired. -/
def partnerRole (s : State) : Nat := regFld s Reg.CUL_STAT 6 4

/-- WIRE_IN: 0 SILENT, 1 CLAIM, 2 YIELD, 3 INVALID (R450). -/
def wireIn (s : State) : Nat := regFld s Reg.CUL_STAT 21 20

/-- The link is up: an enabled lane holds lock and alignment (R442). -/
def culLinkUp (s : State) : Bool := decide (regFld s Reg.CUL_STAT 27 24 ≠ 0)

/-- The supervisor has met a fatal event (R27). -/
def culFatal (s : State) : Bool := decide (regFld s Reg.HST_FATAL 7 0 ≠ 0)

/-- This chip's identity, as a number with byte 31 most significant (R446). -/
def ownId (s : State) : BitVec 256 := s.fuses.identity

/-- The identity in the partner's last IDENT. -/
def partnerId (s : State) : BitVec 256 := regGet256 s Reg.CUL_PARTNER_ID

/-! ### Peer status block (R463, Table 18-9) -/

/-- Bytes 4 to 31 of the block. -/
def peerBlock (s : State) : List Byte :=
  let paired := culPaired s
  let flags := b2n paired + 2 * b2n (culBit s 9) + 4 * b2n (culBit s 11) + 8 * b2n (culBit s 8) + 16 * b2n (culBit s 10)
  leBytes 1 (culRole s) ++ leBytes 1 (if paired then partnerRole s else 0xFF) ++ leBytes 1 flags ++ leBytes 1 (wireIn s)
    ++ leBytes 4 (regGet s Reg.CUL_EPOCH).toNat ++ leBytes 4 (regGet s Reg.CUL_PARTNER_EPOCH).toNat
    ++ leBytes 4 s.cul.lastHbNs32.toNat ++ leBytes 4 (regGet s Reg.CUL_TIME_DIFF).toNat
    ++ leBytes 4 (regGet s Reg.CUL_PEER_TIME_FRAC).toNat ++ leBytes 1 (regFld s Reg.CUL_PEER_TIME 9 8) ++ zeros 3

/-- The peer agent's writes in order; the first refusal ends them. -/
def peerWrites (s : State) : List (Nat × List Byte) → Bool × State
  | [] => (true, s)
  | w :: t =>
    match tankPut s 40 w.1 w.2 with
    | (true, s) => peerWrites s t
    | r => r

/-- Write the peer status block: SEQ odd, the data, SEQ even; a refusal stops the agent. -/
def peerStatus (s : State) : State :=
  if !regBit s Reg.CUL_PEER_TANK 31 then s
  else
    let o := regFld s Reg.CUL_PEER_TANK 21 3 * 8
    let n := s.cul.statusSeq
    let b := peerBlock s
    let s := { s with cul := { s.cul with statusSeq := n + 1 } }
    let r := peerWrites s [(o, leBytes 4 (2 * n + 1)), (o + 4, b), (o, leBytes 4 (2 * n + 2))]
    if r.1 then r.2 else culRaise (culCount (regSetFld r.2 Reg.CUL_PEER_TANK 31 31 0) 12) 9

/-! ### Heartbeats (R447) -/

/-- FLAGS of a heartbeat. -/
def hbFlags (s : State) : Nat :=
  b2n (culBit s 11) + 2 * b2n (culBit s 9) + 4 * b2n (culBit s 10) + 8 * b2n (decide (culRole s = 4)) + 16 * b2n s.cul.handed
    + 32 * b2n (fullService s)

/-- What a change of sends a heartbeat at once. -/
def hbKey (s : State) : Nat × Nat × Word := (culRole s, hbFlags s, regGet s Reg.CUL_EPOCH)

/-- Send a heartbeat (Table 18-2) and restart the period; a fatal event has stopped them (R27), and from a commit they wait for full
service (R57, R462). -/
def hbSend (s : State) : State :=
  if !culPaired s || culFatal s || !fullService s then s
  else
    let c := s.cul
    let hold := s.run - c.lossFrom
    let n := c.hbSeq + 1
    let m := culSeal (leBytes 1 2 ++ leBytes 1 (culRole s) ++ leBytes 1 (hbFlags s) ++ zeros 1
      ++ leBytes 4 (regGet s Reg.CUL_EPOCH).toNat ++ leBytes 4 n.toNat ++ leBytes 4 (nowNs32 s).toNat ++ leBytes 4 c.lastHbTx.toNat
      ++ leBytes 4 hold ++ leBytes 4 c.lseqIn ++ leBytes 4 s.clk.incFrac.toNat ++ leBytes 1 s.clk.incInt.toNat
      ++ leBytes 1 (regFld s Reg.TIM_SYNC_STATE 1 0) ++ zeros 26)
    culCount (emit { s with cul := { c with hbSeq := n, hbFrom := s.run, hbSent := hbKey s } } (.culvert m)) 0

/-! ### Roles -/

/-- What the wire generator drives in a role (Table 18-3): 0 SILENT, 1 CLAIM, 2 YIELD. -/
def wireOf (s : State) (r : Nat) : Nat := if r = 0 then 0 else if r = 2 ∧ !culFatal s then 1 else 2

/-- The chip takes a role: the wire follows; SYNCED starts afresh but between STANDBY and TAKEBACK; what belongs to the old role ends. -/
def culRoleSet (s : State) (r : Nat) : State :=
  if culRole s = r then s
  else
    let stays := culStandby s && (decide (r = 3) || decide (r = 4))
    let s := regSetFld (regSetFld s Reg.CUL_STAT 2 0 r) Reg.CUL_STAT 23 22 (wireOf s r)
    let s := if stays then s else culBitSet s 9 false
    let c := s.cul
    culRaise { s with cul := { c with
      pendRec := if r = 2 then c.pendRec else [], handover := none, handed := false
      ctxRec := if r = 3 ∨ r = 4 then c.ctxRec else [], pairFrom := if r = 1 then s.run else c.pairFrom
      pairRaised := if r = 1 then false else c.pairRaised } } 1

/-- A change of role writes the peer status block. -/
def culTo (s : State) (r : Nat) : State := if culRole s = r then s else peerStatus (culRoleSet s r)

/-- Promote to ACTIVE (R453, R454): the new epoch and the wire, the publisher, then the status block, a heartbeat and TAKEOVER. A promotion
out of TAKEBACK while paired is a takeback. -/
def promote (s : State) : State :=
  let k := if culRole s = 4 ∧ culPaired s then 9 else 8
  let e := regGet s Reg.CUL_EPOCH_SEEN + 1
  let s := regSet (regSet s Reg.CUL_EPOCH e) Reg.CUL_EPOCH_SEEN e
  let s := culRoleSet (culBitSet { s with cul := { s.cul with passSent := false } } 8 false) 2
  culRaise (culCount (hbSend (peerStatus (pubTakeover s))) k) 2

/-- The local chip wins under R452. -/
def culWins (s : State) : Bool :=
  let e := (regGet s Reg.CUL_EPOCH).toNat
  let p := (regGet s Reg.CUL_PARTNER_EPOCH).toNat
  decide (culRole s ≠ 5) && (decide (partnerRole s = 5) || decide (p < e) || (decide (p = e) && culBit s 11))

/-- The partner wins under R452. -/
def partnerWins (s : State) : Bool :=
  let e := (regGet s Reg.CUL_EPOCH).toNat
  let p := (regGet s Reg.CUL_PARTNER_EPOCH).toNat
  decide (partnerRole s ≠ 5) && (decide (culRole s = 5) || decide (e < p) || (decide (p = e) && !culBit s 11))

/-- The chip is HEALTHY (R455). -/
def healthy (s : State) : Bool :=
  fullService s && culPaired s && culBit s 9 && (decide (regFld s Reg.TIM_SYNC_STATE 1 0 = 2) || decide (s.cul.partnerTime ≠ 2))

/-- What follows in the same cycle from any change: HEALTHY and its count, the end of a TAKEBACK, and a heartbeat for a change of role, flags
or epoch (R447, R455, Table 18-5). -/
def culSettle (s : State) : State :=
  let h := healthy s
  let s := culBitSet s 10 h
  let from_ := if h then (match s.cul.settleFrom with | some t => some t | none => some s.run) else none
  let s := { s with cul := { s.cul with settleFrom := from_ } }
  let s := if culRole s = 4 ∧ (!h ∨ regBit s Reg.CUL_CTL 1) then
      let s := culTo s 3
      { s with cul := { s.cul with settleFrom := if h then some s.run else none } }
    else s
  if culPaired s && decide (hbKey s ≠ s.cul.hbSent) then hbSend s else s

/-- Every culvert event runs while D16 is on, and its consequences settle. -/
def culEvent (s : State) (k : State → State) : Answer := domEvent s 16 (fun s => culSettle (k s))

/-- The chip is no longer paired. -/
def culUnpair (s : State) : State :=
  let s := regSetFld (culBitSet (culBitSet s 12 false) 9 false) Reg.CUL_STAT 6 4 7
  { s with cul := { s.cul with
    partnerOk := false, boundOk := false, okSent := false, replay := [], pendRec := [], ackShort := 0, handover := none, handed := false
    pairFrom := if culRole s = 1 then s.run else s.cul.pairFrom, pairRaised := false } }

/-- A publisher that was gated for a handover which did not come about sends what it held (R456). -/
def handoverCancel (s : State) : State :=
  if s.cul.handover.isSome then
    let s := { s with cul := { s.cul with handover := none } }
    (List.range 512).foldl (fun s g => if (gpGet s g).unsent ∧ gpEn s g then gpEvent s g else s) s
  else s

/-- The role rules at heartbeat loss (Table 18-5, R448). INVALID counts as SILENT. -/
def heartbeatLost (s : State) : State :=
  let s := culCount (culUnpair (handoverCancel s)) 10
  if culRole s = 2 then culRaise s 3
  else if culStandby s then
    if wireIn s = 2 then promote s
    else if wireIn s = 1 then culRaise (culTo s 3) 3
    else culRaise (culBitSet (culTo s 3) 8 true) 4
  else s

/-! ### Identity and pairing (R445, R446) -/

/-- This chip is preferred, by the straps, or by the identities when they are equal. -/
def isPreferred (s : State) : Bool :=
  let own := regBit s Reg.GLB_STRAP 2
  if own = s.cul.partnerPref then decide ((ownId s).toNat < (partnerId s).toNat) else own

/-- Pair once each side accepts the other and has said so; both sides count sequence numbers and heartbeats from here. -/
def pairCheck (s : State) : State :=
  let c := s.cul
  if c.started && c.identSeen && c.boundOk && c.partnerOk && c.okSent && !culPaired s then
    let s := culBitSet (culBitSet (culBitSet s 12 true) 8 false) 14 false
    let s := if regBit s Reg.GLB_STRAP 2 = c.partnerPref then culRaise s 7 else s
    let s := culBitSet s 11 (isPreferred s)
    hbSend { s with cul := { s.cul with
      hbSeq := 0, lseqSent := 0, lseqIn := 0, replay := [], pendRec := [], passSent := false, lossFrom := s.run, lastHbTx := 0
      ackShort := 0 } }
  else s

/-- Send an IDENT (Table 18-1). -/
def identSend (s : State) : State :=
  let flags := b2n (regBit s Reg.GLB_STRAP 2) + 2 * b2n s.cul.boundOk
  let m := culSeal (leBytes 1 1 ++ leBytes 1 (culRole s) ++ leBytes 1 flags ++ leBytes 1 (flatByte s 14 2)
    ++ leBytes 4 (regGet s Reg.CUL_EPOCH).toNat ++ leBytes 4 (regGet s Reg.GLB_BOOT_COUNT).toNat
    ++ leBytes 4 (regGet s Reg.IMG_SERIAL).toNat ++ leBytes 32 (ownId s).toNat ++ leBytes 32 (regGet256 s Reg.IMG_HASH).toNat ++ zeros 44)
  let s := emit { s with cul := { s.cul with okSent := s.cul.okSent || s.cul.boundOk, identFrom := s.run } } (.culvert m)
  pairCheck s

/-- CUL_EPOCH_SEEN follows an epoch that is received (R453). -/
def epochSeen (s : State) (e : Nat) : State :=
  if (regGet s Reg.CUL_EPOCH_SEEN).toNat < e then regSet s Reg.CUL_EPOCH_SEEN (BitVec.ofNat 32 e) else s

/-- The partner's identity differs from the bound one (R445). -/
def identMismatch (s : State) : State :=
  let s := culRaise (culBitSet (if culPaired s then culUnpair (handoverCancel s) else s) 14 true) 6
  let s := { s with cul := { s.cul with boundOk := false } }
  if culRole s = 2 ∨ culRole s = 0 then s else culTo s 5

/-- An IDENT is received (R445): the identity is recorded and compared with the bound one. -/
def identTake (s : State) (m : List Byte) : State :=
  let id := BitVec.ofNat 256 (leAt m 16 32)
  let hash := BitVec.ofNat 256 (leAt m 48 32)
  let s := epochSeen (regSet256 s Reg.CUL_PARTNER_ID id) (leAt m 4 4)
  let s := culBitSet s 13 (decide (hash ≠ regGet256 s Reg.IMG_HASH))
  let s := { s with cul := { s.cul with
    identSeen := true, partnerPref := nbit (leAt m 2 1) 0, partnerOk := nbit (leAt m 2 1) 1, partnerHash := hash } }
  if !s.cul.started then s
  else
    let bound := senPartner s
    if bound = id then pairCheck { s with cul := { s.cul with boundOk := true } }
    else if bound = 0 ∧ regBit s Reg.CUL_CTL 0 then
      if s.sen.busy.isSome then s
      else pairCheck (senStart { s with cul := { s.cul with boundOk := true } } (.bind id))
    else identMismatch s

/-! ### The mirror (R444, R459 to R461) -/

/-- The full pass of the active chip: every mirrored object once, between PASS_START and PASS_END. -/
def fullPass (s : State) : State :=
  let pubs := if culMirrors s 0 then ((List.range 512).filter (gpEn s)).map (fun g => (0, g, gpRecord s g)) else []
  let subs := if culMirrors s 1 then ((List.range 8192).filter (fun v => decide (subState s v ≠ 0))).map (fun v => (1, v, subRecord s v)) else []
  let ctxs := if culMirrors s 3 then
      ((ctxLive s).filter (fun x => x.2.mirror && (decide (x.2.mode = .hot) || decide (x.2.mode = .out)))).map
        (fun x => (3, x.1, x.2.data))
    else []
  let s := culCount (culFlush { s with cul := { s.cul with passSent := true } } ((4, 0, []) :: (pubs ++ subs ++ ctxs))) 7
  let s := culTime s
  culFlush s (s.cul.pendRec ++ [(5, 0, [])])

/-- The acknowledgement of a heartbeat (R444): what it covers leaves the replay buffer; two in a row that cover less than was sent send the
rest again. -/
def mirrorAck (s : State) (ack : Nat) : State :=
  let left := s.cul.replay.filter (fun m => decide (0 < (m.lseq + 2 ^ 32 - ack) % 2 ^ 32 ∧ (m.lseq + 2 ^ 32 - ack) % 2 ^ 32 < 2 ^ 31))
  let short := if left.isEmpty then 0 else s.cul.ackShort + 1
  let s := { s with cul := { s.cul with replay := left, ackShort := if 2 ≤ short then 0 else short } }
  let s := if 2 ≤ short then culCount (left.foldl (fun s m => emit s (.culvert m.bytes)) s) 3 else s
  culFlush s s.cul.pendRec

/-- Apply a mirror record of class `cls` for object `i` (R460, R461). -/
def mirrorApply (s : State) (cls i : Nat) (b : List Byte) : State :=
  match cls with
  | 0 =>
    let w := fun (o : Nat) => BitVec.ofNat 32 (leAt b o 4)
    if i < 512 then culCount (gpSet s i { gpGet s i with mirror := some (w 0, w 4, w 8, leAt b 12 2) }) 5 else s
  | 1 => culCount (subSet s i { subGet s i with mirror := some b }) 5
  | 2 =>
    let s := regSet s Reg.CUL_PEER_TIME_FRAC (BitVec.ofNat 32 (leAt b 0 4))
    culCount (regSet s Reg.CUL_PEER_TIME (BitVec.ofNat 32 (leAt b 4 1 + leAt b 5 1 % 4 * 256 + leAt b 6 2 * 65536))) 5
  | 3 => mirrorCtx s i (slice b 0 512)
  | 4 => { s with cul := { s.cul with passRefused := false } }
  | 5 => if s.cul.passRefused then s else culRaise (culCount (culBitSet s 9 true) 7) 8
  | _ => s

/-- A sequenced message is accepted when its LSEQ is the next (R444). -/
def lseqTake (s : State) (n : Nat) (k : State → State) : State :=
  if n = (s.cul.lseqIn + 1) % 2 ^ 32 then k { s with cul := { s.cul with lseqIn := n } } else s

/-- A MIRROR message is received by a chip that stands by. -/
def mirrorTake (s : State) (m : List Byte) : State :=
  lseqTake s (leAt m 4 4) (fun s =>
    let s := epochSeen s (leAt m 12 4)
    if culStandby s ∧ m.length = 20 + leAt m 8 2 then mirrorApply s (leAt m 1 1) (leAt m 2 2) (slice m 16 (leAt m 8 2)) else s)

/-! ### A heartbeat is received (R448, R451 to R456) -/

/-- An ACTIVE chip honours a TAKEBACK_REQ when nothing stands against it (R456). -/
def takebackAsked (s : State) : State :=
  if culRole s = 2 ∧ s.cul.handover.isNone ∧ nbit s.cul.partnerFlags.toNat 3 ∧ !culBit s 11 ∧ nbit s.cul.partnerFlags.toNat 1
      ∧ !regBit s Reg.CUL_CTL 1 ∧ !(s.pub.goose.any (fun e => e.2.launch.isSome)) then
    { s with cul := { s.cul with handover := some s.run } }
  else s

/-- The role rules on a valid heartbeat (Table 18-5); `new` says that the partner newly reports ACTIVE. -/
def heartbeatRoles (s : State) (new : Bool) : State :=
  let p := partnerRole s
  let r := culRole s
  if p = 2 then
    if r = 2 then
      let s := culRaise s 5
      if partnerWins s then culTo (regSet s Reg.CUL_EPOCH (regGet s Reg.CUL_PARTNER_EPOCH)) 3 else s
    else if r = 1 ∨ ((r = 3 ∨ r = 4) ∧ new) then culTo (culBitSet (regSet s Reg.CUL_EPOCH (regGet s Reg.CUL_PARTNER_EPOCH)) 9 false) 3
    else if r = 3 ∨ r = 4 then regSet s Reg.CUL_EPOCH (regGet s Reg.CUL_PARTNER_EPOCH)
    else s
  else if (r = 1 ∨ r = 3 ∨ r = 4) ∧ culWins s then promote s
  else s

/-- A valid heartbeat is received. -/
def heartbeatTake (s : State) (m : List Byte) : State :=
  let t1 := BitVec.ofNat 32 (leAt m 16 4)
  let t3 := BitVec.ofNat 32 (leAt m 12 4)
  let t2 := t3 - BitVec.ofNat 32 (leAt m 20 4)
  let t4 := nowNs32 s
  let role := leAt m 1 1 % 8
  let new := decide (partnerRole s ≠ 2)
  let s := epochSeen (culCount s 1) (leAt m 4 4)
  let s := regSet (regSetFld s Reg.CUL_STAT 6 4 role) Reg.CUL_PARTNER_EPOCH (BitVec.ofNat 32 (leAt m 4 4))
  let s := regSet s Reg.CUL_TIME_DIFF (BitVec.ofInt 32 (((t2 - t1) - (t4 - t3)).toInt.tdiv 2))
  let s := { s with cul := { s.cul with
    lastHbRx := some s.run, lossFrom := s.run, lastHbNs32 := t4, lastHbTx := t3, partnerFlags := BitVec.ofNat 8 (leAt m 2 1)
    partnerTime := leAt m 33 1, handed := s.cul.handed && decide (role ≠ 2) } }
  let s := mirrorAck s (leAt m 24 4)
  let s := if culRole s = 2 then culBitSet s 9 (nbit (leAt m 2 1) 1) else s
  let s := heartbeatRoles s new
  let s := if culRole s = 2 ∧ role = 3 ∧ !s.cul.passSent then fullPass s else s
  peerStatus (takebackAsked s)

/-- The culvert runs: the running image enables the twin, or the chip boots from its twin (R464), but not while UNBOUND (R47, R462). -/
def culRuns (s : State) : Bool :=
  s.cul.started || (s.img.running.isNone && decide (regFld s Reg.GLB_STRAP 1 0 = 3) && decide (regFld s Reg.IMG_STATUS 3 0 ≠ 6)
    && regBit s Reg.GLB_STATUS 4)

/-- A message arrives on the culvert: one that fails its check is discarded (R443). -/
def culTake (s : State) (m : List Byte) (type : Nat) (k : State → State) : State :=
  if !culLinkUp s || !culRuns s then s
  else if m.length < 5 ∨ m ≠ culSeal (m.take (m.length - 4)) then culCount s 2
  else if leAt m 0 1 = type then k s
  else s

/-! ### Commit, freeze, domain and witness (R457, R462) -/

/-- The chip serves its running image (R53, R464): the image is TWIN_DELIVERABLE, the partner has sent its IDENT, and no load from the twin
runs here, whose data an IMAGE message then is. -/
def imageServes (s : State) : Bool :=
  s.cul.identSeen && (match s.img.cmd with | some c => decide (c.src ≠ 3) | none => true)
    && (match s.img.running with | some i => nbit i.flags 0 | none => false)

/-- An IMAGE message leaves for the partner, sequenced and kept for replay (R444, R464); how it asks for one and what the message holds beside
its sequence number no rule says (log entry 92). -/
def imageServe (s : State) : State :=
  if !imageServes s then s
  else
    let r := fresh s
    let n := (s.cul.lseqSent + 1) % 2 ^ 32
    let m := culSeal (leBytes 1 4 ++ zeros 3 ++ leBytes 4 n ++ Config.imageBytes r.1)
    let s := r.2
    if replayUnits s + msgUnits m ≤ 4096 then
      emit { s with cul := { s.cul with lseqSent := n, replay := s.cul.replay ++ [{ lseq := n, bytes := m }] } } (.culvert m)
    else s

/-- The lanes that may come up: those that both the LANES section and the TWIN section enable, or all four before the first commit (R34,
R442, R464). -/
def culLanes (s : State) : Nat :=
  if s.img.running.isSome then Nat.land (flatByte s 14 3 % 16) (flatByte s 1 56 % 16) else 15

/-- The lanes that no image enables any more, or those of a culvert that has stopped, are down. -/
def lanesKeep (s : State) : State :=
  regSetFld s Reg.CUL_STAT 27 24 (if culRuns s then Nat.land (regFld s Reg.CUL_STAT 27 24) (culLanes s) else 0)

/-- The commit of a full load, or the loss of every image, as the twin sees it (Table 18-5, R462). -/
def culCommit (s : State) : State :=
  let s := culUnpair { s with cul := { s.cul with handover := none } }
  if s.img.running.isSome ∧ flatByte s 14 0 ≠ 0 then
    let s := culTo { s with cul := { s.cul with started := true } } 1
    let s := regSetFld s Reg.CUL_STAT 23 22 (wireOf s 1)
    lanesKeep { s with cul := { s.cul with pairFrom := s.run, pairRaised := false } }
  else lanesKeep (culTo { s with cul := { s.cul with started := false } } 0)

/-- At thaw the chip is in PAIRING and pairs again (R462, Table 19-5). -/
def culThaw (s : State) : State :=
  if culRole s = 0 then s
  else regSetFld (culTo (culUnpair { s with cul := { s.cul with handover := none } }) 1) Reg.CUL_STAT 23 22 2

/-- D16 goes off: lanes down, unpaired, the role kept (R462). -/
def culOff (s : State) : State := culBitSet (culUnpair (regSetFld s Reg.CUL_STAT 27 24 0)) 10 false

/-- TWIN_WITNESS (Table 18-6): DETAIL and RESULT. -/
def witness (s : State) (epoch : Word) : Nat × Word × State :=
  if culRole s = 0 then (4, 0, s)
  else if !fullService s then (5, 0, s)
  else if culRole s = 2 then (1, 0, s)
  else if culPaired s ∨ wireIn s = 1 then (3, 0, s)
  else if epoch.toNat < (regGet s Reg.CUL_EPOCH_SEEN).toNat then (2, 0, s)
  else
    let s := promote s
    (0, regGet s Reg.CUL_EPOCH, s)

end Sys2Proof.Machine
end

