-- ==== Sys2Proof/Machine/Culvert.lean ====
section
/-!
DEFINITION. The commands of the twin (chapter 18): lanes, identity, heartbeats, the mirror, the role wire, roles and CUL_CMD, and the end of a
sentinel write.
-/
namespace Sys2Proof.Machine

/-- CULVERT_LANE_UP (R442, R445). -/
def execCulvertLaneUp (n : Fin 4) (s : State) : Answer :=
  culEvent s (fun s =>
    if !culRuns s || !nbit (culLanes s) n || culBit s (24 + n) then s
    else
      let was := culLinkUp s
      let s := culRaise (culBitSet s (24 + n) true) 10
      if was then s else identSend s)

/-- CULVERT_LANE_DOWN (R442): counted; the link stays up while another lane is up. -/
def execCulvertLaneDown (n : Fin 4) (s : State) : Answer :=
  culEvent s (fun s => if culBit s (24 + n) then culRaise (culCount (culBitSet s (24 + n) false) 13) 10 else s)

/-- IDENT_TIMER (R445): every 10 ms while the link is up and the chip is not paired. -/
def execIdentTimer (s : State) : Answer :=
  culEvent s (fun s =>
    if culRuns s && culLinkUp s && !culPaired s && decide (s.cul.identFrom + 10000000 ≤ s.run) then identSend s else s)

/-- IDENT_RX (R443, R445). -/
def execIdentRx (bytes : List Byte) (s : State) : Answer :=
  culEvent s (fun s => culTake s bytes 1 (fun s => if bytes.length = 128 then identTake s bytes else s))

/-- HEARTBEAT_TIMER (R447): every 100 µs ± 0.1 µs while paired. -/
def execHeartbeatTimer (s : State) : Answer :=
  culEvent s (fun s => if culPaired s && decide (s.cul.hbFrom + 99900 ≤ s.run) then hbSend s else s)

/-- HEARTBEAT_RX (R448): only a paired chip takes heartbeats. -/
def execHeartbeatRx (bytes : List Byte) (s : State) : Answer :=
  culEvent s (fun s => culTake s bytes 2 (fun s => if culPaired s && decide (bytes.length = 64) then heartbeatTake s bytes else s))

/-- HEARTBEAT_LOSS (R448): once the cycle in which the 300 µs have passed is over, in which a heartbeat still wins (R22, Table 1-10). -/
def execHeartbeatLoss (s : State) : Answer :=
  culEvent s (fun s => if culPaired s ∧ s.cul.lossFrom + 300000 < s.run then heartbeatLost s else s)

/-- MIRROR_RX (R444, R460). -/
def execMirrorRx (bytes : List Byte) (s : State) : Answer :=
  culEvent s (fun s => culTake s bytes 3 (fun s => if culPaired s then mirrorTake s bytes else s))

/-- IMAGE_RX (R444, R464): a sequenced message; its LSEQ lies where a MIRROR message has it (log entry 26). To a chip that loads from its twin
it brings bytes that the loader reads in its passes; a chip that runs a deliverable image takes it as the partner's request and serves. -/
def execImageRx (bytes : List Byte) (s : State) : Answer :=
  culEvent s (fun s => culTake s bytes 4 (fun s => lseqTake s (leAt bytes 4 4) imageServe))

/-- MIRROR_TIME_TIMER (R459): at least every 10 ms. -/
def execMirrorTimeTimer (s : State) : Answer :=
  culEvent s (fun s => if culRole s = 2 ∧ culPaired s ∧ s.cul.timeFrom + 10000000 ≤ s.run then culTime s else s)

/-- The wire class becomes `c` (R450). -/
def wireSet (s : State) (c : Nat) : State :=
  let s := { s with cul := { s.cul with
    wireClaim := if c = 1 then (match s.cul.wireClaim with | some t => some t | none => some s.run) else none } }
  regSetFld s Reg.CUL_STAT 21 20 c

/-- ROLE_WIRE_EDGE (R450): an interval is CLAIM at 3 to 8 µs, YIELD at 14 to 28 µs, else invalid; two in a row make the class. -/
def execRoleWireEdge (s : State) : Answer :=
  culEvent s (fun s =>
    let edge := { s with cul := { s.cul with wireEdge := some s.run } }
    match s.cul.wireEdge with
    | none => edge
    | some t =>
      let d := s.run - t
      let kind := if 3000 ≤ d ∧ d ≤ 8000 then 1 else if 14000 ≤ d ∧ d ≤ 28000 then 2 else 3
      let s := { edge with cul := { edge.cul with wireLast := kind } }
      if kind = 3 then wireSet (culCount s 11) 3
      else if kind = edge.cul.wireLast then wireSet s kind
      else s)

/-- ROLE_WIRE_SILENCE (R450): no edge for 60 µs. -/
def execRoleWireSilence (s : State) : Answer :=
  culEvent s (fun s =>
    match s.cul.wireEdge with
    | some t => if t + 60000 < s.run then wireSet { s with cul := { s.cul with wireLast := 0 } } 0 else s
    | none => wireSet s 0)

/-- PAIR_WAIT_MS in ns; 0 acts as 1. -/
def pairWait (s : State) : Nat := max 1 (regFld s Reg.CUL_CTL 25 16) * 1000000

/-- PAIR_WAIT_EXPIRY (Table 18-5): STANDBY when the wire has claimed throughout; WITNESS_NEEDED when it does not claim. -/
def execPairWaitExpiry (s : State) : Answer :=
  culEvent s (fun s =>
    if culRole s ≠ 1 ∨ culPaired s then s
    else
      match s.cul.wireClaim with
      | some t => if max t s.cul.pairFrom + pairWait s ≤ s.run then culTo s 3 else s
      | none =>
        if s.cul.pairRaised ∨ s.run < s.cul.pairFrom + pairWait s then s
        else culRaise (culBitSet { s with cul := { s.cul with pairRaised := true } } 8 true) 4)

/-- TAKEBACK_SETTLE_EXPIRY (R455). -/
def execTakebackSettleExpiry (s : State) : Answer :=
  culEvent s (fun s =>
    match s.cul.settleFrom with
    | some t =>
      if culRole s = 3 ∧ culBit s 11 ∧ flatByte s 14 1 ≠ 0 ∧ healthy s ∧ !regBit s Reg.CUL_CTL 1
          ∧ t + flatField s 14 4 4 * 1000000 ≤ s.run then culTo s 4 else s
    | none => s)

/-- HANDOVER_DONE (R456): every record sent is acknowledged, or 1 ms has passed. -/
def execHandoverDone (s : State) : Answer :=
  culEvent s (fun s =>
    match s.cul.handover with
    | some t =>
      if s.cul.replay.isEmpty ∨ t + 1000000 ≤ s.run then
        let s := culTo s 3
        { s with cul := { s.cul with handed := true } }
      else s
    | none => s)

/-! ### Commands (R465) -/

/-- A refused CUL_CMD. -/
def culRefuse (s : State) : State := culRaise s 11

/-- A write of CUL_CMD with the code runs `k` and is recorded as the last command accepted. -/
def culCmd (s : State) (f : Fin 4) (v : Word) (op : Nat) (ok : State → Bool) (k : State → State) : Answer :=
  hostCmd s f Reg.CUL_CMD (fun s =>
    if fld v 31 16 ≠ 0x4355 ∨ !ok s then culRefuse s else culSettle (k (regSetFld s Reg.CUL_CMD_STAT 2 0 op)))

/-- CUL_FENCE (Table 18-5): any role but ALONE. -/
def execCulFence (f : Fin 4) (v : Word) (s : State) : Answer :=
  culCmd s f v 1 (fun _ => true) (fun s => if culRole s = 0 then s else culTo s 5)

/-- CUL_UNFENCE: refused outside FENCED. -/
def execCulUnfence (f : Fin 4) (v : Word) (s : State) : Answer :=
  culCmd s f v 2 (fun s => decide (culRole s = 5)) (fun s => culTo s 1)

/-- CUL_BIND: the last exchanged identity goes to the sentinel; refused with no IDENT since reset or a sentinel write running (R481). -/
def execCulBind (f : Fin 4) (v : Word) (s : State) : Answer :=
  culCmd s f v 3 (fun s => s.cul.identSeen && s.sen.busy.isNone) (fun s =>
    let s := senStart s (.bind (partnerId s))
    if culRole s = 5 then culTo s 1 else s)

/-- CUL_UNBIND. -/
def execCulUnbind (f : Fin 4) (v : Word) (s : State) : Answer :=
  culCmd s f v 4 (fun s => s.sen.busy.isNone) (fun s => senStart s .unbind)

/-- SENTINEL_WRITE_DONE (R481): it also comes about during a freeze. -/
def execSentinelWriteDone (s : State) : Answer :=
  .next (if senUp s && !s.pwr.porstLow && !s.pwr.deep then senDone s else s)

end Sys2Proof.Machine
end

