-- ==== Sys2Proof/Machine/FlumeOps.lean ====
section
/-!
DEFINITION. Flume engines as shared operations: settings, pins, latches, queues, flags, stalls and faults (chapter 16).
-/
namespace Sys2Proof.Machine

/-- An engine after reset: stopped, everything 0. -/
def flumeEng0 : FlumeEng :=
  { mode := .stopped, stall := 0, pc := 0, sl := 0, sc := 0, rl := 0, rc := 0, k0 := 0, k1 := 0, k2 := 0, k3 := 0
    mark := 0, dirs := 0, txq := [], rxq := [], edge := 0, acc := 0, faultCode := 0, faultPc := 0, target := 0
    rest := none, txStopped := false, rxStopped := false, due := 0, resume := false, txNew := (0, 0), rxGone := (0, 0)
    txGet := 0, rxPut := 0 }

/-- Engine `e`. -/
def fluGet (s : State) (e : Nat) : FlumeEng := tabGet (fun _ => flumeEng0) s.flm.eng e

/-- The state with engine `e` replaced. -/
def fluSet (s : State) (e : Nat) (x : FlumeEng) : State :=
  { s with flm := { s.flm with eng := tabSet (fun _ => flumeEng0) s.flm.eng e x } }

/-! ### Settings (Table 16-12) -/

/-- JOIN: 0 none, 1 TX, 2 RX; 3 acts as 0. -/
def flmJoin (s : State) (e : Nat) : Nat := let j := regFld s (Reg.FLM_ENG_SHIFT e) 6 5; if j = 3 then 0 else j

/-- The words TXQ holds: 8, 16 when it is joined, 0 when JOIN has removed it (R399). -/
def txCap (s : State) (e : Nat) : Nat := if flmJoin s e = 1 then 16 else if flmJoin s e = 2 then 0 else 8

/-- The words RXQ holds. -/
def rxCap (s : State) (e : Nat) : Nat := if flmJoin s e = 2 then 16 else if flmJoin s e = 1 then 0 else 8

/-- A width field of which 0 acts as 32. -/
def bits32 (n : Nat) : Nat := if n = 0 then 32 else n

/-- FETCH_BITS. -/
def fetchBits (s : State) (e : Nat) : Nat := bits32 (regFld s (Reg.FLM_ENG_SHIFT e) 21 16)

/-- DEPOSIT_BITS. -/
def depositBits (s : State) (e : Nat) : Nat := bits32 (regFld s (Reg.FLM_ENG_SHIFT e) 29 24)

/-- OUT_COUNT; values above 16 act as 16. -/
def outCount (s : State) (e : Nat) : Nat := min 16 (regFld s (Reg.FLM_ENG_PINS e) 13 8)

/-- Pin `i` of the out group (R399: group numbers wrap modulo 64). -/
def outPin (s : State) (e i : Nat) : Nat := (regFld s (Reg.FLM_ENG_PINS e) 5 0 + i) % 64

/-- Pin `i` of the in group. -/
def inPin (s : State) (e i : Nat) : Nat := (regFld s (Reg.FLM_ENG_PINS e) 21 16 + i) % 64

/-- TEST_PIN. -/
def testPin (s : State) (e : Nat) : Nat := regFld s (Reg.FLM_ENG_PINS e) 29 24

/-! ### Causes -/

/-- Raise a flume cause for engine `e` and record it in FLM_EVENT. -/
def flmRaise (s : State) (e bit : Nat) : State :=
  raise (regSet s Reg.FLM_EVENT (BitVec.ofNat 32 (bit * 2 ^ 24 + e))) Reg.FLM_CAUSE bit

/-- Add `n` to FLM_ENG_CNT[k] of engine `e`. -/
def flmCount (s : State) (e k n : Nat) : State := countBy s (Reg.FLM_ENG_CNT e k) Reg.FLM_CAUSE 0 n

/-- A fault (R416): code and PC recorded, FAULT raised, pins held. -/
def flmFault (s : State) (e code : Nat) : State :=
  let x := fluGet s e
  flmRaise (fluSet s e { x with mode := .fault, stall := 0, faultCode := code, faultPc := x.pc, rest := none }) e 3

/-! ### Pins (R397, R398) -/

/-- Whether a bank's pins are driven at all: the first commit has passed, D15 is on, and the bank's supply matches its
declaration. -/
def bankLive (s : State) (b : Nat) : Bool :=
  s.flm.driven && domOn s 15 && decide (tabGet (fun _ => none) s.flm.decl b ≠ none)
    && !regBit s Reg.FLM_BANK_STAT (2 + 3 * b)

/-- The level an instruction reads at a pin: 0 in a bank that is not matched, else the ball, inverted by INVERT_IN. -/
def pinRead (s : State) (n : Nat) : Bool :=
  if regBit s Reg.FLM_BANK_STAT (2 + 3 * (n / 32)) then false
  else s.flm.ball.getLsbD n != regBit s (Reg.FLM_PIN_CFG n) 16

/-- How the device leaves pin `n` now: driven to a level or released; a pin without an OWNER engine is not driven (R398). -/
def pinDrive (s : State) (n : Nat) : Option Bool :=
  let cfg := regGet s (Reg.FLM_PIN_CFG n)
  let lvl := s.flm.level.getLsbD n != bitOf cfg 17
  let owner := fld cfg 31 24
  if !bankLive s (n / 32) || decide (48 ≤ owner) then none
  else if fld cfg 1 0 = 1 then some lvl
  else if fld cfg 1 0 = 2 then (if lvl then none else some false)
  else if fld cfg 1 0 = 3 then
    (let base := regFld s (Reg.FLM_ENG_PINS owner) 5 0
     if (fluGet s owner).dirs.getLsbD ((n + 64 - base) % 64) then some lvl else none)
  else none

/-- Engine `e` writes a level to pin `i` of its out group; only its owner drives a pin (R398). -/
def pinWrite (s : State) (e i : Nat) (lvl : Bool) : State :=
  let n := outPin s e i
  if i < outCount s e ∧ regFld s (Reg.FLM_PIN_CFG n) 31 24 = e then
    let m : BitVec 64 := 1#64 <<< n
    let s := { s with flm := { s.flm with level := if lvl then s.flm.level ||| m else s.flm.level &&& ~~~m } }
    emit s (.pin n (pinDrive s n))
  else s

/-- Engine `e` sets the direction bit of pin `i` of its out group. -/
def pinDir (s : State) (e i : Nat) (drive : Bool) : State :=
  if i < outCount s e then
    let x := fluGet s e
    let m : BitVec 16 := 1#16 <<< i
    let s := fluSet s e { x with dirs := if drive then x.dirs ||| m else x.dirs &&& ~~~m }
    let n := outPin s e i
    if regFld s (Reg.FLM_PIN_CFG n) 31 24 = e then emit s (.pin n (pinDrive s n)) else s
  else s

/-- What a pin of the device shows outside. -/
def pinShow (s : State) (n : Nat) : State :=
  if regFld s (Reg.FLM_PIN_CFG n) 1 0 = 0 then s else emit s (.pin n (pinDrive s n))

/-- A bank's sensed level against its declaration (R397): SUPPLY is raised when a mismatch begins. A bank without a declaration is neither
matched nor mismatched. -/
def bankCheck (s : State) (b : Nat) : State :=
  let was := regBit s Reg.FLM_BANK_STAT (2 + 3 * b)
  let bad := match tabGet (fun _ => none) s.flm.decl b with
    | some volts => decide (regFld s Reg.FLM_BANK_STAT (1 + 3 * b) (3 * b) ≠ volts + 1)
    | none => false
  let s := regSetFld s Reg.FLM_BANK_STAT (2 + 3 * b) (2 + 3 * b) (b2n bad)
  if bad && !was then raise s Reg.FLM_CAUSE 8 else s

/-- The pins of a bank show what they drive, when its check found a mismatch begun or ended (R397). -/
def bankShow (was s : State) (b : Nat) : State :=
  if regBit s Reg.FLM_BANK_STAT (2 + 3 * b) = regBit was Reg.FLM_BANK_STAT (2 + 3 * b) then s
  else ((List.range 32).map (fun i => 32 * b + i)).foldl pinShow s

/-! ### Flags (R409) -/

/-- The flag an instruction names; REL adds the engine number modulo 32. -/
def flagOf (e : Nat) (rel : Bool) (flag : Nat) : Nat := if rel then (flag + e) % 32 else flag

/-- The FLUME cycle of 4 ns that the running time is in. -/
def flmCycle (s : State) : Nat := s.run / 4

/-- The shared flags as they stood at the start of this FLUME cycle, which every flag test sees. -/
def flagsStart (s : State) : Word := if s.flm.cycle = flmCycle s then s.flm.flagsOld else s.flm.flags

/-- The flags are about to change in this FLUME cycle. -/
def flagsTouch (s : State) : State :=
  if s.flm.cycle = flmCycle s then s
  else { s with flm := { s.flm with cycle := flmCycle s, flagsOld := s.flm.flags, flagsUp := 0, flagsTaken := 0 } }

/-- Set shared flags: each that rises and is in FLM_FLAG_IRQ sets its bit of FLM_FLAG_EVENT and raises FLAG. A flag that was set at the start
of the cycle does not rise, although something cleared it in the cycle. -/
def flagsSet (s : State) (e : Nat) (mask : Word) : State :=
  let s := flagsTouch s
  let rise := mask &&& ~~~s.flm.flagsOld &&& ~~~s.flm.flagsUp &&& regGet s Reg.FLM_FLAG_IRQ
  let s := { s with flm := { s.flm with flags := s.flm.flags ||| mask, flagsUp := s.flm.flagsUp ||| mask } }
  if rise ≠ 0 then flmRaise (regSet s Reg.FLM_FLAG_EVENT (regGet s Reg.FLM_FLAG_EVENT ||| rise)) e 9 else s

/-- Clear shared flags: one that is also set in the cycle ends set. -/
def flagsClear (s : State) (mask : Word) : State :=
  let s := flagsTouch s
  { s with flm := { s.flm with flags := s.flm.flags &&& ~~~(mask &&& ~~~s.flm.flagsUp) } }

/-! ### Ticks (R400, R401) -/

/-- The tick period in FLUME cycles without the carry: INT, of which 0 acts as 1. -/
def clkInt (s : State) (e : Nat) : Nat := let n := regFld s (Reg.FLM_ENG_CLK e) 31 16; if n = 0 then 1 else n

/-- The engine goes `n` ticks on: each lasts INT + c FLUME cycles of 4 ns, where c is the carry of acc ← acc + FRAC. -/
def flmTicks (s : State) (e n : Nat) : State :=
  let x := fluGet s e
  let a := x.acc.toNat + n * regFld s (Reg.FLM_ENG_CLK e) 7 0
  fluSet s e { x with due := x.due + 4 * (n * clkInt s e + a / 256), acc := BitVec.ofNat 8 a }

/-- The instruction word at an engine's PC. -/
def flmWord (s : State) (e : Nat) : BitVec 16 :=
  let pc := (fluGet s e).pc.toNat
  BitVec.ofNat 16 ((regGet s (Reg.FLM_PROG e (pc / 2))).toNat / 2 ^ (16 * (pc % 2)))

/-- The engine is at a tick of its own: the one it is due at. -/
def atTick (s : State) (e : Nat) : Bool := decide ((fluGet s e).due ≤ s.run)

/-- Engine `e` is at a tick of this FLUME cycle at a WAIT FLAG with CLR for flag `f` and polarity `pol`. -/
def flagWaits (s : State) (f : Nat) (pol : Bool) (e : Nat) : Bool :=
  let x := fluGet s e
  let w := flmWord s e
  (decide (x.mode = .stalled) || decide (x.mode = .running)) && decide (x.due / 4 = flmCycle s)
    && (match x.rest with
      | some r => decide (r.op = .waitFlag pol true f)
      | none => decide ((w >>> 10).toNat = 0x1E) && decide (w.getLsbD 9 = pol) && w.getLsbD 8 && !w.getLsbD 7 && !w.getLsbD 6
          && decide (flagOf e (w.getLsbD 5) (w.toNat % 32) = f))

/-- A WAIT FLAG of engine `e` is satisfied: the flag stood so at the start of the cycle; with CLR, of several engines that one flag satisfies
the lowest-numbered completes (R409). -/
def flagReady (s : State) (e : Nat) (pol clr : Bool) (f : Nat) : Bool :=
  decide ((flagsStart s).getLsbD f = pol)
    && (!clr || (!(decide (s.flm.cycle = flmCycle s) && s.flm.flagsTaken.getLsbD f) && !(List.range e).any (flagWaits s f pol)))

/-- A WAIT FLAG with CLR completes: it clears the flag, and no other completes on it in this cycle. -/
def flagTake (s : State) (f : Nat) : State :=
  let s := flagsClear s (1#32 <<< f)
  { s with flm := { s.flm with flagsTaken := s.flm.flagsTaken ||| (1#32 <<< f) } }

/-! ### Queues (R405) -/

/-- How many of a count that stands for one FLUME cycle fall in this one. -/
def thisCycle (s : State) (x : Nat × Nat) : Nat := if x.1 = flmCycle s then x.2 else 0

/-- A word enters TXQ: it counts from the next FLUME cycle. -/
def txqPut (s : State) (e : Nat) (w : Word) : State :=
  let x := fluGet s e
  fluSet s e { x with txq := x.txq ++ [w], txNew := (flmCycle s, thisCycle s x.txNew + 1) }

/-- The DMA or the host takes the oldest word of RXQ: its room counts from the next FLUME cycle. -/
def rxqTake (s : State) (e : Nat) : State :=
  let x := fluGet s e
  fluSet s e { x with rxq := x.rxq.tail, rxGone := (flmCycle s, thisCycle s x.rxGone + 1) }

/-- The words of TXQ that the engine sees. -/
def txqSeen (s : State) (e : Nat) : List Word :=
  let x := fluGet s e
  x.txq.take (x.txq.length - thisCycle s x.txNew)

/-- RXQ has room, as the engine sees it. -/
def rxqRoom (s : State) (e : Nat) : Bool :=
  let x := fluGet s e
  decide (x.rxq.length + thisCycle s x.rxGone < rxCap s e)

/-! ### One step of an instruction: done, stalled or faulted -/

/-- How a step of an instruction ended: with a value and the state, or at a stall with its STALL code (Table 16-12), or at a
fault with its code. -/
inductive FlumeRes (α : Type) where
  | ok (a : α) (s : State)
  | stall (code : Nat) (s : State)
  | bad (code : Nat)

/-- FETCH (R402): SL takes the oldest TXQ word. -/
def flmFetch (s : State) (e : Nat) : FlumeRes Unit :=
  let x := fluGet s e
  if txCap s e = 0 then .bad 2
  else
    match txqSeen s e with
    | [] => .stall 1 s
    | w :: _ =>
      let n := fetchBits s e
      .ok () (flmCount (fluSet s e { x with txq := x.txq.tail, sl := BitVec.ofNat 32 (w.toNat % 2 ^ n), sc := n }) e 0 1)

/-- Take one bit from SL (R403). -/
def flmTake1 (s : State) (e : Nat) : FlumeRes Bool :=
  let take (s : State) : FlumeRes Bool :=
    let x := fluGet s e
    if x.sc = 0 then .ok false s
    else if regBit s (Reg.FLM_ENG_SHIFT e) 1 then .ok (x.sl.getLsbD 0) (fluSet s e { x with sl := x.sl >>> 1, sc := x.sc - 1 })
    else .ok (x.sl.getLsbD (x.sc - 1)) (fluSet s e { x with sc := x.sc - 1 })
  if (fluGet s e).sc = 0 ∧ regBit s (Reg.FLM_ENG_SHIFT e) 3 then
    match flmFetch s e with
    | .ok _ s => take s
    | .stall c s => .stall c s
    | .bad c => .bad c
  else take s

/-- The value that bits taken in order spell: the first is bit 0 with SEND_LSB set, else the top bit (R403). -/
def takenValue (lsb : Bool) (bits : List Bool) : Nat :=
  (if lsb then bits.reverse else bits).foldl (fun acc b => 2 * acc + b2n b) 0

/-- Push a word into RXQ; it stalls while RXQ is full (R404). -/
def flmPush (s : State) (e : Nat) (w : Word) : FlumeRes Unit :=
  let x := fluGet s e
  if rxCap s e = 0 then .bad 2
  else if !rxqRoom s e then .stall 2 s
  else .ok () (flmCount (fluSet s e { x with rxq := x.rxq ++ [w] }) e 1 1)

/-- DEPOSIT (R402). -/
def flmDeposit (s : State) (e : Nat) : FlumeRes Unit :=
  match flmPush s e (fluGet s e).rl with
  | .ok _ s => .ok () (fluSet s e { fluGet s e with rl := 0, rc := 0 })
  | r => r

/-- Append one bit to RL (R403); at RC = 32 it is lost and counted. -/
def flmAppend1 (s : State) (e : Nat) (b : Bool) : State :=
  let x := fluGet s e
  if 32 ≤ x.rc then flmCount s e 2 1
  else if regBit s (Reg.FLM_ENG_SHIFT e) 2 then
    fluSet s e { x with rl := x.rl ||| (BitVec.ofNat 32 (b2n b) <<< x.rc), rc := x.rc + 1 }
  else fluSet s e { x with rl := (x.rl <<< 1) ||| BitVec.ofNat 32 (b2n b), rc := x.rc + 1 }

/-- Whether an append that was just made calls for an automatic deposit (R403). -/
def autoDeposit (s : State) (e : Nat) : Bool :=
  regBit s (Reg.FLM_ENG_SHIFT e) 4 && decide ((fluGet s e).rc = depositBits s e)

/-- Hold engine `e` stalled in an instruction at this tick; it tries again at the next (R401). -/
def flmStall (s : State) (e code : Nat) (r : FlumeRest) : State :=
  flmTicks (flmCount (fluSet s e { fluGet s e with mode := .stalled, stall := code, rest := some r }) e 3 1) e 1

/-- An instruction is over: PC advances, wrapping from 63 to 0 (R401). -/
def flmDone (s : State) (e : Nat) : State :=
  let x := fluGet s e
  fluSet s e { x with mode := .running, stall := 0, rest := none, pc := x.pc + 1 }

/-- The engine goes on with what is left of its instruction at its next action. -/
def flmHold (s : State) (e : Nat) (r : FlumeRest) : State :=
  fluSet s e { fluGet s e with mode := .running, stall := 0, rest := some r }

/-- What is left of an instruction, of no sampled levels. -/
def rest0 (op : FlumeOp) (left : Nat) (bits : List Bool) : FlumeRest :=
  { op := op, left := left, bits := bits, deposit := false, pins := [], start := 0 }

/-- An instruction has done its work and occupies `ticks` ticks, this one among them (R401). -/
def flmEnd (s : State) (e ticks : Nat) : State :=
  let s := flmTicks s e 1
  if ticks ≤ 1 then flmDone s e else flmHold s e (rest0 .ticks (ticks - 1) [])

/-- An instruction ended and transferred control. -/
def flmJump (s : State) (e : Nat) (a : BitVec 6) : State :=
  let s := flmTicks s e 1
  fluSet s e { fluGet s e with mode := .running, stall := 0, rest := none, pc := a }

/-- Counter `k`. -/
def flmK (x : FlumeEng) (k : Nat) : BitVec 16 := if k = 0 then x.k0 else if k = 1 then x.k1 else if k = 2 then x.k2 else x.k3

/-- The engine with counter `k` set. -/
def flmSetK (x : FlumeEng) (k : Nat) (v : BitVec 16) : FlumeEng :=
  if k = 0 then { x with k0 := v } else if k = 1 then { x with k1 := v } else if k = 2 then { x with k2 := v }
  else { x with k3 := v }

/-- Append the sampled levels of a GATHER to RL with automatic deposits between them (R403); a deposit that finds RXQ full stalls and keeps
what is left. `start` is the state in which the attempt began, to which a fault returns. -/
def flmAppendAll (start : State) (e : Nat) (r : FlumeRest) : State → Bool → List Bool → State
  | s, true, bits =>
    match flmDeposit s e with
    | .ok _ s =>
      (match bits with
       | [] => flmEnd s e 1
       | b :: t =>
         let s := flmAppend1 s e b
         if autoDeposit s e then flmAppendAll start e r s true t else flmAppendAll start e r s false t)
    | .stall c s => flmStall s e c { r with bits := bits, deposit := true }
    | .bad c => flmFault start e c
  | s, false, [] => flmEnd s e 1
  | s, false, b :: t =>
    let s := flmAppend1 s e b
    if autoDeposit s e then flmAppendAll start e r s true t else flmAppendAll start e r s false t
termination_by _ dep bits => 2 * bits.length + (if dep then 1 else 0)

/-- Take `n` more bits after `got`; then `fin` acts on all of them. A take that finds TXQ empty stalls and keeps the bits
already taken (log entry 14). -/
def flmTakeAll (start : State) (e : Nat) (r : FlumeRest) (fin : State → List Bool → State) :
    State → Nat → List Bool → State
  | s, 0, got => fin s got
  | s, n + 1, got =>
    match flmTake1 s e with
    | .ok b s => flmTakeAll start e r fin s n (got ++ [b])
    | .stall c s => flmStall s e c { r with left := n + 1, bits := got }
    | .bad c => flmFault start e c

/-- The next cell of a SEND (R402): it takes a bit and writes the pin, then lasts K3 + 1 ticks. -/
def flmSendCell (s : State) (e p : Nat) (inv : Bool) (r : FlumeRest) : State :=
  match flmTake1 s e with
  | .ok b t =>
    let t := flmTicks (pinWrite t e p (b != inv)) e ((fluGet s e).k3.toNat + 1)
    if r.left ≤ 1 then flmDone t e else flmHold t e { r with left := r.left - 1 }
  | .stall c t => flmStall t e c r
  | .bad c => flmFault s e c

/-- The tick of a bit cell at which a RECV samples: ⌊K3 / 2⌋ (R402). -/
def recvTick (s : State) (e : Nat) : Nat := (fluGet s e).k3.toNat / 2

/-- A RECV has sampled a cell and deposited what it had to: it goes on to the next cell's sample, or to the end of the last cell. -/
def recvNext (s : State) (e : Nat) (r : FlumeRest) : State :=
  let k := (fluGet s e).k3.toNat
  if r.left = 0 then flmDone (flmTicks s e (k + 1 - recvTick s e)) e
  else flmHold (flmTicks s e (k + 1)) e { r with deposit := false }

/-- A RECV at the sampling tick of a cell, or at the deposit that follows its sample (R402, R403): the command that began it brought the
levels at the balls, one for each cell. -/
def flmRecvCell (s : State) (e p : Nat) (inv : Bool) (r : FlumeRest) : State :=
  let t := if r.deposit then s else
    (let s := { s with flm := { s.flm with ball := r.pins.headD s.flm.ball } }
     flmAppend1 s e (pinRead s (inPin s e p) != inv))
  let r := if r.deposit then r else { r with left := r.left - 1, pins := r.pins.tail }
  if r.deposit || autoDeposit t e then
    match flmDeposit t e with
    | .ok _ t => recvNext t e r
    | .stall c t => flmStall t e c { r with deposit := true }
    | .bad c => flmFault s e c
  else recvNext t e r

/-- The levels to write to out-group pins 0 to n − 1, in the order taken. -/
def pinWriteAll (s : State) (e : Nat) : Nat → List Bool → State
  | _, [] => s
  | i, b :: t => pinWriteAll (pinWrite s e i b) e (i + 1) t

/-- The direction bits of out-group pins 0 to n − 1, in the order taken. -/
def pinDirAll (s : State) (e : Nat) : Nat → List Bool → State
  | _, [] => s
  | i, b :: t => pinDirAll (pinDir s e i b) e (i + 1) t

/-- Whether M has been reached (R98, R402); a replica that is not valid raises no compare (R100). -/
def markReached (s : State) (e : Nat) : Bool := replicaReady s 14 && reached (nowNs32 s) (fluGet s e).mark

/-- WAIT MARK (R407): a wait that has lasted completes in the FLUME cycle in which the target is reached, and that cycle is a tick, in which the
next instruction executes; a target already reached completes the wait at its first tick (log entry 116). Every completed wait clears acc. -/
def flmMark (s : State) (e : Nat) (r : FlumeRest) : State :=
  let x := fluGet s e
  if markReached s e then
    if x.mode = .stalled then flmDone (fluSet s e { x with acc := 0, due := 4 * flmCycle s }) e
    else flmEnd (fluSet s e { x with acc := 0 }) e 1
  else flmStall s e 5 r

/-- The stamp of an edge that a WAIT EDGE counts: one at or after the start of its first tick, within the ±4 ns of the stamp (R406). -/
def edgeSeen (s : State) (r : FlumeRest) (edge : Option Word) : Option Word :=
  match edge with
  | some w => if -4 ≤ (w - r.start).toInt ∧ (w - nowNs32 s).toInt ≤ 4 then some w else none
  | none => none

/-- One action of an instruction that has not ended, at a tick of the engine. -/
def flmTry (s : State) (e : Nat) (r : FlumeRest) (edge : Option Word) : State :=
  match r.op with
  | .ticks => if r.left ≤ 1 then flmEnd s e 1 else flmHold (flmTicks s e 1) e { r with left := r.left - 1 }
  | .send p inv => flmSendCell s e p inv r
  | .recv p inv => flmRecvCell s e p inv r
  | .gather _ => flmAppendAll s e r s r.deposit r.bits
  | .emit _ t => flmTakeAll s e r (fun s l => flmEnd (pinWriteAll s e 0 l) e (1 + t)) s r.left r.bits
  | .loadk k =>
    flmTakeAll s e r (fun s l =>
      flmEnd (fluSet s e (flmSetK (fluGet s e) k
        (BitVec.ofNat 16 (takenValue (regBit s (Reg.FLM_ENG_SHIFT e) 1) l)))) e 1) s r.left r.bits
  | .branchSl =>
    flmTakeAll s e r (fun s l => flmJump s e (BitVec.ofNat 6 (takenValue (regBit s (Reg.FLM_ENG_SHIFT e) 1) l)))
      s r.left r.bits
  | .dirs _ => flmTakeAll s e r (fun s l => flmEnd (pinDirAll s e 0 l) e 1) s r.left r.bits
  | .waitLevel pol p => if pinRead s (inPin s e p) = pol then flmEnd s e 1 else flmStall s e 3 r
  | .waitEdge =>
    match edgeSeen s r edge with
    | some w => flmEnd (fluSet s e { fluGet s e with edge := w }) e 1
    | none => flmStall s e 3 r
  | .waitFlag pol clr f =>
    if flagReady s e pol clr f then flmEnd (if clr then flagTake s f else s) e 1 else flmStall s e 4 r
  | .setWait f => if (flagsStart s).getLsbD f then flmStall s e 6 r else flmEnd s e 1
  | .waitMark => flmMark s e r
  | .fetch =>
    match flmFetch s e with
    | .ok _ s => flmEnd s e 1
    | .stall c s => flmStall s e c r
    | .bad c => flmFault s e c
  | .deposit =>
    match flmDeposit s e with
    | .ok _ s => flmEnd s e 1
    | .stall c s => flmStall s e c r
    | .bad c => flmFault s e c
  | .loadm =>
    if txCap s e = 0 then flmFault s e 2
    else
      match txqSeen s e with
      | [] => flmStall s e 1 r
      | w :: _ => flmEnd (flmCount (fluSet s e { fluGet s e with txq := (fluGet s e).txq.tail, mark := w }) e 0 1) e 1
  | .stamp =>
    match flmPush s e (fluGet s e).edge with
    | .ok _ s => flmEnd s e 1
    | .stall c s => flmStall s e c r
    | .bad c => flmFault s e c
  | .now =>
    match flmPush s e (nowNs32 s) with
    | .ok _ s => flmEnd s e 1
    | .stall c s => flmStall s e c r
    | .bad c => flmFault s e c

/-- Engine `e` starts the instruction word `w`: it is RUNNING at a tick with no instruction unfinished, and the word at its PC is `w`; D15 is
on (R401, log entry 16). -/
def flmIssue (s : State) (e : Nat) (w : BitVec 16) (k : State → State) : Answer :=
  domEvent s 15 (fun s =>
    if (fluGet s e).mode = .running ∧ (fluGet s e).rest = none ∧ atTick s e = true ∧ flmWord s e = w then k s else s)

/-- Engine `e` executes an instruction that may stall. -/
def flmDo (s : State) (e : Nat) (op : FlumeOp) (left : Nat) (bits : List Bool) (edge : Option Word) : State :=
  flmTry s e { rest0 op left bits with start := nowNs32 s } edge

/-- The word of an instruction by its opcode and its fields [11:8], [7:4] and [3:0] (Table 16-1). -/
def fWord (op : Nat) (a b c : BitVec 4) : BitVec 16 := BitVec.ofNat 16 (op * 4096 + a.toNat * 256 + b.toNat * 16 + c.toNat)

/-- The word of an instruction by its opcode, bits [11:10] and bits [9:0]. -/
def fWord2 (op k : Nat) (v : BitVec 10) : BitVec 16 := BitVec.ofNat 16 (op * 4096 + k * 1024 + v.toNat)

/-- Bits [9:0] that name a flag: [5] REL, [4:0] the flag, above them `hi`. -/
def fFlag (hi : Nat) (rel : Bool) (flag : BitVec 5) : BitVec 10 := BitVec.ofNat 10 (hi * 64 + b2n rel * 32 + flag.toNat)

/-- Whether an engine is ARMED, RUNNING or STALLED. -/
def flmBusy (s : State) (e : Nat) : Bool :=
  match (fluGet s e).mode with
  | .armed => true
  | .running => true
  | .stalled => true
  | _ => false

/-- A refused write to an engine's program or settings (R415). -/
def flmProgRefused (s : State) (e : Nat) : State :=
  flmRaise (flmCount (regSetFld s (Reg.FLM_ENG_STAT e) 24 24 1) e 4 1) e 4

/-! ### Control (R414, Table 16-3) -/

/-- An engine set up to start with its first tick at running time `due`: at START_ADDR with empty latches, or where it stands with RESUME; a
RECV that goes on begins its next cell at the first tick (log entry 14). -/
def flmPrepare (s : State) (e : Nat) (resume : Bool) (due : Nat) : State :=
  let x := { fluGet s e with acc := 0, due := due, stall := 0 }
  if resume then
    let s := fluSet s e x
    match x.rest with
    | some r => (match r.op with
      | .recv _ _ => if r.deposit then s else flmTicks s e (recvTick s e)
      | _ => s)
    | none => s
  else fluSet s e { x with pc := BitVec.ofNat 6 (regFld s (Reg.FLM_ENG_SHIFT e) 13 8), sc := 0, rc := 0, rest := none }

/-- The running time of the next FLUME cycle. -/
def nextCycle (s : State) : Nat := 4 * (flmCycle s + 1)

/-- The engine with a mode. -/
def flmMode (s : State) (e : Nat) (m : FlumeMode) : State := fluSet s e { fluGet s e with mode := m }

/-- START (R414): the first tick falls in the next FLUME cycle (Table 16-3). -/
def flmStart (s : State) (e : Nat) (resume : Bool) : State :=
  if flmBusy s e then flmRaise s e 5 else flmMode (flmPrepare s e resume (nextCycle s)) e .running

/-- START with MATCH (R408); while the replica is not valid there is no compare, and the engine is ARMED (R100). -/
def flmStartMatch (s : State) (e : Nat) (resume : Bool) : State :=
  let target := regGet s (Reg.FLM_ENG_MATCH e)
  let arm := fun (s : State) => fluSet s e { fluGet s e with mode := .armed, stall := 0, target := target, resume := resume }
  if flmBusy s e then flmRaise s e 5
  else if !replicaReady s 14 then arm s
  else if 2000000000 < (target - nowNs32 s).toInt then flmRaise s e 5
  else if reached (nowNs32 s) target then
    flmRaise (flmCount (flmMode (flmPrepare s e resume (nextCycle s)) e .running) e 5 1) e 6
  else arm s

/-- The target of an ARMED engine is reached: its first tick falls in this FLUME cycle (R408). -/
def flmFire (s : State) (e : Nat) : State := flmMode (flmPrepare s e (fluGet s e).resume (4 * flmCycle s)) e .running

/-- STOP (R414): everything keeps its value. -/
def flmStop (s : State) (e : Nat) : State :=
  if flmBusy s e then fluSet s e { fluGet s e with mode := .stopped, stall := 0 } else s

/-! ### What the passing of time does -/

/-- A stalled engine has passed a tick at which its condition was not found (R401). -/
def flmPass (s : State) (e : Nat) : State :=
  if (fluGet s e).mode = .stalled ∧ atTick s e then flmTicks (flmCount s e 3 1) e 1 else s

/-- An engine whose instruction still occupies ticks or cells comes to its next action; after a RESUME it repeats a step that was stalled
(R401, R414). -/
def flmAct (s : State) (e : Nat) : State :=
  let x := fluGet s e
  match x.rest with
  | some r => if x.mode = .running ∧ atTick s e then flmTry s e r none else s
  | none => s

/-- The engines, in ascending order, for which something is left to do. -/
def flmUnfinished (s : State) : List Nat := (s.flm.eng.filter (fun x => x.2.rest.isSome)).map (fun x => x.1)

/-- A write of FLM_ENG_CTL (Table 16-12): START and STOP together have no effect. -/
def flmCtl (s : State) (e : Nat) (v : Word) : State :=
  if bitOf v 0 && bitOf v 1 then s
  else if bitOf v 1 then flmStop s e
  else if bitOf v 0 then (if bitOf v 3 then flmStartMatch s e (bitOf v 2) else flmStart s e (bitOf v 2))
  else s

/-! ### DMA (R410 to R412) -/

/-- LOG2 of a ring: 0 for none. -/
def ringLog2 (s : State) (e : Nat) (tx : Bool) : Nat :=
  if tx then regFld s (Reg.FLM_DMA_CTL e) 3 0 else regFld s (Reg.FLM_DMA_CTL e) 7 4

/-- The tank offset of a ring. -/
def ringBase (s : State) (e : Nat) (tx : Bool) : Nat :=
  (if tx then regFld s (Reg.FLM_DMA_TX e) 21 3 else regFld s (Reg.FLM_DMA_RX e) 21 3) * 8

/-- A ring access failed (R412): the ring stops, DMA_ERR is set and raised. -/
def ringStop (s : State) (e : Nat) (tx : Bool) : State :=
  let x := fluGet s e
  let s := fluSet s e (if tx then { x with txStopped := true } else { x with rxStopped := true })
  flmRaise (regSetFld s (Reg.FLM_ENG_STAT e) 25 25 1) e 7

/-- A 32-bit tank read of the flume DMA; none stops the ring. -/
def dmaRead (s : State) (x : Nat) : Option Word × State :=
  match tankAccess s 41 x .load 4 [] with
  | (.data l, s) => (some (BitVec.ofNat 32 (leNat l)), s)
  | (_, s) => (none, s)

/-- A 32-bit tank write of the flume DMA; false stops the ring. -/
def dmaWrite (s : State) (x : Nat) (w : Word) : Bool × State :=
  match tankAccess s 41 x .store 4 (leBytes 4 w.toNat) with
  | (.data _, s) => (true, s)
  | (_, s) => (false, s)

/-- The DMA takes its position in a ring, if there is one, from the ring's control words in tank memory (R418). -/
def ringTake (s : State) (e : Nat) (tx : Bool) : State :=
  if ringLog2 s e tx = 0 then s
  else
    match dmaRead s (ringBase s e tx + if tx then 8 else 0) with
    | (none, s) => ringStop s e tx
    | (some w, s) => let x := fluGet s e; fluSet s e (if tx then { x with txGet := w } else { x with rxPut := w })

/-- The DMA takes its position in both rings of an engine. -/
def ringsTake (s : State) (e : Nat) : State := ringTake (ringTake s e true) e false

/-- The DMA has moved words and writes its count into the ring. -/
def ringPublish (s : State) (e : Nat) (tx : Bool) : State :=
  let r := dmaWrite s (ringBase s e tx + if tx then 8 else 0) (if tx then (fluGet s e).txGet else (fluGet s e).rxPut)
  if r.1 then r.2 else ringStop r.2 e tx

/-- Move words from a TX ring of `n` words into TXQ in order while it has room, then write GET if any moved (R411); `k` bounds them. -/
def dmaTx (e n : Nat) (put : Word) : Nat → Bool → State → State
  | 0, moved, s => if moved then ringPublish s e true else s
  | k + 1, moved, s =>
    let x := fluGet s e
    if x.txGet = put ∨ txCap s e ≤ x.txq.length then (if moved then ringPublish s e true else s)
    else
      match dmaRead s (ringBase s e true + 16 + 4 * (x.txGet.toNat % n)) with
      | (none, s) => ringStop s e true
      | (some w, s) =>
        let s := txqPut s e w
        dmaTx e n put k true (fluSet s e { fluGet s e with txGet := x.txGet + 1 })

/-- Move words of RXQ into an RX ring of `n` words while it has room, then write PUT if any moved (R411). -/
def dmaRx (e n : Nat) (get : Word) : Nat → Bool → State → State
  | 0, moved, s => if moved then ringPublish s e false else s
  | k + 1, moved, s =>
    let x := fluGet s e
    match x.rxq with
    | [] => if moved then ringPublish s e false else s
    | w :: _ =>
      if (x.rxPut - get).toNat = n then (if moved then ringPublish s e false else s)
      else
        match dmaWrite s (ringBase s e false + 16 + 4 * (x.rxPut.toNat % n)) w with
        | (false, s) => ringStop s e false
        | (true, s) =>
          let s := rxqTake s e
          dmaRx e n get k true (fluSet s e { fluGet s e with rxPut := x.rxPut + 1 })

/-- Write bits of a settings register under a mask. -/
def regMask (s : State) (a mask : Nat) (v : Word) : State :=
  let m := BitVec.ofNat 32 mask
  regSet s a ((regGet s a &&& ~~~m) ||| (v &&& m))

/-- The settings register at an address of the flume window, with the engine whose running refuses the write (none for a pin
without an owner), its write mask, and whether it is RWL (R415, Tables 16-11 to 16-13). -/
def flmConfig (s : State) (a : Nat) : Option (Option Nat × Nat × Bool) :=
  if 0xF04100 ≤ a ∧ a < 0xF04200 ∧ a % 4 = 0 then
    let o := regFld s a 31 24
    some (if o < 48 then some o else none, 0xFF033F03, true)
  else if 0xF0C000 ≤ a ∧ a < 0xF0C000 + 0x80 * 48 ∧ a % 4 = 0 then some (some ((a - 0xF0C000) / 0x80), 0xFFFFFFFF, false)
  else if 0xF08000 ≤ a ∧ a < 0xF08000 + 0x100 * 48 then
    let e := (a - 0xF08000) / 0x100
    let o := (a - 0xF08000) % 0x100
    if o = 0x0C then some (some e, 0xFFFF00FF, true)
    else if o = 0x10 then some (some e, 0x3F3F3F7E, true)
    else if o = 0x14 then some (some e, 0x3F3F3F3F, true)
    else if o = 0x40 ∨ o = 0x44 then some (some e, 0x3FFFF8, true)
    else none
  else none

/-- Whether a 16-bit word is ILLEGAL for an engine with the given OUT_COUNT (R402). -/
def flumeIllegal (outs : Nat) (w : BitVec 16) : Bool :=
  let op := (w >>> 12).toNat
  let lo := w.toNat
  let f (hi l : Nat) : Nat := lo / 2 ^ l % 2 ^ (hi + 1 - l)
  match op with
  | 2 => decide (f 3 0 ≠ 0)
  | 3 => decide (f 2 0 ≠ 0) || decide (outs ≤ f 7 4)
  | 4 => decide (f 2 0 ≠ 0)
  | 5 => decide (f 3 0 ≠ 0)
  | 6 => decide (f 7 0 ≠ 0)
  | 7 =>
    match f 11 10 with
    | 2 => decide (f 7 6 ≠ 0)
    | 3 => decide (f 9 0 ≠ 0)
    | _ => decide (f 8 4 ≠ 0)
  | 8 => decide (12 ≤ f 11 8) || decide (f 7 6 ≠ 0)
  | 9 => decide (f 9 6 ≠ 0)
  | 10 => decide (f 11 10 = 3) || decide (f 9 6 ≠ 0)
  | 13 => decide (10 ≤ f 11 8) || decide (f 7 0 ≠ 0)
  | 14 => decide (f 9 0 ≠ 0)
  | 15 => true
  | _ => false

end Sys2Proof.Machine
end

