-- ==== Sys2Proof/Machine/Flume.lean ====
section
/-!
DEFINITION. The commands of the flume engines (chapter 16): control, one meaning for each instruction, DMA and driver access.
-/
namespace Sys2Proof.Machine

/-- BANK_SUPPLY_CHECK (R397): the sensed level of a bank against its declaration; SUPPLY is raised when a mismatch begins, and the bank's
pins show what they then drive. The check at commit and at the end of the D15 on-sequence uses the level that the last of these commands
brought (log entry 116). -/
def execBankSupplyCheck (b : Fin 2) (millivolts : Nat) (s : State) : Answer :=
  domEvent s 15 (fun s =>
    let sensed := if 1620 ≤ millivolts ∧ millivolts ≤ 1980 then 1 else if 2970 ≤ millivolts ∧ millivolts ≤ 3630 then 2 else 0
    bankShow s (bankCheck (regSetFld s Reg.FLM_BANK_STAT (1 + 3 * b.val) (3 * b.val) sensed) b.val) b.val)

/-- FLUME_START (R414): a write of FLM_ENG_CTL with START. -/
def execFlumeStart (f : Fin 4) (e : Fin 48) (v : Word) (s : State) : Answer :=
  hostCmd s f (Reg.FLM_ENG_CTL e) (fun s => flmCtl s e (setFld v 0 0 1 &&& 0x3#32))

/-- FLUME_RESUME (R414): a write of FLM_ENG_CTL with START and RESUME. -/
def execFlumeResume (f : Fin 4) (e : Fin 48) (v : Word) (s : State) : Answer :=
  hostCmd s f (Reg.FLM_ENG_CTL e) (fun s => flmCtl s e ((v &&& 0x2#32) ||| 0x5#32))

/-- FLUME_START_MATCH (R408): a write of FLM_ENG_CTL with START and MATCH. -/
def execFlumeStartMatch (f : Fin 4) (e : Fin 48) (v : Word) (s : State) : Answer :=
  hostCmd s f (Reg.FLM_ENG_CTL e) (fun s => flmCtl s e ((v &&& 0x6#32) ||| 0x9#32))

/-- FLUME_STOP (R414): a write of FLM_ENG_CTL with STOP. -/
def execFlumeStop (f : Fin 4) (e : Fin 48) (v : Word) (s : State) : Answer :=
  hostCmd s f (Reg.FLM_ENG_CTL e) (fun s => flmCtl s e (v ||| 0x2#32))

/-- FLUME_MATCH_REACHED (R408): an ARMED engine whose target is reached runs. -/
def execFlumeMatchReached (e : Fin 48) (s : State) : Answer :=
  domEvent s 15 (fun s =>
    let x := fluGet s e
    if x.mode = .armed ∧ replicaReady s 14 ∧ reached (nowNs32 s) x.target then flmFire s e else s)

/-- FLUME_STALL_RESUME (R401): the stalled instruction is tried again at a tick of the engine, a WAIT MARK in any FLUME cycle (R407), with
the levels at the balls and the edge it waited for. -/
def execFlumeStallResume (e : Fin 48) (pins : BitVec 64) (edgeAt : Option Word) (s : State) : Answer :=
  domEvent s 15 (fun s =>
    let x := fluGet s e
    match x.rest with
    | none => s
    | some r =>
      if x.mode = .stalled ∧ (atTick s e ∨ (r.op = .waitMark ∧ markReached s e)) then
        flmTry { s with flm := { s.flm with ball := pins } } e r edgeAt
      else s)

/-- IDLE n (Table 16-1). -/
def execFIdle (e : Fin 48) (n1 : BitVec 12) (s : State) : Answer := flmIssue s e (BitVec.ofNat 16 n1.toNat) (fun s => flmEnd s e (n1.toNat + 1))

/-- The out-group pins 0 to 3 that a mask names, one after another. -/
def maskedPins (s : State) (m v : BitVec 4) (k : State → Nat → Bool → State) : State :=
  (List.range 4).foldl (fun s i => if m.getLsbD i then k s i (v.getLsbD i) else s) s

/-- DRIVE m, v, t (Table 16-1). -/
def execFDrive (e : Fin 48) (m v t : BitVec 4) (s : State) : Answer :=
  flmIssue s e (fWord 1 m v t) (fun s => flmEnd (maskedPins s m v (fun s i b => pinWrite s e i b)) e (1 + t.toNat))

/-- DIR m, d (Table 16-1). -/
def execFDir (e : Fin 48) (m d : BitVec 4) (s : State) : Answer :=
  flmIssue s e (fWord 2 m d 0) (fun s => flmEnd (maskedPins s m d (fun s i b => pinDir s e i b)) e 1)

/-- INV in bits [3:0] of a SEND or RECV. -/
def invBits (inv : Bool) : BitVec 4 := BitVec.ofNat 4 (8 * b2n inv)

/-- SEND p, n (Table 16-1); a pin at or above OUT_COUNT is ILLEGAL (R402). -/
def execFFlumeSend (e : Fin 48) (n1 p : BitVec 4) (inv : Bool) (s : State) : Answer :=
  flmIssue s e (fWord 3 n1 p (invBits inv)) (fun s =>
    if outCount s e ≤ p.toNat then flmFault s e 1 else flmDo s e (.send p.toNat inv) (n1.toNat + 1) [] none)

/-- RECV p, n (Table 16-1): one sample a cell, at tick ⌊K3 / 2⌋ of it, of the levels at the balls that the command brings for the cells. -/
def execFRecv (e : Fin 48) (n1 p : BitVec 4) (inv : Bool) (pins : List (BitVec 64)) (s : State) : Answer :=
  flmIssue s e (fWord 4 n1 p (invBits inv)) (fun s =>
    let r := { rest0 (.recv p.toNat inv) (n1.toNat + 1) [] with pins := pins }
    let k := recvTick s e
    if k = 0 then flmRecvCell s e p.toNat inv r else flmHold (flmTicks s e k) e r)

/-- EMIT n, t (Table 16-1). -/
def execFEmit (e : Fin 48) (n1 t : BitVec 4) (s : State) : Answer :=
  flmIssue s e (fWord 5 n1 t 0) (fun s => flmDo s e (.emit (n1.toNat + 1) t.toNat) (n1.toNat + 1) [] none)

/-- GATHER n (Table 16-1): the levels of in-group pins 0 to n − 1, pin 0 first. -/
def execFGather (e : Fin 48) (n1 : BitVec 4) (pins : BitVec 64) (s : State) : Answer :=
  flmIssue s e (fWord 6 n1 0 0) (fun s =>
    let s := { s with flm := { s.flm with ball := pins } }
    flmDo s e (.gather (n1.toNat + 1)) 0 ((List.range (n1.toNat + 1)).map (fun i => pinRead s (inPin s e i))) none)

/-- Bits [11:8] of a WAIT: the source, POL and CLR. -/
def waitBits (src : Nat) (pol clr : Bool) : BitVec 4 := BitVec.ofNat 4 (src * 4 + b2n pol * 2 + b2n clr)

/-- WAIT LEVEL (Table 16-1). -/
def execFWaitLevel (e : Fin 48) (pol : Bool) (p : BitVec 4) (pins : BitVec 64) (s : State) : Answer :=
  flmIssue s e (fWord 7 (waitBits 0 pol false) 0 p) (fun s =>
    flmDo { s with flm := { s.flm with ball := pins } } e (.waitLevel pol p.toNat) 0 [] none)

/-- WAIT EDGE (R406): the ns32 at the ball of the edge of polarity `pol` on in-group pin `p`, when it has come. -/
def execFWaitEdge (e : Fin 48) (pol : Bool) (p : BitVec 4) (edgeAt : Option Word) (s : State) : Answer :=
  flmIssue s e (fWord 7 (waitBits 1 pol false) 0 p) (fun s => flmDo s e .waitEdge 0 [] edgeAt)

/-- WAIT FLAG (R409). -/
def execFWaitFlag (e : Fin 48) (pol clr rel : Bool) (flag : BitVec 5) (s : State) : Answer :=
  flmIssue s e (fWord2 7 2 (fFlag (8 * b2n pol + 4 * b2n clr) rel flag)) (fun s =>
    flmDo s e (.waitFlag pol clr (flagOf e rel flag.toNat)) 0 [] none)

/-- WAIT MARK (R407). -/
def execFWaitMark (e : Fin 48) (s : State) : Answer := flmIssue s e (fWord2 7 3 0) (fun s => flmDo s e .waitMark 0 [] none)

/-- The condition of BR (Table 16-1). -/
def brHolds (s : State) (e c : Nat) : Bool :=
  let x := fluGet s e
  match c with
  | 0 => true
  | 1 => pinRead s (testPin s e)
  | 2 => !pinRead s (testPin s e)
  | 3 => decide (x.k0 = 0)
  | 4 => decide (x.k1 = 0)
  | 5 => decide (x.k2 = 0)
  | 6 => decide (x.k3 = 0)
  | 7 => decide (x.sc = 0)
  | 8 => decide (x.rc = 0)
  | 9 => !(txqSeen s e).isEmpty
  | 10 => rxqRoom s e
  | _ => markReached s e

/-- BR c, a (Table 16-1). -/
def execFBr (e : Fin 48) (c : Fin 12) (a : BitVec 6) (pins : BitVec 64) (s : State) : Answer :=
  flmIssue s e (fWord2 8 (c.val / 4) (BitVec.ofNat 10 (c.val % 4 * 256 + a.toNat))) (fun s =>
    let s := { s with flm := { s.flm with ball := pins } }
    if brHolds s e c then flmJump s e a else flmEnd s e 1)

/-- LOOP k, a (Table 16-1). -/
def execFLoop (e : Fin 48) (k : Fin 4) (a : BitVec 6) (s : State) : Answer :=
  flmIssue s e (fWord2 9 k (a.setWidth 10)) (fun s =>
    let x := fluGet s e
    let v := flmK x k - 1
    let s := fluSet s e (flmSetK x k v)
    if v ≠ 0 then flmJump s e a else flmEnd s e 1)

/-- FLAG SET (R409). -/
def execFFlagSet (e : Fin 48) (rel : Bool) (flag : BitVec 5) (s : State) : Answer :=
  flmIssue s e (fWord2 10 0 (fFlag 0 rel flag)) (fun s => flmEnd (flagsSet s e (1#32 <<< flagOf e rel flag.toNat)) e 1)

/-- FLAG CLEAR (R409). -/
def execFFlagClear (e : Fin 48) (rel : Bool) (flag : BitVec 5) (s : State) : Answer :=
  flmIssue s e (fWord2 10 1 (fFlag 0 rel flag)) (fun s => flmEnd (flagsClear s (1#32 <<< flagOf e rel flag.toNat)) e 1)

/-- FLAG SET_WAIT (R409): the flag is set, then the engine stalls until it is clear. -/
def execFFlagSetWait (e : Fin 48) (rel : Bool) (flag : BitVec 5) (s : State) : Answer :=
  flmIssue s e (fWord2 10 2 (fFlag 0 rel flag)) (fun s =>
    flmStall (flagsSet s e (1#32 <<< flagOf e rel flag.toNat)) e 6 (rest0 (.setWait (flagOf e rel flag.toNat)) 0 []))

/-- SETK k, v (Table 16-1). -/
def execFSetk (e : Fin 48) (k : Fin 4) (v : BitVec 10) (s : State) : Answer :=
  flmIssue s e (fWord2 11 k v) (fun s => flmEnd (fluSet s e (flmSetK (fluGet s e) k (v.setWidth 16))) e 1)

/-- ADDK k, s (Table 16-1). -/
def execFAddk (e : Fin 48) (k : Fin 4) (v : BitVec 10) (s : State) : Answer :=
  flmIssue s e (fWord2 12 k v) (fun s => flmEnd (fluSet s e (flmSetK (fluGet s e) k (flmK (fluGet s e) k + v.signExtend 16))) e 1)

/-- LOADK k (R403). -/
def execFLoadk (e : Fin 48) (k : Fin 4) (s : State) : Answer := flmIssue s e (fWord2 14 k 0) (fun s => flmDo s e (.loadk k) 16 [] none)

/-- XFER FETCH (R404). -/
def execFXferFetch (e : Fin 48) (s : State) : Answer := flmIssue s e (fWord 13 0 0 0) (fun s => flmDo s e .fetch 0 [] none)

/-- XFER TRY_FETCH (R404): as FETCH when TXQ holds a word. -/
def execFXferTryFetch (e : Fin 48) (s : State) : Answer :=
  flmIssue s e (fWord 13 1 0 0) (fun s =>
    match flmFetch s e with
    | .ok _ s => flmEnd s e 1
    | .stall _ s => flmEnd s e 1
    | .bad c => flmFault s e c)

/-- XFER DEPOSIT (R404). -/
def execFXferDeposit (e : Fin 48) (s : State) : Answer := flmIssue s e (fWord 13 2 0 0) (fun s => flmDo s e .deposit 0 [] none)

/-- XFER TRY_DEPOSIT (R404): a full RXQ drops the word, clears RL and RC, counts it and raises RX_DROP. -/
def execFXferTryDeposit (e : Fin 48) (s : State) : Answer :=
  flmIssue s e (fWord 13 3 0 0) (fun s =>
    match flmDeposit s e with
    | .ok _ s => flmEnd s e 1
    | .stall _ s => flmEnd (flmRaise (flmCount (fluSet s e { fluGet s e with rl := 0, rc := 0 }) e 2 1) e 10) e 1
    | .bad c => flmFault s e c)

/-- XFER LOADM (R402). -/
def execFXferLoadm (e : Fin 48) (s : State) : Answer := flmIssue s e (fWord 13 4 0 0) (fun s => flmDo s e .loadm 0 [] none)

/-- XFER STAMP (R406). -/
def execFXferStamp (e : Fin 48) (s : State) : Answer := flmIssue s e (fWord 13 5 0 0) (fun s => flmDo s e .stamp 0 [] none)

/-- XFER NOW (R402). -/
def execFXferNow (e : Fin 48) (s : State) : Answer := flmIssue s e (fWord 13 6 0 0) (fun s => flmDo s e .now 0 [] none)

/-- XFER BRANCH_SL (R402). -/
def execFXferBranchSl (e : Fin 48) (s : State) : Answer := flmIssue s e (fWord 13 7 0 0) (fun s => flmDo s e .branchSl 6 [] none)

/-- XFER DIRS (R402). -/
def execFXferDirs (e : Fin 48) (s : State) : Answer :=
  flmIssue s e (fWord 13 8 0 0) (fun s => flmDo s e (.dirs (outCount s e)) (outCount s e) [] none)

/-- XFER CLEAR (R402). -/
def execFXferClear (e : Fin 48) (s : State) : Answer :=
  flmIssue s e (fWord 13 9 0 0) (fun s => flmEnd (fluSet s e { fluGet s e with sl := 0, sc := 0, rl := 0, rc := 0 }) e 1)

/-- FLUME_DMA_TX_POLL (R411). -/
def execFlumeDmaTxPoll (e : Fin 48) (s : State) : Answer :=
  domEvent s 15 (fun s =>
    let log := ringLog2 s e true
    if log = 0 ∨ (fluGet s e).txStopped ∨ txCap s e ≤ (fluGet s e).txq.length then s
    else
      match dmaRead s (ringBase s e true) with
      | (none, s) => ringStop s e true
      | (some put, s) => dmaTx e (2 ^ log) put 16 false s)

/-- FLUME_DMA_RX_WRITE (R411). -/
def execFlumeDmaRxWrite (e : Fin 48) (s : State) : Answer :=
  domEvent s 15 (fun s =>
    let log := ringLog2 s e false
    if log = 0 ∨ (fluGet s e).rxStopped ∨ (fluGet s e).rxq = [] then s
    else
      match dmaRead s (ringBase s e false + 8) with
      | (none, s) => ringStop s e false
      | (some get, s) => dmaRx e (2 ^ log) get 16 false s)

/-- FLM_DMA_CTL_WRITE (R412, R415): refused while the engine runs; on a stopped engine it restarts the rings. -/
def execFlmDmaCtlWrite (f : Fin 4) (e : Fin 48) (v : Word) (s : State) : Answer :=
  hostCmd s f (Reg.FLM_DMA_CTL e) (fun s =>
    if flmBusy s e then flmProgRefused s e
    else
      let s := if locked s (Reg.FLM_DMA_CTL e) then s else regMask s (Reg.FLM_DMA_CTL e) 0xFF v
      ringsTake (fluSet s e { fluGet s e with txStopped := false, rxStopped := false }) e)

/-- FLM_TXQ_PUSH (R413): refused when the queue is full, removed, or has a ring. -/
def execFlmTxqPush (f : Fin 4) (e : Fin 48) (v : Word) (s : State) : Answer :=
  hostCmd s f (Reg.FLM_TXQ e) (fun s =>
    let x := fluGet s e
    if ringLog2 s e true ≠ 0 ∨ txCap s e ≤ x.txq.length then flmRaise s e 5 else txqPut s e v)

/-- FLM_RXQ_POP (R413): refused, and 0, when the queue is empty or has a ring. -/
def execFlmRxqPop (f : Fin 4) (e : Fin 48) (s : State) : Answer :=
  hostCmd s f (Reg.FLM_RXQ e) (fun s =>
    let x := fluGet s e
    match x.rxq with
    | [] => { flmRaise s e 5 with rdata := 0 }
    | w :: _ =>
      if ringLog2 s e false ≠ 0 then { flmRaise s e 5 with rdata := 0 }
      else { rxqTake s e with rdata := w.setWidth 64 })

/-- FLM_FLAG_SET_WRITE (R409). -/
def execFlmFlagSetWrite (f : Fin 4) (v : Word) (s : State) : Answer :=
  hostCmd s f Reg.FLM_FLAG_SET (fun s => flagsSet s 0 v)

/-- FLM_FLAG_CLR_WRITE (R409). -/
def execFlmFlagClrWrite (f : Fin 4) (v : Word) (s : State) : Answer :=
  hostCmd s f Reg.FLM_FLAG_CLR (fun s => flagsClear s v)

/-- A pin whose configuration was written shows what it now drives: an INPUT is never driven (R398). -/
def pinConfigured (s : State) (n : Nat) : State := emit s (.pin n (pinDrive s n))

/-- FLUME_CONFIG_WRITE (R415): a write of a program word, a settings register or a pin's configuration applies while its
engine is stopped, or is refused; an RWL field that is locked keeps its value. -/
def execFlumeConfigWrite (f : Fin 4) (a : Nat) (v : Word) (s : State) : Answer :=
  hostCmd s f a (fun s =>
    match flmConfig s a with
    | none => s
    | some (eng, mask, rwl) =>
      if (match eng with | some e => flmBusy s e | none => false) then flmProgRefused s (eng.getD 0)
      else if rwl && locked s a then s
      else
        let s := regMask s a mask v
        if 0xF04100 ≤ a ∧ a < 0xF04200 then pinConfigured s ((a - 0xF04100) / 4) else s)

/-- FLUME_ILLEGAL_INSTRUCTION (R402, R416): an ILLEGAL word faults the engine with code 1. -/
def execFlumeIllegalInstruction (e : Fin 48) (w : BitVec 16) (s : State) : Answer :=
  flmIssue s e w (fun s => if flumeIllegal (outCount s e) w then flmFault s e 1 else s)

end Sys2Proof.Machine
end

