-- ==== Sys2Proof/Machine/FrzOps.lean ====
section
/-!
DEFINITION. The start of a freeze as a shared operation (R466 to R469), and fatal events (R27).
-/
namespace Sys2Proof.Machine

/-! ### Crossings (R18 to R21) -/

/-- The width in bits of an instance of Table 1-8. -/
def crossWidth (n : Nat) : Nat :=
  if n < 4 then 256 else if n = 4 then 512 else if n < 26 then 256 else if n = 26 then 512 else if n = 27 then 256
  else if n = 44 then 32 else 64

/-- A word reaches the far side of a channel (R19). -/
def crossDeliver (s : State) (ch : Nat) (w : BitVec 512) : State :=
  let old := tabGet (fun _ => (0, 0)) s.arch.crossing ch
  let x := (old.1 + 1, BitVec.ofNat 512 (w.toNat % 2 ^ crossWidth (ch / 2)))
  { s with arch := { s.arch with crossing := tabSet (fun _ => (0, 0)) s.arch.crossing ch x } }

/-- A handshake in progress holds its levels while both sides are frozen (R21). -/
def crossHold (s : State) (ch : Nat) (w : BitVec 512) : State :=
  match tabGet (fun _ => none) s.arch.handshake ch with
  | some _ => s
  | none => { s with arch := { s.arch with handshake := tabSet (fun _ => none) s.arch.handshake ch (some w) } }

/-- The handshakes in progress complete, each exactly once, after thaw (R21). -/
def crossThaw (s : State) : State :=
  s.arch.handshake.foldl (fun s e => match e.2 with | some w => crossDeliver s e.1 w | none => s)
    { s with arch := { s.arch with handshake := [] } }

/-! ### Freezes -/

/-- A frame in transmission ends on the wire at once with an error code group after some of its bytes, which no rule counts (R469); the
MAC itself keeps it until thaw (R144). -/
def freezeCut (s : State) : State :=
  s.prt.foldl (fun s e =>
    match e.2.tx with
    | some t =>
      let r := freePick s (t.bytes.length + 1)
      emit r.2 (.frame e.1 (t.bytes.take r.1) true)
    | none => s) s

/-- A freeze starts from source `src` (R466 to R468): every island stops; the wire generator goes to YIELD (R462). -/
def freezeStart (s : State) (src : Nat) (timeRun : Bool) : State :=
  let s := freezeCut s
  let s := satInc (regSetFld (regSetFld s Reg.FRZ_STAT 7 4 src) Reg.FRZ_STAT 1 1 (b2n timeRun)) Reg.FRZ_STAT 31 16
  let s := if culRole s = 0 then s else regSetFld s Reg.CUL_STAT 23 22 2
  let r := fresh s
  { r.2 with frz := { s.frz with
    frozen := true, timeRun := timeRun, startAt := s.now, thawBlocked := false, autoDue := false, trigger := none
    heldTim := 0, heldSen := 0, ns32 := s.clk.ns32, seed := r.1, read := [] } }

/-- A trigger of R466: held until ROM_DONE, without effect while frozen. `tr` is the TIME_RUN that JTAG gives with it. -/
def freezeTrigger (s : State) (src : Nat) (tr : Option Bool) : State :=
  if s.frz.frozen || s.pwr.porstLow || s.pwr.deep then s
  else if !regBit s Reg.GLB_STATUS 0 then
    if s.frz.trigger.isSome then s else { s with frz := { s.frz with trigger := some (src, tr) } }
  else
    freezeStart s src (match tr with
      | some b => b
      | none => regBit s Reg.FRZ_CTL 1)

/-- A trigger that was held acts when ROM_DONE sets. -/
def freezePending (s : State) : State :=
  match s.frz.trigger with
  | some (src, tr) => freezeTrigger { s with frz := { s.frz with trigger := none } } src tr
  | none => s

/-- An armed internal trigger: bit 0 FATAL, 1 ENGINE_HALT, 2 TAMPER of FRZ_ARM. -/
def freezeArmed (s : State) (bit : Nat) : State := if regBit s Reg.FRZ_ARM bit then freezeTrigger s (bit + 4) none else s

/-- A fatal event of R27: 1 supervisor RAM, 2 image loader. It is recorded, signalled on vector 0 of every function (Table 17-8), stops the
heartbeat and switches the wire to YIELD (Table 18-3). -/
def fatal (s : State) (code : Nat) : State :=
  let s := regSet s Reg.HST_FATAL (BitVec.ofNat 32 code)
  let s := raise s Reg.HST_CAUSE 6
  let s := [0, 1, 2, 3].foldl (fun s f => msix s f 0) s
  freezeArmed (if culRole s = 0 then s else regSetFld s Reg.CUL_STAT 23 22 2) 0

end Sys2Proof.Machine
end

