-- ==== Sys2Proof/Machine/Tank.lean ====
section
/-!
DEFINITION. The commands of tank memory, locks and mailboxes (chapter 15).
-/
namespace Sys2Proof.Machine

/-- The view that a TANK_ACCESS operand names: 0 load, 1 store, 2 set alias, 3 clear alias (Table 15-1). -/
def tankOpOf (op : BitVec 2) : TankOp :=
  if op = 0 then .load else if op = 1 then .store else if op = 2 then .setAlias else .clearAlias

/-- TANK_ACCESS (R375): the access is judged and performed; a load leaves its data in `rdata`, all ones for a poisoned word
and 0 for a refusal (R379, R381). -/
def execTankAccess (m : Fin 42) (x : Nat) (op : BitVec 2) (bytes : List Byte) (n : Nat) (s : State) : Answer :=
  domEvent s 3 (fun s =>
    if 36 ≤ m.val ∧ m.val < 40 ∧ !hostReach s 0xE00000 then s
    else
      match tankAccess s m x (tankOpOf op) n bytes with
      | (.data l, s) => if op = 0 then { s with rdata := BitVec.ofNat 64 (leNat l) } else s
      | (.poisoned, s) => { s with rdata := BitVec.ofNat 64 (2 ^ (8 * n) - 1) }
      | (.refused, s) => if op = 0 then { s with rdata := 0 } else s)

/-- Whether master `m` may write TNK_LEASE for bank `b` (R376). -/
def leasePermitted (s : State) (m b : Nat) : Bool :=
  (regBit s (Reg.TNK_BANK b) 16 && decide (regFld s (Reg.TNK_BANK b) 13 8 = m)) || decide (m = 32)
    || (decide (36 ≤ m) && decide (m < 40) && regBit s Reg.TNK_HOST_RIGHTS (m - 36))

/-- TNK_LEASE_STAT and the master's own result (R376, R377). -/
def leaseStat (s : State) (m b result : Nat) : State :=
  let s := { s with tnk := { s.tnk with leaseResult := tabSet (fun _ => (0, 0)) s.tnk.leaseResult m (result, b) } }
  regSet s Reg.TNK_LEASE_STAT (BitVec.ofNat 32 (m * 2 ^ 18 + b * 2 ^ 12 + result))

/-- A lease write by a master (R376, R377): pending, or refused as REFUSED or BUSY. -/
def leaseWrite (s : State) (m : Nat) (v : Word) : State :=
  let b := fld v 5 0
  let leased := bitOf v 16
  let owner := fld v 13 8
  if !leasePermitted s m b || (leased && decide (41 < owner)) then raise (leaseStat s m b 1) Reg.TNK_CAUSE 4
  else if regBit s (Reg.TNK_BANK b) 31 then raise (leaseStat s m b 2) Reg.TNK_CAUSE 4
  else
    let p : LeasePend := { leased := leased, owner := if leased then owner else 63, master := m }
    let s := { s with tnk := { s.tnk with pend := tabSet (fun _ => none) s.tnk.pend b (some p) } }
    leaseStat (regSetFld s (Reg.TNK_BANK b) 31 31 1) m b 3

/-- LEASE_WRITE (R377). The rider and the publisher never write it (R376). -/
def execLeaseWrite (m : Fin 42) (v : Word) (s : State) : Answer :=
  masterCmd s m Reg.TNK_LEASE (fun s => if m.val = 33 ∨ m.val = 35 then s else leaseWrite s m v)

/-- LEASE_APPLY (R377): the pending handover of a bank takes effect. -/
def execLeaseApply (b : Fin 64) (s : State) : Answer :=
  domEvent s 3 (fun s =>
    match tabGet (fun _ => none) s.tnk.pend b.val with
    | none => s
    | some p =>
      let s := { s with tnk := { s.tnk with pend := tabSet (fun _ => none) s.tnk.pend b.val none } }
      let s := regSet s (Reg.TNK_BANK b) (BitVec.ofNat 32 (b2n p.leased * 65536 + p.owner * 256))
      let last := regGet s Reg.TNK_LEASE_STAT
      let s :=
        if fld last 17 12 = b ∧ fld last 1 0 = 3 ∧ fld last 23 18 = p.master then leaseStat s p.master b 0
        else if tabGet (fun _ => (0, 0)) s.tnk.leaseResult p.master = (3, b.val) then
          { s with tnk := { s.tnk with leaseResult := tabSet (fun _ => (0, 0)) s.tnk.leaseResult p.master (0, b.val) } }
        else s
      raise s Reg.TNK_CAUSE 5)

/-- LOCK_READ (R383). -/
def execLockRead (m : Fin 42) (i : Fin 256) (s : State) : Answer :=
  masterCmd s m (Reg.TNK_LK i) (fun s =>
    let r := lockRead s m i
    { r.2 with rdata := BitVec.ofNat 64 r.1 })

/-- LOCK_WRITE (R384). -/
def execLockWrite (m : Fin 42) (i : Fin 256) (s : State) : Answer :=
  masterCmd s m (Reg.TNK_LK i) (fun s => lockWrite s m i)

/-- LOCK_FORCE (R385): with the code, a host function with lease rights frees the lock whatever its owner. -/
def execLockForce (f : Fin 4) (v : Word) (s : State) : Answer :=
  hostCmd s f Reg.TNK_LK_FORCE (fun s =>
    if fld v 31 16 = 0x4C4B ∧ regBit s Reg.TNK_HOST_RIGHTS f then lockFree s (fld v 7 0) else s)

/-- MBX_SEND (R388): the sender's read of SEND; any other master's is refused (R387). -/
def execMbxSend (m : Fin 42) (c : Fin 64) (s : State) : Answer :=
  masterCmd s m (0xF00040 + 0x80 * c.val) (fun s =>
    if mbxSender s c = m then
      let r := mbxSend s c
      { r.2 with rdata := BitVec.ofNat 64 r.1 }
    else { tankRefuse s m (0x80 * c.val + 0x40) with rdata := 0 })

/-- MBX_ACK_WRITE (R388): the receiver's write of ACK; any other master's is refused (R387). -/
def execMbxAckWrite (m : Fin 42) (c : Fin 64) (v : Word) (s : State) : Answer :=
  masterCmd s m (0xF00044 + 0x80 * c.val) (fun s =>
    if mbxReceiver s c = m then mbxAck s c v else tankRefuse s m (0x80 * c.val + 0x44))

/-- MBX_ACK_READ (R388): the sender's read of ACK; any other master's is refused (R387). -/
def execMbxAckRead (m : Fin 42) (c : Fin 64) (s : State) : Answer :=
  masterCmd s m (0xF00044 + 0x80 * c.val) (fun s =>
    if mbxSender s c = m then
      let r := mbxAckRead s c
      { r.2 with rdata := r.1.setWidth 64 }
    else { tankRefuse s m (0x80 * c.val + 0x44) with rdata := 0 })

/-- MBX_WAKE_LIMIT (R392): 100 µs after the SEND the message is discarded as UNDELIVERED, or delivered when the domain is on
by then (R22). -/
def execMbxWakeLimit (c : Fin 64) (s : State) : Answer :=
  domEvent s 3 (fun s =>
    match (mbxGet s c).wakeLimit with
    | none => s
    | some t =>
      if s.run < t ∨ mbxState s c ≠ 1 then s
      else if domOn s (masterDomain (mbxReceiver s c)) then mbxWake s c
      else if mbxOrphan s c then mbxEmpty s c
      else mbxOutcome (mbxRaise (mbxCount s 3) c 2) c 3 0 0)

end Sys2Proof.Machine
end

