-- ==== Sys2Proof/Machine/KernMem.lean ====
section
/-!
DEFINITION. The address space of an engine's thread (R301, Table 12-1): loads and stores of each region, the operands of the
accelerators, and the accelerator registers (Table 13-10).
-/
namespace Sys2Proof.Machine

/-- How an access of a thread ends: bytes, or an exception code of Table 13-12. -/
inductive MemAns where
  | ok (bytes : List Byte)
  | exc (code : Nat)
  deriving DecidableEq, Repr

/-! ### Regions (Table 12-1) -/

/-- A region of the address space. -/
inductive KRegion where
  | localData | context | record | frame | build | tank | tankSet | tankClear | accel | mailbox | host
  deriving DecidableEq, Repr

/-- The region of `n` bytes at an address, with the offset in it; none outside every region or across an end. -/
def kRegion (a n : Nat) : Option (KRegion × Nat) :=
  if a + n ≤ 0x10000 then some (.localData, a)
  else if 0x10000000 ≤ a ∧ a + n ≤ 0x10000200 then some (.context, a - 0x10000000)
  else if 0x10000200 ≤ a ∧ a + n ≤ 0x10000240 then some (.record, a - 0x10000200)
  else if 0x20000000 ≤ a ∧ a + n ≤ 0x20002400 then some (.frame, a - 0x20000000)
  else if 0x30000000 ≤ a ∧ a + n ≤ 0x30002400 then some (.build, a - 0x30000000)
  else if 0x40000000 ≤ a ∧ a + n ≤ 0x40400000 then some (.tank, a - 0x40000000)
  else if 0x41000000 ≤ a ∧ a + n ≤ 0x41400000 then some (.tankSet, a - 0x41000000)
  else if 0x42000000 ≤ a ∧ a + n ≤ 0x42400000 then some (.tankClear, a - 0x42000000)
  else if 0x50000000 ≤ a ∧ a + n ≤ 0x50001000 then some (.accel, a - 0x50000000)
  else if 0x60000000 ≤ a ∧ a + n ≤ 0x60002000 then some (.mailbox, a - 0x60000000)
  else if 0x80000000 ≤ a ∧ a + n ≤ 0x100000000 then some (.host, a - 0x80000000)
  else none

/-! ### Near regions -/

/-- Bytes of an engine's data memory. -/
def dmemRead (s : State) (e x : Nat) : Nat → List Byte
  | 0 => []
  | n + 1 => tabGet (fun _ => 0) (engGet s e).dmem x :: dmemRead s e (x + 1) n

/-- Store bytes to an engine's data memory. -/
def dmemWrite (s : State) (e x : Nat) : List Byte → State
  | [] => s
  | b :: t =>
    let g := engGet s e
    dmemWrite (engSet s e { g with dmem := tabSet (fun _ => 0) g.dmem x b }) e (x + 1) t

/-- The event record (Table 12-3); `pad` fills CONTEXT_ID of an event without a context, which no rule fixes. -/
def recordBytes (v : KEvent) (pad : Nat) : List Byte :=
  let c := match v.ctx with
    | some c => c
    | none => pad
  let flags := b2n (decide (v.frame ≠ noFrame)) + 2 * b2n v.ctx.isSome + 4 * b2n v.replay + 8 * b2n v.first
  leBytes 1 v.kind ++ leBytes 1 flags ++ leBytes 2 c ++ leBytes 4 (v.frame + v.port * 2 ^ 17) ++ leBytes 4 v.ns32.toNat
    ++ leBytes 1 v.frac ++ leBytes 1 v.auth ++ leBytes 2 v.len ++ leBytes 4 v.stream ++ leBytes 4 v.arg0.toNat
    ++ leBytes 4 v.arg1.toNat ++ zeros 4 ++ slice v.payload 0 32

/-- One step of a reflected CRC over a byte with a reversed polynomial. -/
def crcByte (poly c : Word) (b : Byte) : Word :=
  (List.range 8).foldl (fun c _ => if c.getLsbD 0 then (c >>> 1) ^^^ poly else c >>> 1) (c ^^^ b.setWidth 32)

/-- CRC-32 of IEEE 802.3, the frame check. -/
def crc32 (l : List Byte) : Word := ~~~(l.foldl (crcByte 0xEDB88320) 0xFFFFFFFF)

/-- The bytes of the frame window: the frame as stored, with its check (R309). -/
def frameWindow (s : State) (v : KEvent) : List Byte :=
  match frameGet s v.frame with
  | some f => f.bytes ++ leBytes 4 (crc32 f.bytes).toNat
  | none => []

/-- Bytes of an open build; a byte never written is a value that no rule fixes (log entry 7). -/
def buildRead (s : State) (b : Option Build) (x : Nat) : Nat → List Byte × State
  | 0 => ([], s)
  | n + 1 =>
    let r := fresh s
    let t := buildRead r.2 b (x + 1) n
    let free := Config.freeValue 8 r.1
    let v := match b with
      | some b => if b.bytes.any (fun e => decide (e.1 = x)) then tabGet (fun _ => free) b.bytes x else free
      | none => free
    (v :: t.1, t.2)

/-- Store bytes of one cell of the thread's open build (R310): its cell is allotted when its first byte is written; without a free
cell the write is discarded and the build is FAILED. -/
def buildWrite (s : State) (e t : Nat) (b : Build) (x : Nat) (bytes : List Byte) : State :=
  let put := fun (s : State) (b : Build) =>
    let all := bytes.zipIdx.foldl (fun l y => (l.filter (fun z => decide (z.1 < x + y.2))) ++ [(x + y.2, y.1)]
      ++ l.filter (fun z => decide (x + y.2 < z.1))) b.bytes
    thrSet s e t { thrGet s e t with build := some { b with bytes := all, written := max b.written (x + bytes.length) } }
  if b.cells.any (fun c => decide (c.1 = x / 256)) then put s b
  else
    let no := fun (s : State) => thrSet s e t { thrGet s e t with build := some { b with failed := true } }
    if poolFree s b.district = 0 then no s
    else
      match cellFor s b.district none (b.cells.getLast?.map (fun c => c.2)) with
      | (some c, s) => put s { b with cells := b.cells ++ [(x / 256, c)] }
      | (none, s) => no s

/-! ### Accelerator registers (Table 13-10) -/

/-- The initial value of a CRC algorithm, by CRC_CFG (R342). -/
def crcInit (cfg : Word) : Word :=
  let k := fld cfg 2 0
  if k = 2 ∨ k = 4 then 0 else if k = 3 then 0xFFFF else 0xFFFFFFFF

/-- Read an accelerator register. -/
def accelRead (x : KThread) (off : Nat) : Option Word :=
  match off with
  | 0x00 => some x.berTag
  | 0x04 => some x.berAddr
  | 0x08 => some x.berLen
  | 0x0C => some x.berNext
  | 0x10 => some x.crcCfg
  | 0x14 => some x.crcState
  | 0x18 => some x.csumCfg
  | 0x1C => some x.csumState
  | 0x20 => some x.timerStat
  | _ => none

/-- Write an accelerator register; none at an offset that the table does not list. A read-only one keeps its value. -/
def accelWrite (x : KThread) (off : Nat) (v : Word) : Option KThread :=
  match off with
  | 0x00 => some x
  | 0x04 => some x
  | 0x08 => some x
  | 0x0C => some x
  | 0x10 => some { x with crcCfg := v &&& 7, crcState := crcInit v }
  | 0x14 => some { x with crcState := v }
  | 0x18 => some { x with csumCfg := v &&& 1, csumState := 0 }
  | 0x1C => some { x with csumState := v }
  | 0x20 => some x
  | _ => none

/-! ### Mailbox channels (R387, R376) -/

/-- A load of `n` bytes from the channel windows: none when it is refused. What the lease port and the window do not list is unassigned
(R376, R387). -/
def mailRead (s : State) (e x n : Nat) : Option (List Byte) × State :=
  let c := x / 128
  let o := x % 128
  if x = 0x1FF4 ∧ n = 4 then (some (leBytes 4 (tabGet (fun _ => (0, 0)) s.tnk.leaseResult e).1), s)
  else if 0x1FF0 ≤ x ∨ mbxUnassigned s e x then (some (zeros n), s)
  else if o < 0x40 then
    if mbxSender s c = e then (some (slice (mbxGet s c).staging o n), s)
    else if mbxReceiver s c = e then (some (slice (mbxGet s c).msg o n), s)
    else (none, s)
  else if o = 0x40 ∧ n = 4 ∧ mbxSender s c = e then
    let r := mbxSend s c
    (some (leBytes 4 r.1), r.2)
  else if o = 0x44 ∧ n = 4 ∧ mbxSender s c = e then
    let r := mbxAckRead s c
    (some (leBytes 4 r.1.toNat), r.2)
  else if 0x48 ≤ o ∧ o + n ≤ 0x4C ∧ (mbxSender s c = e ∨ mbxReceiver s c = e) then
    (some (slice (leBytes 4 (regFld s (Reg.MBX_CH_STAT c) 3 0)) (o - 0x48) n), s)
  else (none, s)

/-- A store to the channel windows: none when it is refused. -/
def mailWrite (s : State) (e x : Nat) (bytes : List Byte) : Option State :=
  let c := x / 128
  let o := x % 128
  if x = 0x1FF0 ∧ bytes.length = 4 then some (leaseWrite s e (BitVec.ofNat 32 (leNat bytes)))
  else if 0x1FF0 ≤ x ∨ mbxUnassigned s e x then some s
  else if o < 0x40 ∧ mbxSender s c = e then
    let m := mbxGet s c
    some (mbxSet s c { m with staging := patch m.staging o bytes })
  else if o = 0x44 ∧ bytes.length = 4 ∧ mbxReceiver s c = e then some (mbxAck s c (BitVec.ofNat 32 (leNat bytes)))
  else none

/-! ### Loads and stores (R301, R302, R309, R333, R337, R340) -/

/-- The host address of an offset of the host window, and its function. -/
def hwinAddr (s : State) (e x : Nat) : Nat :=
  (regGet s (Reg.KRN_HWIN_HI e)).toNat * 2 ^ 32 + regFld s (Reg.KRN_HWIN_LO e) 31 20 * 2 ^ 20 + x
def hwinFunc (s : State) (e : Nat) : Nat := regFld s (Reg.KRN_HWIN_CTL e) 29 28

/-- How a tank access ends for a thread (R379, R381). -/
def tankAns : TankResult → MemAns
  | .data l => .ok l
  | .poisoned => .exc 6
  | .refused => .exc 7

/-- A load of `n` bytes, naturally aligned, by thread `t` of engine `e`; `host` is what a host read returns, none for an error. `word`
tells a 32-bit access of LW. -/
def kLoad (s : State) (e t a n : Nat) (word : Bool) (host : Option Word) : MemAns × State :=
  let x := thrGet s e t
  match kRegion a n with
  | none => (.exc 3, s)
  | some (.localData, o) => (.ok (dmemRead s e o n), s)
  | some (.context, o) =>
    (match x.event with
      | some v => if v.ctx.isSome then (.ok (slice x.window o n), s) else (.exc 4, s)
      | none => (.exc 4, s))
  | some (.record, o) =>
    (match x.event with
      | some v =>
        let r := freePick s 65536
        (.ok (slice (recordBytes v r.1) o n), r.2)
      | none => (.exc 4, s))
  | some (.frame, o) =>
    (match x.event with
      | some v => (.ok (slice (frameWindow s v) o n), s)
      | none => (.ok (zeros n), s))
  | some (.build, o) =>
    let r := buildRead s x.build o n
    (.ok r.1, r.2)
  | some (.tank, o) =>
    let r := tankAccess s e o .load n []
    (tankAns r.1, r.2)
  | some (.tankSet, _) => (.exc 3, s)
  | some (.tankClear, _) => (.exc 3, s)
  | some (.accel, o) =>
    (match accelRead x o with
      | some w => if word then (.ok (leBytes 4 w.toNat), s) else (.exc 3, s)
      | none => (.exc 3, s))
  | some (.mailbox, o) =>
    (match mailRead s e o n with
      | (some l, s) => (.ok l, s)
      | (none, s) => (.exc 7, tankRefuse s e o))
  | some (.host, o) =>
    if !regBit s (Reg.KRN_HWIN_CTL e) 31 then (.exc 3, s)
    else
      let s := emit s (.hostRead (hwinFunc s e) (hwinAddr s e o) n)
      match host with
      | some w => (.ok (leBytes n w.toNat), s)
      | none => (.exc 8, s)

/-- A load that goes out to CORE, and stalls its thread until it completes (R346). -/
def farLoad (s : State) (e a n : Nat) : Bool :=
  match kRegion a n with
  | some (.tank, _) => true
  | some (.mailbox, _) => true
  | some (.frame, _) => true
  | some (.host, _) => regBit s (Reg.KRN_HWIN_CTL e) 31
  | _ => false

/-- A store that is posted to CORE (R334). -/
def farStore (s : State) (e a n : Nat) : Bool :=
  match kRegion a n with
  | some (.tank, _) => true
  | some (.tankSet, _) => true
  | some (.tankClear, _) => true
  | some (.mailbox, _) => true
  | some (.host, _) => regBit s (Reg.KRN_HWIN_CTL e) 31
  | _ => false

/-- The cycles of a load, unloaded (Table 13-7). -/
def loadCost (s : State) (e a n : Nat) : Nat :=
  match kRegion a n with
  | some (.tank, _) => engCost s e 12 9
  | some (.mailbox, _) => engCost s e 12 9
  | some (.frame, _) => engCost s e 18 13
  | _ => 2

/-- How a store ends: done, an exception, or posted and refused (R349). -/
inductive StoreAns where
  | done
  | exc (code : Nat)
  | refused
  deriving DecidableEq, Repr

/-- A store of bytes, naturally aligned, by thread `t` of engine `e`. -/
def kStore (s : State) (e t a : Nat) (bytes : List Byte) (word : Bool) : StoreAns × State :=
  let x := thrGet s e t
  let n := bytes.length
  let post := fun (r : TankResult × State) => match r.1 with
    | .data _ => (StoreAns.done, r.2)
    | _ => (StoreAns.refused, r.2)
  match kRegion a n with
  | none => (.exc 3, s)
  | some (.localData, o) => (.done, dmemWrite s e o bytes)
  | some (.context, o) =>
    (match x.event with
      | some v => if v.ctx.isSome then (.done, thrSet s e t { x with window := patch x.window o bytes }) else (.exc 4, s)
      | none => (.exc 4, s))
  | some (.record, _) => (.exc 3, s)
  | some (.frame, _) => (.exc 3, s)
  | some (.build, o) =>
    (match x.build with
      | some b => (.done, buildWrite s e t b o bytes)
      | none => (.exc 5, s))
  | some (.tank, o) => post (tankAccess s e o .store n bytes)
  | some (.tankSet, o) => post (tankAccess s e o .setAlias n bytes)
  | some (.tankClear, o) => post (tankAccess s e o .clearAlias n bytes)
  | some (.accel, o) =>
    if !word then (.exc 3, s)
    else
      (match accelWrite x o (BitVec.ofNat 32 (leNat bytes)) with
        | some y => (.done, thrSet s e t y)
        | none => (.exc 3, s))
  | some (.mailbox, o) =>
    (match mailWrite s e o bytes with
      | some s => (.done, s)
      | none => (.refused, tankRefuse s e o))
  | some (.host, o) =>
    if regBit s (Reg.KRN_HWIN_CTL e) 31 then (.done, hostWrite s (hwinFunc s e) (hwinAddr s e o) bytes) else (.exc 3, s)

/-! ### Operands of the accelerators (R314) -/

/-- An operand lies in the frame window, the build window, local data or tank memory. -/
def operandRegion (a n : Nat) : Bool :=
  match kRegion a n with
  | some (.localData, _) => true
  | some (.frame, _) => true
  | some (.build, _) => true
  | some (.tank, _) => true
  | _ => false

/-- The bytes of an operand; one outside the regions, or that leaves its region, takes ACCESS (R348). -/
def operandRead (s : State) (e t a n : Nat) : MemAns × State :=
  let x := thrGet s e t
  match kRegion a n with
  | some (.localData, o) => (.ok (dmemRead s e o n), s)
  | some (.frame, o) =>
    (match x.event with
      | some v => (.ok (slice (frameWindow s v) o n), s)
      | none => (.ok (zeros n), s))
  | some (.build, o) =>
    let r := buildRead s x.build o n
    (.ok r.1, r.2)
  | some (.tank, o) =>
    let r := tankTake s e o n
    (tankAns r.1, r.2)
  | _ => (.exc 3, s)

/-! ### The BER walker (R341) -/

/-- The outcome of a search of one level. -/
inductive BerAns where
  | found (tag addr len : Nat)
  | notFound
  | form
  | exc (code : Nat)
  deriving DecidableEq, Repr

/-- Search an extent for a tag; `n` bounds the headers. Each header costs the thread 2 cycles (Table 12-6). -/
def berSearch (e t tag : Nat) : Nat → State → Nat → Nat → BerAns × State
  | 0, s, _, _ => (.notFound, s)
  | n + 1, s, a, stop =>
    if stop ≤ a then (.notFound, s)
    else
      match operandRead s e t a (min 7 (stop - a)) with
      | (.exc c, s) => (.exc c, s)
      | (.ok l, s) =>
        let s := thrSet s e t { thrGet s e t with ready := (thrGet s e t).ready + 2 }
        match berHeader l with
        | none => (.form, s)
        | some (g, h, len) =>
          if stop < a + h + len then (.form, s)
          else if g = tag then (.found g (a + h) len, s)
          else berSearch e t tag n s (a + h + len) stop

/-- Walk a path of tags from an extent: the status or exception, and the last TLV matched. -/
def berWalk (e t : Nat) : List Nat → State → Nat → Nat → Option (Nat × Nat × Nat) → BerAns × Option (Nat × Nat × Nat) × State
  | [], s, _, _, last => (.found 0 0 0, last, s)
  | g :: rest, s, a, stop, last =>
    match berSearch e t g (stop - a + 1) s a stop with
    | (.found g v len, s) => berWalk e t rest s v (v + len) (some (g, v, len))
    | (r, s) => (r, last, s)

end Sys2Proof.Machine
end

