-- ==== Sys2Proof/Machine/Sluice.lean ====
section
/-!
DEFINITION. Sluice arbiters (chapter 8): requests, arbitration phases and settings. Ages and waits count CORE cycles of running
time, 1.25 GHz.
-/
namespace Sys2Proof.Machine

/-- The domain of requester `r` of instance `i` (Tables 8-2 and 1-1). -/
def sluReqDomain (i r : Nat) : Nat :=
  if i < 32 then
    (if r < 4 then 5 + r else if r = 4 then 9 else if r = 5 then 2 else if r < 10 then 4 + r else 3)
  else if i < 96 then
    (if r < 4 then 10 + r else if r = 4 then 1 else if r = 7 then 2 else if r = 8 then 16 else if r = 9 then 15 else 3)
  else if i < 112 then (if r < 4 then 10 + r else if r = 5 then 16 else if r = 6 then 1 else 3)
  else if i = 112 then (if r < 2 then 2 else if r = 2 then 14 else if r = 3 then 3 else if r < 6 then 1 else 4 + r)
  else if i = 113 then (if r < 2 then 3 else 1)
  else masterDomain r

/-- The request of requester `r`: since when it is raised, and since when its WAIT has not been counted. -/
def sluGet (s : State) (i r : Nat) : Option (Nat × Nat) := tabGet (fun _ => none) s.slu.raised (64 * i + r)
def sluSet (s : State) (i r : Nat) (x : Option (Nat × Nat)) : State :=
  { s with slu := { s.slu with raised := tabSet (fun _ => none) s.slu.raised (64 * i + r) x } }

/-- A counter of a requester reached half range (R215). -/
def sluHalf (s : State) (i r : Nat) : State :=
  raise (regSet s Reg.SLU_HALF_INST (BitVec.ofNat 32 (r * 128 + i))) Reg.SLU_CAUSE 0

/-- Count the WAIT of a raised request up to now (R215): 48 bits, wrapping. -/
def sluWait (s : State) (i r : Nat) : State :=
  match sluGet s i r with
  | none => s
  | some (since, from') =>
    let a := Reg.SLU_WAIT_LO i r
    let old := tabGet (fun _ => 0) s.cntHi a * 2 ^ 32 + (regGet s a).toNat
    let new := (old + (coreCycle s - from')) % 2 ^ 48
    let s := regSet (sluSet s i r (some (since, coreCycle s))) a (BitVec.ofNat 32 new)
    let s := { s with cntHi := tabSet (fun _ => 0) s.cntHi a (new / 2 ^ 32) }
    if old < 2 ^ 47 ∧ 2 ^ 47 ≤ new then sluHalf s i r else s

/-- The age of a request (R210). -/
def sluAge (s : State) (i r : Nat) : Nat :=
  match sluGet s i r with
  | some (since, _) => min 1023 (coreCycle s - since)
  | none => 0

/-- A requester raises its request, if it has none raised. -/
def sluAsk (s : State) (i r : Nat) : State :=
  if (sluGet s i r).isNone then sluSet s i r (some (coreCycle s, coreCycle s)) else s

/-- SLUICE_REQUEST (R209): a requester whose domain is on raises its request; `x.fn` is the function whose BAR2 access HOST presents at
a tank bank. -/
def execSluiceRequest (i : Nat) (x : SluiceAsk) (s : State) : Answer :=
  domEvent s 3 (fun s =>
    let r := x.requester
    if i < 115 ∧ r < sluRequesters i ∧ domOn s (sluReqDomain i r) ∧ (sluGet s i r).isNone then
      let s := if 32 ≤ i ∧ i < 96 ∧ r = 7 then { s with slu := { s.slu with fn := tabSet (fun _ => 0) s.slu.fn i x.fn } } else s
      sluAsk s i r
    else s)

/-- A request leaves ungranted: its age is lost. -/
def sluDrop (s : State) (i r : Nat) : State := sluSet (sluWait s i r) i r none

/-- SLUICE_WITHDRAW (R209). -/
def execSluiceWithdraw (i r : Nat) (s : State) : Answer :=
  domEvent s 3 (fun s => if (sluGet s i r).isSome ∧ r < 64 then sluDrop s i r else s)

/-- The requesters of a domain that goes off present inactive requests (R21, R209). -/
def sluDomainOff (s : State) (d : Nat) : State :=
  (s.slu.raised.map (fun e => e.1)).foldl (fun s k =>
    if sluReqDomain (k / 64) (k % 64) = d then sluDrop s (k / 64) (k % 64) else s) s

/-! ### Choosing the winner (R210 to R213) -/

/-- The requesters of an instance that have a request raised. -/
def sluRaised (s : State) (i : Nat) : List Nat := (List.range (sluRequesters i)).filter (fun r => (sluGet s i r).isSome)

/-- The requesters whose request was raised at the start of this CORE cycle, before any command of it (R208, log entry 106). -/
def sluStarted (s : State) (i : Nat) : List Nat :=
  (sluRaised s i).filter (fun r => match sluGet s i r with
    | some (since, _) => decide (since < coreCycle s)
    | none => false)

/-- EN, REQ and TICKETS of a privileged slot. -/
def sluSlot (s : State) (i k : Nat) : Bool × Nat × Nat :=
  let w := regGet s (Reg.SLU_PRIV i k)
  (bitOf w 31, fld w 21 16, fld w 7 0)

/-- The greatest age, and of equal ages the lowest index (R210). -/
def sluOldest (s : State) (i : Nat) (l : List Nat) : Option Nat :=
  l.foldl (fun a r =>
    match a with
    | none => some r
    | some b => if sluAge s i b < sluAge s i r then some r else some b) none

/-- One step of the LFSR (R213). -/
def lfsrStep (l : BitVec 16) : BitVec 16 :=
  let bit := (l ^^^ (l >>> 2) ^^^ (l >>> 3) ^^^ (l >>> 5)) &&& 1#16
  (l >>> 1) ||| (bit <<< 15)

/-- The first entrant whose running ticket sum exceeds `r`. -/
def sluWalk (r : Nat) : Nat → List (Nat × Nat) → Option Nat
  | _, [] => none
  | acc, (x, t) :: rest => if r < acc + t then some x else sluWalk r (acc + t) rest

/-- The winner of a phase among the entrants, in the order slot 0 to 3 and pool (R212): one with tickets wins alone, several draw. -/
def sluLottery (s : State) (i : Nat) (entrants : List (Nat × Nat)) : Option Nat × State :=
  let drawing := entrants.filter (fun e => decide (e.2 ≠ 0))
  match drawing with
  | [] => (entrants.head?.map (fun e => e.1), s)
  | [e] => (some e.1, s)
  | l =>
    let a := Reg.SLU_SEED i
    let x := lfsrStep (BitVec.ofNat 16 (regFld s a 15 0))
    let t := (l.map (fun e => e.2)).foldl (· + ·) 0
    (sluWalk (x.toNat * t / 2 ^ 16) 0 l, regSetFld s a 15 0 x.toNat)

/-- The winner of a phase (R210 to R212). -/
def sluWinner (s : State) (i : Nat) : Option Nat × State :=
  let raised := sluStarted s i
  let slots := ((List.range 4).map (sluSlot s i)).filter (fun x => x.1)
  let privs := (slots.filter (fun x => raised.contains x.2.1)).map (fun x => (x.2.1, x.2.2))
  match sluOldest s i (raised.filter (fun r => !slots.any (fun x => decide (x.2.1 = r)))) with
  | none => sluLottery s i privs
  | some r =>
    if slots.isEmpty then (some r, s) else sluLottery s i (privs ++ [(r, regFld s (Reg.SLU_POOL i) 7 0)])

/-- A grant (R210, R215): the age is 0 again, GRANTS and LONGEST follow. -/
def sluGrant (s : State) (i r : Nat) : State :=
  let waited := match sluGet s i r with
    | some (since, _) => coreCycle s - since
    | none => 0
  let s := sluDrop s i r
  let g := Reg.SLU_GRANTS i r
  let old := regGet s g
  let s := regSet s g (old + 1)
  let s := if !old.getLsbD 31 && (old + 1).getLsbD 31 then sluHalf s i r else s
  let s := if regFld s (Reg.SLU_LONGEST i r) 15 0 < waited then
    regSetFld s (Reg.SLU_LONGEST i r) 15 0 (min 65535 waited) else s
  regSetFld (regSetFld s (Reg.SLU_STAT i) 21 16 r) (Reg.SLU_STAT i) 31 31 1

/-- The settings of an instance that this cycle's writes replaced, by address (R214). -/
def sluOld (s : State) (i : Nat) : List (Nat × Word) :=
  let x := tabGet (fun _ => (0, [])) s.slu.old i
  if x.1 = coreCycle s then x.2 else []

/-- The winner by the settings from before this cycle's writes; a seed that is written takes the place of the LFSR (R213, R214). -/
def sluChoose (s : State) (i : Nat) : Option Nat × State :=
  let r := sluWinner ((sluOld s i).foldl (fun t e => regSet t e.1 e.2) s) i
  (r.1, (sluOld s i).foldl (fun t e => regSet t e.1 (regGet s e.1)) r.2)

/-- The resource of an instance may have a phase now: it is idle or its owner drives LAST, and this CORE cycle has had none (R208). -/
def sluOpen (s : State) (i : Nat) (last : Bool) : Bool :=
  decide (i < 115) && (!regBit s (Reg.SLU_STAT i) 31 || last) && decide (tabGet (fun _ => 0) s.slu.phase i ≤ coreCycle s)

/-- The WAIT counters of raised requests that reach half range in this cycle (R215). -/
def sluTick (s : State) : State :=
  s.slu.raised.foldl (fun s e =>
    match e.2 with
    | none => s
    | some (_, from') =>
      let a := Reg.SLU_WAIT_LO (e.1 / 64) (e.1 % 64)
      let old := tabGet (fun _ => 0) s.cntHi a * 2 ^ 32 + (regGet s a).toNat
      if old < 2 ^ 47 ∧ 2 ^ 47 ≤ old + (coreCycle s - from') then sluWait s (e.1 / 64) (e.1 % 64) else s) s

/-! ### Conflicts at tank memory (R382) -/

/-- The master of a requester of a tank bank that is no cluster (Table 8-2). -/
def tankMaster (s : State) (i r : Nat) : Nat :=
  if r = 4 then 32 else if r = 5 then 33 else if r = 6 then 35 else if r = 7 then 36 + tabGet (fun _ => 0) s.slu.fn i
  else if r = 8 then 40 else 41

/-- The tank accesses that wait: the master, and the CORE cycle in which the access was ready. -/
def tankWaits (s : State) : List (Nat × Nat) :=
  s.slu.raised.filterMap (fun e =>
    match e.2 with
    | some (since, _) =>
      if 32 ≤ e.1 / 64 ∧ e.1 / 64 < 96 ∧ 4 ≤ e.1 % 64 then some (tankMaster s (e.1 / 64) (e.1 % 64), since) else none
    | none => none)
  ++ s.krn.far.filterMap (fun f =>
    match f.op, f.arrive with
    | .load a _ _ _ _ _, some n => if 0x40000000 ≤ a ∧ a < 0x43000000 ∧ n ≤ s.run then some (f.eng, n * 5 / 4) else none
    | .store a _, some n => if 0x40000000 ≤ a ∧ a < 0x43000000 ∧ n ≤ s.run then some (f.eng, n * 5 / 4) else none
    | _, _ => none)

/-- Count the CORE cycles that have just ended in which a master's tank access was ready and not granted (R382). -/
def tickConflict (s : State) : State :=
  let w := tankWaits s
  ((w.map (fun x => x.1)).dedup).foldl (fun s m =>
    let n := ((List.range (coreCycle s - (s.run - 1) * 5 / 4)).filter (fun k =>
      w.any (fun x => decide (x.1 = m) && decide (x.2 < (s.run - 1) * 5 / 4 + k)))).length
    (List.range n).foldl (fun s _ => count s (Reg.TNK_CONFLICT m) Reg.TNK_CAUSE) s) s

/-! ### Settings (R214) -/

/-- Write a setting of an instance, which applies from the next CORE cycle (R214). -/
def sluPut (s : State) (i a : Nat) (v : Word) : State :=
  let l := sluOld s i
  let l := if l.any (fun e => decide (e.1 = a)) then l else l ++ [(a, regGet s a)]
  regSet { s with slu := { s.slu with old := tabSet (fun _ => (0, [])) s.slu.old i (coreCycle s, l) } } a v

/-- A refused write (R214). -/
def sluRefuse (s : State) (i : Nat) : State := raise (regSet s Reg.SLU_REFUSED_INST (BitVec.ofNat 32 i)) Reg.SLU_CAUSE 1

/-- SLU_SEED_WRITE (R213, R214). -/
def execSluSeedWrite (f : Fin 4) (i : Nat) (v : Word) (s : State) : Answer :=
  hostCmd s f (Reg.SLU_SEED i) (fun s =>
    if 115 ≤ i ∨ locked s (Reg.SLU_SEED i) then s
    else if fld v 15 0 = 0 then sluRefuse s i
    else sluPut s i (Reg.SLU_SEED i) (setFld (regGet s (Reg.SLU_SEED i)) 15 0 (fld v 15 0)))

/-- A write of SLU_PRIV slot `k` (R214). -/
def sluPrivWrite (s : State) (i k : Nat) (v : Word) : State :=
  let clash := (List.range 4).any (fun j =>
    decide (j ≠ k) && (sluSlot s i j).1 && decide ((sluSlot s i j).2.1 = fld v 21 16))
  if sluRequesters i ≤ fld v 21 16 ∨ (bitOf v 31 ∧ clash) then sluRefuse s i
  else sluPut s i (Reg.SLU_PRIV i k) (v &&& 0x803F00FF#32)

/-- SLU_CONFIG_WRITE (R214): a write of SLU_POOL or SLU_PRIV, at address `a`. -/
def execSluConfigWrite (f : Fin 4) (a : Nat) (v : Word) (s : State) : Answer :=
  hostCmd s f a (fun s =>
    let i := (a - 0x800000) / 0x1000
    if a < 0x800000 ∨ 115 ≤ i ∨ locked s a then s
    else if a = Reg.SLU_POOL i then sluPut s i a (setFld (regGet s a) 7 0 (fld v 7 0))
    else
      match (List.range 4).find? (fun k => decide (a = Reg.SLU_PRIV i k)) with
      | some k => sluPrivWrite s i k v
      | none => s)

end Sys2Proof.Machine
end

