-- ==== Sys2Proof/Machine/View.lean ====
section
/-!
DEFINITION. What a read of a register returns: the stored word, with the fields that show occupancies and live state computed (the register
tables), 0 for what is write-only (R7), and 0 for a register of an address that none is assigned to (R6).
-/
namespace Sys2Proof.Machine

/-- The index of an address in an array of registers. -/
def regIndex (a base stride n : Nat) : Option Nat :=
  if base ≤ a ∧ (a - base) % stride = 0 ∧ (a - base) / stride < n then some ((a - base) / stride) else none

/-- A word from a number. -/
def wordN (n : Nat) : Word := BitVec.ofNat 32 n

/-- PRT_PAUSE_STAT (Table 5-7). -/
def pauseStat (s : State) (p : Nat) : Nat :=
  (List.range 8).foldl (fun n c => n + b2n (pauseHolds s p c) * 2 ^ c) 0 + b2n (pauseHolds s p 8) * 256
    + b2n ((List.range 9).any (wdHolding s p)) * 512

/-- PRT_HOLD_STAT: ms left on the hold, rounded up. -/
def holdStat (s : State) (p : Nat) : Nat :=
  match (portGet s p).hold with
  | some t => min 1023 ((t - s.run + 999999) / 1000000)
  | none => 0

/-- A port has an enabled cause pending. -/
def portPends (s : State) (p : Nat) : Bool :=
  domOn s (portDomain p) && decide (regGet s (Reg.PRT_CAUSE p) &&& regGet s (Reg.PRT_ENABLE p) ≠ 0)

/-- PRT_IRQ_SUM[i]. -/
def irqSum (s : State) (i : Nat) : Nat :=
  (List.range 32).foldl (fun n j => n + b2n (decide (32 * i + j < 200) && portPends s (32 * i + j)) * 2 ^ j) 0

/-- The islands whose slack lies below PWR_AGE_THRESH (R508). -/
def ageStat (s : State) : Nat :=
  (List.range 17).foldl (fun n i =>
    let w := regGet s (Reg.PWR_AGE i)
    n + b2n (bitOf w 31 && decide (fld w 11 0 < regFld s Reg.PWR_AGE_THRESH 11 0)) * 2 ^ i) 0

/-- The temperatures read since reset, in 1/8 °C. -/
def temps (s : State) : List Int :=
  (List.range 8).filterMap (fun i =>
    let w := regGet s (Reg.PWR_TEMP i)
    if bitOf w 31 then some ((w.setWidth 12).toInt) else none)

/-- The highest reading less the lowest, in K, rounded up (Table 20-17). -/
def tempSpread (s : State) : Nat :=
  match temps s with
  | [] => 0
  | t :: l => (((l.foldl max t - l.foldl min t).toNat) + 7) / 8

/-- The power domain of an island of Table 19-4 (Table 1-1). -/
def islandDomain (i : Nat) : Nat := if i ≤ 1 then 1 else if i ≤ 12 then i + 1 else if i = 16 then 2 else i + 1

/-- The registers of the headgate and the cistern that show occupancies. -/
def viewHdg (s : State) (a : Nat) (w : Word) : Word :=
  if a = Reg.HDG_NODE_COUNT then
    wordN ((nodesAll s).length + ((nodesAll s).filter (fun n => n.2.proxy)).length * 65536)
  else if a = Reg.HDG_KEY_STAT then setFld w 7 0 (min 255 ((List.range 256).filter (fun i => (keyGet s i 0).isSome)).length)
  else if a = Reg.HDG_AUTH_Q then setFld w 15 0 s.hdg.authQ.length
  else if a = Reg.HDG_KEY_ID then 0
  else if (regIndex a (Reg.HDG_KEY_DATA 0) 4 8).isSome then 0
  else w

def viewCis (s : State) (a : Nat) (w : Word) : Word :=
  if a = Reg.CIS_QUAR_COUNT then wordN s.cis.quarantined.length
  else
    match regIndex a 0x710000 4 1632 with
    | some k =>
      let p := k / 8
      wordN (if p < 200 then (match portDistrict s p with | some d => queueQ s p (k % 8) d | none => 0)
        else (List.range 8).foldl (fun n d => n + queueQ s p (k % 8) d) 0)
    | none =>
      match regIndex a 0x731000 4 200 with
      | some p => wordN (ingressCells s p)
      | none =>
        match regIndex a 0x700400 4 64 with
        | some k => setFld w 31 16 (reserveOf s (k / 8) (k % 8))
        | none =>
          match regIndex a 0x700200 4 64 with
          | some k =>
            let d := k / 8
            let on := decide (d < districtCount s)
            let entries := s.cis.fdb.filterMap (fun e => e.2)
            if k % 8 = 0 then
              wordN (if on then b2n (isOq s d) * 2 ^ 31 + (members s d).length * 2 ^ 17 + districtCells s d else 0)
            else if k % 8 = 1 then wordN (districtUsed s d)
            else if k % 8 = 2 then wordN (if on then poolFree s d else 0)
            else if k % 8 = 3 then setFld w 31 16 (if on && isOq s d then stageLimit s d else 0)
            else if k % 8 = 4 then
              wordN ((entries.filter (fun e => decide (e.district = d) && e.dynamic)).length * 65536
                + (entries.filter (fun e => decide (e.district = d) && !e.dynamic)).length)
            else w
          | none => w

/-- The registers of confluence that the image fixes, and its occupancies (Tables 10-15 to 10-17). -/
def viewCnf (s : State) (a : Nat) (w : Word) : Word :=
  let strs := (List.range 1024).filter (fun i => (strRec s i).isSome)
  if a = Reg.CNF_INGEST then setFld w 15 0 s.cnf.ingest.length
  else if a = Reg.CNF_LOAD then
    let in_ := strs.foldl (fun n i => n + strField s i 4 4 * strField s i 2 1) 0
    let out := (List.range 16).foldl (fun n b => n + basField s b 4 4 * basField s b 20 2) 0
    wordN (in_ / 100000 * 65536 + out / 100000)
  else if a = Reg.CNF_STORE then wordN (strs.foldl (fun n i => n + strField s i 2 1 * strField s i 16 2) 0)
  else
    match regIndex a 0xA01000 4 512 with
    | none => w
    | some k =>
      let b := k / 32
      let rate := basField s b 4 4
      if (basRec s b).isNone then w
      else
        match k % 32 with
        | 1 => setFld (setFld (setFld w 14 0 (basField s b 20 2)) 19 18 (basField s b 2 1)) 20 20 (basField s b 1 1 / 2)
        | 2 => wordN rate
        | 3 => wordN (periodNs rate)
        | 4 => wordN (periodFrac rate)
        | 5 => wordN (basField s b 12 4)
        | 6 => wordN (basStreams s b).length
        | 11 => wordN (rowSlot s b)
        | _ => w

/-- KRN_THR[t] (Table 12-15). -/
def thrStat (s : State) (e t : Nat) : Nat :=
  let x := thrGet s e t
  let ctx := match x.event with
    | some v => (match v.ctx with | some c => 2 ^ 31 + c | none => 0)
    | none => 0
  ctx + (if !x.started then 0 else if x.wait.isSome then 1 else if thrStalled s e t then 3 else 2) * 65536

/-- The registers of an engine that show occupancies. -/
def viewKrn (s : State) (a : Nat) (w : Word) : Word :=
  match regIndex a 0xC01000 4 2048 with
  | none => w
  | some k =>
    let e := k / 64
    let g := engGet s e
    if k % 64 = 1 then setFld w 7 3 (g.threads.filter (fun t => t.2.event.isSome)).length
    else if k % 64 = 3 then setFld w 8 0 g.queue.length
    else if k % 64 = 4 then setFld w 10 0 g.timers.length
    else if 32 ≤ k % 64 ∧ k % 64 < 48 then wordN (thrStat s e (k % 64 - 32))
    else w

/-- RDR_SLOTS and RDR_ENG_LOAD. -/
def viewRdr (s : State) (a : Nat) (w : Word) : Word :=
  if a = Reg.RDR_SLOTS then
    let pr := ((ctxLive s).filter (fun x => x.2.pinned || x.2.resident)).length
    wordN (pr * 65536 + (4096 - (slotsUsed s).length))
  else
    match regIndex a 0xD00100 4 32 with
    | some e =>
      let n := ((ctxLive s).filter (fun x => decide (x.2.mode = .hot) && decide (x.2.owner = e))).length
      wordN (min 2047 (engUse s e 0) * 8192 + n)
    | none => w

/-- STATE of FLM_ENG_STAT. -/
def flumeModeCode : FlumeMode → Nat
  | .stopped => 0
  | .armed => 1
  | .running => 2
  | .stalled => 3
  | .fault => 4

/-- The flume registers that show live state (Tables 16-10, 16-12 and 16-13). -/
def viewFlm (s : State) (a : Nat) (w : Word) : Word :=
  let pin := fun (n : Nat) => s.flm.ball.getLsbD n && !regBit s Reg.FLM_BANK_STAT (2 + 3 * (n / 32))
  let pins := fun (k : Nat) => wordN ((List.range 32).foldl (fun n j => n + b2n (pin (32 * k + j)) * 2 ^ j) 0)
  if a = Reg.FLM_FLAG_SET ∨ a = Reg.FLM_FLAG_CLR then s.flm.flags
  else if a = Reg.FLM_PIN_IN_LO then pins 0
  else if a = Reg.FLM_PIN_IN_HI then pins 1
  else
    match regIndex a 0xF08000 4 4096 with
    | none => w
    | some k =>
      let x := fluGet s (k / 64)
      if s.flm.eng.isEmpty then w
      else
        match k % 64 with
        | 1 =>
          setFld (setFld (setFld (setFld (setFld w 31 29 (flumeModeCode x.mode)) 28 26 x.stall) 21 16 x.sc) 15 10 x.rc) 5 0 x.pc.toNat
        | 6 => wordN (x.k1.toNat * 65536 + x.k0.toNat)
        | 7 => wordN (x.k3.toNat * 65536 + x.k2.toNat)
        | 8 => x.sl
        | 9 => x.rl
        | 10 => x.edge
        | 11 => wordN (x.faultCode * 2 ^ 24 + x.faultPc.toNat)
        | 13 => (match x.rxq with | v :: _ => v | [] => 0)
        | 14 => wordN (x.rxq.length * 65536 + x.txq.length)
        | 15 => x.mark
        | _ => w

/-- The culvert registers that count time and occupancy (Tables 18-13 and 18-14). -/
def viewCul (s : State) (a : Nat) (w : Word) : Word :=
  if a = Reg.CUL_HB_AGE then
    (match s.cul.lastHbRx with
     | some t => wordN (min 65535 ((s.run - t) / 1000))
     | none => 0xFFFF)
  else if a = Reg.CUL_SETTLE then
    (match s.cul.settleFrom with
     | some t => wordN (flatField s 14 4 4 - (s.run - t) / 1000000)
     | none => 0)
  else if a = Reg.CUL_MIRROR_STAT then
    wordN ((s.cul.pendRec.filter (fun r => decide (r.1 < 4))).length * 2 ^ 18 + min 4096 (replayUnits s))
  else w

/-- The time registers that show the clock and the occupancy of calendars and two-step queues (Tables 4-7, 4-8 and 4-10). -/
def viewTim (s : State) (a : Nat) (w : Word) : Word :=
  if a = Reg.TIM_NOW_NS then s.clk.ns.setWidth 32
  else if a = Reg.TIM_INCR_INT then s.clk.incInt.setWidth 32
  else if a = Reg.TIM_INCR_FRAC then s.clk.incFrac
  else if (regIndex a (Reg.TIM_CMP_CTL 0) 0x10 8).isSome then wordN (b2n (s.clk.cmpArmed.getLsbD ((a - Reg.TIM_CMP_CTL 0) / 0x10)))
  else if a = Reg.TIM_ADJ_REM then adjRem s.clk
  else if a = Reg.TIM_ADJ_STAT then wordN (b2n s.clk.slew.isSome + 2 * b2n (!s.clk.held.isEmpty))
  else
    match regIndex a (Reg.TIM_CAL_LEVEL 0) 16 5 with
    | some g => setFld w 15 0 (calGet s g).length
    | none =>
      match regIndex a (Reg.TIM_TS2_LEVEL 0) 4 5 with
      | some g => setFld w 15 0 (ts2Get s g).length
      | none => w

/-- The port registers that show pause, holds and pending causes. -/
def viewPrt (s : State) (a : Nat) (w : Word) : Word :=
  match regIndex a (Reg.PRT_IRQ_SUM 0) 4 7 with
  | some i => wordN (irqSum s i)
  | none =>
    let p := (a - 0x400000) / 0x2000
    if 200 ≤ p then w
    else if a = Reg.PRT_PAUSE_STAT p then wordN (pauseStat s p)
    else if a = Reg.PRT_HOLD_STAT p then wordN (holdStat s p)
    else if a = Reg.PRT_STAT p then
      (if p < 192 then setFld w 1 1 (b2n (laneSync s (p / 4)))
       else if uplinkMode s (p - 192) ≠ 0 ∧ !bitOf w 1 then setFld w 2 2 1 else w)
    else w

/-- SLU_STAT.RAISED and SLU_AGE. -/
def viewSlu (s : State) (a : Nat) (w : Word) : Word :=
  let i := (a - 0x800000) / 0x1000
  let o := (a - 0x800000) % 0x1000
  if 156 ≤ i then w
  else if o = 0x20 then setFld w 5 0 (sluRaised s i).length
  else if 0x100 ≤ o ∧ o % 0x20 = 4 then
    let r := (o - 0x100) / 0x20
    match (if sluRequesters i ≤ r then none else sluGet s i r) with
    | some (_, from') => w + wordN (coreCycle s - from')
    | none => w
  else if 0x100 ≤ o ∧ o % 0x20 = 0x10 then
    let r := (o - 0x100) / 0x20
    if sluRequesters i ≤ r then w else wordN (b2n (sluGet s i r).isSome * 1024 + sluAge s i r)
  else w

/-- Shown and write-only registers of the global, power and sentinel windows, and of the publisher. -/
def viewMisc (s : State) (a : Nat) (w : Word) : Word :=
  if a = Reg.GLB_BOOT_US_LO then wordN (nowUs s)
  else if a = Reg.GLB_IRQ_STATUS then irqStatus s
  else if a = Reg.PWR_AGE_STAT then wordN (ageStat s)
  else if Reg.PWR_DOMAIN_STAT 1 ≤ a ∧ a ≤ Reg.PWR_DOMAIN_STAT 16 then (if fld w 2 0 = 0 then w else setFld w 8 8 0)
  else if a = Reg.PWR_TEMP_SPREAD then setFld w 7 0 (tempSpread s)
  else if a = Reg.SEN_TAMPER_CFG then s.sen.cfg
  else if a = Reg.SEN_RTC_LO then s.sen.ticks.setWidth 32
  else if (regIndex a (Reg.SEN_TOKEN 0) 4 8).isSome then 0
  else if a = Reg.PUB_UPD_W1 ∨ a = Reg.PUB_UPD_W2 then 0
  else w

/-- What a read of the register at a BAR0 offset returns to a function. -/
def regRead (s : State) (f a : Nat) : Word :=
  let w := regGet s (regKey f a)
  match a / 0x100000 with
  | 3 => viewTim s a w
  | 4 => viewPrt s a w
  | 5 => viewPrt s a w
  | 6 => viewHdg s a w
  | 7 => viewCis s a w
  | 8 => viewSlu s a w
  | 10 => viewCnf s a w
  | 12 => viewKrn s a w
  | 13 => viewRdr s a w
  | 15 => viewFlm s a w
  | 17 => viewCul s a w
  | _ => viewMisc s a w

end Sys2Proof.Machine
end

