-- ==== Sys2Proof/Machine/FrzRead.lean ====
section
/-!
DEFINITION. The freeze records that JTAG reads out (R470 to R472, Tables 19-2 and 19-4). What no rule lays out is a constant without a
body: `Config.freezeWord` by freeze, island and place (log entry 7).
-/
namespace Sys2Proof.Machine

/-- The island of Table 19-4 that the register at an address belongs to. -/
def islandOf (a : Nat) : Nat :=
  if a / 0x100000 = 3 then 1
  else
    let d := addrDomain a
    if d = 1 then 0 else if d = 2 then 16 else if d ≤ 4 then d - 1 else if d ≤ 13 then d - 1 else if d = 14 then 13
    else if d = 15 then 14 else 15

/-- The number of memories of an island (Table 19-4). -/
def islandMems (i : Nat) : Nat :=
  if i = 0 then 1 else if i = 2 then 8 else if i = 3 then 1 else if 4 ≤ i ∧ i ≤ 8 then 1 else if 9 ≤ i ∧ i ≤ 12 then 16
  else if i = 13 then 2 else if i = 14 then 1 else if i = 15 then 1 else 0

/-- The words of a memory of an island. -/
def memLen (i m : Nat) : Nat :=
  if i = 2 ∧ m = 0 then 262144
  else if i = 2 ∧ m = 1 then 524288
  else if i = 3 then 3145728
  else if 9 ≤ i ∧ i ≤ 12 then (if m < 8 then 16384 else 8192)
  else (Config.memWords i m).toNat

/-- An island is powered: its domain is on. -/
def islandOn (s : State) (i : Nat) : Bool := decide (i ≤ 16) && domOn s (islandDomain i)

/-- The offsets of an island's registers, ascending (R470). -/
def islandRegs (i : Nat) : List Nat :=
  ((List.range 0x500000).map (fun n => 4 * n)).filter (fun a => (findReg a).isSome && decide (islandOf a = i))

/-- A word of eight bytes. -/
def word64 (l : List Byte) : BitVec 64 := BitVec.ofNat 64 (leNat l)

/-- A place in a record for `Config.freezeWord`. -/
def frzFree (s : State) (i section_ w : Nat) : BitVec 64 := Config.freezeWord s.frz.seed i (section_ * 2 ^ 32 + w)

/-- The 60 bytes of a header before its check (Table 19-2). -/
def recHead (s : State) (i : Nat) : List Byte :=
  let on := islandOn s i
  let low := 9 ≤ i ∧ i ≤ 12 ∧ regBit s Reg.PWR_OPPOINT_STAT (i - 9)
  let flags := b2n on + 2 * b2n (regBit s Reg.FRZ_STAT 1) + 4 * (if low then 1 else 0)
  leBytes 4 0x525A5246 ++ leBytes 2 1 ++ leBytes 1 i ++ leBytes 1 flags ++ leBytes 4 (regFld s Reg.FRZ_STAT 31 16)
    ++ leBytes 4 (if on then (islandRegs i).length else 0) ++ leBytes 4 (if on then (Config.stateWords i).toNat else 0)
    ++ leBytes 2 (Config.layoutId i).toNat ++ leBytes 1 (if on then islandMems i else 0) ++ leBytes 1 0
    ++ leBytes 8 (frzFree s i 0 3).toNat ++ leBytes 4 s.frz.ns32.toNat ++ zeros 24

/-- Word `w` of the header. -/
def recHeadWord (s : State) (i w : Nat) : BitVec 64 :=
  let h := recHead s i
  word64 (slice (h ++ leBytes 4 (crc32c h).toNat) (8 * w) 8)

/-- CORRECTED and UNCORRECTABLE of the descriptor of memory `m`, at word `w` of section 0 (R472): made during the read, so 0 before it and final
once the whole section has been read; how far they have come between is open (log entry 7). -/
def recCounts (s : State) (i m w : Nat) : BitVec 64 :=
  let k := 32 * i + m
  let n := fun (l : Tab Nat) => tabGet (fun _ => 0) l k % 2 ^ 32
  let r := tabGet (fun _ => 0) s.frz.read k
  if r = 0 then 0
  else if r < memLen i m then frzFree s i 0 w
  else BitVec.ofNat 64 (n s.arch.corrected + n s.arch.uncorrectable * 2 ^ 32)

/-- Word `w` of section 0: header, descriptors, registers, internal state words (R470). Which function's copy a banked register shows is
open. -/
def recWord0 (s : State) (i w : Nat) : BitVec 64 :=
  if w < 8 then recHeadWord s i w
  else if !islandOn s i then 0
  else
    let mems := islandMems i
    let regs := islandRegs i
    let d := w - 8
    if d < 2 * mems then
      if d % 2 = 0 then BitVec.ofNat 64 (d / 2 + memLen i (d / 2) % 2 ^ 32 * 2 ^ 32)
      else recCounts s i (d / 2) w
    else
      match regs[d - 2 * mems]? with
      | some a =>
        BitVec.ofNat 64 (a + (if isBanked a then (frzFree s i 0 w).toNat % 2 ^ 32 else (regRead s 0 a).toNat) * 2 ^ 32)
      | none => if d - 2 * mems - regs.length < (Config.stateWords i).toNat then frzFree s i 0 w else 0

/-- The frame whose cell `c` holds, and the cell's place among the frame's (R174, R175). -/
def cellFrame (s : State) (c : Nat) : Option (List Byte × Nat) :=
  s.cis.frames.findSome? (fun e =>
    match e.2 with
    | some f => ((List.range f.cells.length).find? (fun k => decide (f.cells[k]? = some c))).map (fun k => (f.bytes, k))
    | none => none)

/-- The context that holds reservoir slot `n` (R353). -/
def slotContext (s : State) (n : Nat) : Option Ctx := ((ctxLive s).find? (fun e => decide (e.2.slot = some n))).map (fun e => e.2)

/-- Word `w` of memory `m` of an island. -/
def recMem (s : State) (i m w : Nat) : BitVec 64 :=
  let free := frzFree s i (m + 1) w
  if i = 2 ∧ m = 0 then
    match slotContext s (w / 64) with
    | some x => word64 (slice x.data (8 * (w % 64)) 8)
    | none => free
  else if i = 2 ∧ m = 1 then (if (poisonOf s (8 * w)).isSome then free else word64 (tankRead s (8 * w) 8))
  else if i = 3 then
    match cellFrame s (w / 32) with
    | some (b, k) => if 256 * k + 8 * (w % 32) + 8 ≤ b.length then word64 (slice b (256 * k + 8 * (w % 32)) 8) else free
    | none => free
  else if 9 ≤ i ∧ i ≤ 12 then
    let g := engGet s (8 * (i - 9) + m % 8)
    let at_ := fun (a : Nat) => tabGet (fun _ => (0 : Word)) g.imem a
    if m < 8 then BitVec.ofNat 64 ((at_ (2 * w)).toNat + (at_ (2 * w + 1)).toNat * 2 ^ 32)
    else word64 (dmemRead s (8 * (i - 9) + m % 8) (8 * w) 8)
  else free

/-- The word of a record at a section and an address; 0 beyond a section's end (R474), and for an island or section that is not there. -/
def recWord (s : State) (i section_ w : Nat) : BitVec 64 :=
  if 16 < i then 0
  else if section_ = 0 then recWord0 s i w
  else if islandOn s i && decide (section_ ≤ islandMems i) && decide (w < memLen i (section_ - 1)) then recMem s i (section_ - 1) w
  else 0

end Sys2Proof.Machine
end

