-- ==== Sys2Proof/Machine/FurrowOps.lean ====
section
/-!
DEFINITION. Furrow as shared operations (R217 to R241): domain time, cycles, the guardian's tests, the star's own frames, port states,
mode changes, and the gate of member ports.
-/
namespace Sys2Proof.Machine

/-! ### Domains -/

/-- A domain beside its registers, before it runs. -/
def furDom0 : FurDom :=
  { offRem := 0, kept := false, guard := 0, valid := false, evaluated := false, slots := []
    dynA := { index := 0, at_ := 0, busy := 0, admitted := false }, dynB := { index := 0, at_ := 0, busy := 0, admitted := false }
    reqs := [], firsts := [], seen := [], forced := none, cold := [], coldWin := none }

/-- Domain `d` beside its registers. -/
def furGet (s : State) (d : Nat) : FurDom := tabGet (fun _ => furDom0) s.fur.dom d

/-- The state with a domain replaced. -/
def furSet (s : State) (d : Nat) (x : FurDom) : State :=
  { s with fur := { s.fur with dom := tabSet (fun _ => furDom0) s.fur.dom d x } }

/-- FREE of a domain's FLAGS, TT_CLASS and CYCLE_NS. -/
def furFree (s : State) (d : Nat) : Bool := nbit (furField s d 0 1) 1
def furClass (s : State) (d : Nat) : Nat := furField s d 1 1 % 8
def furCycleNs (s : State) (d : Nat) : Nat := furField s d 4 4

/-- Move a domain to a state of Table 9-5. -/
def furTo (s : State) (d st : Nat) : State := regSetFld s (Reg.FUR_STAT d) 2 0 st

/-- Count in FUR_CNT[d][k], and in FUR_DROP[r]. -/
def furCount (s : State) (d k : Nat) : State := count s (Reg.FUR_CNT d k) Reg.FUR_CAUSE
def furDrop (s : State) (r : Nat) : State := count s (Reg.FUR_DROP r) Reg.FUR_CAUSE

/-- Raise a cause of a port of a domain and record both in FUR_EVENT. -/
def furRaise (s : State) (d p bit : Nat) : State :=
  raise (regSet s Reg.FUR_EVENT (BitVec.ofNat 32 (d * 256 + p))) Reg.FUR_CAUSE bit

/-- The member ports of a domain, and those of one channel. -/
def furMembers (s : State) (d : Nat) : List Nat :=
  (List.range 200).filter (fun p => match furMember s p with | some (e, _) => decide (e = d) | none => false)
def furChannel (s : State) (d : Nat) (chanB : Bool) : List Nat :=
  (List.range 200).filter (fun p => decide (furMember s p = some (d, chanB)))

/-- The members of a list that take relays: not DOWN (R221, R231). -/
def furUp (s : State) (l : List Nat) : List Nat := l.filter (fun p => decide (furPortState s p ≠ 1))

/-- NODE_ID of a member port. -/
def furNode (s : State) (p : Nat) : Nat := regFld s (Reg.FUR_PORT_STAT p) 15 8

/-! ### Domain time (R219) -/

/-- A stamp less the current cycle start, in 1/256 ns of domain time. -/
def furRel (s : State) (d : Nat) (ns32 : Word) (frac : Nat) : Int :=
  (ns32 + regGet s (Reg.FUR_OFFSET d) - regGet s (Reg.FUR_START_NS32 d)).toInt * 256 + frac

/-- Now, less the current cycle start, in 1/256 ns of domain time. -/
def furNow (s : State) (d : Nat) : Int := furRel s d (nowNs32 s) (s.clk.frac.toNat / 2 ^ 24)

/-- A step, set or slew moved the clock by `delta` units of 2⁻³² ns: every FREE domain takes it off its offset (R219). -/
def furShift (s : State) (delta : Int) : State :=
  (List.range 4).foldl (fun s d =>
    if furFree s d then
      let x := furGet s d
      let t := x.offRem - delta
      let s := furSet s d { x with offRem := t % 2 ^ 32 }
      regSet s (Reg.FUR_OFFSET d) (regGet s (Reg.FUR_OFFSET d) + BitVec.ofInt 32 (t / 2 ^ 32))
    else s) s

/-! ### Modes and entries (Tables 9-10 to 9-12) -/

/-- The mode in force. -/
def furMode (s : State) (d : Nat) : Nat := regFld s (Reg.FUR_STAT d) 6 4

/-- The record of a mode. -/
def furModeRec (s : State) (d m : Nat) : Option (List Byte) :=
  (arrayAll (furSection s d) 0x0602).find? (fun r => decide (leAt r 0 1 = m))

/-- A field of the record of the mode in force: LEAD_NS at 4, DYN_START_NS at 8, FREE_START_NS at 12. -/
def furSeg (s : State) (d off : Nat) : Nat :=
  match furModeRec s d (furMode s d) with
  | some r => leAt r off 4
  | none => 0

/-- A field of the minislot segment of the mode in force: COUNT at 2, MS_NS at 4, ACTION_NS at 6. -/
def furSlotField (s : State) (d off : Nat) : Nat :=
  match (arrayAll (furSection s d) 0x0604).find? (fun r => decide (leAt r 0 1 = furMode s d)) with
  | some r => leAt r off 2
  | none => 0

/-- The entries of the mode in force. -/
def furEntries (s : State) (d : Nat) : List (List Byte) :=
  (arrayAll (furSection s d) 0x0603).filter (fun r => decide (leAt r 0 1 = furMode s d))

/-- The port that an entry names on a channel. -/
def entryPort (r : List Byte) (chanB : Bool) : Nat := leAt r (4 + b2n chanB) 1

/-- KIND of an entry. -/
def entryKind (r : List Byte) : Nat := leAt r 1 1 % 4

/-- G of an entry (R230). -/
def entryGuard (s : State) (d : Nat) (r : List Byte) : Nat :=
  if leAt r 12 2 = 0 then (furGet s d).guard else leAt r 12 2

/-- The static furrows of a port in the mode in force. -/
def furStatic (s : State) (d p : Nat) (chanB : Bool) : List (List Byte) :=
  (furEntries s d).filter (fun r => decide (entryKind r = 0) && decide (entryPort r chanB = p))

/-- The dynamic IDs of a channel, ascending (R234). -/
def furDynIds (s : State) (d : Nat) (chanB : Bool) : List Nat :=
  let own := (furEntries s d).filter (fun r => decide (entryKind r = 1) && decide (entryPort r chanB ≠ 0xFF))
  (List.range 256).filter (fun n => own.any (fun r => decide (leAt r 3 1 = n)))

/-- The port of a node on a channel. -/
def furNodePort (s : State) (d node : Nat) (chanB : Bool) : Option Nat :=
  (furChannel s d chanB).find? (fun p => decide (furNode s p = node))

/-- Whether a port's node may send a COLDSTART (R227). -/
def furColdPort (s : State) (d p : Nat) (chanB : Bool) : Bool :=
  (arrayAll (furSection s d) 0x0603).any (fun r => decide (entryPort r chanB = p) && nbit (leAt r 1 1) 7)

/-- The pointer of a channel. -/
def furDyn (s : State) (d : Nat) (chanB : Bool) : FurDyn := if chanB then (furGet s d).dynB else (furGet s d).dynA

/-- The state with the pointer of a channel replaced. -/
def furDynSet (s : State) (d : Nat) (chanB : Bool) (y : FurDyn) : State :=
  let x := furGet s d
  furSet s d (if chanB then { x with dynB := y } else { x with dynA := y })

/-- The pointed ID of a channel: none when the IDs or the minislots have run out (R234). -/
def furPointed (s : State) (d : Nat) (chanB : Bool) : Option Nat :=
  let y := furDyn s d chanB
  if y.at_ < furSeg s d 8 + furSlotField s d 2 * furSlotField s d 4 then (furDynIds s d chanB)[y.index]? else none

/-- The first minislot boundary at or after an offset, in ns. -/
def furBoundary (s : State) (d t : Nat) : Nat :=
  let b := furSeg s d 8
  let ms := furSlotField s d 4
  if t ≤ b then b else if ms = 0 then t else b + (t - b + ms - 1) / ms * ms

/-! ### The star's own frames (R221, R223, R233) -/

/-- The header of a frame of the star (Table 9-2), with DEP set, and its body. -/
def starBytes (s : State) (d p type slot reason subject : Nat) (chanB : Bool) (body : List Byte) : List Byte :=
  let group := match arrayRec (furSection s d) 0x0601 0 with
    | some r => slice r 24 6
    | none => zeros 6
  group ++ beBytes 6 (portMac s p) ++ beBytes 2 0x88B5 ++ beBytes 1 (16 + type) ++ beBytes 1 (d * 64 + b2n chanB * 32) ++ beBytes 1 0
    ++ beBytes 1 (furMode s d) ++ beBytes 4 (regGet s (Reg.FUR_CYCLE d)).toNat ++ beBytes 2 slot ++ beBytes 2 body.length
    ++ zeros 8 ++ beBytes 1 1 ++ beBytes 1 reason ++ beBytes 1 subject ++ beBytes 1 0 ++ body

/-- Count a frame queued to a member port. -/
def furRelayed (s : State) (p : Nat) : State := count s (Reg.FUR_PORT_RELAYED p) Reg.FUR_CAUSE

/-- Inject a frame of the star for one port, in TT_CLASS; `head` puts it before what waits in that class. In an output-queued district it is
written into the output's partition at once (DESIGN CHOICE, log entry 107). -/
def starSend (s : State) (d p : Nat) (bytes : List Byte) (head : Bool) : State :=
  let dist := furField s d 3 1
  let tc := furClass s d
  let q := queueKey p tc dist
  let before := (queueGet s q).length
  let s := inject s { frame0 bytes 207 dist with tc := tc, origin := .star d, oqCopy := isOq s dist } (some [p])
  let l := queueGet s q
  if before < l.length then
    let s := match l.getLast? with
      | some e => if head then queueSet s q (e :: l.dropLast) else s
      | none => s
    furRelayed s p
  else s

/-- The slot of a static furrow on a channel in the current cycle. -/
def slotGet (s : State) (d furrow : Nat) (chanB : Bool) : Option FurSlot :=
  (furGet s d).slots.find? (fun x => decide (x.furrow = furrow) && decide (x.chanB = chanB))

/-- The state with such a slot changed. -/
def slotMod (s : State) (d furrow : Nat) (chanB : Bool) (k : FurSlot → FurSlot) : State :=
  let x := furGet s d
  furSet s d { x with slots := x.slots.map (fun y => if y.furrow = furrow ∧ y.chanB = chanB then k y else y) }

/-- REASON of a STAR_NULL: the first row of Table 9-7 that applies in the order of R233. -/
def starReason (s : State) (x : FurSlot) (p : Nat) : Nat :=
  let st := furPortState s p
  if x.invalid then 2 else if x.refused then 1
  else if st = 1 ∨ regBit s (Reg.FUR_PORT_STAT p) 3 then 5
  else if st = 4 then 4 else if st = 2 then 3 else 0

/-- Send the STAR_NULL of a furrow on a channel, once in a cycle in which its owner delivers no valid frame (R233). -/
def starNull (s : State) (d furrow : Nat) (chanB : Bool) : State :=
  match slotGet s d furrow chanB, (furEntries s d).find? (fun r => decide (entryKind r = 0) && decide (leAt r 2 1 = furrow)) with
  | some x, some r =>
    if x.valid || x.nullSent then s
    else
      let reason := starReason s x (entryPort r chanB)
      let s := furCount (slotMod s d furrow chanB (fun y => { y with nullSent := true })) d (5 + b2n chanB)
      (furUp s (furChannel s d chanB)).foldl (fun s p =>
        starSend s d p (starBytes s d p 9 furrow reason (leAt r 3 1) chanB []) false) s
  | _, _ => s

/-- The CYCLE_START frame of one member port (R221, Table 9-4). -/
def starCycle (s : State) (d p : Nat) : State :=
  let pend := regBit s (Reg.FUR_STAT d) 11
  let body := beBytes 1 (if pend then 128 + regFld s (Reg.FUR_STAT d) 10 8 else 0) ++ zeros 3
    ++ beBytes 4 (if pend then (regGet s (Reg.FUR_EFFECTIVE d)).toNat else 0) ++ beBytes 4 (furCycleNs s d) ++ zeros 4
  let chanB := match furMember s p with
    | some (_, b) => b
    | none => false
  starSend s d p (starBytes s d p 8 0 0 0 chanB body) true

/-! ### Port states (R235) -/

/-- Contain a member port: counted, raised, recorded. -/
def furContain (s : State) (d p : Nat) : State :=
  furRaise (count (furPortTo s p 4) (Reg.FUR_PORT_CONTAINS p) Reg.FUR_CAUSE) d p 1

/-- A member port at a cycle start (Table 9-8): `full` says that the cycle that ended was a full valid one. A DOWN port whose link is up
at the domain's speed joins (log entry 24). -/
def furPortCycle (s : State) (d : Nat) (full : Bool) (p : Nat) : State :=
  let join := fun (s : State) =>
    let s := furPortTo s p 2
    { s with fur := { s.fur with joined := tabSet (fun _ => false) s.fur.joined p true } }
  let st := furPortState s p
  if st = 1 then (if portLink s p && portEn s p && decide (portSpeed s p = furSpeed s d) then join s else s)
  else if st = 2 then
    if full && tabGet (fun _ => false) s.fur.joined p then furPortTo s p 3
    else { s with fur := { s.fur with joined := tabSet (fun _ => false) s.fur.joined p true } }
  else if st = 4 then
    let c := tabGet (fun _ => 0) s.fur.contained p
    let limit := regFld s (Reg.FUR_CONTAIN d) 15 0
    if c ≠ 0 ∧ full ∧ limit ≠ 0 ∧ limit ≤ c then join s
    else
      let c := if c = 0 then 1 else if full then min (c + 1) 65536 else c
      { s with fur := { s.fur with contained := tabSet (fun _ => 0) s.fur.contained p c } }
  else s

/-! ### Cycles (R225 to R229, R240) -/

/-- The cycle that ends: copies of frames of which neither was valid are lost internally (R238). -/
def furClose (s : State) (d : Nat) : State :=
  let x := furGet s d
  let lost := (x.seen.dedup.filter (fun e => !x.firsts.contains e)).length
  let s := countBy s (Reg.FUR_CNT d 9) Reg.FUR_CAUSE 0 lost
  furSet s d { x with seen := [], firsts := [], reqs := [] }

/-- The domain leaves its state: its members go DOWN (Table 9-8), and a coldstart frame that waits for the decision is let go. -/
def furLeave (s : State) (d st : Nat) : State :=
  let s := ((furGet s d).cold.filter (fun c => c.done.isSome)).foldl (fun s c => frameLetGo s c.handle) s
  let s := (furMembers s d).foldl (fun s p => furPortTo s p 1) (furTo s d st)
  furSet s d { furGet s d with valid := false, cold := [], coldWin := none, slots := [] }

/-- The domain stops (Table 9-5). -/
def furStop (s : State) (d : Nat) : State :=
  let s := furLeave (furClose s d) d 0
  furSet (regSetFld s (Reg.FUR_STAT d) 11 8 0) d { furGet s d with kept := false, forced := none }

/-- A break (R228): counted, raised; the numbering and a pending change are kept for the next cycle. -/
def furBreak (s : State) (d : Nat) : State :=
  if furState s d = 3 then
    let s := raise (furCount s d 1) Reg.FUR_CAUSE 5
    let s := furLeave s d (if furFree s d then 1 else 2)
    furSet s d { furGet s d with kept := true }
  else s

/-- The announced mode comes into force at a cycle start (R240). -/
def furApply (s : State) (d : Nat) : State :=
  let m := regFld s (Reg.FUR_STAT d) 10 8
  let s := regSetFld (regSetFld s (Reg.FUR_STAT d) 11 8 0) (Reg.FUR_STAT d) 6 4 m
  raise (furCount s d 2) Reg.FUR_CAUSE 4

/-- A cycle starts (R220, R221, R226): number, mode, guard, port states, furrows and pointers, and the CYCLE_START frames. -/
def furBegin (s : State) (d : Nat) (start number : Word) : State :=
  let full := (furGet s d).valid
  let broken := (furGet s d).kept
  let s := furClose s d
  let s := regSet (regSet s (Reg.FUR_START_NS32 d) start) (Reg.FUR_CYCLE d) number
  let s := if regBit s (Reg.FUR_STAT d) 11 && (broken || decide (regGet s (Reg.FUR_EFFECTIVE d) = number)) then furApply s d else s
  let s := (furMembers s d).foldl (fun s p => furPortCycle s d full p) s
  let dyn : FurDyn := { index := 0, at_ := furSeg s d 8, busy := 0, admitted := false }
  let slots := (furEntries s d).flatMap (fun r =>
    if entryKind r = 0 then
      [false, true].filterMap (fun b => if entryPort r b = 0xFF then none
        else some ({ furrow := leAt r 2 1, chanB := b, started := false, refused := false, invalid := false, valid := false
                     nullSent := false } : FurSlot))
    else [])
  let s := furSet s d { furGet s d with
    kept := false, guard := regFld s (Reg.FUR_GUARD d) 15 0, valid := true, evaluated := false, slots := slots, dynA := dyn
    dynB := dyn, coldWin := none }
  let s := furCount s d 0
  (furUp s (furMembers s d)).foldl (fun s p => starCycle s d p) s

/-- The domain enters RUNNING (Table 9-5): cycle number 0 and INITIAL_MODE, unless a break kept them. -/
def furEnter (s : State) (d : Nat) : State :=
  let s := if (furGet s d).kept then s else regSetFld s (Reg.FUR_STAT d) 6 4 (furField s d 22 1)
  raise (furTo s d 3) Reg.FUR_CAUSE 6

/-- The cycle start of a domain whose instant has come, in domain time, and its number (R225, R226): of an ANCHORED domain where NS mod
CYCLE_NS is ANCHOR_NS, the first of them once it waits; of a FREE one CYCLE_NS after the last, the first CS_LEAD_NS after the coldstart. Of a
FREE start the whole ns are kept (log entry 25). -/
def furNext (s : State) (d : Nat) : Option (Word × Word) :=
  let cyc := furCycleNs s d
  let st := furState s d
  let x := furGet s d
  let start := regGet s (Reg.FUR_START_NS32 d)
  let number := regGet s (Reg.FUR_CYCLE d) + 1
  let past := (s.clk.ns.toNat + cyc - furField s d 8 4 % cyc) % cyc
  let anchor := nowNs32 s + regGet s (Reg.FUR_OFFSET d) - BitVec.ofNat 32 past
  let gone := furNow s d / 256
  if cyc = 0 then none
  else if st = 2 then (if past ≤ s.clk.incInt.toNat then some (anchor, if x.kept then number else 0) else none)
  else if st ≠ 3 then none
  else if x.coldWin.isSome then (if 0 ≤ gone then some (start, 0) else none)
  else if furFree s d then (if (cyc : Int) ≤ gone then some (start + BitVec.ofNat 32 cyc, number) else none)
  else if gone ≤ past then none
  else some (anchor - BitVec.ofInt 32 ((gone - past - 1) / cyc * cyc), number)

/-- A running domain comes to a cycle start: it stops when RUN is cleared (Table 9-5). -/
def furTurn (s : State) (d : Nat) (start number : Word) : State :=
  if regBit s (Reg.FUR_CTL d) 0 || (furGet s d).coldWin.isSome then furBegin s d start number else furStop s d

/-- A cycle start of a domain, if its instant has come: the first of one that waits, or the next of one that runs. -/
def furCycleStart (s : State) (d : Nat) : State :=
  match furNext s d with
  | none => s
  | some (start, number) => if furState s d = 2 then furBegin (furEnter s d) d start number else furTurn s d start number

/-- RUN is set: an OFF domain with a section waits for its start (Table 9-5). -/
def furRunSet (s : State) (d : Nat) : State :=
  let s := regSetFld s (Reg.FUR_CTL d) 0 0 1
  if furState s d = 0 ∧ (furSection s d).isSome then
    furSet (furTo s d (if furFree s d then 1 else 2)) d { furGet s d with kept := false, cold := [], coldWin := none }
  else s

/-- RUN is cleared: a running domain ends its cycle, any other is OFF. -/
def furRunClear (s : State) (d : Nat) : State :=
  let s := regSetFld s (Reg.FUR_CTL d) 0 0 0
  if furState s d = 3 then s else furStop s d

/-- The window of a port that is no member reads as at reset (R243). -/
def furWindowClear (s : State) (p : Nat) : State :=
  [Reg.FUR_PORT_STAT p, Reg.FUR_PORT_DRIFT p, Reg.FUR_PORT_ADMIT p, Reg.FUR_PORT_VIOL p, Reg.FUR_PORT_CONTAINS p, Reg.FUR_PORT_LASTV p,
    Reg.FUR_PORT_RELAYED p].foldl (fun s a => regSet s a 0) s

/-- A kept member meets the SPEED of the new settings (R218). -/
def furSpeedCheck (s : State) (d p : Nat) : State :=
  if portLink s p && decide (decide (portSpeed s p ≠ furSpeed s d) ≠ regBit s (Reg.FUR_PORT_STAT p) 3) then furLinkUp s p else s

/-- Load the members of a domain from its section (R217): kept members keep their state, new ones enter through DOWN, and one that leaves is
cleared. -/
def furMembersLoad (s : State) (d : Nat) : State :=
  (List.range 200).foldl (fun s p =>
    let own := (arrayAll (furSection s d) 0x0603).filterMap (fun r =>
      if entryPort r false = p then some (leAt r 3 1, false) else if entryPort r true = p then some (leAt r 3 1, true) else none)
    let was := match furMember s p with
      | some (e, _) => decide (e = d)
      | none => false
    match own.head? with
    | some (node, chanB) =>
      let w := BitVec.ofNat 32 (2 ^ 31 + d * 2 ^ 29 + b2n chanB * 2 ^ 28 + node * 256)
      if was then furSpeedCheck (regSet s (Reg.FUR_PORT_STAT p) (w ||| (regGet s (Reg.FUR_PORT_STAT p) &&& 0x3F#32))) d p
      else
        let s := regSet (furWindowClear s p) (Reg.FUR_PORT_STAT p) (w ||| 1#32)
        if portLink s p then furLinkUp s p else s
    | none => if was then furWindowClear s p else s) s

/-- The domain time of an ANCHORED domain is the clock's: its offset is 0 (R219). -/
def furAnchor (s : State) (d : Nat) : State :=
  if furFree s d then s else furSet (regSet s (Reg.FUR_OFFSET d) 0) d { furGet s d with offRem := 0 }

/-- Load a domain from its section at commit (R225, Tables 9-16 and 9-17); a domain without a section is OFF. -/
def furLoad (s : State) (d : Nat) : State :=
  let s := furMembersLoad s d
  if (furSection s d).isNone then furStop s d
  else
    let s := regSetFld (furAnchor s d) (Reg.FUR_STAT d) 12 12 (b2n (furFree s d))
    let s := regSet s (Reg.FUR_GUARD d) (BitVec.ofNat 32 (furField s d 18 2 * 65536 + furField s d 16 2))
    let s := regSet s (Reg.FUR_CONTAIN d) (BitVec.ofNat 32 (furField s d 20 2))
    if nbit (furField s d 0 1) 0 then furRunSet s d else furRunClear s d

/-! ### The guardian (R227, R230, R234) -/

/-- A Furrow frame: untagged, 0x88B5, version 1 (R223). -/
def isFurrow (bytes : List Byte) : Bool := decide (beAt bytes 12 2 = 0x88B5) && decide (beAt bytes 14 1 / 16 = 1)

/-- Fields of the header (Table 9-2): type, DOM_CH[7:5], NODE_ID, MODE, CYCLE, SLOT. -/
def furType (bytes : List Byte) : Nat := beAt bytes 14 1 % 16
def furDomCh (bytes : List Byte) : Nat := beAt bytes 15 1 / 32
def furHdrNode (bytes : List Byte) : Nat := beAt bytes 16 1
def furHdrMode (bytes : List Byte) : Nat := beAt bytes 17 1
def furHdrCycle (bytes : List Byte) : Nat := beAt bytes 18 4
def furHdrSlot (bytes : List Byte) : Nat := beAt bytes 22 2

/-- What test 1 to 5 find of a frame: admitted to a furrow (static or dynamic), refused with a reason charged to a static furrow, or to a
dynamic ID or nothing (`slot` false), or an ordinary frame. -/
inductive FurVerdict where
  | ordinary
  | refuse (r furrow : Nat) (slot : Bool)
  | join (kind furrow : Nat) (drift : Int)
  deriving DecidableEq, Repr

/-- How far a start lies outside the window of an entry, in 1/256 ns: 0 inside. -/
def windowMiss (s : State) (d : Nat) (x : Int) (r : List Byte) : Nat :=
  let a : Int := ((leAt r 8 4 * 256 : Nat) : Int)
  (x - a).natAbs - entryGuard s d r * 256

/-- The furrow of a port whose window holds a start, or lies nearest to it. -/
def nearestEntry (s : State) (d : Nat) (x : Int) (l : List (List Byte)) : Option (List Byte) :=
  l.foldl (fun a r =>
    match a with
    | none => some r
    | some b => if windowMiss s d x r < windowMiss s d x b then some r else some b) none

/-- Tests 3 to 5 of R230 on a frame of a furrow: the first reason that applies. -/
def furMatch (s : State) (d : Nat) (chanB : Bool) (bytes : List Byte) (owner : Bool) (slot node : Nat) : Option Nat :=
  if (furType bytes ≠ 1 ∧ furType bytes ≠ 2) ∨ furDomCh bytes ≠ d * 2 + b2n chanB then some 4
  else if !owner ∨ furHdrSlot bytes ≠ slot ∨ furHdrNode bytes ≠ node then some 3
  else if furHdrCycle bytes ≠ (regGet s (Reg.FUR_CYCLE d)).toNat ∨ furHdrMode bytes % 8 ≠ furMode s d then some 5
  else none

/-- Tests 1 to 5 of R230 on a frame whose start lies at `x` (1/256 ns after the cycle start) on port `p`. A frame that is not a Furrow frame is
charged to the furrow whose window its start lies in (DESIGN CHOICE, log entry 108). -/
def furTests (s : State) (d p : Nat) (chanB : Bool) (bytes : List Byte) (x : Int) : FurVerdict :=
  let at_ := fun (n : Nat) => ((n * 256 : Nat) : Int)
  let own := isFurrow bytes
  if x < 0 ∨ at_ (furSeg s d 12) ≤ x then (if own then .refuse 6 0 false else .ordinary)
  else if x < at_ (furSeg s d 4) then .refuse 6 0 false
  else if x < at_ (furSeg s d 8) then
    match nearestEntry s d x (furStatic s d p chanB) with
    | none => .refuse (if own then 1 else 6) 0 false
    | some r =>
      let fu := leAt r 2 1
      if windowMiss s d x r ≠ 0 then
        (if own then .refuse (if x < at_ (leAt r 8 4) then 0 else 1) fu true else .refuse 6 0 false)
      else if !own then .refuse 6 fu true
      else
        match furMatch s d chanB bytes true fu (leAt r 3 1) with
        | some k => .refuse k fu true
        | none => .join 0 fu (x - at_ (leAt r 8 4))
  else if !own then .refuse 6 0 false
  else
    let node := furNode s p
    let y := furDyn s d chanB
    let owner := decide (furPointed s d chanB = some node)
    let a := at_ (y.at_ + furSlotField s d 6)
    let g := at_ (furGet s d).guard
    if owner ∧ x < a - g then .refuse 0 node false
    else if owner ∧ a + g < x then .refuse 1 node false
    else
      match furMatch s d chanB bytes owner (0x8000 + node) node with
      | some k => .refuse k node false
      | none => .join 1 node 0

/-- The port a handle's frame came in by, as a member: domain, channel, port. -/
def furOf (s : State) (h : Nat) : Option (Nat × Bool × Nat) :=
  match frameGet s h with
  | some f => (match furMember s f.ingress with | some (d, b) => some (d, b, f.ingress) | none => none)
  | none => none

/-- The start that a port reported brings no admitted frame (R227, R233, R234): each of its furrows whose window test it passed gets its
STAR_NULL, the pointer of its channel no longer waits for it, and a coldstart of it is forgotten. -/
def furMiss (s : State) (d p : Nat) (chanB : Bool) : State :=
  let s := (furStatic s d p chanB).foldl (fun s r =>
    match slotGet s d (leAt r 2 1) chanB with
    | some y => if y.started then starNull s d (leAt r 2 1) chanB else s
    | none => s) s
  let y := furDyn s d chanB
  let s := if furPointed s d chanB = some (furNode s p) then furDynSet s d chanB { y with admitted := false } else s
  let x := furGet s d
  let win := match x.coldWin with
    | some w => decide (w.port = p) && decide (furState s d = 1)
    | none => false
  furSet s d { x with cold := x.cold.filter (fun c => decide (c.port ≠ p)), coldWin := if win then none else x.coldWin }

/-- The same for any port. -/
def furMissed (s : State) (p : Nat) : State :=
  match furMember s p with
  | some (d, chanB) => furMiss s d p chanB
  | none => s

/-- Refuse the frame of a handle (R230): counted by reason; a violation is counted for the port and charged to its furrow, and the third
of a run contains the port. A static furrow whose start had passed the window test gets its STAR_NULL now (R233). -/
def furRefuse (s : State) (h d p : Nat) (chanB : Bool) (r furrow : Nat) (slot : Bool) : State :=
  let s := frameMod s h (fun f => { f with
    dests := [], found := true
    furrow := some { dom := d, chanB := chanB, kind := 0, furrow := furrow, stamp := 0, refused := some r } })
  let s := furDrop s r
  let s :=
    if 6 < r then s
    else
      let s := count s (Reg.FUR_PORT_VIOL p) Reg.FUR_CAUSE
      let s := regSet s (Reg.FUR_PORT_LASTV p)
        (BitVec.ofNat 32 (r * 2 ^ 24 + furrow * 65536 + (regGet s (Reg.FUR_CYCLE d)).toNat % 65536))
      let s := if slot then slotMod s d furrow chanB (fun y => { y with refused := true }) else s
      let k := regFld s (Reg.FUR_PORT_STAT p) 5 4
      if furPortState s p = 3 ∧ 2 ≤ k then furContain s d p
      else regSetFld s (Reg.FUR_PORT_STAT p) 5 4 (min 2 (k + 1))
  furMiss s d p chanB

/-- Record the drift of an admitted static frame (R232). -/
def furDrift (s : State) (d p : Nat) (drift : Int) : State :=
  let ns := drift / 256
  let mag := min 65535 ns.natAbs
  let s := regSetFld s (Reg.FUR_PORT_DRIFT p) 15 0 (ns % 65536).toNat
  let s := if regFld s (Reg.FUR_PORT_DRIFT p) 31 16 < mag then regSetFld s (Reg.FUR_PORT_DRIFT p) 31 16 mag else s
  if regFld s (Reg.FUR_GUARD d) 31 16 * 256 < drift.natAbs then furRaise s d p 2 else s

/-- Admit the frame of a handle (R227, R231): it goes nowhere before its check has passed. -/
def furAdmit (s : State) (h d : Nat) (chanB : Bool) (kind furrow stamp : Nat) : State :=
  frameMod s h (fun f => { f with
    tc := furClass s d, dests := [], found := true
    furrow := some { dom := d, chanB := chanB, kind := kind, furrow := furrow, stamp := stamp, refused := none } })

/-- A coldstart that lost the decision is refused (R227). -/
def coldLost (s : State) (h d p : Nat) (chanB : Bool) : State :=
  raise (furCount (furRefuse s h d p chanB 10 0 false) d 3) Reg.FUR_CAUSE 9

/-- The header that makes two copies the same frame (R238): CYCLE and SLOT, and NODE_ID. -/
def furKey (bytes : List Byte) : Nat × Nat := (furHdrCycle bytes * 65536 + furHdrSlot bytes, furHdrNode bytes)

/-- The guardian on the first cell of a frame from member port `p` (R225, R230): refused, admitted, or left to the headgate as an
ordinary frame (answered true). A port with a speed fault is refused every frame, in every state of the domain (R218). -/
def furHeader (s : State) (h d p : Nat) (chanB : Bool) (bytes : List Byte) (ns32 : Word) (frac : Nat) : Bool × State :=
  let st := furPortState s p
  let dom := furGet s d
  let own := dom.cold.find? (fun c => decide (c.port = p) && decide (c.handle = noFrame))
  let lost := match own with
    | some c => c.lost
    | none => false
  if regBit s (Reg.FUR_PORT_STAT p) 3 then (false, furRefuse s h d p chanB 11 0 false)
  else if lost && isFurrow bytes then (false, coldLost s h d p chanB)
  else if furState s d ≠ 3 then
    if !isFurrow bytes then (true, s)
    else if furState s d = 1 ∧ furType bytes = 3 ∧ own.isSome then
      (false, furAdmit (furSet s d { dom with
        cold := dom.cold.map (fun c => if c.port = p then { c with handle := h } else c) }) h d chanB 2 0 0)
    else (false, furRefuse s h d p chanB 9 0 false)
  else
    let s := if isFurrow bytes then furSet s d { dom with seen := furKey bytes :: dom.seen } else s
    if st = 4 then (false, furRefuse s h d p chanB 8 0 false)
    else if st ≠ 3 then (false, furRefuse s h d p chanB 7 0 false)
    else
      let x := furRel s d ns32 frac
      match furTests s d p chanB bytes x with
      | .ordinary => (true, s)
      | .refuse r fu slot => (false, furRefuse s h d p chanB r fu slot)
      | .join kind fu drift =>
        let s := if kind = 0 then furDrift (slotMod s d fu chanB (fun y => { y with started := true })) d p drift
          else furDynSet s d chanB { furDyn s d chanB with admitted := true }
        (false, furAdmit s h d chanB kind fu ((ns32 + regGet s (Reg.FUR_OFFSET d)).toNat * 256 + frac))

/-- A start of frame is reported (R227, R230): in LISTEN a coldstart of a node that may send one; while RUNNING, a start inside a
window of its port. The frame carries the stamp reported. -/
def furReport (s : State) (p : Nat) (ns32 : Word) (frac : Nat) (cold : Bool) : State :=
  match furMember s p with
  | none => s
  | some (d, chanB) =>
    let s := portSet s p { portGet s p with furStart := some (ns32.toNat * 256 + frac) }
    let dom := furGet s d
    if regBit s (Reg.FUR_PORT_STAT p) 3 then s
    else if furState s d = 1 then
      if cold && dom.coldWin.isNone && furColdPort s d p chanB && decide (dom.cold.all (fun c => c.port ≠ p)) then
        let c : ColdStart := { port := p, chanB := chanB, node := furNode s p
                               stamp := (ns32 + regGet s (Reg.FUR_OFFSET d)).toNat * 256 + frac, handle := noFrame, lost := false
                               done := none }
        furSet s d { dom with cold := dom.cold ++ [c] }
      else s
    else if furState s d = 3 ∧ furPortState s p = 3 then
      let x := furRel s d ns32 frac
      let at_ := fun (n : Nat) => ((n * 256 : Nat) : Int)
      if at_ (furSeg s d 4) ≤ x ∧ x < at_ (furSeg s d 8) then
        match nearestEntry s d x (furStatic s d p chanB) with
        | some r => if windowMiss s d x r = 0 then slotMod s d (leAt r 2 1) chanB (fun y => { y with started := true }) else s
        | none => s
      else
        let y := furDyn s d chanB
        let a := at_ (y.at_ + furSlotField s d 6)
        let g := at_ dom.guard
        if furPointed s d chanB = some (furNode s p) ∧ a - g ≤ x ∧ x ≤ a + g then furDynSet s d chanB { y with admitted := true }
        else s
    else s

/-- The guardian decides among the coldstarts reported (R227): the earliest stamp, then the lower NODE_ID, then channel A. -/
def coldWinner (l : List ColdStart) : Option ColdStart :=
  l.foldl (fun a c =>
    match a with
    | none => some c
    | some b =>
      let t := (BitVec.ofNat 40 c.stamp - BitVec.ofNat 40 b.stamp).toInt
      if t < 0 ∨ (t = 0 ∧ (c.node < b.node ∨ (c.node = b.node ∧ b.chanB ∧ !c.chanB))) then some c else some b) none

/-- Relay a frame to its destinations, each of its cells decided now (R231). -/
def furRelay (s : State) (h : Nat) (ports : List Nat) : State :=
  match frameGet s h with
  | none => s
  | some f =>
    let s := frameSet s h (some { f with dests := destsOf ports, offered := 0 })
    let s := destsGo (chargesRelease (weirCells s h (cellsOf f.bytes)) h) h
    match frameGet s h with
    | some f => f.dests.foldl (fun s x => furRelayed s x.port) s
    | none => s

/-- The winning coldstart ends (R227): relayed to every member of both channels but its own port, and the domain runs from the stamp +
CS_LEAD_NS; when its check fails the domain listens on. -/
def coldEnd (s : State) (d h : Nat) (w : ColdStart) (fcs : Bool) : State :=
  let x := furGet s d
  if !fcs then furSet (furDrop (furCount s d 4) 12) d { x with cold := x.cold.filter (fun c => c.lost), coldWin := none }
  else
    let s := furSet s d { x with cold := x.cold.filter (fun c => c.lost) }
    let s := furRelay (count s (Reg.FUR_PORT_ADMIT w.port) Reg.FUR_CAUSE) h ((furMembers s d).filter (fun q => decide (q ≠ w.port)))
    let s := regSet s (Reg.FUR_START_NS32 d) (BitVec.ofNat 32 (w.stamp / 256 + furField s d 12 4))
    let s := if x.kept then s else regSetFld s (Reg.FUR_STAT d) 6 4 (furField s d 22 1)
    raise (regSet (furTo s d 3) (Reg.FUR_CYCLE d) 0) Reg.FUR_CAUSE 6

/-- A coldstart frame waits for the decision. -/
def coldWaits (s : State) (d h : Nat) : Bool :=
  decide (furState s d = 1) && (furGet s d).coldWin.isNone && (furGet s d).cold.any (fun c => decide (c.handle = h))

/-- It has ended before the decision: it is kept. -/
def coldHold (s : State) (d h : Nat) (fcs : Bool) : State :=
  let x := furGet s d
  furSet s d { x with cold := x.cold.map (fun c => if c.handle = h then { c with done := some fcs } else c) }

/-- A loser of the decision: a frame whose first cell is here is refused with CS_LOST, and let go if it has ended. -/
def coldOut (d : Nat) (s : State) (c : ColdStart) : State :=
  if c.handle = noFrame then s
  else
    let s := coldLost s c.handle d c.port c.chanB
    if c.done.isSome then frameLetGo s c.handle else s

/-- The decision at T + 40 ns; a winner that has ended already ends now. -/
def coldDecide (s : State) (d : Nat) : State :=
  let dom := furGet s d
  let w := coldWinner (dom.cold.filter (fun c => !c.lost))
  match w with
  | none => s
  | some win =>
    let due := (BitVec.ofNat 40 ((nowNs32 s + regGet s (Reg.FUR_OFFSET d)).toNat * 256
      + s.clk.frac.toNat / 2 ^ 24) - BitVec.ofNat 40 win.stamp).toInt
    if furState s d ≠ 1 ∨ dom.coldWin.isSome ∨ due < 40 * 256 then s
    else
      let out := dom.cold.filter (fun c => decide (c.port ≠ win.port) && !c.lost)
      let s := furSet s d { dom with
        coldWin := some win, cold := dom.cold.map (fun c => if c.port = win.port then c else { c with lost := true }) }
      let s := out.foldl (coldOut d) s
      match win.done with
      | some fcs => frameLetGo (coldEnd s d win.handle win fcs) win.handle
      | none => s

/-! ### The end of a frame (R230, R231, R238) -/

/-- Stages 5 and 6 on a first-valid copy (R231): stages 2, 3, 4 and 7 are skipped, so the key carries the port's PVID and no policer is
charged; the relay's class stands. -/
def furStages (s : State) (h : Nat) : State :=
  match frameGet s h with
  | none => s
  | some f =>
    let vid := portPvid s f.ingress
    match streamFind s (streamKey f.bytes (parseFrame f.bytes false false) vid) with
    | none => if isReserved (dstMac f.bytes) then markDrop s h 7 else s
    | some i =>
      let r := streamGet s i
      let act := leAt r 1 1
      let auth := leAt r 2 1
      let s := frameSet s h (some { f with
        stream := i, action := act % 8, authMode := auth % 4, authAlg := nbits auth 4 2, keyIndex := leAt r 3 1
        context := leAt r 20 2, confStream := leAt r 22 2 % 1024 })
      if nbit act 3 then markDrop s h 6 else s

/-- Where an admitted frame goes when its check passes (R231): the other members of its channel that are not DOWN; after a break, those that
were not, which is those whose link is up at the domain's speed (R228). -/
def furTargets (s : State) (d p : Nat) (chanB : Bool) : List Nat :=
  let l := (furChannel s d chanB).filter (fun q => decide (q ≠ p))
  if furState s d = 3 then furUp s l
  else l.filter (fun q => portLink s q && portEn s q && !regBit s (Reg.FUR_PORT_STAT q) 3)

/-- The busy time of a channel after an admitted dynamic frame that ended at `e` (1/256 ns), in whole ns rounded up: E + W + 2000
(R234). -/
def furBusy (s : State) (d len : Nat) (e : Int) : Nat :=
  let w := (len + 20) * byteTime (furSpeed s d)
  ((e * 100 + ((w * 256 : Nat) : Int) + 2000 * 25600 + 25599) / 25600).toNat

/-- The end of an admitted frame (R230, R231, R234, R238). `fcs` says that its check passed; `e` is its end in 1/256 ns after the cycle
start. Answers whether the frame goes on to its internal destinations. -/
def furEnd (s : State) (h d p : Nat) (chanB : Bool) (x : FurRx) (bytes : List Byte) (fcs : Bool) (e : Int) : Bool × State :=
  if x.kind = 2 then
    match (furGet s d).coldWin with
    | some w =>
      if w.port = p ∧ furState s d = 1 then (false, coldEnd s d h w fcs) else (false, furRefuse s h d p chanB 9 0 false)
    | none => (false, furRefuse s h d p chanB 9 0 false)
  else
    let current := decide (furState s d = 3) && decide (furHdrCycle bytes = (regGet s (Reg.FUR_CYCLE d)).toNat)
    let len := frameLen bytes
    let busy := furBusy s d len e
    let late :=
      if x.kind = 0 then
        match (furEntries s d).find? (fun r => decide (entryKind r = 0) && decide (leAt r 2 1 = x.furrow)) with
        | some r => decide ((((leAt r 8 4 + leAt r 6 2 * 8) * 256 : Nat) : Int) < e)
        | none => false
      else decide (furSeg s d 12 < busy)
    let move := fun (s : State) =>
      if x.kind = 1 ∧ current then
        let y := furDyn s d chanB
        furDynSet s d chanB { index := y.index + 1, at_ := furBoundary s d busy, busy := busy, admitted := false }
      else s
    if !fcs then
      let s := move s
      (false, if x.kind = 0 ∧ current then starNull (slotMod s d x.furrow chanB (fun y => { y with invalid := true })) d x.furrow chanB
        else s)
    else if current && late then (false, furRefuse s h d p chanB 2 x.furrow (decide (x.kind = 0)))
    else
      let s := move s
      let s := count s (Reg.FUR_PORT_ADMIT p) Reg.FUR_CAUSE
      let s := regSetFld s (Reg.FUR_PORT_STAT p) 5 4 0
      let s := if x.kind = 0 ∧ current then slotMod s d x.furrow chanB (fun y => { y with valid := true }) else s
      let s := furRelay s h (furTargets s d p chanB)
      let dom := furGet s d
      let key := furKey bytes
      let first := !dom.firsts.contains key
      let mode := furHdrMode bytes
      let s := furSet s d { dom with
        reqs := if current then (nbit mode 7, nbits mode 6 4) :: dom.reqs else dom.reqs
        firsts := if first then key :: dom.firsts else dom.firsts }
      if first then
        let s := furCount s d (7 + b2n chanB)
        if furType bytes = 2 then (false, s) else (true, furStages s h)
      else (false, s)

/-! ### Deadlines, minislots and modes -/

/-- The deadline of a STAR_NULL (R233): A + G + 40 ns has come and no start from the owner's port has passed the window test. -/
def furNullDue (s : State) (d furrow : Nat) (chanB : Bool) : State :=
  match slotGet s d furrow chanB, (furEntries s d).find? (fun r => decide (entryKind r = 0) && decide (leAt r 2 1 = furrow)) with
  | some x, some r =>
    let due := (leAt r 8 4 + entryGuard s d r + 40) * 256
    if furState s d = 3 ∧ x.started = false ∧ (due : Int) ≤ furNow s d then starNull s d furrow chanB else s
  | _, _ => s

/-- A minislot boundary of a channel (R234): without an admitted start by the window end plus 40 ns, the pointer moves to the next ID. -/
def furMinislot (s : State) (d : Nat) (chanB : Bool) : State :=
  let y := furDyn s d chanB
  let now := (furNow s d / 256).toNat
  let ms := furSlotField s d 4
  let base := furSeg s d 8
  if furState s d ≠ 3 ∨ y.admitted ∨ ms = 0 ∨ (furPointed s d chanB).isNone ∨ now < base then s
  else
    let b := base + (now - base) / ms * ms
    if y.at_ + furSlotField s d 6 + (furGet s d).guard + 40 ≤ b then
      furDynSet s d chanB { y with index := y.index + 1, at_ := b }
    else s

/-- The mode that the nodes agree on (R239). -/
def furAgreed (s : State) (d : Nat) : Option Nat :=
  match (furGet s d).reqs with
  | [] => none
  | (v, m) :: t =>
    if v && t.all (fun r => decide (r = (true, m))) && decide (m ≠ furMode s d) && (furModeRec s d m).isSome then some m else none

/-- The evaluation at the end of the dynamic segment (R239 to R241): a forced mode overrides the nodes' agreement. -/
def furEvaluate (s : State) (d : Nat) : State :=
  let x := furGet s d
  if furState s d ≠ 3 ∨ x.evaluated ∨ x.coldWin.isSome ∨ furNow s d < ((furSeg s d 12 * 256 : Nat) : Int) then s
  else
    let m := match x.forced with
      | some m => some m
      | none => furAgreed s d
    let s := furSet s d { x with evaluated := true, forced := none }
    match m with
    | some m =>
      if regBit s (Reg.FUR_STAT d) 11 then s
      else
        let s := regSetFld (regSetFld s (Reg.FUR_STAT d) 10 8 m) (Reg.FUR_STAT d) 11 11 1
        raise (regSet s (Reg.FUR_EFFECTIVE d) (regGet s (Reg.FUR_CYCLE d) + 2)) Reg.FUR_CAUSE 3
    | none => s

/-- FUR_MODE_CMD with GO (R241). -/
def furForce (s : State) (d m : Nat) : State :=
  if (furModeRec s d m).isNone ∨ m = furMode s d ∨ regBit s (Reg.FUR_STAT d) 11 ∨ furState s d ≠ 3 then raise s Reg.FUR_CAUSE 7
  else furSet s d { furGet s d with forced := some m }

/-- FUR_PORT_CMD.CONTAIN (R235, R236). -/
def furCmdContain (s : State) (p : Nat) : State :=
  match furMember s p with
  | none => raise s Reg.FUR_CAUSE 7
  | some (d, _) =>
    let st := furPortState s p
    if st ≤ 1 then raise s Reg.FUR_CAUSE 7 else if st = 3 then furContain s d p else s

/-- FUR_PORT_CMD.READMIT (R235, R236). -/
def furCmdReadmit (s : State) (p : Nat) : State :=
  let st := furPortState s p
  if (furMember s p).isNone ∨ st ≤ 1 then raise s Reg.FUR_CAUSE 7 else if st = 2 then s else furPortTo s p 2

/-! ### The gate of member ports (R222) -/

/-- Whether a member port of a running domain may start a frame of class `c` and `len` bytes now: within the free segment, or for TT_CLASS
at any time, so that with GUARD_NS it ends before the next CYCLE_START. -/
def furGate (s : State) (p c len : Nat) : Bool :=
  match furMember s p with
  | none => true
  | some (d, _) =>
    if furState s d ≠ 3 then true
    else
      let now := furNow s d
      let b := byteTime (portSpeed s p)
      let limit : Int := if now < 0 then 0 else furCycleNs s d
      let fits := decide (now * 100 + (((len + 28) * b + (furGet s d).guard * 100) * 256 : Nat) ≤ limit * 25600)
      let free := decide (now < 0) || decide (((furSeg s d 12 * 256 : Nat) : Int) ≤ now)
      fits && (free || decide (c = furClass s d))

/-- The departure that a Furrow frame with DEP set carries (R224, R105): ns32 in domain time and FRAC. -/
def furDeparture (s : State) (p : Nat) (bytes : List Byte) (ns32 : Word) (frac : Nat) : List Byte :=
  if isFurrow bytes && nbit (beAt bytes 34 1) 0 then
    let d := match furMember s p with
      | some (d, _) => d
      | none => beAt bytes 15 1 / 64
    patch bytes 26 (beBytes 4 (ns32 + regGet s (Reg.FUR_OFFSET d)).toNat ++ beBytes 1 frac)
  else bytes

end Sys2Proof.Machine
end

