-- ==== Sys2Proof/Machine/EgressOps.lean ====
section
/-!
DEFINITION. Egress as shared operations: selection (R195, R196), editing (R155, R167, R197, R201), one-step insertions (R105 to R107),
the start and the end of a transmission (R108, R109, R113, R136, R188).
-/
namespace Sys2Proof.Machine

/-! ### Stamps (R101) -/

/-- The clock in 1/256 ns, modulo 2⁴⁰. -/
def clk256 (s : State) : Int := ((s.clk.ns32.toNat * 256 + s.clk.frac.toNat / 2 ^ 24 : Nat) : Int)

/-- A stamp in 1/256 ns as ns32 and FRAC. -/
def stampOf (t : Int) : Word × Nat := (BitVec.ofInt 32 (t / 256), (t % 256).toNat)

/-- The corrected stamp of a frame received on a port at a raw stamp, and of one received now. -/
def rxStampAt (s : State) (p : Nat) (raw : Int) : Word × Nat :=
  stampOf (raw - (if p < 200 then (regGet s (Reg.TIM_LAT_RX p)).toInt else 0))
def rxStamp (s : State) (p : Nat) : Word × Nat := rxStampAt s p (clk256 s)

/-- Preamble and start-of-frame delimiter at a port's speed, in 1/256 ns (R127). -/
def preamble256 (s : State) (p : Nat) : Nat := byteTime (portSpeed s p) * 2048 / 100

/-- How far the corrected stamp of a frame that a port starts now lies after the clock, in 1/256 ns. -/
def txLead (s : State) (p : Nat) : Int := preamble256 s p + (regGet s (Reg.TIM_LAT_TX p)).toInt

/-- The corrected stamp of a frame that a port starts now. -/
def txStamp (s : State) (p : Nat) : Word × Nat := stampOf (clk256 s + txLead s p)

/-! ### Editing -/

/-- A frame record of a handle is one of the star or of a Furrow node, which carries no tag (R223). -/
def isFurrowFrame (f : Frame) : Bool :=
  f.furrow.isSome || (match f.origin with | .star _ => true | _ => false)

/-- A frame carries a tag on a port: the port's PVID is not its VID (R155). -/
def tagsOn (s : State) (p : Nat) (f : Frame) : Bool := !isFurrowFrame f && decide (portPvid s p ≠ f.vid)

/-- The VLAN tag by the port's PVID (R155), behind a recognised HSR tag when `hsr`; the drop-eligible bit of a stored tag stays. -/
def egressTag (s : State) (p : Nat) (f : Frame) (hsr : Bool) (bytes : List Byte) : List Byte :=
  if isFurrowFrame f then bytes
  else if portPvid s p = f.vid then retag bytes hsr none
  else
    let o := if hsr then 18 else 12
    let dei := if beAt bytes o 2 = 0x8100 then beAt bytes (o + 2) 2 / 4096 % 2 else 0
    retag bytes hsr (some (f.pcp % 8 * 8192 + dei * 4096 + f.vid % 4096))

/-- The bytes of a frame as a front port or uplink sends it, before one-step insertions and without frame check (R155, R167, R197). A
ring transit keeps its tag; a trailer is the last thing in the frame, so padding comes before it. -/
def egressBytes (s : State) (p : Nat) (f : Frame) : List Byte :=
  let x := portSetNo s p
  let ring := isRingPort s p
  let prp := isPrpPort s p
  if ring && ringTransit s f x then padTo 60 (egressTag s p f true f.bytes)
  else
    let b := egressTag s p f false (stripRed f.bytes f.red)
    let seq := match f.numbers.find? (fun n => decide (n.1 = x)) with
      | some n => n.2
      | none => 0
    let lanB := decide (portRole s p = 2) || decide (portRole s p = 4)
    if ring then padTo 60 (insertHsr b lanB seq)
    else if prp then insertPrp (padTo 54 b) lanB seq
    else padTo 60 b

/-- The bytes of a queue entry as the port sends them: a siphon copy goes as stored, cut to its SNAP (R200, R201). -/
def entryBytes (s : State) (p : Nat) (e : QEntry) : List Byte :=
  match frameGet s e.handle with
  | none => []
  | some f =>
    match e.siphon with
    | some (_, snap, _) =>
      let b := if 200 ≤ f.ingress then padTo 60 f.bytes else f.bytes
      if snap = 0 then b else b.take snap
    | none => egressBytes s p f

/-- PRT_MAXLEN. -/
def maxLen (s : State) (p : Nat) : Nat := regFld s (Reg.PRT_MAXLEN p) 13 0

/-- The port inserts a VLAN tag, an HSR tag or a PRP trailer into a frame (R155, R167). -/
def inserts (s : State) (p : Nat) (f : Frame) : Bool :=
  let transit := isRingPort s p && ringTransit s f (portSetNo s p)
  let o := if (match f.red with | some t => t.hsr | none => false) then 18 else 12
  (tagsOn s p f && decide (beAt f.bytes o 2 ≠ 0x8100)) || (isRingPort s p && !transit) || isPrpPort s p

/-- Insertion takes the frame above the egress port's PRT_MAXLEN (R167, R197). -/
def tooLong (s : State) (p : Nat) (e : QEntry) : Bool :=
  match frameGet s e.handle with
  | none => false
  | some f => e.siphon.isNone && inserts s p f && decide (maxLen s p < frameLen (entryBytes s p e))

/-! ### One-step insertions (R105 to R107) -/

/-- originTimestamp of a Sync and the departure FRAC in its correctionField; `lead` is how far the departure lies after the clock. -/
def putOrigin (s : State) (lead : Int) (bytes : List Byte) (h : Nat) (u : Option (Nat × Bool)) : List Byte :=
  if ptpType bytes h ≠ 0 then bytes
  else
    let c := clkAdd s.clk (lead * 2 ^ 24)
    let b := ptpPatch bytes u (h + 34) (beBytes 6 c.sec.toNat ++ beBytes 4 c.ns.toNat)
    ptpCorrect b h u (((c.frac.toNat / 2 ^ 24 * 256 : Nat) : Int))

/-- CORR_ADD against a reference: the difference in units of 2⁻¹⁶ ns. -/
def corrDelta (ns32 refNs32 : Word) (frac refFrac : Nat) : Int :=
  (ns32 - refNs32).toInt * 65536 + ((frac : Int) - refFrac) * 256

/-- RESIDENCE applies between two ports of the transparent clock, by its mode. -/
def residenceOn (s : State) (p : Nat) (f : Frame) (type : Nat) : Bool :=
  decide (f.ingress < 200) && s.clk.tc.ports.getLsbD f.ingress && s.clk.tc.ports.getLsbD p
    && ((decide (s.clk.tc.mode = 1) && decide (type ≤ 1)) || (decide (s.clk.tc.mode = 2) && decide (type = 0)))

/-- Every insertion into a frame that departs from port `p` `lead` after the clock (R105, R224). -/
def insertStamps (s : State) (p : Nat) (f : Frame) (bytes : List Byte) (lead : Int) : List Byte :=
  let t := stampOf (clk256 s + lead)
  let b := furDeparture s p bytes t.1 t.2
  match ptpAt b with
  | none => b
  | some (h, u) =>
    let asked := match f.origin with
      | .host _ _ _ => true
      | .engine _ _ _ => true
      | _ => false
    let b := if asked && nbit f.flags 1 then putOrigin s lead b h u else b
    let b := if asked && nbit f.flags 2 then ptpCorrect b h u (corrDelta t.1 f.refNs32 t.2 f.refFrac) else b
    if residenceOn s p f (ptpType b h) then
      let delay : Int := if s.clk.tc.mode = 2 then (((regGet s (Reg.TIM_PDELAY f.ingress)).toNat * 256 : Nat) : Int) else 0
      ptpCorrect b h u (corrDelta t.1 f.ns32 t.2 f.frac + delay)
    else b

/-! ### Starting a frame -/

/-- The delay of a looped frame from its transmission to its reception, in 10 ps and in 1/256 ns rounded down (R128). -/
def loopDelay (p : Nat) : Nat := if p < 192 then 5120 else 4096
def loopDelay256 (p : Nat) : Nat := loopDelay p * 256 / 100

/-- A frame that a port starts to send goes to its own receive path when the port is looped (R128); `sfd` is the instant of its start-of-frame
delimiter in 1/256 ns. -/
def loopPut (s : State) (p : Nat) (bytes : List Byte) (sfd : Int) (fate : Option (Option Nat)) : State :=
  let x := portGet s p
  if x.loop then
    portSet s p { x with looped := x.looped ++ [{
      bytes := bytes, ready := runUnits s + loopDelay p, stamp := sfd + loopDelay256 p, fate := fate }] }
  else s

/-- Start a frame on an idle port, to depart `lead` (1/256 ns) after the clock: edited, stamped, with its two-step entry taken (R108, R109);
the first selection for a port of an egress bitmap earns its siphon copies (R200). -/
def txStartAt (s : State) (p : Nat) (e : QEntry) (bytes : List Byte) (late : Bool) (lead : Int) : State :=
  match frameGet s e.handle with
  | none => s
  | some f =>
    let t := stampOf (clk256 s + lead)
    let copy := e.siphon.isSome
    let b := if copy then bytes else insertStamps s p f bytes lead
    let wants := !copy && nbit f.flags 3 && (match f.origin with
      | .host _ _ _ => true
      | .engine _ _ _ => true
      | _ => false)
    let r := if wants then ts2Take s p f.tag t.1 t.2 else (0, s)
    let s := loopPut r.2 p b (clk256 s + lead - (regGet s (Reg.TIM_LAT_TX p)).toInt) none
    let s := portSet s p { portGet s p with
      tx := some { handle := e.handle, bytes := b, ns32 := t.1, frac := t.2, late := late, siphon := copy, twoStep := r.1 } }
    if copy || f.cut.isSome then s else stagedDrop (siphonEgress s e.handle p) e.handle

/-- Start a frame now. -/
def txStart (s : State) (p : Nat) (e : QEntry) (bytes : List Byte) (late : Bool) : State := txStartAt s p e bytes late (txLead s p)

/-! ### Selection (R195, R196) -/

/-- The port may start a frame: link up, not flushing, domain on, nothing in transmission. -/
def portIdle (s : State) (p : Nat) : Bool :=
  domOn s (portDomain p) && portLink s p && !portFlushing s p && (portGet s p).tx.isNone

/-- Launch the CYCLE_START of a cycle that starts now on a member port whose line is free: its departure stamp lies within 20 ns of the cycle
start, where is a free value (R221, log entry 7). One that finds its line busy stays at the head of its class. -/
def cycleLaunch (d : Nat) (s : State) (p : Nat) : State :=
  let q := queueKey p (furClass s d) (furField s d 3 1)
  match queueGet s q with
  | [] => s
  | e :: rest =>
    let own := match frameGet s e.handle with
      | some f => decide (f.origin = .star d) && decide (beAt f.bytes 14 1 = 0x18)
      | none => false
    if own && portIdle s p then
      let r := freePick s 10241
      txStartAt (queueSet r.2 q rest) p e (entryBytes s p e) false (r.1 - 5120 - furNow s d)
    else s

/-- The same on every member port that is not DOWN. -/
def cycleSend (s : State) (d : Nat) : State := (furUp s (furMembers s d)).foldl (cycleLaunch d) s

/-- A frame that is not whole yet may start only by early launch (R135). -/
def wholeEnough (s : State) (p : Nat) (e : QEntry) : Bool :=
  match frameGet s e.handle with
  | none => true
  | some f => f.whole || (regBit s (Reg.PRT_TXSTART p) 31 && !regBit s (Reg.PRT_TXSTART p) 16)

/-- A class of a front port or uplink is eligible (R195). -/
def classEligible (s : State) (p d c : Nat) : Bool :=
  match queueGet s (queueKey p c d) with
  | [] => false
  | e :: _ =>
    let n := frameLen (entryBytes s p e)
    !classPaused s p c && launchClear s p n && furGate s p c n && wholeEnough s p e

/-- SCHED of a class. -/
def classSched (s : State) (d c : Nat) : Nat := regFld s (Reg.CIS_SCHED_CLASS d c) 7 0

/-- The pointer, and the deficit of a class, of an output in a district. -/
def dwrrPtr (s : State) (p d : Nat) : Nat := tabGet (fun _ => 7) s.cis.dwrrPtr (p * 8 + d)
def deficitGet (t : Tab Nat) (q : Nat) : Nat := tabGet (fun _ => 0) t q
def deficitSet (t : Tab Nat) (q v : Nat) : Tab Nat := tabSet (fun _ => 0) t q v

/-- The next DWRR class at or below a pointer, wrapping. -/
def dwrrNext (s : State) (d ptr : Nat) : Option Nat :=
  ((List.range 8).map (fun k => (ptr + 8 - k) % 8)).find? (fun c => decide (classSched s d c ≠ 0))

/-- The loop of R196 over the DWRR classes: the class served, the deficits and the pointer it leaves. `n` bounds the turns: 72 rounds of
at least 128 bytes cover the longest frame. -/
def dwrrLoop (s : State) (p d : Nat) (elig : Nat → Bool) (len : Nat → Nat) : Nat → Nat → Tab Nat → Option Nat × Tab Nat × Nat
  | 0, ptr, t => (none, t, ptr)
  | n + 1, ptr, t =>
    match dwrrNext s d ptr with
    | none => (none, t, ptr)
    | some c =>
      let q := queueKey p c d
      let after := (c + 7) % 8
      if !elig c then
        dwrrLoop s p d elig len n after (if (queueGet s q).isEmpty then deficitSet t q 0 else t)
      else if len c ≤ deficitGet t q then (some c, deficitSet t q (deficitGet t q - len c), ptr)
      else dwrrLoop s p d elig len n after (deficitSet t q (deficitGet t q + classSched s d c * 128))

/-- The class that an output serves next in a district, with the deficits it leaves: the highest eligible strict class, else the DWRR
group (R195, R196). The length of a head is the one it is to be sent with (DESIGN CHOICE, log entry 56). -/
def classPick (s : State) (p d : Nat) (elig : Nat → Bool) : Option (Nat × State) :=
  let up := (List.range 8).reverse.filter elig
  match up.find? (fun c => decide (classSched s d c = 0)) with
  | some c => some (c, s)
  | none =>
    if up.isEmpty then none
    else
      let len := fun (c : Nat) => match (queueGet s (queueKey p c d)).head? with
        | some e => frameLen (entryBytes s p e)
        | none => 0
      match dwrrLoop s p d elig len 700 (dwrrPtr s p d) s.cis.deficit with
      | (some c, t, ptr) =>
        some (c, { s with cis := { s.cis with deficit := t, dwrrPtr := tabSet (fun _ => 7) s.cis.dwrrPtr (p * 8 + d) ptr } })
      | _ => none

/-- A frame is stale at its selection (R198). -/
def isStale (s : State) (q : Nat) (e : QEntry) : Bool :=
  let limit := maxAge s (q % 8) (q / 8 % 8)
  decide (limit ≠ 0) && decide (limit / 1000 < (s.run - e.since) / 1000)

/-- The next entry that an output sends from a district, with its class, taken off its queue: stale heads are dropped and the selection made
again. `n` bounds the turns. -/
def entryPick (p d : Nat) (elig : State → Nat → Bool) : Nat → State → Option (Nat × QEntry) × State
  | 0, s => (none, s)
  | n + 1, s =>
    match classPick s p d (elig s) with
    | none => (none, s)
    | some (c, t) =>
      let q := queueKey p c d
      match queueGet s q with
      | [] => (none, s)
      | e :: rest => if isStale s q e then entryPick p d elig n (queueAge s p q false) else (some (c, e), queueSet t q rest)

/-- The entries waiting for a port. -/
def portBacklog (s : State) (p : Nat) : Nat := (portQueues s p).foldl (fun a q => a + (queueGet s q).length) 0

/-- A pause frame waits for its boundary and may start (R134, R195). -/
def pauseReady (s : State) (p : Nat) : Bool :=
  !(portGet s p).pauseOut.isEmpty && pauseMaySend s p && decide (pauseMode s p = 1 ∨ pauseMode s p = 2) && launchClear s p 64

/-- The calendar frame of a port that is due: its stamp would not lie before its target, and neither pause nor an invalid replica holds it
(R100, R111, R113). -/
def launchDue (s : State) (p : Nat) : Option CalEntry :=
  match calFirst s p with
  | none => none
  | some e =>
    let held := match frameGet s e.handle with
      | some f => classPaused s p f.tc
      | none => false
    if replicaReady s (portDomain p - 1) && (targetIn s e.target * 256 ≤ preamble256 s p + s.clk.frac.toNat / 2 ^ 24) && !held then
      some e
    else none

/-- Select and start the next frame of a port from its queues; a frame that insertion makes too long is dropped at the port (R195 to
R198). -/
def egressLoop (p : Nat) : Nat → State → State
  | 0, s => s
  | n + 1, s =>
    match portDistrict s p with
    | none => s
    | some d =>
      match entryPick p d (fun s c => classEligible s p d c) (portBacklog s p + 1) s with
      | (none, s) => s
      | (some (_, e), s) =>
        if tooLong s p e then egressLoop p n (entryGone (hdgDrop s 15) p e 5)
        else txStart s p e (entryBytes s p e) false

/-- EGRESS_SELECT: what R195 puts before the queues goes first. -/
def egressSelect (s : State) (p : Nat) : State :=
  if portIdle s p && !pauseReady s p && (launchDue s p).isNone then egressLoop p (portBacklog s p + 1) s else s

/-- LAUNCH_DUE (R111, R113): sent, sent late, or dropped as late. -/
def egressLaunch (s : State) (p : Nat) : State :=
  if portIdle s p && !pauseReady s p then
    match launchDue s p with
    | none => s
    | some e =>
      let g := portGroup p
      let pol := calPolicy s g
      let late := decide ((pol.tol * 256 : Nat) + targetIn s e.target * 256 < preamble256 s p + s.clk.frac.toNat / 2 ^ 24)
      if late && pol.drop then calGone (raise (timCount s (Reg.TIM_CAL_DROP g)) Reg.TIM_CAUSE 8) e 7
      else
        let q : QEntry := { handle := e.handle, since := s.run, siphon := none }
        if tooLong s p q then calGone (hdgDrop s 15) e 5
        else
          let s := if late then raise (timCount s (Reg.TIM_CAL_LATE g)) Reg.TIM_CAUSE 7 else s
          txStart (calRemove s e) p q (entryBytes s p q) late
  else s

/-! ### The end of a frame -/

/-- Count a frame sent with a valid check (Table 5-4). -/
def txCounted (s : State) (p : Nat) (bytes : List Byte) : State :=
  let len := frameLen bytes
  let mac := dstMac bytes
  let s := portOctets (portOctets s p 23 len) p 24 len
  let s := portCount s p (if mac = 0xFFFFFFFFFFFF then 27 else if isGroup mac then 26 else 25)
  let s := if beAt bytes (if beAt bytes 12 2 = 0x892F then 18 else 12) 2 = 0x8100 then portCount s p 30 else s
  portCount s p (31 + sizeBucket len)

/-- The status of a frame whose transmission ended: LATE, TS_LOST or OK, the first of Table 17-6 that applies. -/
def txStatus (t : TxFrame) : Nat := if t.late then 6 else if t.twoStep = 2 then 8 else 0

/-- Release what a transmission held. -/
def txRelease (s : State) (p : Nat) (t : TxFrame) : State :=
  let s := portSet s p { portGet s p with tx := none }
  if t.siphon then refDrop s t.handle else refDrop (destRemove s t.handle p) t.handle

/-- The end of a transmission (R108, R128, R431): a frame that is not whole yet, or a cut-through frame whose check is still open, goes
on. -/
def txEnd (s : State) (p : Nat) : State :=
  match (portGet s p).tx with
  | none => s
  | some t =>
    match frameGet s t.handle with
    | none => txRelease s p t
    | some f =>
      if !f.whole || (decide (f.cut = some p) && !f.passed) then s
      else
        let s := loopEnd (lineFrame (txCounted s p t.bytes) p t.bytes false) p none
        let s := if !t.siphon && completesAtEnd f then
            frameComplete s t.handle (txStatus t) (if t.twoStep = 1 then some (p, some (t.ns32, t.frac)) else none)
          else s
        txRelease s p t

/-- End the frame in transmission with an inverted check after `sent` bytes (R136, R188). -/
def txBreak (s : State) (p sent n : Nat) : State :=
  match (portGet s p).tx with
  | none => s
  | some t =>
    let b := t.bytes.take sent
    txRelease (loopEnd (lineFrame (portOctets (portCount s p n) p 24 (frameLen b)) p b true) p (some sent)) p t

/-- An underrun (R136): the frame is freed as UNDERRUN, and THRESH rises by 256. -/
def txUnderrun (s : State) (p sent : Nat) : State :=
  match (portGet s p).tx with
  | none => s
  | some t =>
    match frameGet s t.handle with
    | none => s
    | some f =>
      if f.whole then s
      else
        let s := match f.origin with
          | .host fn ring index =>
            let h := fnGet s fn
            let gone := fun (d : TxDesc) => if d.index = index then { d with bytes := [] } else d
            let l := (tabGet (fun _ => []) h.tx ring).map gone
            fnSet s fn { h with tx := tabSet (fun _ => []) h.tx ring l }
          | _ => s
        let s := txBreak (frameComplete s t.handle 9 (txUnstamped p t)) p sent 38
        let s := portRaise s p 5
        let r := Reg.PRT_TXSTART p
        let th := min 9216 (regFld s r 13 0 + 256)
        let s := regSetFld s r 13 0 th
        if maxLen s p ≤ th then portRaise (regSetFld s r 16 16 1) p 6 else s

/-- A bad cut-through frame is stomped (R13, R188). -/
def txStomp (s : State) (p sent : Nat) : State :=
  raise (count (txBreak s p sent 39) Reg.CIS_STOMP Reg.CIS_CAUSE) Reg.CIS_CAUSE 3

/-! ### Pause frames sent (R133, R134) -/

/-- The states that a waiting pause frame names: every stop that persists, or the released ones, as the mode and PFC_TX_MASK have
them. -/
def pauseNames (s : State) (p : Nat) (bits : BitVec 9) (stop : Bool) : List Nat :=
  let b := if stop then (portGet s p).stop else bits
  if pauseMode s p = 1 then (if b.getLsbD 8 then [8] else [])
  else (List.range 8).filter (fun c => b.getLsbD c && regBit s (Reg.PRT_FC p) (24 + c))

/-- REFRESH as R134 replaces it. -/
def pauseRefresh (s : State) (p : Nat) : Nat :=
  let q := regFld s (Reg.PRT_FC_TX p) 15 0
  let r := regFld s (Reg.PRT_FC_TX p) 31 16
  if r = 0 ∨ q ≤ r then max 1 (q / 2) else r

/-- A pause frame as sent (R133; opcodes and fields of R126): class-enable vector and times under PFC. -/
def pauseBytes (s : State) (p : Nat) (names : List Nat) (quanta : Nat) : List Byte :=
  let head := beBytes 6 0x0180C2000001 ++ beBytes 6 (portMac s p) ++ beBytes 2 0x8808
  if pauseMode s p = 1 then padTo 60 (head ++ beBytes 2 1 ++ beBytes 2 quanta)
  else
    let vec := names.foldl (fun a n => a + 2 ^ n) 0
    padTo 60 (head ++ beBytes 2 0x0101 ++ beBytes 2 vec
      ++ (List.range 8).flatMap (fun c => beBytes 2 (if names.contains c then quanta else 0)))

/-- A stop that may not be sent now is due as soon as it may (DESIGN CHOICE, log entry 100): with no stop frame sent before, nothing counts
its refresh. -/
def stopLater (s : State) (x : PortX) (stop : Bool) : Option Nat :=
  if stop && x.refreshAt.isNone then some (runUnits s) else x.refreshAt

/-- Send the first waiting pause frame: nothing leaves when there is nothing to name, when pause may not be sent, or for a stop with
QUANTA 0. -/
def pauseSend (s : State) (p : Nat) : State :=
  let x := portGet s p
  match x.pauseOut with
  | [] => s
  | (bits, stop) :: rest =>
    if !portIdle s p then s
    else if !pauseMaySend s p || decide (pauseMode s p ≠ 1 ∧ pauseMode s p ≠ 2) then
      portSet s p { x with pauseOut := rest, refreshAt := stopLater s x stop }
    else if !launchClear s p 64 then s
    else
      let quanta := regFld s (Reg.PRT_FC_TX p) 15 0
      let names := pauseNames s p bits stop
      let x := { x with pauseOut := rest }
      if names.isEmpty || (stop && decide (quanta = 0)) then portSet s p { x with refreshAt := stopLater s x stop }
      else
        let time := if stop then quanta else 0
        let refresh := if stop then some (runUnits s + pauseRefresh s p * quantumTime (portSpeed s p)) else x.refreshAt
        let b := pauseBytes s p names time
        let s := loopPut (portSet s p { x with refreshAt := refresh }) p b (clk256 s + preamble256 s p) (some none)
        let s := if x.loop then s else emit s (.pause p (names.map (fun n => (n, time))) b)
        portCount (portOctets (portOctets s p 23 64) p 24 64) p (if pauseMode s p = 1 then 28 else 29)

/-- A stop that persists can be sent on the port now: TX_EN, a mode, a link, a class within the mask and QUANTA other than 0. -/
def stopMaySend (s : State) (p : Nat) : Bool :=
  portLink s p && pauseMaySend s p && decide (pauseMode s p = 1 ∨ pauseMode s p = 2) && decide (regFld s (Reg.PRT_FC_TX p) 15 0 ≠ 0)
    && !(pauseNames s p 0 true).isEmpty

/-- The refresh of a stop request that persists falls due (R134); it stays due while it may not be sent. -/
def pauseRepeat (s : State) (p : Nat) : State :=
  let x := portGet s p
  match x.refreshAt with
  | some t =>
    if t ≤ runUnits s ∧ x.stop ≠ 0 ∧ stopMaySend s p then
      portSet s p { x with refreshAt := none, pauseOut := x.pauseOut ++ [(x.stop, true)] }
    else s
  | none => s

end Sys2Proof.Machine
end

