-- ==== Sys2Proof/Machine/IngressOps.lean ====
section
/-!
DEFINITION. Reception as shared operations: the first cell (R101, R149, R230), further cells (R180, R187, R189), and the end of a frame
(R125, R166, R170, R181, R188).
-/
namespace Sys2Proof.Machine

/-- A drop that the cistern has counted already (R180): no reason of Table 6-9. -/
def droppedInCistern : Nat := 32

/-- Let a frame go undelivered: no destination keeps a charge. -/
def frameDiscard (s : State) (h : Nat) : State := frameLetGo (frameMod s h (fun f => { f with dests := [] })) h

/-- The transmission of a frame in cut-through is stomped after `sent` bytes, if it still runs (R13, R188). -/
def cutStomp (s : State) (h : Nat) (cut : Option Nat) (sent : Nat) : State :=
  match cut with
  | none => s
  | some q =>
    match (portGet s q).tx with
    | some t => if t.handle = h ∧ t.siphon = false then txStomp s q sent else s
    | none => s

/-- How much of the frame in reception on a port has left in cut-through when it breaks off: a free value (log entry 7). -/
def cutSent (s : State) (p : Nat) : Nat × State :=
  match (portGet s p).rx with
  | none => (0, s)
  | some (h, bytes) =>
    match (frameGet s h).bind (fun f => f.cut) with
    | some _ => freePick s (bytes.length + 1)
    | none => (0, s)

/-- A frame in reception is no longer written: its cells are freed and nothing of it is delivered (R125, R180). -/
def frameShed (s : State) (p h : Nat) : State :=
  let r := cutSent s p
  match frameGet r.2 h with
  | none => s
  | some f =>
    frameMod (cutStomp r.2 h f.cut r.1) h (fun f => { f with
      cells := [], dests := [], cut := none, drop := some (f.drop.getD droppedInCistern) })

/-! ### After stages 1 to 7 -/

/-- Stage 8 or 9 on a frame whose check passed (R149, R169). -/
def stage89 (s : State) (h : Nat) : State :=
  match frameGet s h with
  | none => s
  | some f =>
    if f.authMode = 0 then dispatch s h
    else
      let r := authEnter s h
      if r.1 then r.2
      else if f.authMode = 2 then frameDiscard (hdgDrop r.2 12) h
      else dispatch (frameMod r.2 h (fun f => { f with authStatus := 3 })) h

/-- Decide one more cell of a frame from port `p` (R174, R180, R189). -/
def cellAdmit (s : State) (p h : Nat) : State :=
  match frameGet s h with
  | none => s
  | some f =>
    if f.drop.isSome || decide (cellsOf f.bytes ≤ f.offered) then s
    else
      let need := if f.offered < f.cells.length then 0 else 1
      let held := stagedBy s p f.district
      if isOq s f.district ∧ stageLimit s f.district < held + need then frameShed (count s (Reg.CIS_DROP 1) Reg.CIS_CAUSE) p h
      else weirCells (destsFind (stageHigh s f.district (held + need)) h) h 1

/-- Decide `n` more cells. -/
def cellsAdmit (s : State) (p h : Nat) : Nat → State
  | 0 => s
  | n + 1 => cellsAdmit (cellAdmit s p h) p h n

/-- The conditions of R187, when the first cell of a frame is written: the other ring port, on which it may leave at once. -/
def cutPort (s : State) (p : Nat) (f : Frame) : Option Nat :=
  let stream := decide (f.stream = 0x1FFFF) || (decide (f.action % 8 = 1) && decide (f.authMode = 0))
  let transit := nbit (leAt (roleGet s p) 7 1) 7
  match f.red, f.dests with
  | some t, [x] =>
    let q := x.port
    let above := (List.range 8).filter (fun c => decide (f.tc = c) || (decide (f.tc < c) && decide (classSched s f.district c = 0)))
    if t.hsr && transit && stream && f.drop.isNone && !f.waiting && !x.refused && f.furrow.isNone
        && isRingPort s q && decide (portSetNo s q = portSetNo s p) && decide (q ≠ p) && (portRefusal s q).isNone && portIdle s q
        && !classPaused s q f.tc && decide (portSpeed s p ≤ portSpeed s q)
        && above.all (fun c => (queueGet s (queueKey q c f.district)).isEmpty)
        && launchClear s q (maxLen s q) && furGate s q f.tc (maxLen s q) && (portGet s q).pauseOut.isEmpty then some q
    else none
  | _, _ => none

/-- Start the cut-through of a frame whose first cell is written, if R187 allows it. -/
def cutStart (s : State) (p h : Nat) : State :=
  match frameGet s h with
  | none => s
  | some f =>
    match cutPort s p f with
    | none => s
    | some q =>
      let s := refAdd (frameMod s h (fun f => { f with cut := some q })) h
      txStart s q { handle := h, since := s.run, siphon := none } f.bytes false

/-- The next cell of a frame holds the byte after PRT_MAXLEN: an oversize frame stops being written there (R125). -/
def cellOver (s : State) (p : Nat) (f : Frame) : Bool :=
  decide (maxLen s p < frameLen f.bytes) && decide (maxLen s p < 256 * (f.offered + 1))

/-- CELL_ADMISSION on the frame in reception. -/
def receiveCell (s : State) (p h : Nat) : State :=
  match frameGet s h with
  | none => s
  | some f =>
    if cellOver s p f then (if f.cells.isEmpty then s else frameShed s p h)
    else
      let t := cellAdmit s p h
      if f.offered = 0 then cutStart t p h else t

/-! ### The end of a frame -/

/-- A frame whose check passed goes on (R149, R166, R172, R181): dropped with the reason found, or to its remaining cells, the siphon,
learning and stage 8. A frame that waits on a pending bit waits on. -/
def frameGood (s : State) (h : Nat) : State :=
  match frameGet s h with
  | none => s
  | some f =>
    if f.waiting then frameMod s h (fun f => { f with passed := true })
    else
      match f.drop with
      | some r => frameDiscard (if r < 17 then hdgDrop s r else s) h
      | none =>
        let s := cellsAdmit s f.ingress h (cellsOf f.bytes)
        let s := frameMod s h (fun f => { f with passed := true })
        match frameGet s h with
        | none => s
        | some f =>
          match f.drop with
          | some _ => frameDiscard s h
          | none =>
            let lost := f.dests.all (fun x => x.refused) && !f.dests.isEmpty && decide (f.action % 8 = 1)
            let s := if lost then s else siphonIngress s h f.ingress
            let s := learn s h
            match f.cut with
            | none => stage89 s h
            | some q =>
              let s := siphonEgress s h q
              frameLetGo (pubOffer s f.stream f.bytes (frameL3 s f) f.authStatus f.ns32 f.frac) h

/-- A waiting frame is dropped as a duplicate: the earlier frame's check passed (R166). -/
def waiterDrop (s : State) (set h : Nat) : State :=
  match frameGet s h with
  | none => s
  | some f =>
    let s := markDrop (frameMod (rsetCount s set 2) h (fun f => { f with waiting := false })) h 4
    if f.passed then frameGood s h else s

/-- A waiting frame is judged again by R165: the earlier frame's check failed (R166). -/
def waiterAgain (s : State) (mac : Nat) (t : RedTag) (h : Nat) : State :=
  match frameGet s h with
  | none => s
  | some f =>
    let red := match f.red with
      | some u => u
      | none => t
    let s := match redJudge s h mac red with
      | (.pass, s) => stages567 (frameMod s h (fun f => { f with waiting := false })) h
      | (.drop r, s) => markDrop (frameMod s h (fun f => { f with waiting := false })) h r
      | (.wait, s) => s
    match frameGet s h with
    | some g => if f.passed && !g.waiting then
        (let s := match redFirm s h mac red with | (_, s) => s
         frameGood s h)
      else s
    | none => s

/-- The accepted bit of a frame becomes firm or is taken back, and what waits on it goes on (R166). -/
def redEnd (s : State) (h : Nat) (f : Frame) (good : Bool) : State :=
  match f.red with
  | none => s
  | some t =>
    let mac := srcMac f.bytes
    let w := (redWaiters s mac t).filter (fun x => decide (x ≠ h))
    if f.waiting then s
    else if good then
      let r := redFirm s h mac t
      if r.1 then w.foldl (fun s x => waiterDrop s t.set x) r.2 else r.2
    else
      let s := redRestore s h mac t
      w.foldl (fun s x => waiterAgain s mac t x) s

/-- The length of a frame and its check decide its class (R125): none for a good frame, else the counter it counts in. -/
def rxClass (s : State) (p len : Nat) (fcs code : Bool) : Option Nat :=
  if code then some 17
  else if len < 64 then some (if fcs then 18 else 19)
  else if maxLen s p < len then some (if fcs then 20 else 21)
  else if fcs then none else some 16

/-- Count a received frame (Table 5-4). -/
def rxCounted (s : State) (p : Nat) (bytes : List Byte) (cls : Option Nat) : State :=
  let len := frameLen bytes
  let s := portOctets s p 1 len
  match cls with
  | some n => portCount s p n
  | none =>
    let mac := dstMac bytes
    let s := portOctets s p 0 len
    let s := portCount s p (if mac = 0xFFFFFFFFFFFF then 4 else if isGroup mac then 3 else 2)
    let s := if beAt bytes 12 2 = 0x8100 then portCount s p 8 else s
    portCount s p (9 + sizeBucket len)

/-- A frame that the guardian has taken reaches its end (R231). -/
def guardedEnd (s : State) (p h : Nat) (f : Frame) (x : FurRx) (good : Bool) : State :=
  if x.refused.isSome then frameDiscard s h
  else
    let s := if good then cellsAdmit s p h (cellsOf f.bytes) else s
    let good := good && (match frameGet s h with | some g => g.drop.isNone | none => false)
    if x.kind = 2 ∧ coldWaits s x.dom h then coldHold s x.dom h good
    else
      let t := rxStamp s p
      let r := furEnd s h x.dom p x.chanB x f.bytes good (furRel s x.dom t.1 t.2)
      let s := frameMod r.2 h (fun f => { f with passed := good })
      let admitted := match (frameGet s h).bind (fun f => f.furrow) with
        | some y => y.refused.isNone
        | none => false
      let s := if good && admitted then siphonIngress s h p else s
      if !good then frameDiscard s h
      else if r.1 then
        match frameGet s h with
        | some g => (match g.drop with | some k => frameLetGo (if k < 17 then hdgDrop s k else s) h | none => stage89 s h)
        | none => s
      else frameLetGo s h

/-- The reception of a frame is over, good or not: `sent` is what a cut-through port has sent of it (R13, R166, R181, R188, R231). -/
def receiveRest (s : State) (p h : Nat) (good : Bool) (sent : Nat) : State :=
  match frameGet s h with
  | none => s
  | some f =>
    match f.furrow with
    | some x => guardedEnd s p h f x good
    | none =>
      let s := redEnd s h f good
      if good then
        let s := chargesRelease (if f.waiting then s else cellsAdmit s p h (cellsOf f.bytes)) h
        match (frameGet s h).bind (fun g => if g.drop.isSome || g.dests.any (fun x => x.refused) then g.cut else none) with
        | some q => frameDiscard (cutStomp s h (some q) sent) h
        | none => frameGood s h
      else frameDiscard (cutStomp s h f.cut sent) h

/-- The frame in reception on a port ends: `cls` is its class, `sent` the bytes that a cut-through port has sent of it. -/
def receiveEnd (s : State) (p : Nat) (cls : Option Nat) (sent : Nat) : State :=
  match (portGet s p).rx with
  | none => s
  | some (h, bytes) =>
    receiveRest (rxCounted (portSet s p { portGet s p with rx := none }) p bytes cls) p h cls.isNone sent

/-- A start of frame during the reception of another ends that one with a code error (R125). -/
def receiveBroken (s : State) (p : Nat) : State :=
  let r := cutSent s p
  receiveEnd r.2 p (some 17) r.1

/-- The frame in reception is cut short and discarded: RX_TRUNC (R137, R144); in cut-through it is stomped (R188). -/
def receiveCut (s : State) (p : Nat) : State :=
  match (portGet s p).rx with
  | none => s
  | some (h, _) =>
    let r := cutSent s p
    let x := portGet r.2 p
    let s := portSet r.2 p { x with rx := none, looped := if x.loop then x.looped.drop 1 else x.looped }
    receiveRest (portCount s p 22) p h false r.1

/-- A start that the guardian was told of brings no frame. -/
def startLost (s : State) (p : Nat) : State :=
  if (portGet s p).furStart.isNone then s else furMissed (portSet s p { portGet s p with furStart := none }) p

/-- A port goes link-down (R137): the frames on the wire are lost after `sent` bytes, the hold starts with the HOLD_MS in force,
and HOLD_MS = 0 flushes at once (R140). A PCS that reports the port up at another speed starts its debounce (R121). -/
def linkDown (s : State) (p sent : Nat) : State :=
  let s := regSetFld s (Reg.PRT_STAT p) 0 0 0
  let s := startLost (receiveCut (txAbort s p sent) p) p
  let s := portRaise (portCount s p 47) p 1
  let s := furLinkDown (portSet s p { portGet s p with pauseOut := [] }) p
  let ms := regFld s (Reg.PRT_LINKHOLD p) 9 0
  pcsEval (if ms = 0 then portRaise (portFlush s p) p 3
    else regSetFld (portSet s p { portGet s p with hold := some (s.run + ms * 1000000) }) (Reg.PRT_STAT p) 13 13 1) p

/-! ### The first cell -/

/-- Whether the frame is a MAC control frame, which the MAC consumes (R126). -/
def isMacControl (bytes : List Byte) : Bool := decide (beAt bytes 12 2 = 0x8808)

/-- The record of a frame from the wire, stamped by the MAC (R101): at `raw`, for a looped frame (R128); at the start that the guardian was
told; else the start-of-frame delimiter is taken to end at the command itself (DESIGN CHOICE, log entry 97). -/
def wireFrame (s : State) (p d : Nat) (bytes : List Byte) (raw : Option Int) : Frame :=
  let t := match raw, (portGet s p).furStart with
    | some x, _ => rxStampAt s p x
    | none, some x => stampOf x
    | none, none => rxStamp s p
  { frame0 bytes p d with ns32 := t.1, frac := t.2, passed := false }

/-- The first cell of a frame arrives on a port: it takes a cell, and the guardian or the headgate decides on it (R149, R225, R230). A
frame on a port of no district is of no VLAN of its district, so the headgate drops it. -/
def receiveStart (s : State) (p : Nat) (bytes : List Byte) (raw : Option Int) : State :=
  let s := receiveBroken s p
  let d := match portDistrict s p with
    | some d => d
    | none => 8
  match frameStore s (wireFrame s p d bytes raw) with
  | (none, s) =>
    furMissed (portSet (count s (Reg.CIS_DROP 0) Reg.CIS_CAUSE) p { portGet s p with rx := some (noFrame, bytes), furStart := none }) p
  | (some h, s) =>
    let s := portSet s p { portGet s p with rx := some (h, bytes), furStart := none }
    match furMember s p with
    | none => headgate s h
    | some (fd, chanB) =>
      match frameGet s h with
      | none => s
      | some f =>
        let r := furHeader s h fd p chanB bytes f.ns32 f.frac
        if r.1 then headgate r.2 h else r.2

/-- What a looped port receives of a frame: what it sent of it (R128). -/
def loopBytes (e : LoopFrame) : List Byte :=
  match e.fate with
  | some (some n) => e.bytes.take n
  | _ => e.bytes

/-- The frame whose reception a looped port can start: the oldest, once its delay is over and the one before it has ended (R128). -/
def loopHead (s : State) (p : Nat) : Option LoopFrame :=
  let x := portGet s p
  if x.rx.isSome then none else x.looped.head?.filter (fun e => decide (e.ready ≤ runUnits s))

/-- FRAME_HEADER_ARRIVAL: an enabled, linked port in full service takes the frame; a looped port takes the next frame that it sends
(R128). -/
def receiveFrame (s : State) (p : Nat) (bytes : List Byte) : State :=
  if !portServed s p || !domOn s (portDomain p) || !portEn s p || !portLink s p then s
  else if (portGet s p).loop then
    match loopHead s p with
    | none => s
    | some e => if isMacControl (loopBytes e) then s else receiveStart s p e.bytes (some e.stamp)
  else if isMacControl bytes then s
  else receiveStart s p bytes none

/-- FRAME_END on a looped port: when the frame in reception has been sent, whole or not (R128). -/
def loopedEnd (s : State) (p sent : Nat) : State :=
  let x := portGet s p
  match x.rx, x.looped with
  | some (h, _), e :: rest =>
    match e.fate with
    | none => s
    | some cut =>
      let b := loopBytes e
      receiveEnd (portSet s p { x with rx := some (h, b), looped := rest }) p (rxClass s p (frameLen b) cut.isNone false) sent
  | _, _ => s

/-! ### Verification (R170) -/

/-- The checks of R170 in their order: none when the frame verifies, else the drop reason. A frame without an extension is AUTH_MISSING also
before any key is loaded, where R171 names AUTH_KEY (DESIGN CHOICE, log entry 105). -/
def authCheck (j : AuthJob) (required : Nat) : Option SecExt → Option Nat
  | none => some 9
  | some x =>
    match [j.key, j.next].filterMap id |>.find? (fun k => decide (k.id = x.keyId)) with
    | none => some 10
    | some k =>
      if k.alg ≠ x.alg ∨ (required ≠ 0 ∧ required ≠ x.alg) then some 11
      else if tagOf k.alg k.key x.iv x.covered ≠ x.tag then some 11
      else none

end Sys2Proof.Machine
end

