-- ==== Sys2Proof/Machine/Freeze.lean ====
section
/-!
DEFINITION. Freeze, thaw, JTAG and the sentinel (chapter 19).
-/
namespace Sys2Proof.Machine

/-! ### Thaw (R475, R476, Table 19-5) -/

/-- Each port's frame that was in transmission counts as aborted, and the one in reception as truncated (R144). -/
def thawPorts (s : State) : State :=
  s.prt.foldl (fun s e =>
    let p := e.1
    let s := match (portGet s p).tx with
      | some t => (let r := freePick s (t.bytes.length + 1); txLost r.2 p r.1)
      | none => s
    receiveCut s p) s

/-- What the causes of the time block held through the freeze raise at thaw (R467). -/
def thawTim (s : State) : State :=
  let h := s.frz.heldTim
  let s := { s with frz := { s.frz with heldTim := 0 } }
  (List.range 32).foldl (fun s i => if bitOf h i then raise s Reg.TIM_CAUSE i else s) s

/-- The device leaves the freeze: `how` is 1 for THAW and 2 for an automatic thaw. The length is counted in µs and saturates. -/
def thaw (s : State) (how : Nat) : State :=
  let us := (s.now - s.frz.startAt) / 1000
  let s := { s with frz := { s.frz with frozen := false, autoDue := false } }
  let s := regSet (regSetFld s Reg.FRZ_STAT 3 2 how) Reg.FRZ_DURATION (BitVec.ofNat 32 (min us 0xFFFFFFFF))
  let s := { s with clk := { s.clk with replicaOk := [] } }
  let s := thawPorts (crossThaw s)
  let s := (List.range 4).foldl furBreak s
  let s := if s.frz.timeRun then cnfThaw (calRecheck s) else s
  let s := senThaw (thawTim s)
  let s := culThaw s
  raise s Reg.FRZ_CAUSE 0

/-! ### FREEZE_N, FRZ_CTL and the automatic thaw -/

/-- FREEZE_N goes low for `ns` ns: below 20 ns it is ignored, from 50 ns it acts, between the two either (R466, R468). -/
def execFreezeNAssert (ns : Nat) (s : State) : Answer :=
  let r := freePick s 2
  let passes := decide (50 ≤ ns) || (decide (20 ≤ ns) && decide (r.1 = 1))
  let s := if 20 ≤ ns ∧ ns < 50 then r.2 else s
  .next (if passes then freezeTrigger { s with frz := { s.frz with pinLow := true } } 1 none else s)

/-- FREEZE_N goes high: alone it never thaws, but a thaw that fell due while it was low comes now (R475). -/
def execFreezeNRelease (s : State) : Answer :=
  let s := { s with frz := { s.frz with pinLow := false } }
  .next (if s.frz.frozen && s.frz.autoDue then thaw s 2 else s)

/-- A write of FRZ_CTL: every write sets TIME_RUN unless it is locked; FREEZE acts with the code, a wrong code raises REFUSED (Table
19-9). -/
def frzCtl (s : State) (v : Word) : State :=
  let s := if locked s Reg.FRZ_CTL then s else regSetFld s Reg.FRZ_CTL 1 1 (fld v 1 1)
  if fld v 31 16 ≠ 0x465A then raise s Reg.FRZ_CAUSE 1
  else if bitOf v 0 then freezeTrigger s 2 none
  else s

/-- FRZ_CTL with FREEZE = 1 (R466). -/
def execFrzCtlFreeze (f : Fin 4) (v : Word) (s : State) : Answer := hostCmd s f.val Reg.FRZ_CTL (fun s => frzCtl s (v ||| 1))

/-- FRZ_AUTOTHAW.MS after the freeze started (R475). -/
def execAutothawExpiry (s : State) : Answer :=
  let ms := regFld s Reg.FRZ_AUTOTHAW 15 0
  .next (if s.frz.frozen && decide (ms ≠ 0) && decide (s.frz.startAt + ms * 1000000 ≤ s.now) then
    (if s.frz.pinLow then { s with frz := { s.frz with autoDue := true } } else thaw s 2)
  else s)

/-! ### JTAG (R473, R474) -/

/-- The TAP works: PORST_N is high and D1 is on. -/
def tapUp (s : State) : Bool := !s.pwr.porstLow && !s.pwr.deep

/-- Select an instruction. HIGHZ floats every pin, and leaving it drives them again as before. -/
def tapSelect (s : State) (i : JtagInstr) : State :=
  let was := decide (s.frz.ir = .highz)
  let s := { s with frz := { s.frz with ir := i } }
  if i = .highz then (List.range 64).foldl (fun s n => emit s (.pin n none)) s
  else if was then (List.range 64).foldl (fun s n => emit s (.pin n (pinDrive s n))) s
  else s

/-- Run a TAP operation. -/
def tapCmd (s : State) (k : State → State) : Answer := .next (if tapUp s then k s else s)

/-- What FRZ_CTRL captures (Table 19-3). -/
def frzCapture (s : State) : Nat :=
  b2n s.frz.frozen + 2 * b2n s.frz.thawBlocked + 4 * b2n (regBit s Reg.FRZ_LOCK 1) + 16 * regFld s Reg.FRZ_STAT 7 4

/-- FRZ_CTRL with a word shifted in: it captures first, then command 1 freezes and command 2 thaws. -/
def frzCtrl (s : State) (v : Word) : State :=
  let s := tapSelect (emit s (.jtag 32 (frzCapture s))) .frzCtrl
  if fld v 3 0 = 1 then freezeTrigger s 3 (some (bitOf v 4))
  else if fld v 3 0 = 2 then
    (if !s.frz.frozen then s
     else if s.frz.pinLow then { s with frz := { s.frz with thawBlocked := true } }
     else thaw s 1)
  else s

/-- FRZ_CTRL, command FREEZE. -/
def execJtagFreeze (v : Word) (s : State) : Answer := tapCmd s (fun s => frzCtrl s (setFld v 3 0 1))

/-- FRZ_CTRL, command THAW. -/
def execJtagThaw (v : Word) (s : State) : Answer := tapCmd s (fun s => frzCtrl s (setFld v 3 0 2))

/-- IDCODE. -/
def idcode (s : State) : State := tapSelect (emit s (.jtag 32 0x19192E6B)) .idcode

/-- IDCODE (R473). -/
def execJtagIdcode (s : State) : Answer := tapCmd s idcode

/-- SAMPLE/PRELOAD: it selects the boundary register, whose layout the BSDL data holds. -/
def execJtagSamplePreload (s : State) : Answer := tapCmd s (fun s => tapSelect s .sample)

/-- EXTEST: it selects the boundary register. -/
def execJtagExtest (s : State) : Answer := tapCmd s (fun s => tapSelect s .extest)

/-- An instruction whose data register is the one-bit bypass, which captures 0. -/
def tapBypass (s : State) (i : JtagInstr) : State := tapSelect (emit s (.jtag 1 0)) i

/-- CLAMP: it selects the bypass. -/
def execJtagClamp (s : State) : Answer := tapCmd s (fun s => tapBypass s .clamp)

/-- HIGHZ: outputs float, and it selects the bypass. -/
def execJtagHighz (s : State) : Answer := tapCmd s (fun s => tapBypass s .highz)

/-- BYPASS, or any code that Table 19-3 does not list. -/
def execJtagBypass (code : BitVec 8) (s : State) : Answer :=
  tapCmd s (fun s =>
    let c := code.toNat
    if c = 1 then idcode s
    else if c = 2 then tapSelect s .sample
    else if c = 3 then tapSelect s .extest
    else if c = 4 then tapBypass s .clamp
    else if c = 5 then tapBypass s .highz
    else if c = 0x20 then tapSelect (emit s (.jtag 32 (frzCapture s))) .frzCtrl
    else if c = 0x21 then tapSelect s .frzAddr
    else if c = 0x22 then tapSelect s .frzData
    else tapBypass s .bypass)

/-- FRZ_ADDR and FRZ_DATA act (R474). -/
def frzReads (s : State) : Bool := s.frz.frozen && !regBit s Reg.FRZ_LOCK 1

/-- `n` words of a section from word `w` on have been read: those of a memory that continue what was read of it count (R472). -/
def recNote (s : State) (i sec w n : Nat) : State :=
  let k := 32 * i + (sec - 1)
  let r := tabGet (fun _ => 0) s.frz.read k
  if 1 ≤ sec ∧ w ≤ r ∧ r < w + n then { s with frz := { s.frz with read := tabSet (fun _ => 0) s.frz.read k (w + n) } } else s

/-- FRZ_ADDR: island, section and start word. -/
def execJtagFrzAddr (v : BitVec 64) (s : State) : Answer :=
  tapCmd s (fun s =>
    let s := tapSelect s .frzAddr
    if frzReads s then { s with frz := { s.frz with addr := v, word := ((v >>> 16).setWidth 32).toNat } } else s)

/-- FRZ_DATA: `words` words are shifted out; each is followed by the next of the section. The readout changes nothing else (R472). -/
def execJtagFrzData (words : Nat) (s : State) : Answer :=
  tapCmd s (fun s =>
    let s := tapSelect s .frzData
    let act := frzReads s
    let i := (s.frz.addr.setWidth 5).toNat
    let sec := ((s.frz.addr >>> 8).setWidth 5).toNat
    let t := (List.range words).foldl
      (fun t n => emit t (.jtag 64 (if act then (recWord s i sec (s.frz.word + n)).toNat else 0))) s
    if act then recNote { t with frz := { t.frz with word := t.frz.word + words } } i sec s.frz.word words else t)

/-- The TAP returns to IDCODE. -/
def tapReset (s : State) : State := { tapSelect s .idcode with frz := { (tapSelect s .idcode).frz with addr := 0, word := 0 } }

/-- Five TCK cycles with TMS high (R473). -/
def execTapReset (s : State) : Answer := tapCmd s tapReset

/-! ### Sentinel (R478 to R485) -/

/-- A write of SEN_CMD: refused for a wrong code, while BUSY is set, for OP 1, 2 and 5 under SEN_LOCK, and for an OP of no command (R481,
Table 19-6). -/
def senCmd (s : State) (v : Word) : State :=
  let op := fld v 2 0
  let lockOp := decide (op = 1) || decide (op = 2) || decide (op = 5)
  let busy := s.sen.busy.isSome
  if fld v 31 16 ≠ 0x534E ∨ busy = true ∨ (lockOp && regBit s Reg.SEN_LOCK 0) = true ∨ op = 0 ∨ 5 < op then
    let own := match s.sen.busy with
      | some w => !senOfCul w
      | none => false
    raise (if own then s else regSetFld s Reg.SEN_CMD_STAT 1 0 1) Reg.SEN_CAUSE 4
  else
    senStart s (if op = 1 then .token (leBytes 32 (regGet256 s Reg.SEN_TOKEN).toNat) else if op = 2 then .clearToken
      else if op = 3 then .logAck else if op = 4 then .ackVbat else .tamperCfg (regGet s Reg.SEN_TAMPER_CFG))

/-- SEN_CMD with the row's OP. -/
def senRow (s : State) (f op : Nat) (v : Word) : Answer := hostCmd s f Reg.SEN_CMD (fun s => senCmd s (setFld v 2 0 op))

/-- OP 1: SEN_TOKEN becomes the bound-host token. -/
def execWriteToken (f : Fin 4) (v : Word) (s : State) : Answer := senRow s f.val 1 v

/-- OP 2: the token becomes zero. -/
def execClearToken (f : Fin 4) (v : Word) (s : State) : Answer := senRow s f.val 2 v

/-- OP 3: the acknowledged index moves to the newest entry. -/
def execLogAck (f : Fin 4) (v : Word) (s : State) : Answer := senRow s f.val 3 v

/-- OP 4: VBAT_LOST is cleared. -/
def execAckVbat (f : Fin 4) (v : Word) (s : State) : Answer := senRow s f.val 4 v

/-- OP 5: SEN_TAMPER_CFG becomes the tamper configuration. -/
def execTamperCfg (f : Fin 4) (v : Word) (s : State) : Answer := senRow s f.val 5 v

/-- DEBOUNCE of tamper input `n`; 0 acts as 1 (Table 19-10). -/
def debounceOf (s : State) (n : Nat) : Nat := let d := fld s.sen.cfg (23 + 8 * n) (16 + 8 * n); if d = 0 then 1 else d

/-- Tamper input `n` can detect (R482): DEBOUNCE ticks have passed since VBAT returned, and since its last detection it can have read high and
then low for DEBOUNCE ticks each. -/
def tamperMay (s : State) (n : Nat) : Bool :=
  let d := debounceOf s n
  match tabGet (fun _ => 0) s.sen.detAt n with
  | 0 => decide (d ≤ s.sen.ticks.toNat)
  | t + 1 => decide (2 * d ≤ (s.sen.ticks - BitVec.ofNat 48 t).toNat)

/-- The tamper input `n` has read low for DEBOUNCE ticks (R482). -/
def execTamperDetect (n : Fin 2) (s : State) : Answer :=
  let c := s.sen.cfg
  let b := 4 * (2 * n.val)
  if !s.sen.vbat || !bitOf c b || !tamperMay s n then .next s
  else
    let tok := bitOf c (b + 1)
    let prt := bitOf c (b + 2)
    let frz := bitOf c (b + 3)
    let s := senLog s (1 + n.val) (b2n tok + 2 * b2n prt + 4 * b2n frz)
    let s := { s with sen := { s.sen with
      token := if tok then zeros 32 else s.sen.token
      partner := if prt then 0 else s.sen.partner
      detAt := tabSet (fun _ => 0) s.sen.detAt n (s.sen.ticks.toNat + 1)
      wiped := some (s.sen.ticks.toNat, tok, prt) } }
    let s := senRaise (senShow s) 0
    .next (if frz then freezeArmed s 2 else s)

/-- VBAT falls below 1.6 V: every content is lost (R478). A write that runs is lost with it. -/
def execVbatLoss (s : State) : Answer :=
  .next { s with sen := { SenState.fresh with vbat := false, isolated := s.sen.isolated, busy := s.sen.busy } }

/-- VBAT returns (R478): contents zero, VBAT_LOST, one log entry of kind VBAT_RESTORED. -/
def execVbatRestore (s : State) : Answer :=
  if s.sen.vbat then .next s
  else .next (senLog { s with sen := { SenState.fresh with isolated := s.sen.isolated, busy := s.sen.busy, vbatLost := true } } 3 0)

/-- A read of SEN_RTC_LO latches the high bits (R479). -/
def execSenRtcRead (f : Fin 4) (s : State) : Answer :=
  hostCmd s f.val Reg.SEN_RTC_LO (fun s =>
    regSet { s with rdata := s.sen.ticks.setWidth 64 &&& 0xFFFFFFFF } Reg.SEN_RTC_HI ((s.sen.ticks >>> 32).setWidth 32))

end Sys2Proof.Machine
end

