-- ==== Sys2Proof/Machine/Furrow.lean ====
section
/-!
DEFINITION. The commands of the Furrow schedule (chapter 9).
-/
namespace Sys2Proof.Machine

/-- FURROW_RUN_SET (R225). -/
def execFurrowRunSet (f : Fin 4) (d : Fin 4) (s : State) : Answer := hostCmd s f (Reg.FUR_CTL d) (fun s => furRunSet s d)

/-- FURROW_RUN_CLEAR (R225). -/
def execFurrowRunClear (f : Fin 4) (d : Fin 4) (s : State) : Answer := hostCmd s f (Reg.FUR_CTL d) (fun s => furRunClear s d)

/-- CYCLE_START (R221, R226). -/
def execCycleStart (d : Fin 4) (s : State) : Answer :=
  flowEvent s (fun s => if domOn s 3 && (furNext s d).isSome then cycleSend (furCycleStart s d) d else s)

/-- COLDSTART_DECISION (R227). -/
def execColdstartDecision (d : Fin 4) (s : State) : Answer := flowEvent s (fun s => if domOn s 3 then coldDecide s d else s)

/-- FURROW_START_REPORT (R230): the stamp of a start of frame on a member port, and whether the frame is a COLDSTART. -/
def execFurrowStartReport (p : Fin 200) (ns32 : Word) (frac : BitVec 8) (cold : Bool) (s : State) : Answer :=
  flowEvent s (fun s => if domOn s (portDomain p) then furReport s p ns32 frac.toNat cold else s)

/-- STAR_NULL_DEADLINE (R233). -/
def execStarNullDeadline (d : Fin 4) (furrow : Fin 256) (chanB : Bool) (s : State) : Answer :=
  flowEvent s (fun s => if domOn s 3 then furNullDue s d furrow chanB else s)

/-- MINISLOT_BOUNDARY (R234). -/
def execMinislotBoundary (d : Fin 4) (chanB : Bool) (s : State) : Answer := domEvent s 3 (fun s => furMinislot s d chanB)

/-- MODE_EVALUATION (R239). -/
def execModeEvaluation (d : Fin 4) (s : State) : Answer := domEvent s 3 (fun s => furEvaluate s d)

/-- FUR_MODE_CMD (R241): a write `v` of FUR_MODE_CMD. -/
def execFurModeCmd (f : Fin 4) (d : Fin 4) (v : Word) (s : State) : Answer :=
  hostCmd s f (Reg.FUR_MODE_CMD d) (fun s => if bitOf v 31 then furForce s d (fld v 2 0) else s)

/-- FUR_PORT_CONTAIN (R235): a write of FUR_PORT_CMD with CONTAIN. -/
def execFurPortContain (f : Fin 4) (p : Fin 200) (s : State) : Answer :=
  hostCmd s f (Reg.FUR_PORT_CMD p) (fun s => furCmdContain s p)

/-- FUR_PORT_READMIT (R235): a write of FUR_PORT_CMD with READMIT. -/
def execFurPortReadmit (f : Fin 4) (p : Fin 200) (s : State) : Answer :=
  hostCmd s f (Reg.FUR_PORT_CMD p) (fun s => furCmdReadmit s p)

end Sys2Proof.Machine
end

