-- ==== Sys2Proof/Machine/TxOps.lean ====
section
/-!
DEFINITION. Host frames as shared operations: TX descriptors (Table 17-5), injection at HP0 to HP3 (R151, R430), early launch (R135) and
the end of a host read (R431).
-/
namespace Sys2Proof.Machine

/-- A field of Table 17-5 out of range, or a non-zero reserved byte (BAD_DESC). -/
def txDescBad (s : State) (d : List Byte) : Bool :=
  let len := leAt d 8 2
  let dt := leAt d 10 1
  let flags := leAt d 11 1
  decide (len < 60) || decide (9216 < len) || nbit dt 3 || nbit dt 7 || decide (districtCount s ≤ dt % 8) || decide (64 ≤ flags)
    || decide (4096 ≤ leAt d 12 2) || (nbit flags 0 && decide (203 < leAt d 14 1)) || decide (leAt d 15 1 ≠ 0)
    || decide (leAt d 25 1 ≠ 0) || decide (leAt d 28 4 ≠ 0)

/-- LEN of a descriptor. -/
def txLen (d : List Byte) : Nat := leAt d 8 2

/-- PCP of an injected frame: of its own tag, or a free value where it carries none, which no descriptor states (log entry 7). -/
def injectPcp (s : State) (bytes : List Byte) : Nat × State :=
  if beAt bytes 12 2 = 0x8100 then (beAt bytes 14 2 / 8192, s) else freePick s 8

/-- Inject a host frame as its descriptor says (R151, R430). -/
def hostInject (s : State) (fn ring : Nat) (d : TxDesc) (bytes : List Byte) (whole : Bool) : State :=
  let r := injectPcp s bytes
  let b := d.bytes
  let f : Frame := { frame0 bytes (200 + fn) (leAt b 10 1 % 8) with
    whole := whole, tc := leAt b 10 1 / 16 % 8, vid := leAt b 12 2, pcp := r.1, origin := .host fn ring d.index, flags := leAt b 11 1
    dest := leAt b 14 1, target := BitVec.ofNat 32 (leAt b 16 4), refNs32 := BitVec.ofNat 32 (leAt b 20 4), refFrac := leAt b 24 1
    tag := leAt b 26 2 }
  inject r.2 f none

/-- The descriptors of a ring that are fetched and not completed. -/
def txRing (s : State) (fn ring : Nat) : List TxDesc := tabGet (fun _ => []) (fnGet s fn).tx ring
def txRingSet (s : State) (fn ring : Nat) (l : List TxDesc) : State :=
  let h := fnGet s fn
  fnSet s fn { h with tx := tabSet (fun _ => []) h.tx ring l }

/-- The frames of a descriptor that are in the cistern before they are whole. -/
def earlyFrames (s : State) (fn ring : Nat) (index : Word) : List Nat :=
  (frameAll s).filterMap (fun e => if e.2.whole = false ∧ e.2.origin = .host fn ring index then some e.1 else none)

/-- THRESH bytes of a frame directed to port `p` are in the cistern, which an early-launch port may start (R135). -/
def earlyArrive (s : State) (p fn ring : Nat) (bytes : List Byte) (n : Nat) : State :=
  match txRing s fn ring with
  | [] => s
  | d :: _ =>
    let flags := leAt d.bytes 11 1
    let th := regFld s (Reg.PRT_TXSTART p) 13 0
    if d.reading && decide (d.bytes.length = 32) && !txDescBad s d.bytes && nbit flags 0 && !nbit flags 4
        && decide (leAt d.bytes 14 1 = p) && decide (bytes.length = txLen d.bytes) && decide (th < txLen d.bytes) && decide (th ≤ n)
        && regBit s (Reg.PRT_TXSTART p) 31 && !regBit s (Reg.PRT_TXSTART p) 16 && (earlyFrames s fn ring d.index).isEmpty then
      hostInject s fn ring d bytes false
    else s

/-- A partly written frame that has not started is freed: its entries leave their queues (R431). -/
def earlyFree (s : State) (h : Nat) : State :=
  match frameGet s h with
  | none => s
  | some f =>
    f.dests.foldl (fun s x =>
      let q := queueKey x.port f.tc (outDistrict s x.port f.district)
      let l := queueGet s q
      (l.filter (fun e => decide (e.handle = h))).foldl (fun s e => entryGone s x.port e 11)
        (queueSet s q (l.filter (fun e => decide (e.handle ≠ h))))) (frameComplete s h 11 none)

/-- The host read of a ring's oldest frame ends (R431): HEAD advances; a good frame is injected, or is whole now; an error completes with
HOST_ERR, unless the frame is on the wire, where it runs dry. -/
def txReadDone (s : State) (fn ring : Nat) (bytes : List Byte) (good : Bool) : State :=
  match txRing s fn ring with
  | [] => s
  | d :: rest =>
    if !d.reading then s
    else
      let s := txRingSet s fn ring rest
      let c := qCount fn 2 ring
      let s := if d.old then s else regSet s c (regGet s c + 1)
      if d.bytes.length ≠ 32 then s
      else
        match earlyFrames s fn ring d.index with
        | [] =>
          if good && decide (bytes.length = txLen d.bytes) then hostInject s fn ring d bytes true
          else txComplete s fn ring d.index (leAt d.bytes 11 1) (leAt d.bytes 26 2) 11 none
        | l =>
          if good then l.foldl (fun s h => frameMod s h (fun f => { f with whole := true })) s
          else
            let onWire := fun (h : Nat) => s.prt.any (fun e => match e.2.tx with | some t => decide (t.handle = h) | none => false)
            l.foldl (fun s h => if onWire h then s else earlyFree s h) s

end Sys2Proof.Machine
end

