-- ==== Sys2Proof/Machine/HostOps.lean ====
section
/-!
DEFINITION. The host interface as shared operations (chapter 17): queues and their doorbells, the rotation of the queue unit, reception into
the RX rings, the reset of a function, and RESYNC with its summary.
-/
namespace Sys2Proof.Machine

/-! ### Queues -/

/-- The kind of queue that a command names among SQ, TX and RX. -/
def subKind (k : Nat) : Nat := if k = 0 then 0 else k + 1

/-- The queues of a kind that exist: 4 SQs and CQs, 8 rings. -/
def queueExists (kind q : Nat) : Bool := decide (q < (if kind ≤ 1 then 4 else 8))

/-- Every SQ and ring of a function: kind and number. -/
def fetchers : List (Nat × Nat) :=
  (List.range 4).map (fun q => (0, q)) ++ (List.range 8).map (fun q => (2, q)) ++ (List.range 8).map (fun q => (3, q))

/-- PAUSED of an SQ or ring. -/
def qPaused (s : State) (f kind q : Nat) : Bool := decide (kind ≠ 1) && regBit s (qCtl f kind q) 30

/-- STATE of HST_RESYNC_STATUS. -/
def resyncState (s : State) : Nat := regFld s Reg.HST_RESYNC_STATUS 2 0

/-- EN is set as a write of the queue's registers sees it: after a RESYNC a paused queue is written as if EN were clear (R439). -/
def qLocked (s : State) (f kind q : Nat) : Bool :=
  qOn s f kind q && !(qPaused s f kind q && decide (3 ≤ resyncState s))

/-- The queue refuses a register write (R426). -/
def qRefuse (s : State) (f kind q : Nat) : State := hstRaise s f kind q 2

/-- A doorbell (R425): `used` is how far the written count is ahead, `was` how far the old one was; more than N or a step back is refused. -/
def doorbell (s : State) (f kind q : Nat) (v : Word) : State :=
  let c := regGet s (qCount f kind q)
  let p := regGet s (qDoorbell f kind q)
  let bad := if kind = 1 then decide (qSize s f kind q < qDiff c v) || decide (qDiff c p < qDiff c v)
    else decide (qSize s f kind q < qDiff v c) || decide (qDiff v c < qDiff p c)
  if bad then hstRaise (fcnt s f 6) f kind q 1 else regSet s (qDoorbell f kind q) v

/-- The fetched descriptors of a TX ring, as a list of a function beside its registers. -/
def txMarkOld (s : State) (f t : Nat) : State := txRingSet s f t ((txRing s f t).map (fun d => { d with old := true }))

/-- The fetched buffers of an RX ring. -/
def rxRing (s : State) (f t : Nat) : List Nat := tabGet (fun _ => []) (fnGet s f).rx t
def rxRingSet (s : State) (f t : Nat) (l : List Nat) : State :=
  let h := fnGet s f
  fnSet s f { h with rx := tabSet (fun _ => []) h.rx t l }

/-- LOG2 and CQ, and for a CQ VECTOR and IRQ_EVERY, of a CTL write. -/
def ctlFields (kind : Nat) : Word := if kind = 1 then 0x0FFFFFFF else 0x0F000003

/-- The fields of a CTL write that are refused while EN is set. -/
def ctlFixed (kind : Nat) : Word := if kind = 1 then 0x0F000000 else 0x0F000003

/-- A CTL with the fields of a write that a mask selects. -/
def ctlMerge (old v m : Word) : Word := (old &&& ~~~m) ||| (v &&& m)

/-- EN of a queue is set (R426): both counts 0, fetching afresh; PAUSED clears, but while a RESYNC stops every queue. What was fetched
before is still completed. -/
def qEnable (s : State) (f kind q : Nat) (v : Word) : State :=
  let ctl := ctlMerge (regGet s (qCtl f kind q)) v (ctlFields kind) ||| 0x80000000
  let pause := decide (kind ≠ 1) && (decide (resyncState s = 1) || decide (resyncState s = 2))
  let s := regSet s (qCtl f kind q) (setFld ctl 30 30 (b2n pause))
  let s := regSet (regSet s (qDoorbell f kind q) 0) (qCount f kind q) 0
  if kind = 1 then
    let h := fnGet s f
    fnSet s f { h with sinceIrq := tabSet (fun _ => 0) h.sinceIrq q 0 }
  else if kind = 2 then txMarkOld s f q
  else if kind = 3 then rxRingSet s f q []
  else s

/-- A CTL write with EN (R426): LOG2 outside 4 to 16, or VECTOR 0 of a CQ, is refused; while EN is set, LOG2 and CQ keep their values and a
write that would change them is refused. -/
def qWriteOn (s : State) (f kind q : Nat) (v : Word) : State :=
  if fld v 27 24 < 4 ∨ (kind = 1 ∧ fld v 23 16 = 0) then qRefuse s f kind q
  else if qLocked s f kind q then
    let old := regGet s (qCtl f kind q)
    let s := if (old ^^^ v) &&& ctlFixed kind ≠ 0 then qRefuse s f kind q else s
    regSet s (qCtl f kind q) (ctlMerge old v (ctlFields kind &&& ~~~ctlFixed kind))
  else qEnable s f kind q v

/-- The completions that a disabled CQ owes are discarded (R426). -/
def cqDiscard (s : State) (f q : Nat) : State :=
  (cqHeld s f q).foldl (fun s c => completionFree (fcnt s f 5) c) (cqHeldSet s f q [])

/-- A CTL write without EN (R426): fetching stops at once; LOG2 and CQ keep their values while EN was set. -/
def qWriteOff (s : State) (f kind q : Nat) (v : Word) : State :=
  let old := regGet s (qCtl f kind q)
  let fixed := if qLocked s f kind q then ctlFixed kind else 0
  let s := if (old ^^^ v) &&& fixed ≠ 0 then qRefuse s f kind q else s
  let s := regSet s (qCtl f kind q) (ctlMerge old v (ctlFields kind &&& ~~~fixed) &&& 0x7FFFFFFF)
  if kind = 1 ∧ bitOf old 31 then cqDiscard s f q else s

/-! ### Fetching (R427, R428) -/

/-- The entries of an SQ or ring that are posted and not fetched. -/
def qWaiting (s : State) (f kind q : Nat) : Nat :=
  let fetched := if kind = 2 then ((txRing s f q).filter (fun d => !d.old)).length else if kind = 3 then (rxRing s f q).length else 0
  qDiff (regGet s (qDoorbell f kind q)) (regGet s (qCount f kind q)) - fetched

/-- Commands of a function in progress. -/
def inProgress (s : State) (f : Nat) : Nat := (List.range 4).foldl (fun n q => n + (sqList s f q).length) 0

/-- The entries that the queue unit may fetch of an SQ or ring in one turn: at most 8, and at most 16 commands of a function in progress. -/
def fetchMost (s : State) (f kind q : Nat) : Nat :=
  if qOn s f kind q && !qPaused s f kind q && (fnGet s f).busMaster then
    min (min 8 (qWaiting s f kind q)) (if kind = 0 then 16 - inProgress s f else 8)
  else 0

/-- The place of an SQ or ring in its function's rotation. -/
def fetchPlace (kind q : Nat) : Nat := if kind = 0 then q else if kind = 2 then 4 + q else 12 + q

/-- The next SQ or ring of a function in rotation that has entries to fetch. -/
def fetchNext (s : State) (f : Nat) : Option (Nat × Nat) :=
  let l := fetchers.drop ((fnGet s f).turn % 20) ++ fetchers.take ((fnGet s f).turn % 20)
  l.find? (fun x => decide (0 < fetchMost s f x.1 x.2))

/-- The queue unit's next turn: the functions in rotation, then the queues within a function. -/
def fetchTurn (s : State) : Option (Nat × Nat × Nat) :=
  ((List.range 4).map (fun i => (s.hst.turn + i) % 4)).findSome? (fun f => (fetchNext s f).map (fun x => (f, x.1, x.2)))

/-- Take fetched entries in: commands start, descriptors and buffers wait. -/
def fetchTake (s : State) (f kind q : Nat) (l : List (List Byte)) : State :=
  let c := regGet s (qCount f kind q)
  if kind = 0 then
    let new := (List.range l.length).map (fun i =>
      { index := c + BitVec.ofNat 32 i, bytes := slice (l.getD i []) 0 64, started := false : HostCmd })
    sqSettle (regSet (sqSet s f q (sqList s f q ++ new)) (qCount f kind q) (c + BitVec.ofNat 32 l.length)) f q
  else if kind = 2 then
    let had := ((txRing s f q).filter (fun d => !d.old)).length
    let new := (List.range l.length).map (fun i =>
      { index := c + BitVec.ofNat 32 (had + i), bytes := slice (l.getD i []) 0 32, reading := false, old := false : TxDesc })
    txRingSet s f q (txRing s f q ++ new)
  else rxRingSet s f q (rxRing s f q ++ l.map (fun d => leAt d 0 8 / 64 * 64))

/-! ### Reception (R432) -/

/-- A class of a host port may be served: its ring is disabled, so that the frame is dropped, or has a posted buffer. -/
def rxEligible (s : State) (f d c : Nat) : Bool :=
  !(queueGet s (queueKey (200 + f) c d)).isEmpty
    && (!qOn s f 3 c || (!qPaused s f 3 c && !(rxRing s f c).isEmpty))

/-- The next entry of a host port: the districts in turn, then R195 and R196 within one. -/
def rxPick (f : Nat) : List Nat → State → Option (Nat × Nat × QEntry) × State
  | [], s => (none, s)
  | d :: t, s =>
    match entryPick (200 + f) d (fun s c => rxEligible s f d c) (portBacklog s (200 + f) + 1) s with
    | (some (c, e), s) => (some (d, c, e), s)
    | (none, s) => rxPick f t s

/-- The bytes that a host port delivers: from destination address on, tags and trailers of redundancy removed, the VLAN tag as stored; a
siphon copy as it is cut. -/
def rxBytes (s : State) (p : Nat) (e : QEntry) (x : Frame) : List Byte :=
  if e.siphon.isSome then entryBytes s p e else stripRed x.bytes x.red

/-- Deliver an entry of class `c` of district `d` to function `f`. A frame of the Furrow star itself came in at no port of Table 1-5: what
RXINFO names is a free value (log entry 7). -/
def rxDeliver (s : State) (f d c : Nat) (e : QEntry) : State :=
  let p := 200 + f
  match frameGet s e.handle with
  | none => s
  | some x =>
    if !qOn s f 3 c then entryGone (fcnt s f 3) p e 5
    else
      match rxRing s f c with
      | [] => s
      | addr :: rest =>
        let i := regGet s (qCount f 3 c)
        let s := regSet (rxRingSet s f c rest) (qCount f 3 c) (i + 1)
        let b := rxBytes s p e x
        let long := decide (regFld s (regKey f (Reg.HST_RX_BUF c)) 13 0 < b.length)
        let from_ := if x.ingress < 207 then (x.ingress, s) else freePick s 207
        let s := from_.2
        let s := if e.siphon.isSome then s else siphonEgress s e.handle p
        let s := if e.siphon.isNone ∧ completesAtEnd x then frameComplete s e.handle 0 none else s
        let s := if e.siphon.isSome then s else destRemove s e.handle p
        let s := if long then fcnt s f 4 else fcnt (hostWrite s f addr b) f 2
        complete s f (qCq s f 3 c) { completion0 i 3 c (if long then 12 else 0) with
          detail := x.authStatus, tag := if long then 0 else b.length, rxinfo := from_.1 + d * 256 + c * 2048
          result := wordN (x.vid % 4096), ns32 := x.ns32, frac := x.frac, stream := x.stream, release := some e.handle }

/-! ### IRQ_N -/

/-- IRQ_N is driven low while a function with IRQN_EN has a pending bit (R436). -/
def irqLow (s : State) : Bool :=
  (List.range 4).any (fun f =>
    regBit s (regKey f Reg.HST_IRQ_CTL) 0 && (List.range 8).any (fun i => decide (regGet s (regKey f (Reg.HST_IRQ_PEND i)) ≠ 0)))

/-! ### RESYNC (R437 to R440) -/

/-- PAUSED of every SQ and ring of the four functions. -/
def pauseQueues (s : State) (on : Bool) : State :=
  (List.range 4).foldl (fun s f => fetchers.foldl (fun s x => regSetFld s (qCtl f x.1 x.2) 30 30 (b2n on)) s) s

/-- What was fetched and has not begun its transfer is fetched again later. -/
def dropUnbegun (s : State) : State :=
  (List.range 4).foldl (fun s f => (List.range 8).foldl (fun s t =>
    rxRingSet (txRingSet s f t ((txRing s f t).filter (fun d => d.reading))) f t []) s) s

/-- Write the completions that every CQ owes. -/
def drainAll (s : State) : State := (List.range 4).foldl (fun s f => (List.range 4).foldl (fun s q => cqDrain s f q) s) s

/-- A RESYNC that cannot end: 1 HOST_ERR, 2 RESET. -/
def resyncFail (s : State) (err : Nat) : State :=
  hstRaise (regSetFld (regSetFld s Reg.HST_RESYNC_STATUS 31 28 err) Reg.HST_RESYNC_STATUS 2 0 4) s.hst.resyncFunc 4 0 4

/-- A RESYNC of function `f` is under way. -/
def resyncOf (s : State) (f : Nat) : Bool :=
  decide (s.hst.resyncFunc = f) && (decide (resyncState s = 1) || decide (resyncState s = 2))

/-- The request key of function `f` (R437, R438): while a RESYNC runs it is refused, but of two that reach HOST in one cycle, of 2 ns, the lower
function's is taken and the other is refused. -/
def resyncStart (s : State) (f : Nat) : State :=
  let first := decide (resyncState s = 1) && decide (s.hst.resyncAt = s.run / 2) && decide (f < s.hst.resyncFunc)
  if (resyncState s = 1 ∨ resyncState s = 2) ∧ first = false then hstRaise s f 4 0 5
  else
    let s := if first then
        (let s := hstRaise s s.hst.resyncFunc 4 0 5
         { s with hst := { s.hst with resyncCount := s.hst.resyncCount - 1 } })
      else s
    let lo := regKey f Reg.HST_RESYNC_ADDR_LO
    let hi := regKey f Reg.HST_RESYNC_ADDR_HI
    let nonce := (regGet s (regKey f Reg.HST_RESYNC_NONCE_HI)).toNat * 2 ^ 32 + (regGet s (regKey f Reg.HST_RESYNC_NONCE_LO)).toNat
    let s := { s with hst := { s.hst with
      resyncFunc := f, resyncAddr := hostAddr s lo hi, resyncNonce := BitVec.ofNat 64 nonce, resyncCount := s.hst.resyncCount + 1, resyncAt := s.run / 2
      paused := true, summary := [] } }
    dropUnbegun (pauseQueues (regSet s Reg.HST_RESYNC_STATUS (wordN (f * 2 ^ 26 + 1))) true)

/-- The resume key (R439). -/
def resyncGo (s : State) : State :=
  if 3 ≤ resyncState s then drainAll { pauseQueues s false with hst := { s.hst with paused := false } } else s

/-- A write of HST_RESYNC. -/
def resyncKey (s : State) (f : Nat) (v : Word) : State :=
  if v = 0x5253594E then resyncStart s f else if v = 0x5245534D then resyncGo s else s

/-- Nothing is in flight: no command in progress, no frame being read. -/
def resyncQuiet (s : State) : Bool :=
  (List.range 4).all (fun f => decide (inProgress s f = 0) && (List.range 8).all (fun t => (txRing s f t).isEmpty))

/-- A register as four bytes. -/
def reg4 (s : State) (a : Nat) : List Byte := leBytes 4 (regRead s 0 a).toNat
def reg4s (s : State) (n : Nat) (a : Nat → Nat) : List Byte := (List.range n).flatMap (fun i => reg4 s (a i))

/-- Frames of a ring that have not completed. -/
def txOwed (s : State) (f t : Nat) : Nat :=
  (txRing s f t).length
    + ((frameAll s).filter (fun e => !e.2.completed && (match e.2.origin with
        | .host fn ring _ => decide (fn = f) && decide (ring = t)
        | _ => false))).length
    + ((List.range 4).foldl (fun n q =>
        n + ((cqHeld s f q).filter (fun c => decide (c.kind = 2) && decide (c.source = t))).length) 0)

/-- The queue block of a function (Table 17-10). -/
def queueBlock (s : State) (f : Nat) : List Byte :=
  let w := fun (a : Nat) => leBytes 4 (regGet s a).toNat
  let head := fun (kind q : Nat) => w (qCount f kind q) ++ w (qDoorbell f kind q) ++ w (qCtl f kind q)
  let sq := (List.range 4).flatMap (fun q => head 0 q ++ leBytes 4 (sqList s f q).length)
  let cq := (List.range 4).flatMap (fun q => head 1 q ++ leBytes 4 (cqHeld s f q).length)
  let tx := (List.range 8).flatMap (fun t => head 2 t ++ leBytes 4 (txOwed s f t))
  let rx := (List.range 8).flatMap (fun c => head 3 c
    ++ leBytes 4 ((List.range 8).foldl (fun n d => n + (queueGet s (queueKey (200 + f) c d)).length) 0))
  let ev := w (Reg.PUB_EVR_SEQ f) ++ w (Reg.PUB_EVR_HEAD f) ++ w (Reg.PUB_EVR_CTL f) ++ zeros 4
  let jnl := if regFld s Reg.RDR_JNL_CTL 29 28 = f then w Reg.RDR_JNL_SEQ ++ w Reg.RDR_JNL_HEAD ++ w Reg.RDR_JNL_CTL ++ zeros 4
    else zeros 16
  sq ++ cq ++ tx ++ rx ++ ev ++ jnl ++ zeros 96

/-- The owning engine of each context while HOT, else 0xFF. -/
def placementBytes (s : State) : List Byte :=
  (List.range 65536).map (fun c => let x := ctxGet s c; if x.mode = .hot then BitVec.ofNat 8 x.owner else 0xFF)

/-- The LINK bits of ports 0 to 199 in 32 bytes. -/
def linkBytes (s : State) : List Byte :=
  leBytes 32 ((List.range 200).foldl (fun n p => n + b2n (portLink s p) * 2 ^ p) 0)

/-- The 20 cause registers in bit order (Table 17-9); no register is the ports' one cause, so that its four bytes are a free value (log
entry 7). -/
def causeBytes (s : State) : List Byte × State :=
  let r := fresh s
  let w := fun (l : List (Nat × Nat × Nat)) => l.flatMap (fun c => leBytes 4 (regGet s c.1).toNat)
  (w (causeRegs.take 4) ++ leBytes 4 (Config.freeValue 32 r.1).toNat ++ w (causeRegs.drop 4), r.2)

/-- SHA-256 of the partner's identity in the summary, zeros before an IDENT was seen (Table 17-9). -/
def summaryPartner (s : State) : List Byte :=
  if s.cul.identSeen then leBytes 32 (Config.sha256 ((List.range 8).flatMap (fun i => leBytes 4 (regGet s (Reg.CUL_PARTNER_ID i)).toNat))).toNat
  else zeros 32

/-- The identification part of the summary, to the partner's identity (Table 17-9). -/
def summaryHead (s : State) : List Byte :=
  let devid := (List.range 8).flatMap (fun i => leBytes 4 (regGet s (Reg.GLB_DEVID i)).toNat)
  leBytes 4 0x4E595352 ++ leBytes 2 1 ++ leBytes 1 s.hst.resyncFunc ++ zeros 1 ++ leBytes 4 s.hst.resyncCount
    ++ reg4 s Reg.GLB_BOOT_COUNT ++ leBytes 8 s.hst.resyncNonce.toNat ++ leBytes 8 s.clk.sec.toNat ++ leBytes 4 s.clk.ns.toNat
    ++ leBytes 4 s.clk.ns32.toNat ++ reg4 s Reg.TIM_SYNC_STATE ++ leBytes 1 (regFld s Reg.TIM_DISC_OWNER 5 0) ++ zeros 3
    ++ leBytes 32 (Config.sha256 devid).toNat ++ reg4s s 8 Reg.IMG_HASH ++ reg4 s Reg.IMG_SERIAL ++ reg4 s Reg.IMG_STATUS
    ++ leBytes 1 (culRole s) ++ zeros 3 ++ reg4 s Reg.CUL_EPOCH
    ++ summaryPartner s

/-- The number of live contexts in a state of the rider. -/
def ctxCount (s : State) (m : CtxMode) : Nat := ((ctxLive s).filter (fun x => decide (x.2.mode = m))).length

/-- Power, engines, placement and links in the summary (Table 17-9). -/
def summaryPlace (s : State) : List Byte :=
  reg4s s 16 (fun i => Reg.PWR_DOMAIN_STAT (i + 1)) ++ reg4 s Reg.PWR_OPPOINT_STAT ++ reg4 s Reg.GLB_STATUS
    ++ (List.range 32).flatMap (fun e => if domOn s (engDomain e) then reg4 s (Reg.KRN_ENG_STAT e) else zeros 4)
    ++ leBytes 4 (ctxCount s .hot) ++ leBytes 4 (ctxCount s .cold) ++ leBytes 4 (ctxCount s .poisoned) ++ leBytes 2 (ctxCount s .orphan)
    ++ leBytes 2 (4096 - (slotsUsed s).length) ++ leBytes 32 (Config.sha256 (placementBytes s)).toNat ++ zeros 8 ++ linkBytes s

/-- The Furrow domains, basins and mailbox channels in the summary (Table 17-9). -/
def summaryUnits (s : State) : List Byte :=
  (List.range 4).flatMap (fun d => reg4 s (Reg.FUR_STAT d) ++ reg4 s (Reg.FUR_CYCLE d) ++ reg4 s (Reg.FUR_START_NS32 d) ++ zeros 4)
    ++ (List.range 16).flatMap (fun d => reg4 s (Reg.CNF_BASIN_STAT d) ++ reg4 s (Reg.CNF_ROW_SEQ d) ++ reg4 s (Reg.CNF_RING_HEAD d)
      ++ reg4 s (Reg.CNF_LAST_ROW d))
    ++ reg4s s 64 Reg.MBX_CH_STAT

/-- Bytes 0 to 16,319 of the summary (Table 17-9). -/
def summaryBytes (s : State) : List Byte × State :=
  let r := causeBytes s
  (summaryHead s ++ summaryPlace s ++ summaryUnits s ++ r.1 ++ reg4 s Reg.HST_FATAL ++ zeros 44
    ++ (List.range 4).flatMap (queueBlock s) ++ zeros 13056 ++ beBytes 32 s.fuses.keyX.toNat ++ beBytes 32 s.fuses.keyY.toNat, r.2)

/-! ### The reset of a function (R422) -/

/-- A frame that is on the wire. -/
def onWire (s : State) (h : Nat) : Bool := s.prt.any (fun e => match e.2.tx with | some t => decide (t.handle = h) | none => false)

/-- Nothing is owed to a function any more: its fetched work and completions are discarded, its frames complete to no one, and a frame that is
not whole is freed unless it is on the wire, where it runs dry. -/
def fnDiscard (s : State) (f : Nat) : State :=
  let s := (List.range 4).foldl (fun s q => sqSet (cqDiscard s f q) f q []) s
  let mine := (frameAll s).filter (fun e => match e.2.origin with | .host fn _ _ => decide (fn = f) | _ => false)
  let s := mine.foldl (fun s e => frameMod s e.1 (fun x => { x with completed := true })) s
  let s := mine.foldl (fun s e => if !e.2.whole && !onWire s e.1 then earlyFree s e.1 else s) s
  (List.range 8).foldl (fun s t => rxRingSet (txRingSet s f t []) f t []) s

/-- EN of every queue and ring of a function is cleared. -/
def fnDisable (s : State) (f : Nat) : State :=
  ((List.range 4).map (fun q => (1, q)) ++ fetchers).foldl (fun (s : State) (x : Nat × Nat) => regSetFld s (qCtl f x.1 x.2) 31 31 0) s

/-- The MSI-X table, the pending bits, the IRQ_N pending bits and the register latches of a function at their reset values. -/
def fnClear (s : State) (f : Nat) : State :=
  let base := 0x2000000 * f
  let gone := fun (k : Nat) =>
    (decide (base + 0x10F0000 ≤ k) && decide (k < base + 0x10F1020))
      || (decide (base + 0x1010800 ≤ k) && decide (k < base + 0x1010820))
      || (decide (base + 0x300004 ≤ k) && decide (k ≤ base + 0x300010))
  regClear s (fun k => !gone k)

/-- A function-level reset or a hot reset of one function (R422, R391, R385). -/
def fnReset (s : State) (f : Nat) : State :=
  let s := fnClear (fnDiscard (fnDisable s f) f) f
  let s := fnSet s f { fnGet s f with msixEnable := false, busMaster := true, relaxed := true, turn := 0, sinceIrq := [] }
  let s := masterReset s (36 + f)
  if resyncOf s f then resyncFail s 2 else s

end Sys2Proof.Machine
end

