-- ==== Sys2Proof/Machine/Host.lean ====
section
/-!
DEFINITION. The commands of the host interface (chapter 17): doorbells, queues, submission commands, transmission and reception, resets of a
function, MSI-X and RESYNC.
-/
namespace Sys2Proof.Machine

/-- An event of the queue unit or the frame rings, in D2. -/
def hostEvent (s : State) (k : State → State) : Answer := flowEvent s (fun s => if domOn s 2 then k s else s)

/-- SUBMISSION_DOORBELL (R425): the producer count of an SQ, TX or RX ring. -/
def execSubmissionDoorbell (f : Fin 4) (kind : Fin 3) (q : Fin 8) (v : Word) (s : State) : Answer :=
  let k := subKind kind
  hostCmd s f (hostQ 0 k q 12) (fun s => if queueExists k q then doorbell s f k q v else s)

/-- CQ_DOORBELL (R425, R433): the consumer count; completions that waited are written. -/
def execCqDoorbell (f : Fin 4) (q : Fin 4) (v : Word) (s : State) : Answer :=
  hostCmd s f (hostQ 0 1 q 12) (fun s => pauseSweep (cqDrain (doorbell s f 1 q v) f q))

/-- QUEUE_ENABLE (R426): a write of CTL with EN set. -/
def execQueueEnable (f : Fin 4) (kind : Fin 4) (q : Fin 8) (v : Word) (s : State) : Answer :=
  hostCmd s f (hostQ 0 kind q 8) (fun s => if queueExists kind q then qWriteOn s f kind q v else s)

/-- QUEUE_DISABLE (R426): a write of CTL with EN clear. -/
def execQueueDisable (f : Fin 4) (kind : Fin 4) (q : Fin 8) (v : Word) (s : State) : Answer :=
  hostCmd s f (hostQ 0 kind q 8) (fun s => if queueExists kind q then pauseSweep (qWriteOff s f kind q v) else s)

/-- QUEUE_FETCH (R427, R428): the queue unit reads entries of the SQ or ring whose turn it is; `entries` is what host memory holds. -/
def execQueueFetch (f : Fin 4) (kind : Fin 3) (q : Fin 8) (entries : List (List Byte)) (s : State) : Answer :=
  hostEvent s (fun s =>
    let k := subKind kind
    if fetchTurn s = some (f.val, k, q.val) ∧ entries ≠ [] then
      let l := entries.take (fetchMost s f k q)
      let s := fnSet s f { fnGet s f with turn := (fetchPlace k q + 1) % 20 }
      fetchTake { s with hst := { s.hst with turn := (f.val + 1) % 4 } } f k q l
    else s)

/-- NOP (R428): the next command of the SQ, when it is a NOP, completes OK. -/
def execCmdNop (f : Fin 4) (q : Fin 4) (s : State) : Answer :=
  hostEvent s (fun s =>
    match sqNext s f q with
    | some c =>
      if leAt c.bytes 0 1 = 0 ∧ sqStatus c.bytes = 0 then sqDone s f q c.index (leAt c.bytes 2 2) 0 0 0 else s
    | none => s)

/-- A FENCE of a kind completes when every earlier command of its SQ has completed and its completion, and the fence's own, can be written
at once (R429). Every write of the model is visible when it is issued. -/
def fenceDone (s : State) (f q kind : Nat) : State :=
  match sqList s f q with
  | [] => s
  | c :: _ =>
    let cq := qCq s f 0 q
    let owed := (cqHeld s f cq).any (fun x => decide (x.kind = 1) && decide (x.source = q))
    if leAt c.bytes 0 1 = 1 ∧ leAt c.bytes 8 1 = kind ∧ sqStatus c.bytes = 0 ∧ c.started = false ∧ owed = false
        ∧ (qOn s f 1 cq = false ∨ (cqRoom s f cq = true ∧ (cqHeld s f cq).any (fun x => !resyncHolds s x) = false)) then
      sqDone s f q c.index (leAt c.bytes 2 2) 0 0 0
    else s

/-- FENCE ORDER (R429). -/
def execFenceOrder (f : Fin 4) (q : Fin 4) (s : State) : Answer := hostEvent s (fun s => fenceDone s f q 0)

/-- FENCE VISIBLE (R429). -/
def execFenceVisible (f : Fin 4) (q : Fin 4) (s : State) : Answer := hostEvent s (fun s => fenceDone s f q 1)

/-- TWIN_WITNESS (R457): the outcome in DETAIL and RESULT. -/
def execTwinWitness (f : Fin 4) (q : Fin 4) (s : State) : Answer :=
  hostEvent s (fun s =>
    match sqNext s f q with
    | some c =>
      if leAt c.bytes 0 1 = 3 ∧ sqStatus c.bytes = 0 then
        let r := witness s (BitVec.ofNat 32 (leAt c.bytes 12 4))
        culSettle (sqDone r.2.2 f q c.index (leAt c.bytes 2 2) 0 r.1 r.2.1)
      else s
    | none => s)

/-- TX_DESCRIPTOR (R430, R431): the first descriptor that waits starts to read its frame; a bad one completes when those before it have
been read. -/
def execTxDescriptor (f : Fin 4) (t : Fin 8) (s : State) : Answer :=
  hostEvent s (fun s =>
    let l := txRing s f t
    match l.dropWhile (fun d => d.reading) with
    | [] => s
    | d :: rest =>
      let before := l.takeWhile (fun d => d.reading)
      if txDescBad s d.bytes then
        if before.isEmpty then
          let s := txRingSet s f t rest
          let s := if d.old then s else regSet s (qCount f 2 t) (regGet s (qCount f 2 t) + 1)
          txComplete s f t d.index (leAt d.bytes 11 1) (leAt d.bytes 26 2) 1 none
        else s
      else if (fnGet s f).busMaster then txRingSet s f t (before ++ { d with reading := true } :: rest)
      else s)

/-- TX_HOST_READ_DONE (R431): the oldest frame of the ring has been read, or its read ended with an error. -/
def execTxHostReadDone (f : Fin 4) (t : Fin 8) (bytes : List Byte) (good : Bool) (s : State) : Answer :=
  hostEvent s (fun s =>
    match txRing s f t with
    | d :: _ => if d.reading then (let s := txReadDone s f t bytes good; if good then s else hstRaise s f 2 t 3) else s
    | [] => s)

/-- RX_DELIVERY (R432): host port HPf transmits its next frame into an RX ring. -/
def execRxDelivery (f : Fin 4) (s : State) : Answer :=
  hostEvent s (fun s =>
    let p := 200 + f.val
    let start := tabGet (fun _ => 0) s.cis.turn p
    match rxPick f ((List.range 8).map (fun i => (start + i) % 8)) s with
    | (some (d, c, e), s) => rxDeliver { s with cis := { s.cis with turn := tabSet (fun _ => 0) s.cis.turn p ((d + 1) % 8) } } f d c e
    | (none, s) => s)

/-- FUNCTION_LEVEL_RESET (R422): an FLR, or entry into D3hot. -/
def execFunctionLevelReset (f : Fin 4) (s : State) : Answer :=
  .next (if hostReach s 0 then pauseSweep (fnReset s f) else s)

/-- MSIX_UNMASK (R435): the write clears the mask bit; a pending vector is sent. -/
def execMsixUnmask (f : Fin 4) (v : Fin 256) (s : State) : Answer :=
  hostCmd s f (Reg.MSIX_CTL v) (fun s =>
    let s := regSetFld s (msixCtl f v) 0 0 0
    if (fnGet s f).msixEnable && regBit s (msixPba f v) (v.val % 32) then
      msix (regSetFld s (msixPba f v) (v.val % 32) (v.val % 32) 0) f v
    else s)

/-- MSIX_ENABLE_SET (R436): setting MSI-X Enable clears HST_IRQ_PEND. -/
def execMsixEnableSet (f : Fin 4) (s : State) : Answer :=
  .next (if hostReach s 0 then
      fnSet ((List.range 8).foldl (fun s i => regSet s (regKey f (Reg.HST_IRQ_PEND i)) 0) s) f { fnGet s f with msixEnable := true }
    else s)

/-- RESYNC_REQUEST (R437). -/
def execResyncRequest (f : Fin 4) (v : Word) (s : State) : Answer :=
  hostCmd s f Reg.HST_RESYNC (fun s => pauseSweep (resyncKey s f v))

/-- RESYNC_SNAPSHOT (R438): nothing is in flight; the summary is sampled. -/
def execResyncSnapshot (s : State) : Answer :=
  domEvent s 2 (fun s =>
    if resyncState s = 1 ∧ resyncQuiet s then
      let r := summaryBytes s
      { regSetFld r.2 Reg.HST_RESYNC_STATUS 2 0 2 with hst := { r.2.hst with summary := r.1 } }
    else s)

/-- RESYNC_SIGNED (R438, R440): the signature over bytes 0 to 16,319 completes. -/
def execResyncSigned (s : State) : Answer :=
  domEvent s 2 (fun s =>
    let m := s.hst.summary
    if resyncState s = 2 ∧ m.length = 16320 then
      let g := Config.ecdsaSign m
      { s with hst := { s.hst with summary := m ++ beBytes 32 g.1.toNat ++ beBytes 32 g.2.toNat } }
    else s)

/-- RESYNC_SUMMARY_WRITTEN (R438): the summary is visible and what was held is written, or its write ended with an error. -/
def execResyncSummaryWritten (good : Bool) (s : State) : Answer :=
  hostEvent s (fun s =>
    let f := s.hst.resyncFunc
    if resyncState s = 2 ∧ s.hst.summary.length = 16384 then
      if good then
        let s := hostOrdered s f s.hst.resyncAddr s.hst.summary
        let s := hstRaise (regSetFld s Reg.HST_RESYNC_STATUS 2 0 3) f 4 0 4
        msix (drainAll { s with hst := { s.hst with paused := false, summary := [] } }) f 0
      else resyncFail (hstRaise s f 4 0 3) 1
    else s)

/-- RESYNC_RESUME (R439). -/
def execResyncResume (f : Fin 4) (v : Word) (s : State) : Answer :=
  hostCmd s f Reg.HST_RESYNC (fun s => pauseSweep (resyncKey s f v))

/-- BUS_MASTER_ENABLE_CLEAR (R422, R438): queues fetch nothing, writes are discarded, and a RESYNC of the function fails. -/
def execBusMasterEnableClear (f : Fin 4) (s : State) : Answer :=
  .next (if hostReach s 0 then
      let s := fnSet s f { fnGet s f with busMaster := false }
      if resyncOf s f then resyncFail s 2 else s
    else s)

end Sys2Proof.Machine
end

