-- ==== Sys2Proof/Machine/Cistern.lean ====
section
/-!
DEFINITION. The commands of the cistern and the switch core (chapter 7): forwarding database, groups, transfer, staleness, quarantine,
siphon and pause thresholds.
-/
namespace Sys2Proof.Machine

/-! ### Forwarding database (R183, R184, R186) -/

/-- FDB_AGE_REMOVE (R184): a learned entry not refreshed for AGE_S is removed. -/
def execFdbAgeRemove (i : Nat) (s : State) : Answer :=
  domEvent s 3 (fun s =>
    match fdbGet s i with
    | some e => if fdbExpired s e then fdbSet s i none else s
    | none => s)

/-- The bytes in CIS_FDB_DATA. -/
def fdbData (s : State) : List Byte := (List.range 4).flatMap (fun i => leBytes 4 (regGet s (Reg.CIS_FDB_DATA i)).toNat)

/-- Start a forwarding-database command: refused while one runs (R186). -/
def fdbStart (s : State) (op : Nat) : State :=
  if regBit s Reg.CIS_FDB_STAT 8 then raise s Reg.CIS_CAUSE 5
  else
    let c := (op, regFld s Reg.CIS_FDB_INDEX 15 0, fdbData s)
    regSetFld { s with cis := { s.cis with fdbCmd := some c } } Reg.CIS_FDB_STAT 8 8 1

/-- An entry in the layout of Table 7-2. -/
def fdbRecord (s : State) : Option FdbEntry → List Byte
  | none => zeros 16
  | some e =>
    beBytes 6 e.mac ++ leBytes 2 e.fid ++ leBytes 2 e.dest ++ leBytes 1 e.district ++ leBytes 1 (1 + 2 * b2n e.dynamic)
      ++ leBytes 2 (if e.dynamic then (s.run - e.seen) / 1000000000 else 0) ++ zeros 2

/-- The static entry that a record spells. -/
def fdbEntryOf (d : List Byte) : FdbEntry :=
  { mac := beAt d 0 6, fid := leAt d 6 2 % 4096, dest := leAt d 8 2, district := leAt d 10 1, dynamic := false, seen := 0 }

/-- Whether a record holds values that Table 7-2 gives and R183 allows. -/
def fdbOk (s : State) (d : List Byte) : Bool :=
  let dest := leAt d 8 2
  let k := dest / 2 ^ 14
  let x := dest % 2 ^ 14
  let dist := leAt d 10 1
  let destOk :=
    if k = 0 then decide (x < 204) && (decide (200 ≤ x) || isMember s dist x)
    else if k = 1 then decide (x < 4)
    else if k = 2 then decide (x < 1024)
    else decide (x = 0)
  decide (leAt d 6 2 < 4096) && decide (dist < districtCount s) && decide (leAt d 11 1 < 2) && destOk

/-- WRITE of entry `i`: VALID clear empties it; the key's bucket must hold the index. -/
def fdbWrite (s : State) (i : Nat) (d : List Byte) : Nat × State :=
  let e := fdbEntryOf d
  if !fdbOk s d then (5, s)
  else if !nbit (leAt d 11 1) 0 then (0, fdbSet s i none)
  else if !(fdbWays s e.district e.mac e.fid).contains i then (4, s)
  else
    match fdbFind s e.district e.mac e.fid with
    | some j => if j = i then (0, fdbSet s i (some e)) else (2, s)
    | none => (0, fdbSet s i (some e))

/-- INSERT: a free way, or a learned entry's place; a learned entry of the same key gives up its own. -/
def fdbInsert (s : State) (d : List Byte) : Nat × State :=
  let e := fdbEntryOf d
  let put := fun (s : State) (i : Nat) => (0, regSetFld (fdbSet s i (some e)) Reg.CIS_FDB_INDEX 15 0 i)
  if !fdbOk s d || !nbit (leAt d 11 1) 0 then (5, s)
  else
    match fdbFind s e.district e.mac e.fid with
    | some j => (match fdbGet s j with | some x => if x.dynamic then put s j else (2, s) | none => (2, s))
    | none =>
      match fdbRoom s (fdbWays s e.district e.mac e.fid) (fun x => x.dynamic) with
      | (some i, s) => put s i
      | (none, s) => (1, s)

/-- DELETE and LOOKUP by key. -/
def fdbByKey (s : State) (op : Nat) (d : List Byte) : Nat × State :=
  let e := fdbEntryOf d
  match fdbFind s e.district e.mac e.fid with
  | none => (3, s)
  | some i => if op = 4 then (0, fdbSet s i none) else (0, regSetFld s Reg.CIS_FDB_INDEX 15 0 i)

/-- FLUSH: the learned entries of a district, for one DEST or for every one. -/
def fdbFlush (s : State) (d : List Byte) : Nat × State :=
  let dist := leAt d 10 1
  let dest := leAt d 8 2
  if districtCount s ≤ dist then (5, s)
  else
    let keep := fun (x : Option FdbEntry) => match x with
      | some e => !(e.dynamic && decide (e.district = dist) && (decide (dest = 0xFFFF) || decide (e.dest = dest)))
      | none => true
    (0, { s with cis := { s.cis with fdb := s.cis.fdb.filter (fun x => keep x.2) } })

/-- What a forwarding-database command does, with its RESULT (Table 7-8). -/
def fdbRun (s : State) (op i : Nat) (d : List Byte) : Nat × State :=
  let total := fdbBase s 8
  if op = 0 ∨ 7 ≤ op then (5, s)
  else if op ≤ 2 ∧ total ≤ i then (4, s)
  else if op = 1 then
    let l := fdbRecord s (fdbGet s i)
    (0, (List.range 4).foldl (fun s k => regSet s (Reg.CIS_FDB_DATA k) (BitVec.ofNat 32 (leAt l (4 * k) 4))) s)
  else if op = 2 then fdbWrite s i d
  else if op = 3 then fdbInsert s d
  else if op = 6 then fdbFlush s d
  else fdbByKey s op d

/-- FDB_READ (R186). -/
def execFdbRead (f : Fin 4) (s : State) : Answer := hostCmd s f Reg.CIS_FDB_CMD (fun s => fdbStart s 1)

/-- FDB_WRITE (R186). -/
def execFdbWrite (f : Fin 4) (s : State) : Answer := hostCmd s f Reg.CIS_FDB_CMD (fun s => fdbStart s 2)

/-- FDB_INSERT (R186). -/
def execFdbInsert (f : Fin 4) (s : State) : Answer := hostCmd s f Reg.CIS_FDB_CMD (fun s => fdbStart s 3)

/-- FDB_DELETE (R186). -/
def execFdbDelete (f : Fin 4) (s : State) : Answer := hostCmd s f Reg.CIS_FDB_CMD (fun s => fdbStart s 4)

/-- FDB_LOOKUP (R186). -/
def execFdbLookup (f : Fin 4) (s : State) : Answer := hostCmd s f Reg.CIS_FDB_CMD (fun s => fdbStart s 5)

/-- FDB_FLUSH (R186). -/
def execFdbFlush (f : Fin 4) (s : State) : Answer := hostCmd s f Reg.CIS_FDB_CMD (fun s => fdbStart s 6)

/-- FDB_CMD_DONE (R186): the command acts whole, BUSY clears and RESULT is updated. -/
def execFdbCmdDone (s : State) : Answer :=
  domEvent s 3 (fun s =>
    match s.cis.fdbCmd with
    | none => s
    | some (op, i, d) =>
      let r := fdbRun { s with cis := { s.cis with fdbCmd := none } } op i d
      regSetFld (regSetFld r.2 Reg.CIS_FDB_STAT 2 0 r.1) Reg.CIS_FDB_STAT 8 8 0)

/-! ### Multicast groups (R185) -/

/-- MCG_READ (R185): the bitmap of group `g` in CIS_MCG_DATA. -/
def execMcgRead (f : Fin 4) (g : Fin 1024) (s : State) : Answer :=
  hostCmd s f Reg.CIS_MCG_CMD (fun s =>
    let m := (mcgGet s g).toNat
    (List.range 8).foldl (fun s i => regSet s (Reg.CIS_MCG_DATA i) (BitVec.ofNat 32 (m / 2 ^ (32 * i)))) s)

/-- The state with the bitmap of a group replaced; bits of ports 204 to 255 are written 0. -/
def mcgSet (s : State) (g m : Nat) : State :=
  { s with cis := { s.cis with mcg := tabSet (fun _ => 0) s.cis.mcg g (BitVec.ofNat 256 (m % 2 ^ 204)) } }

/-- MCG_WRITE (R185): the whole bitmap of group `g` is replaced. -/
def execMcgWrite (f : Fin 4) (g : Fin 1024) (s : State) : Answer :=
  hostCmd s f Reg.CIS_MCG_CMD (fun s =>
    mcgSet s g ((List.range 8).foldl (fun a i => a + (regGet s (Reg.CIS_MCG_DATA i)).toNat * 2 ^ (32 * i)) 0))

/-! ### Transfer and staleness (R179, R192, R198) -/

/-- OQ_TRANSFER (R179): the frame at the head of port `p`'s transfer list. -/
def execOqTransfer (p : Fin 200) (s : State) : Answer := flowEvent s (fun s => if domOn s 3 then oqTransfer s p else s)

/-- STALE_SCAN (R198): the head of every queue, but for ports whose hold timer runs. -/
def execStaleScan (s : State) : Answer :=
  flowEvent s (fun s =>
    if !domOn s 3 then s
    else
      (s.cis.queues.map (fun e => e.1)).foldl (fun s q =>
        let p := q / 64
        if p < 200 ∧ portHolding s p then s else queueAge s p q false) s)

/-! ### Quarantine (R203) -/

/-- QUARANTINE_TEST (R203): a write of CIS_QUAR_CTL with cell `c`. A write while a test runs changes nothing; a cell that is not
quarantined is not tested. -/
def execQuarantineTest (f : Fin 4) (c : Nat) (s : State) : Answer :=
  hostCmd s f Reg.CIS_QUAR_CTL (fun s =>
    if regBit s Reg.CIS_QUAR_CTL 29 then s
    else if s.cis.quarantined.any (fun q => decide (q.1 = c)) then
      regSetFld { s with cis := { s.cis with quarTest := some c } } Reg.CIS_QUAR_CTL 29 29 1
    else regSetFld s Reg.CIS_QUAR_CTL 31 30 3)

/-- QUARANTINE_TEST_DONE (R203): `good` says that both patterns read back. -/
def execQuarantineTestDone (good : Bool) (s : State) : Answer :=
  domEvent s 3 (fun s =>
    match s.cis.quarTest with
    | none => s
    | some c =>
      let keep := if good then s.cis.quarantined.filter (fun q => decide (q.1 ≠ c)) else s.cis.quarantined
      let s := { s with cis := { s.cis with quarTest := none, quarantined := keep } }
      raise (regSetFld s Reg.CIS_QUAR_CTL 31 29 (if good then 2 else 4)) Reg.CIS_CAUSE 7)

/-! ### Siphon and pause thresholds (R194, R199) -/

/-- A write `v` of CIS_SIPH_CTL of session `x` (R199); EN with a destination that no port has or that the session's egress
bitmap holds is refused. -/
def siphWrite (s : State) (x : Nat) (v : Word) : State :=
  let p := fld v 27 20
  if bitOf v 31 && (decide (204 ≤ p) || siphonOut s x p) then raise s Reg.CIS_CAUSE 5
  else
    let s :=
      if bitOf v 31 && !siphonOn s x then
        { s with cis := { s.cis with siphCount := tabSet (fun _ => 0) s.cis.siphCount x 0 } }
      else s
    regSet s (Reg.CIS_SIPH_CTL x) (v &&& 0xFFF70000#32)

/-- SIPH_ENABLE (R199): a write of CIS_SIPH_CTL. -/
def execSiphEnable (f : Fin 4) (x : Fin 8) (v : Word) (s : State) : Answer :=
  hostCmd s f (Reg.CIS_SIPH_CTL x) (fun s => siphWrite s x v)

/-- PAUSE_TH_WRITE (R194): a write `v` of CIS_PAUSE_TH. -/
def execPauseThWrite (f : Fin 4) (p : Fin 200) (v : Word) (s : State) : Answer :=
  hostCmd s f (Reg.CIS_PAUSE_TH p) (fun s =>
    if fld v 31 16 ≠ 0 ∧ fld v 31 16 ≤ fld v 15 0 then raise s Reg.CIS_CAUSE 5
    else pauseEval (regSet s (Reg.CIS_PAUSE_TH p) v) p)

end Sys2Proof.Machine
end

