-- ==== Sys2Proof/Machine/Headgate.lean ====
section
/-!
DEFINITION. The commands of the headgate (chapter 6): verification, silence of nodes, table access and keys.
-/
namespace Sys2Proof.Machine

/-! ### Verification (R169, R170) -/

/-- A verification's result decides: none is OK, else the reason; VERIFY_DROP drops, VERIFY_MARK passes with status FAIL. -/
def authDecide (s : State) (h mode : Nat) : Option Nat → State
  | none => dispatch (frameMod s h (fun f => { f with authStatus := 1 })) h
  | some r =>
    let s := raise s Reg.HDG_CAUSE 2
    if mode = 2 then frameDiscard (hdgDrop s r) h
    else dispatch (frameMod (count s Reg.HDG_AUTH_MARK_FAIL Reg.HDG_CAUSE) h (fun f => { f with authStatus := 2 })) h

/-- AUTH_VERIFY_DONE (R170): the lane of frame `h`, of the GHASH ones with `gmac` and else of the SHA-256 ones, finishes with the security
extension that the stored frame carries, if any. The lane takes the oldest waiting frame. -/
def execAuthVerifyDone (h : Nat) (gmac : Bool) (s : State) : Answer :=
  flowEvent s (fun s =>
    match s.hdg.authRun.find? (fun j => decide (j.handle = h) && jobIsGmac j.key j.next == gmac), frameGet s h with
    | some j, some f =>
      let s := { s with hdg := { s.hdg with authRun := s.hdg.authRun.filter (fun j => decide (j.handle ≠ h)) } }
      let s := authDecide s h f.authMode (authCheck j f.authAlg (Config.secExt f.bytes))
      authStart s s.hdg.authQ
    | _, _ => s)

/-! ### Silence (R164) -/

/-- NODE_FORGET_EXPIRY (R164): an entry whose node has sent nothing for NODE_FORGET_S is cleared. -/
def execNodeForgetExpiry (i : Fin 8192) (s : State) : Answer :=
  domEvent s 3 (fun s =>
    match tabGet (fun _ => none) s.hdg.nodes i with
    | some n => if n.last + regFld s Reg.HDG_NODE_CFG 15 0 * 1000000000 ≤ s.run then nodeSet s i none else s
    | none => s)

/-- ENTRY_FORGET_EXPIRY (R164): after ENTRY_FORGET_MS the node's next frame restarts its window. -/
def execEntryForgetExpiry (i : Fin 8192) (s : State) : Answer :=
  domEvent s 3 (fun s =>
    match tabGet (fun _ => none) s.hdg.nodes i with
    | some n =>
      if n.last + regFld s Reg.HDG_NODE_CFG 31 16 * 1000000 ≤ s.run then nodeSet s i (some { n with forgotten := true }) else s
    | none => s)

/-! ### Table access (R155, R157, R159, R160, R168, R173) -/

/-- The bytes in HDG_TBL_DATA. -/
def tblData (s : State) : List Byte := (List.range 8).flatMap (fun i => leBytes 4 (regGet s (Reg.HDG_TBL_DATA i)).toNat)

/-- HDG_TBL_DATA with a record read into its first words. -/
def tblDataSet (s : State) (l : List Byte) : State :=
  (List.range (l.length / 4)).foldl (fun s i => regSet s (Reg.HDG_TBL_DATA i) (BitVec.ofNat 32 (leAt l (4 * i) 4))) s

/-- Start a table command: refused while one runs (R160). -/
def tblStart (s : State) (op table : Nat) : State :=
  if regBit s Reg.HDG_TBL_STAT 8 then raise s Reg.HDG_CAUSE 5
  else
    let c := (op, table, regFld s Reg.HDG_TBL_INDEX 16 0, tblData s)
    regSetFld { s with hdg := { s.hdg with tblCmd := some c } } Reg.HDG_TBL_STAT 8 8 1

/-- The number of records of a table: port roles, VLANs, streams, policers, nodes. -/
def tblSize (table : Nat) : Nat :=
  if table = 0 then 200 else if table = 1 then 4096 else if table = 2 then 65792 else if table = 3 then 1024 else 8192

/-- A node entry as a READ returns it (R173). -/
def nodeRecord (s : State) : Option Node → List Byte
  | none => zeros 16
  | some n =>
    beBytes 6 n.mac ++ leBytes 1 n.set ++ leBytes 1 (b2n n.proxy + 2 * b2n n.pendA.isSome + 4 * b2n n.pendB.isSome)
      ++ leBytes 2 n.top ++ leBytes 2 n.send ++ leBytes 4 ((s.run - n.last) / 1000000)

/-- A policer as a READ returns it (Table 6-8). -/
def policerRecord : Option Policer → List Byte
  | none => zeros 16
  | some x => leBytes 4 x.rate ++ leBytes 4 x.burst ++ zeros 8

/-- Record `i` of a table. -/
def tblRecord (s : State) (table i : Nat) : List Byte :=
  if table = 0 then roleGet s i
  else if table = 1 then vlanGet s i
  else if table = 2 then streamGet s i
  else if table = 3 then policerRecord (tabGet (fun _ => none) s.hdg.policers i)
  else nodeRecord s (tabGet (fun _ => none) s.hdg.nodes i)

/-- Whether a port-role record holds values that Table 6-2 gives. -/
def roleOk (r : List Byte) : Bool :=
  let pvid := leAt r 0 2
  let role := leAt r 6 1
  let fl := leAt r 7 1
  decide (1 ≤ pvid) && decide (pvid ≤ 4094) && decide (leAt r 5 1 < 64) && decide (role < 32) && decide (role % 8 ≤ 5)
    && decide (fl % 4 ≠ 3) && !nbit fl 3 && (!nbit fl 7 || decide (role % 8 = 3) || decide (role % 8 = 4))

/-- Whether a VLAN entry holds values that Table 6-3 and R155 allow. -/
def vlanOk (s : State) (r : List Byte) : Bool :=
  decide (leAt r 8 2 < 4096) && decide (leAt r 10 1 < 8) && decide (leAt r 11 1 < 4)
    && (!nbit (leAt r 11 1) 0 || decide (leAt r 10 1 < districtCount s))

/-- Whether a stream entry holds values that Table 6-4 gives. -/
def streamOk (r : List Byte) : Bool :=
  let auth := leAt r 2 1
  decide (leAt r 0 1 ≤ 2) && decide (auth % 4 ≠ 3) && decide (auth < 32) && decide (auth / 4 ≤ 5)

/-- Whether a policer record holds values that Table 6-8 gives. -/
def policerOk (r : List Byte) : Bool :=
  let rate := leAt r 0 4
  let burst := leAt r 4 4
  decide (64 ≤ rate) && decide (rate ≤ 25000000) && decide (1518 ≤ burst) && decide (burst ≤ 16777215)

/-- The state with a stream entry replaced; KEY_TYPE 0 empties it. -/
def streamSet (s : State) (i : Nat) (r : List Byte) : State :=
  let r := if leAt r 0 1 = 0 then zeros 32 else slice r 0 32
  { s with hdg := { s.hdg with streams := tabSet (fun _ => zeros 32) s.hdg.streams i r } }

/-- The state with a policer's record written and its bucket full (R168). -/
def policerSet (s : State) (i : Nat) (r : List Byte) : State :=
  let burst := leAt r 4 4
  let x : Policer := { rate := leAt r 0 4, burst := burst, level := burst * 8000000, since := s.run }
  { s with hdg := { s.hdg with policers := tabSet (fun _ => none) s.hdg.policers i (some x) } }

/-- WRITE of record `i`: its RESULT and the state. A lock answers REFUSED before the index and the record are looked at (DESIGN CHOICE, log
entry 105). -/
def tblWrite (s : State) (table i : Nat) (d : List Byte) : Nat × State :=
  if table = 0 then
    if regBit s Reg.HDG_LOCK 0 then (5, s)
    else if !roleOk d then (7, s)
    else (0, { s with hdg := { s.hdg with roles := tabSet (fun _ => role0) s.hdg.roles i (slice d 0 8) } })
  else if table = 1 then
    if regBit s Reg.HDG_LOCK 0 then (5, s)
    else if i = 0 ∨ i = 4095 then (6, s)
    else if !vlanOk s d then (7, s)
    else (0, { s with hdg := { s.hdg with vlans := tabSet (fun _ => zeros 16) s.hdg.vlans i (slice d 0 16) } })
  else if table = 2 then
    let key := streamKeyOf d
    if !streamOk d then (7, s)
    else if leAt d 0 1 = 0 then (0, streamSet s i d)
    else if i < 65536 ∧ i / 4 ≠ streamBucket key then (4, s)
    else
      match streamFind s key with
      | some j => if j = i then (0, streamSet s i d) else (2, s)
      | none => (0, streamSet s i d)
  else if !policerOk d then (7, s)
  else (0, policerSet s i d)

/-- INSERT (R159): a free way of the key's bucket, or else a free CAM entry; which of several is a free choice (log entry 7). -/
def tblInsert (s : State) (d : List Byte) : Nat × State :=
  let key := streamKeyOf d
  if leAt d 0 1 = 0 ∨ !streamOk d then (7, s)
  else if (streamFind s key).isSome then (2, s)
  else
    let empty := fun (i : Nat) => decide (leAt (streamGet s i) 0 1 = 0)
    let ways := ((List.range 4).map (fun w => 4 * streamBucket key + w)).filter empty
    let free := if ways.isEmpty then ((List.range 256).map (fun i => 65536 + i)).filter empty else ways
    if free.isEmpty then (1, s)
    else
      let r := freePick s free.length
      match free[r.1]? with
      | some i => (0, regSetFld (streamSet r.2 i d) Reg.HDG_TBL_INDEX 16 0 i)
      | none => (1, r.2)

/-- DELETE and LOOKUP by key. -/
def tblByKey (s : State) (op : Nat) (d : List Byte) : Nat × State :=
  match (if leAt d 0 1 = 0 then none else streamFind s (streamKeyOf d)) with
  | none => (3, s)
  | some i => if op = 4 then (0, streamSet s i (zeros 32)) else (0, regSetFld s Reg.HDG_TBL_INDEX 16 0 i)

/-- What a table command does, with its RESULT (Table 6-10). -/
def tblRun (s : State) (op table i : Nat) (d : List Byte) : Nat × State :=
  if 5 ≤ table ∨ op = 0 ∨ 6 ≤ op then (7, s)
  else if table = 4 ∧ op ≠ 1 then (5, s)
  else if op ≤ 2 ∧ tblSize table ≤ i then (6, s)
  else if op = 1 then (0, tblDataSet s (tblRecord s table i))
  else if op = 2 then tblWrite s table i d
  else if table ≠ 2 then (5, s)
  else if op = 3 then tblInsert s d
  else tblByKey s op d

/-- TBL_READ (R160). -/
def execTblRead (f : Fin 4) (table : Fin 8) (s : State) : Answer := hostCmd s f Reg.HDG_TBL_CMD (fun s => tblStart s 1 table)

/-- TBL_WRITE (R160). -/
def execTblWrite (f : Fin 4) (table : Fin 8) (s : State) : Answer := hostCmd s f Reg.HDG_TBL_CMD (fun s => tblStart s 2 table)

/-- TBL_INSERT (R159). -/
def execTblInsert (f : Fin 4) (table : Fin 8) (s : State) : Answer := hostCmd s f Reg.HDG_TBL_CMD (fun s => tblStart s 3 table)

/-- TBL_DELETE (R160). -/
def execTblDelete (f : Fin 4) (table : Fin 8) (s : State) : Answer := hostCmd s f Reg.HDG_TBL_CMD (fun s => tblStart s 4 table)

/-- TBL_LOOKUP (R160). -/
def execTblLookup (f : Fin 4) (table : Fin 8) (s : State) : Answer := hostCmd s f Reg.HDG_TBL_CMD (fun s => tblStart s 5 table)

/-- TBL_CMD_DONE (R160): the command acts whole, BUSY clears and RESULT is updated. -/
def execTblCmdDone (s : State) : Answer :=
  domEvent s 3 (fun s =>
    match s.hdg.tblCmd with
    | none => s
    | some (op, table, i, d) =>
      let r := tblRun { s with hdg := { s.hdg with tblCmd := none } } op table i d
      regSetFld (regSetFld r.2 Reg.HDG_TBL_STAT 2 0 r.1) Reg.HDG_TBL_STAT 8 8 0)

/-! ### Keys (R171) -/

/-- A write of HDG_KEY_CTL that asks for a commit or a clear. -/
def keyStart (s : State) (v : Word) : State :=
  let commit := bitOf v 7
  let alg := fld v 2 0
  if regBit s Reg.HDG_KEY_STAT 8 || (commit && (decide (alg = 0) || decide (5 < alg) || bitOf v 6)) then raise s Reg.HDG_CAUSE 5
  else
    let key : Option Key :=
      if commit then
        some { id := regGet s Reg.HDG_KEY_ID, alg := alg
               key := (List.range 8).flatMap (fun i => leBytes 4 (regGet s (Reg.HDG_KEY_DATA i)).toNat) }
      else none
    let c := (2 * fld v 15 8 + fld v 5 5, key)
    regSetFld { s with hdg := { s.hdg with keyCmd := some c } } Reg.HDG_KEY_STAT 8 8 1

/-- KEY_COMMIT (R171): a write `v` of HDG_KEY_CTL with COMMIT set. -/
def execKeyCommit (f : Fin 4) (v : Word) (s : State) : Answer :=
  hostCmd s f Reg.HDG_KEY_CTL (fun s => if bitOf v 7 then keyStart s v else s)

/-- KEY_CLEAR (R171): a write `v` of HDG_KEY_CTL with CLEAR set. -/
def execKeyClear (f : Fin 4) (v : Word) (s : State) : Answer :=
  hostCmd s f Reg.HDG_KEY_CTL (fun s => if bitOf v 6 then keyStart s v else s)

/-- KEY_COMMIT_DONE (R171): the slot is written whole and BUSY clears. -/
def execKeyCommitDone (s : State) : Answer :=
  domEvent s 3 (fun s =>
    match s.hdg.keyCmd with
    | none => s
    | some (i, k) =>
      let keys := tabSet (fun _ => none) s.hdg.keys i k
      regSetFld { s with hdg := { s.hdg with keyCmd := none, keys := keys } } Reg.HDG_KEY_STAT 8 8 0)

end Sys2Proof.Machine
end

