-- ==== Sys2Proof/Machine/Semantic.lean ====
section
/-!
DEFINITION. Check 7 of the verify pass (R54): the content rules of every section, from this chapter and the chapter that defines each
record. A check is a payload offset with whether the field there is broken; the first broken one of the first broken section in table
order is reported (log entry 32).
-/
namespace Sys2Proof.Machine

/-! ### Checks -/

/-- Checks of a payload: an offset, and whether the field there breaks its rule. -/
abbrev Checks := List (Nat × Bool)

/-- Fields of a record at payload offset `o`: each (offset, size, least, greatest). -/
def ranged (o : Nat) (r : List Byte) (l : List (Nat × Nat × Nat × Nat)) : Checks :=
  l.map (fun f => (o + f.1, decide (leAt r f.1 f.2.1 < f.2.2.1) || decide (f.2.2.2 < leAt r f.1 f.2.1)))

/-- Reserved ranges of a record: each (offset, size), zero. -/
def zeroed (o : Nat) (r : List Byte) (l : List (Nat × Nat)) : Checks :=
  l.map (fun f => (o + f.1, (slice r f.1 f.2).any (fun b => decide (b ≠ 0))))

/-- The records of an array with their payload offsets. -/
def recsAt (x : ImgSection) (arr : Nat) : List (Nat × List Byte) :=
  match arrayEntry x.payload arr with
  | some e => (List.range e.2.1).map (fun i => (e.2.2 + e.1 * i, slice x.payload (e.2.2 + e.1 * i) e.1))
  | none => []

/-- A record whose key an earlier record of the list has. -/
def repeated {α : Type} [BEq α] (key : List Byte → α) (l : List (Nat × List Byte)) : Checks :=
  (l.zipIdx).map (fun e => (e.1.1, (l.take e.2).any (fun f => key f.2 == key e.1.2)))

/-- The records of an array of the section of a type and instance, if the image holds it. -/
def imgRecs (i : Image) (type inst arr : Nat) : List (Nat × List Byte) :=
  match imageSection i type inst with
  | some x => recsAt x arr
  | none => []

/-- A field of a flat section of an image. -/
def imgField (i : Image) (type off len : Nat) : Nat :=
  match imageSection i type 0 with
  | some x => leAt x.payload off len
  | none => 0

/-! ### Directories (R41, R42, Table 2-7) -/

/-- The arrays of Table 2-7: array, record size, greatest count. -/
def arrayTable : List (Nat × Nat × Nat) :=
  [(0x0401, 8, 200), (0x0402, 16, 4096), (0x0403, 32, 65536), (0x0404, 32, 256), (0x0405, 16, 1024), (0x0406, 16, 65536),
   (0x0501, 64, 1), (0x0502, 8, 200), (0x0503, 8, 5), (0x0601, 64, 1), (0x0602, 32, 8), (0x0603, 16, 2048), (0x0604, 16, 8),
   (0x0701, 64, 16), (0x0702, 64, 1024), (0x0703, 8, 16384), (0x0801, 128, 512), (0x0802, 64, 8192), (0x0803, 64, 64),
   (0x0804, 1, 1048576), (0x0901, 64, 1), (0x0902, 4, 32768), (0x0903, 1, 65536), (0x0A01, 64, 1), (0x0A02, 16, 65536),
   (0x0A03, 512, 65536), (0x0B01, 8, 64), (0x0B02, 16, 336), (0x0D01, 8, 64), (0x0D02, 8, 2), (0x0D03, 128, 48), (0x0D04, 32, 48),
   (0x0F01, 16, 16), (0x0F02, 8, 4)]

/-- Whether sections of a type are directories (Table 2-3). -/
def isDirectory (type : Nat) : Bool :=
  (decide (4 ≤ type) && decide (type ≤ 11)) || decide (type = 13) || decide (type = 15)

/-- The head and the entries of a directory: reserved bytes, identifiers, sizes, counts, alignment, place, overlap. -/
def dirChecks (x : ImgSection) : Checks :=
  let p := x.payload
  let n := leAt p 0 2
  let off := fun (j : Nat) => leAt p (24 + 16 * j) 4
  let len := fun (j : Nat) => leAt p (18 + 16 * j) 2 * leAt p (20 + 16 * j) 4
  [(0, decide (p.length < 16 + 16 * n))] ++ zeroed 0 p [(2, 14)] ++
    (List.range n).flatMap (fun j =>
      let o := 16 + 16 * j
      let id := leAt p o 2
      let row := arrayTable.find? (fun t => decide (t.1 = id))
      [(o, decide (id / 256 ≠ x.type) || row.isNone || (List.range j).any (fun k => decide (leAt p (16 + 16 * k) 2 = id))),
       (o + 2, match row with | some t => decide (leAt p (o + 2) 2 ≠ t.2.1) | none => false),
       (o + 4, match row with | some t => decide (t.2.2 < leAt p (o + 4) 4) | none => false),
       (o + 8, decide (off j % 8 ≠ 0) || decide (off j < 16 + 16 * n) || decide (p.length < off j + len j)
        || (List.range j).any (fun k => decide (off j < off k + len k) && decide (off k < off j + len j))),
       (o + 12, decide (leAt p (o + 12) 4 ≠ 0))])

/-! ### Flat sections (R34 to R40, R45, R503) -/

/-- LANES (Tables 2-4 and 20-13). -/
def lanesChecks (p : List Byte) : Checks :=
  (List.range 48).map (fun q => (q, decide (8 ≤ leAt p q 1))) ++ (List.range 8).map (fun u => (48 + u, decide (16 ≤ leAt p (48 + u) 1)))
    ++ [(56, decide (4096 ≤ leAt p 56 4)), (60, decide (leAt p 60 4 ≠ 0))]
    ++ (List.range 192).map (fun n =>
      let b := leAt p (64 + n) 1
      (64 + n, decide (8 ≤ b) || (nbit b 2 && !nbit (leAt p (n / 4) 1) 0)))
    ++ (List.range 60).flatMap (fun l =>
      let o := 256 + 4 * l
      let pre := leAt p o 1
      let main := leAt p (o + 1) 1
      let post := leAt p (o + 2) 1
      [(o, decide (15 < pre) || (decide (main = 0) && decide (pre ≠ 0))),
       (o + 1, (decide (main ≠ 0) && (decide (main < 32) || decide (63 < main))) || (decide (main ≠ 0) && decide (63 < pre + main + post))),
       (o + 2, decide (31 < post) || (decide (main = 0) && decide (post ≠ 0))), (o + 3, decide (15 < leAt p (o + 3) 1))])

/-- The members of a district of an image: front ports and uplinks. -/
def imgMembers (i : Image) (d : Nat) : List Nat :=
  if d < imgField i 2 0 1 then (List.range 200).filter (fun p => nbit (imgField i 2 (8 + 64 * d) 32) p) else []

/-- The sum of the reserves of a district's classes in an image. -/
def imgReserves (i : Image) (d : Nat) : Nat := (List.range 8).foldl (fun a c => a + imgField i 3 (64 * d + 8 + 2 * c) 2) 0

/-- DISTRICTS (R35, R36, R177, R178). -/
def districtChecks (i : Image) (p : List Byte) : Checks :=
  let n := leAt p 0 1
  let cells := fun (d : Nat) => leAt p (8 + 64 * d + 36) 4
  let fdb := fun (d : Nat) => leAt p (8 + 64 * d + 40) 4
  [(0, decide (n = 0) || decide (8 < n))] ++ zeroed 0 p [(1, 7)] ++
    (List.range 8).flatMap (fun d =>
      let o := 8 + 64 * d
      let r := slice p o 64
      if n ≤ d then zeroed o r [(0, 64)]
      else
        let m := (imgMembers i d).length
        let oq := leAt r 44 4
        let bits := leAt r 0 32
        let others := (List.range d).any (fun e => (List.range 200).any (fun q => nbit bits q && nbit (leAt p (8 + 64 * e) 32) q))
        [(o, decide (2 ^ 200 ≤ bits) || others)] ++ ranged o r [(32, 2, 1, 4094), (34, 1, 0, 3)] ++ zeroed o r [(35, 1), (48, 16)]
          ++ [(o + 36, decide (98304 < (List.range (d + 1)).foldl (fun a e => a + cells e) 0)
                || (decide (m ≤ 64) && decide (cells d < (m + 4) * imgReserves i d))),
              (o + 40, decide (fdb d % 256 ≠ 0) || decide (65536 < (List.range (d + 1)).foldl (fun a e => a + fdb e) 0)),
              (o + 44, if m ≤ 64 then decide (oq ≠ 0)
                else decide (cells d < oq * m) || decide (oq < imgReserves i d + 64) || decide (cells d < oq * m + 40 * m))])

/-- QUEUES (R37). -/
def queuesChecks (p : List Byte) : Checks :=
  (List.range 8).flatMap (fun d =>
    (List.range 8).map (fun c =>
      let k := leAt p (64 * d + c) 1
      (64 * d + c, decide (4 ≤ k) && decide (k < 252))) ++ zeroed (64 * d) (slice p (64 * d) 64) [(48, 16)])

/-- Whether a mailbox may be bound to a master (R386). -/
def mbxMaster (m : Nat) : Bool := decide (m ≤ 33) || decide (m = 35) || (decide (36 ≤ m) && decide (m ≤ 39))

/-- MAILBOX (R38, R386). -/
def mailboxChecks (p : List Byte) : Checks :=
  (List.range 64).flatMap (fun c =>
    let o := 8 * c
    let a := leAt p o 1
    let b := leAt p (o + 1) 1
    let unused := decide (a = 63) && decide (b = 63)
    [(o, !unused && !mbxMaster a), (o + 1, !unused && (!mbxMaster b || decide (a = b))), (o + 2, decide (4 ≤ leAt p (o + 2) 1)),
     (o + 3, decide (leAt p (o + 3) 5 ≠ 0))])

/-- TWIN (R39), TRICKLE (R40) and BIND (R45). -/
def twinChecks (p : List Byte) : Checks :=
  ranged 0 p [(0, 1, 0, 1), (1, 1, 0, 1), (2, 1, 0, 15), (3, 1, 0, 15), (4, 4, 0, 60000)] ++ zeroed 0 p [(8, 56)]
def trickleChecks (p : List Byte) : Checks := ranged 0 p [(0, 1, 0, 1), (1, 1, 0, 7)] ++ zeroed 0 p [(3, 13)]
def bindChecks (p : List Byte) : Checks :=
  let n := leAt p 0 1
  [(0, decide (n = 0) || decide (16 < n) || decide (p.length ≠ 64 + 32 * n))] ++ ranged 0 p [(1, 1, 0, 1)] ++ zeroed 0 p [(2, 30)]
    ++ (if leAt p 1 1 = 0 then zeroed 0 p [(32, 32)] else [])

/-! ### HEADGATE (R153 to R161, R168, R183) -/

/-- The port-role record of a port in an image (Table 6-2). -/
def imgRole (i : Image) (p : Nat) : List Byte :=
  match (imgRecs i 4 0 0x0401)[p]? with
  | some r => r.2
  | none => role0

/-- The ports of a role in a redundancy set of an image. -/
def imgSet (i : Image) (set role : Nat) : List Nat :=
  (List.range 200).filter (fun p => decide (leAt (imgRole i p) 6 1 = set * 8 + role))

/-- The district of a port in an image. -/
def imgDistrict (i : Image) (p : Nat) : Option Nat := (List.range 8).find? (fun d => (imgMembers i d).contains p)

/-- A redundancy set that R161 or Table 6-5 does not allow: with ports, it has one A port and one B port of one kind and district, and
at most one interlink. -/
def setBad (i : Image) (x : Nat) : Bool :=
  let a := imgSet i x 1 ++ imgSet i x 3
  let b := imgSet i x 2 ++ imgSet i x 4
  let l := imgSet i x 5
  let mixed := decide (imgSet i x 1 ≠ [] ∨ imgSet i x 2 ≠ []) && decide (imgSet i x 3 ≠ [] ∨ imgSet i x 4 ≠ [])
  let ds := ((a ++ b ++ l).map (imgDistrict i)).dedup
  decide (a ++ b ++ l ≠ []) && (decide (a.length ≠ 1) || decide (b.length ≠ 1) || decide (1 < l.length) || mixed || decide (1 < ds.length)
    || decide (ds = [none]))

/-- HSR sets without an interlink whose A port lies in a district (R161: at most two). -/
def ringSets (i : Image) (d : Nat) : List Nat :=
  (List.range 4).filter (fun x => (imgSet i x 3).any (fun p => decide (imgDistrict i p = some d)) && (imgSet i x 5).isEmpty)

/-- Whether a destination of kind 1 or 2 (a port, a set) lies in a district: every port it names is a member. -/
def destIn (i : Image) (d : Nat) (set : Bool) (n : Nat) : Bool :=
  if set then
    let l := (List.range 4).flatMap (fun r => imgSet i n (r + 1))
    !l.isEmpty && l.all (fun p => (imgMembers i d).contains p)
  else decide (200 ≤ n) || (imgMembers i d).contains n

/-- DEST of a static forwarding entry (Table 7-2). -/
def fdbDestBad (i : Image) (d w : Nat) : Bool :=
  let k := w / 2 ^ 14
  let n := w % 2 ^ 14
  if k = 0 then decide (203 < n) || !destIn i d false n
  else if k = 1 then decide (3 < n) || !destIn i d true n
  else if k = 2 then decide (1023 < n)
  else decide (n ≠ 0)

/-- The reserved bits of a stream entry (Table 6-4). -/
def streamZero (r : List Byte) : Bool :=
  decide (nbits (leAt r 22 2) 15 10 ≠ 0) || decide (nbits (leAt r 24 2) 14 10 ≠ 0) || decide (leAt r 26 6 ≠ 0)
    || (decide (leAt r 0 1 = 1) && (decide (16 ≤ leAt r 10 1) || decide (leAt r 16 4 ≠ 0)))
    || (decide (leAt r 0 1 = 2) && (decide (leAt r 13 1 ≠ 0) || decide (leAt r 18 2 ≠ 0)))

/-- HEADGATE. -/
def headgateChecks (i : Image) (x : ImgSection) : Checks :=
  let roles := recsAt x 0x0401
  let streams := recsAt x 0x0403 ++ recsAt x 0x0404
  let hashed := (recsAt x 0x0403).zipIdx
  let fdb := (recsAt x 0x0406).filter (fun r => nbit (leAt r.2 11 1) 0)
  let dist := fun (r : List Byte) => leAt r 10 1
  let room := fun (d : Nat) => if d < imgField i 2 0 1 then imgField i 2 (8 + 64 * d + 40) 4 else 0
  let bucket := fun (r : List Byte) => (dist r, (crc32c (r.take 8)).toNat % (room (dist r) / 8))
  roles.map (fun r => (r.1, !roleOk r.2))
    ++ (roles.zipIdx).map (fun e =>
      let r := leAt e.1.2 6 1
      let d := imgDistrict i e.2
      (e.1.1 + 6, decide (r % 8 ≠ 0) && (setBad i (r / 8 % 4) ||
        (match d with
        | some d => decide (2 < (ringSets i d).length) && decide (((ringSets i d)[2]?) = some (r / 8 % 4))
        | none => false))))
    ++ ((recsAt x 0x0402).zipIdx).flatMap (fun e =>
      let o := e.1.1
      let r := e.1.2
      (if e.2 = 0 ∨ e.2 = 4095 then zeroed o r [(0, 16)] else [])
        ++ ranged o r [(8, 2, 0, 4095), (10, 1, 0, 7), (11, 1, 0, 3)] ++ zeroed o r [(12, 4)]
        ++ [(o + 10, nbit (leAt r 11 1) 0 && decide (imgField i 2 0 1 ≤ leAt r 10 1))])
    ++ streams.map (fun r => (r.1, !streamOk r.2 || streamZero r.2))
    ++ hashed.map (fun e => (e.1.1 + 4, decide (leAt e.1.2 0 1 ≠ 0) && decide (streamBucket (streamKeyOf e.1.2) ≠ e.2 / 4)))
    ++ repeated streamKeyOf (streams.filter (fun r => decide (leAt r.2 0 1 ≠ 0)))
    ++ (recsAt x 0x0405).flatMap (fun r => (r.1, !policerOk r.2) :: zeroed r.1 r.2 [(8, 8)])
    ++ (recsAt x 0x0406).flatMap (fun r =>
      ranged r.1 r.2 [(6, 2, 0, 4095), (10, 1, 0, 7), (11, 1, 0, 1), (12, 2, 0, 0), (14, 2, 0, 0)]
        ++ [(r.1 + 8, fdbDestBad i (dist r.2) (leAt r.2 8 2))])
    ++ repeated (fun r => (r.take 8, dist r)) (recsAt x 0x0406)
    ++ (fdb.zipIdx).map (fun e =>
      let d := dist e.1.2
      (e.1.1 + 10, decide (room d < ((fdb.take (e.2 + 1)).filter (fun f => decide (dist f.2 = d))).length)
        || decide (8 < ((fdb.take (e.2 + 1)).filter (fun f => decide (bucket f.2 = bucket e.1.2))).length)))

/-! ### TIME (R117) and FURROW (R217, R242) -/

/-- TIME: its one settings record, and the calendar policies. -/
def timeChecks (x : ImgSection) : Checks :=
  let cal := recsAt x 0x0503
  [(0, decide ((recsAt x 0x0501).length ≠ 1))]
    ++ (recsAt x 0x0501).flatMap (fun r =>
      let off := (BitVec.ofNat 32 (leAt r.2 8 4)).toInt
      [(r.1, decide (41 < leAt r.2 0 1) && decide (leAt r.2 0 1 ≠ 63))]
        ++ ranged r.1 r.2 [(1, 1, 0, 2), (2, 1, 0, 2), (4, 4, 1, 500000), (16, 1, 0, 3)] ++ zeroed r.1 r.2 [(3, 1), (17, 7), (49, 7), (56, 8)]
        ++ [(r.1 + 8, decide (off < -1000000) || decide (1000000 < off))])
    ++ cal.flatMap (fun r => ranged r.1 r.2 [(0, 1, 0, 4), (1, 1, 0, 1), (2, 2, 0, 10000)] ++ zeroed r.1 r.2 [(6, 2)])
    ++ repeated (fun r => leAt r 0 1) cal

/-- The ports that an entry of a FURROW section names. -/
def furPortsOf (r : List Byte) : List Nat := ([leAt r 4 1, leAt r 5 1]).filter (fun p => decide (p ≠ 255))

/-- The wire time of a CYCLE_START at a SPEED of Table 9-9, in ns rounded up (R221). -/
def cycleStartNs (speed : Nat) : Nat := if speed = 1 then 6720 else if speed = 2 then 672 else if speed = 3 then 68 else 27

/-- The window of a static entry [from, to): the entry's guard, or the domain's (R242). -/
def furWindow (guard : Nat) (r : List Byte) : Int × Int :=
  let g := if leAt r 12 2 = 0 then guard else leAt r 12 2
  ((leAt r 8 4 : Int) - g, (leAt r 8 4 : Int) + leAt r 6 2 * 8)

/-- FURROW of domain `x.inst`. -/
def furrowChecks (i : Image) (x : ImgSection) : Checks :=
  let dom := (recsAt x 0x0601).head?
  let f := fun (off len : Nat) => match dom with | some r => leAt r.2 off len | none => 0
  let modes := recsAt x 0x0602
  let ents := recsAt x 0x0603
  let segs := recsAt x 0x0604
  let has := fun (m : Nat) => modes.any (fun r => decide (leAt r.2 0 1 = m))
  let modeRec := fun (m : Nat) => match modes.find? (fun r => decide (leAt r.2 0 1 = m)) with | some r => r.2 | none => zeros 32
  let free := nbit (f 0 1) 1
  let guard := f 16 2
  let ports := (ents.flatMap (fun e => furPortsOf e.2)).dedup
  let others := (i.sections.filter (fun y => decide (y.type = 6) && decide (y.inst ≠ x.inst))).flatMap
    (fun y => (recsAt y 0x0603).flatMap (fun e => furPortsOf e.2))
  [(0, dom.isNone)]
    ++ (recsAt x 0x0601).flatMap (fun r =>
      let o := r.1
      ranged o r.2 [(0, 1, 0, 3), (1, 1, 0, 7), (2, 1, 1, 4), (3, 1, 0, imgField i 2 0 1 - 1), (4, 4, 25000, 10000000), (16, 2, 8, 10000),
          (18, 2, 0, guard), (22, 1, 0, 7)] ++ zeroed o r.2 [(23, 1), (30, 34)]
        ++ [(o + 4, decide (f 4 4 % 8 ≠ 0) || (!free && decide (1000000000 % f 4 4 ≠ 0))),
            (o + 8, if free then decide (f 8 4 ≠ 0) else decide (f 8 4 % 8 ≠ 0) || decide (f 4 4 < f 8 4 + 8)),
            (o + 12, if free then decide (f 12 4 % 8 ≠ 0) || decide (f 12 4 < 2000) || decide (1000000 < f 12 4) else decide (f 12 4 ≠ 0)),
            (o + 16, decide (guard % 8 ≠ 0)), (o + 22, !has (f 22 1)), (o + 24, !nbit (f 24 1) 0),
            (o + 3, decide (64 < ports.length))])
    ++ modes.flatMap (fun r =>
      let lead := leAt r.2 4 4
      let dyn := leAt r.2 8 4
      let fre := leAt r.2 12 4
      ranged r.1 r.2 [(0, 1, 0, 7)] ++ zeroed r.1 r.2 [(1, 3), (16, 16)]
        ++ [(r.1 + 4, decide (lead % 8 ≠ 0) || decide (lead < cycleStartNs (f 2 1) + guard)),
            (r.1 + 8, decide (dyn % 8 ≠ 0) || decide (dyn < lead)),
            (r.1 + 12, decide (fre % 8 ≠ 0) || decide (fre < dyn) || decide (f 4 4 < fre)),
            (r.1, decide (256 < (ents.filter (fun e => decide (leAt e.2 0 1 = leAt r.2 0 1))).length))])
    ++ segs.flatMap (fun r =>
      let n := leAt r.2 2 2
      let ms := leAt r.2 4 2
      let m := modeRec (leAt r.2 0 1)
      ranged r.1 r.2 [(0, 1, 0, 7), (2, 2, 0, 2048), (4, 2, 200, 65528)] ++ zeroed r.1 r.2 [(1, 1), (8, 8)]
        ++ [(r.1, !has (leAt r.2 0 1)), (r.1 + 4, decide (ms % 8 ≠ 0)),
            (r.1 + 6, decide (leAt r.2 6 2 % 8 ≠ 0) || decide (ms ≤ leAt r.2 6 2 + guard)),
            (r.1 + 2, decide (leAt m 12 4 < leAt m 8 4 + n * ms))])
    ++ repeated (fun r => leAt r 0 1) segs
    ++ (ents.zipIdx).flatMap (fun z =>
      let o := z.1.1
      let r := z.1.2
      let kind := leAt r 1 1 % 128
      let st := decide (kind = 0)
      let m := modeRec (leAt r 0 1)
      let w := furWindow guard r
      let before := (ents.take z.2).filter (fun e => decide (leAt e.2 0 1 = leAt r 0 1))
      let g := leAt r 12 2
      ranged o r [(0, 1, 0, 7), (3, 1, 1, 254)] ++ zeroed o r [(14, 2)]
        ++ [(o, !has (leAt r 0 1)), (o + 1, decide (2 < kind)), (o + 2, !st && decide (leAt r 2 1 ≠ 0)),
            (o + 4, (furPortsOf r).isEmpty || (furPortsOf r).any (fun p => decide (200 ≤ p))),
            (o + 6, if st then decide (leAt r 6 2 = 0) else decide (leAt r 6 2 ≠ 0)),
            (o + 8, if st then decide (leAt r 8 4 % 8 ≠ 0) || decide (w.1 < (leAt m 4 4 : Int)) || decide ((leAt m 8 4 : Int) < w.2)
                || before.any (fun e => decide (leAt e.2 1 1 % 128 = 0) && decide (w.1 < (furWindow guard e.2).2) && decide ((furWindow guard e.2).1 < w.2))
              else decide (leAt r 8 4 ≠ 0)),
            (o + 12, decide (g ≠ 0) && (decide (g % 8 ≠ 0) || decide (g < 8) || decide (10000 < g))),
            (o + 2, st && before.any (fun e => decide (leAt e.2 1 1 % 128 = 0) && decide (leAt e.2 2 1 = leAt r 2 1))),
            (o + 3, decide (kind = 1) && before.any (fun e => decide (leAt e.2 1 1 % 128 = 1) && decide (leAt e.2 3 1 = leAt r 3 1))),
            (o + 4, (furPortsOf r).any (fun p => others.contains p || !(imgMembers i (f 3 1)).contains p
                || decide (leAt (imgRole i p) 6 1 % 8 ≠ 0))),
            (o + 4, (ents.take z.2).any (fun e =>
              (decide (leAt e.2 3 1 = leAt r 3 1) && decide (slice e.2 4 2 ≠ slice r 4 2))
                || (decide (leAt e.2 3 1 ≠ leAt r 3 1) && (furPortsOf r).any (fun p => (furPortsOf e.2).contains p)))),
            (o + 5, decide (leAt r 4 1 = leAt r 5 1))])

/-! ### CONFLUENCE (R256) -/

/-- The wrap of smpCnt of a stream record (Table 10-1). -/
def recWrap (r : List Byte) : Nat :=
  if leAt r 12 4 ≠ 0 then leAt r 12 4 else if leAt r 4 4 ≤ 65536 then leAt r 4 4 else 65536

/-- CONFLUENCE. -/
def confluenceChecks (x : ImgSection) : Checks :=
  let bas := recsAt x 0x0701
  let str := recsAt x 0x0702
  let mp := recsAt x 0x0703
  let on := fun (r : List Byte) => nbit (leAt r 0 1) 0
  let sum := fun (l : List (Nat × List Byte)) (g : List Byte → Nat) => l.foldl (fun a r => a + g r.2) 0
  let basOf := fun (b : Nat) => bas.find? (fun r => decide (leAt r.2 0 1 = b))
  (bas.zipIdx).flatMap (fun z =>
      let o := z.1.1
      let r := z.1.2
      let l := bas.take (z.2 + 1)
      let rate := leAt r 4 4
      let mine := mp.filter (fun e => decide (leAt e.2 3 1 = leAt r 0 1))
      ranged o r [(0, 1, 0, 15), (1, 1, 0, 3), (2, 1, 0, 3), (4, 4, 1000, 96000), (8, 4, 0, 1000000000 / rate - 1), (12, 4, 20000, 10000000),
          (16, 2, 0, 10000), (20, 2, 1, 16384)] ++ zeroed o r [(3, 1), (22, 42)]
        ++ [(o + 20, decide (16384 < sum l (fun r => leAt r 20 2))
              || decide (100000000 < sum (l.filter (fun r => on (r.2.drop 1))) (fun r => leAt r 20 2 * leAt r 4 4))
              || (List.range (leAt r 20 2)).any (fun c => mine.all (fun e => decide (leAt e.2 4 2 ≠ c))))])
    ++ repeated (fun r => leAt r 0 1) bas
    ++ (str.zipIdx).flatMap (fun z =>
      let o := z.1.1
      let r := z.1.2
      let l := str.take (z.2 + 1)
      let h := leAt r 16 2
      let w := leAt r 12 4
      ranged o r [(0, 1, 0, 31), (1, 1, 0, 3), (2, 1, 1, 32), (3, 1, 0, 8), (4, 4, 1000, 96000), (8, 4, 0, 10000000), (18, 2, 1, 65535)]
        ++ zeroed o r [(28, 36)]
        ++ [(o + 12, decide (w ≠ 0) && (decide (w < 1000) || decide (65536 < w))),
            (o + 16, !([8, 16, 32, 64, 128, 256, 512, 1024].contains h)
              || ((decide (leAt r 1 1 = 0) || decide (leAt r 1 1 = 3)) && decide (recWrap r < 2 * h))
              || decide (524288 < sum l (fun r => leAt r 2 1 * leAt r 16 2))),
            (o + 4, decide (100000000 < sum (l.filter (fun r => on r.2)) (fun r => leAt r 2 1 * leAt r 4 4)))])
    ++ (mp.zipIdx).flatMap (fun z =>
      let o := z.1.1
      let r := z.1.2
      let before := (mp.take z.2).filter (fun e => decide (leAt e.2 3 1 = leAt r 3 1))
      [(o, match str[leAt r 0 2]? with
          | some _ => decide (1024 ≤ leAt r 0 2)
          | none => true),
       (o + 2, (match str[leAt r 0 2]? with
          | some t => decide (leAt t.2 2 1 ≤ leAt r 2 1)
          | none => false) || before.any (fun e => decide (leAt e.2 0 3 = leAt r 0 3))),
       (o + 3, (basOf (leAt r 3 1)).isNone),
       (o + 4, (match basOf (leAt r 3 1) with
          | some b => decide (leAt b.2 20 2 ≤ leAt r 4 2)
          | none => false) || before.any (fun e => decide (leAt e.2 4 2 = leAt r 4 2))),
       (o + 6, decide (3 ≤ leAt r 6 1)), (o + 7, decide (leAt r 7 1 ≠ 0))])

/-! ### PUBLISH (R280, R281, R290 to R292) -/

/-- The length of a frame with its tag: the frame as built, or as IEC 62351-6 extends it (log entry 5). -/
def taggedLen (frame : List Byte) (alg : Nat) : Nat :=
  if alg = 0 then frameLen frame else frameLen (Config.secExtend frame alg 0 (zeros (tagLen alg)))

/-- The bytes of a template: none when it lies outside array 0x0804. -/
def templateAt (x : ImgSection) (off len : Nat) : Option (List Byte) :=
  match arrayEntry x.payload 0x0804 with
  | some e => if off + len ≤ e.2.1 then some (slice x.payload (e.2.2 + off) len) else none
  | none => if len = 0 then some [] else none

/-- The template holds its header, EtherType and the TLVs of the tags given, whole. -/
def templateBad (t : List Byte) (hdr ether : Nat) (tags : List Nat) : Bool :=
  let parts := tlvSplit tags.length (t.drop hdr)
  decide (t.length < hdr) || decide (beAt t (hdr - 10) 2 ≠ ether) || decide (parts.map (fun l => leAt l 0 1) ≠ tags)
    || decide (hdr + parts.flatten.length ≠ t.length)

/-- The longest frame of a publication: DATA_MAX content, numbers at their longest (R281). -/
def gooseLongest (r t : List Byte) : List Byte :=
  let n := leAt r 34 1
  let body := t.drop n ++ berTlv 0x81 (berInt (talOf (leAt r 16 4 * 1000))) ++ berTlv 0x84 (zeros 8) ++ berTlv 0x85 (zeros 5)
    ++ berTlv 0x86 (zeros 5) ++ berTlv 0x87 [0] ++ berTlv 0x88 (berInt (leAt r 24 4)) ++ berTlv 0x89 [0]
    ++ berTlv 0x8A (berInt (leAt r 36 2)) ++ berTlv 0xAB (zeros (leAt r 38 2))
  t.take n ++ berTlv 0x61 body

/-- The frame of a republication with NO_ASDU ASDUs (R291). -/
def svLongest (r t : List Byte) : List Byte :=
  let n := leAt r 26 1
  let asdu := berTlv 0x30 (t.drop n ++ berTlv 0x82 (zeros 2) ++ berTlv 0x83 (zeros 4) ++ berTlv 0x85 [0] ++ berTlv 0x87 (zeros (8 * leAt r 10 1)))
  let k := leAt r 7 1
  t.take n ++ berTlv 0x60 (berTlv 0x80 (berInt k) ++ berTlv 0xA2 ((List.replicate k asdu).flatten))

/-- One DEST of a publication (Table 11-1): its form, and its ports in the district. -/
def pubDestBad (i : Image) (d w : Nat) : Bool :=
  let k := w / 2 ^ 14
  let n := w % 2 ^ 14
  if k = 0 then decide (n ≠ 0)
  else if k = 1 then decide (199 < n) || !destIn i d false n
  else if k = 2 then decide (3 < n) || !destIn i d true n
  else true

/-- PUBLISH. -/
def publishChecks (i : Image) (x : ImgSection) : Checks :=
  let subs := recsAt x 0x0802
  let district := fun (r : List Byte) => nbits (leAt r 3 1) 6 4
  let tcd := fun (o : Nat) (r : List Byte) =>
    (o + 3, nbit (leAt r 3 1) 3 || nbit (leAt r 3 1) 7 || decide (imgField i 2 0 1 ≤ district r))
  (recsAt x 0x0801).flatMap (fun z =>
      let o := z.1
      let r := z.2
      let dests := (List.range 4).map (fun k => leAt r (4 + 2 * k) 2)
      let t := templateAt x (leAt r 28 4) (leAt r 32 2)
      let hdr := leAt r 34 1
      let buf := leAt r 40 4
      ranged o r [(0, 1, 0, 15), (1, 1, 0, 5), (12, 4, 100, 1000000), (16, 4, leAt r 12 4, 2000000), (20, 1, 0, 15), (38, 2, 1, 1400)]
        ++ zeroed o r [(21, 3), (35, 1), (44, 84)] ++ [tcd o r]
        ++ (dests.zipIdx).map (fun w => (o + 4 + 2 * w.2, pubDestBad i (district r) w.1))
        ++ [(o + 4, !nbit (leAt r 0 1) 2 && dests.all (fun w => decide (w = 0))), (o + 28, t.isNone),
            (o + 34, decide (hdr ≠ 22 ∧ hdr ≠ 26)),
            (o + 32, match t with
              | some t => templateBad t hdr 0x88B8 [0x80, 0x82, 0x83] || decide (1518 < taggedLen (gooseLongest r t) (leAt r 1 1))
              | none => false),
            (o + 40, decide (buf % 8 ≠ 0) || decide (0x400000 < buf + 2 * ((leAt r 38 2 + 7) / 8 * 8)))])
    ++ subs.flatMap (fun z =>
      ranged z.1 z.2 [(0, 1, 0, 31), (1, 1, 0, 3), (2, 2, 20, 10000), (4, 4, 0, 65791), (16, 4, 0, 2000)] ++ zeroed z.1 z.2 [(24, 40)])
    ++ (repeated (fun r => leAt r 4 4) subs).map (fun c => (c.1 + 4, c.2))
    ++ (recsAt x 0x0803).flatMap (fun z =>
      let o := z.1
      let r := z.2
      let flags := leAt r 0 1
      let t := templateAt x (leAt r 20 4) (leAt r 24 2)
      let b := match (imgRecs i 7 0 0x0701).find? (fun y => decide (leAt y.2 0 1 = leAt r 6 1)) with
        | some y => some y.2
        | none => none
      ranged o r [(0, 1, 0, 15), (1, 1, 0, 5), (6, 1, 0, 15), (7, 1, 1, 8), (10, 1, 1, 32), (11, 1, 1, 2), (16, 4, 0, 10000000)]
        ++ zeroed o r [(27, 37)] ++ [tcd o r, (o, nbit flags 1 && nbit flags 2),
            (o + 4, pubDestBad i (district r) (leAt r 4 2) || (!nbit flags 1 && decide (leAt r 4 2 = 0))),
            (o + 6, match b with | some y => nbit (leAt y 1 1) 1 | none => true),
            (o + 8, match b with | some y => decide (leAt y 20 2 < leAt r 8 2 + leAt r 10 1) | none => false),
            (o + 16, match b with | some y => decide (leAt r 16 4 < leAt y 12 4 + 20000) | none => false),
            (o + 20, t.isNone), (o + 26, decide (leAt r 26 1 ≠ 22 ∧ leAt r 26 1 ≠ 26)),
            (o + 24, match t with
              | some t => templateBad t (leAt r 26 1) 0x88BA [0x80] || decide (1518 < taggedLen (svLongest r t) (leAt r 1 1))
              | none => false)])

/-! ### PERSONALITY (R44, R320) and RIDER (R353, R354) -/

/-- The header of the personality in a slot (Table 12-7). -/
def imgPers (i : Image) (slot : Nat) : Option (List Byte) :=
  match imgRecs i 9 slot 0x0901 with
  | r :: _ => some r.2
  | [] => none

/-- PERSONALITY of slot `x.inst`. -/
def personalityChecks (i : Image) (x : ImgSection) : Checks :=
  let heads := i.sections.filterMap (fun y => if y.type = 9 ∧ y.inst ≠ x.inst then imgPers i y.inst else none)
  let count := fun (arr : Nat) => arrayCount (some x) arr
  [(0, decide ((recsAt x 0x0901).length ≠ 1))]
    ++ (recsAt x 0x0901).flatMap (fun z =>
      let o := z.1
      let r := z.2
      let id := leAt r 0 2
      let comp := nbit (leAt r 21 1) 1
      let flu := leAt r 24 6
      let programmed := fun (n : Nat) => (imgRecs i 13 0 0x0D04).any (fun e => decide (leAt e.2 0 1 = n))
      [(o, !((decide (1 ≤ id) && decide (id ≤ 12)) || (decide (0x8000 ≤ id) && decide (id ≤ 0xFFFE)))),
       (o + 4, heads.any (fun h => (List.range 32).any (fun n => nbit (leAt h 4 4) n && nbit (leAt r 4 4) n))),
       (o + 8, decide (leAt r 12 4 ≤ leAt r 8 4)), (o + 12, decide (leAt r 12 4 ≠ count 0x0902)), (o + 16, decide (leAt r 16 4 ≠ count 0x0903)),
       (o + 24, decide (2 ^ 48 ≤ flu) || (!comp && decide (flu ≠ 0)) || (List.range 48).any (fun n =>
          nbit flu n && (!programmed n || heads.any (fun h => nbit (leAt h 24 6) n)))),
       (o + 32, decide (leAt r 32 4 ≠ 0) && decide (leAt r 32 4 < 1000))]
        ++ ranged o r [(12, 4, 1, 32768), (16, 4, 0, 65536), (20, 1, 1, 16), (21, 1, 0, 3), (22, 2, 1, 1000)] ++ zeroed o r [(30, 2), (36, 28)])

/-- RIDER. The figures of one policy are judged when it is the policy. -/
def riderChecks (i : Image) (x : ImgSection) : Checks :=
  let decl := recsAt x 0x0A02
  let inits := arrayCount (some x) 0x0A03
  let upto := fun (k m : Nat) => ((decl.take (k + 1)).filter (fun e => decide (leAt e.2 3 1 / m % 2 = 1))).length
  let live := fun (k : Nat) => ((decl.take (k + 1)).filter (fun e => decide (leAt e.2 3 1 % 8 ≠ 0))).length
  [(0, decide ((recsAt x 0x0A01).length ≠ 1))]
    ++ (recsAt x 0x0A01).flatMap (fun z =>
      let p := leAt z.2 0 1
      ranged z.1 z.2 ([(0, 1, 0, 2), (1, 1, 0, 4), (2, 1, 0, 64), (4, 4, 100, 100000), (14, 2, 0, 512), (16, 4, 10, 100000)]
          ++ (if p = 0 then [(8, 2, 10, 500)] else if p = 1 then [(10, 2, 100, 950)] else [(12, 2, 100, 950)]))
        ++ zeroed z.1 z.2 [(3, 1), (20, 44)])
    ++ (decl.zipIdx).flatMap (fun z =>
      let o := z.1.1
      let r := z.1.2
      let flags := leAt r 3 1
      let pers := if leAt r 2 1 < 32 then imgPers i (leAt r 2 1) else none
      ranged o r [(2, 1, 0, 31), (3, 1, 0, 31), (6, 2, 0, 1000)] ++ zeroed o r [(5, 1), (12, 4)]
        ++ [(o + 2, pers.isNone),
            (o + 4, if nbit flags 1 then (match pers with
                | some h => decide (32 ≤ leAt r 4 1) || !nbit (leAt h 4 4) (leAt r 4 1)
                | none => true)
              else decide (leAt r 4 1 ≠ 255)),
            (o + 8, if nbit flags 4 then decide (inits ≤ leAt r 8 4) else decide (leAt r 8 4 ≠ 0)),
            (o + 3, decide (4096 < live z.2) || decide (1024 < upto z.2 8))])
    ++ repeated (fun r => leAt r 0 2) decl

/-! ### TANK (R380), FLUME (R417) and POWER (R82) -/

/-- TANK. -/
def tankChecks (x : ImgSection) : Checks :=
  let banks := recsAt x 0x0B01
  let regs := recsAt x 0x0B02
  banks.flatMap (fun z =>
      let owner := leAt z.2 2 1
      ranged z.1 z.2 [(0, 1, 0, 63), (1, 1, 0, 1)] ++ zeroed z.1 z.2 [(3, 5)]
        ++ [(z.1 + 2, if leAt z.2 1 1 = 1 then decide (41 < owner) else decide (owner ≠ 63))])
    ++ repeated (fun r => leAt r 0 1) banks
    ++ regs.flatMap (fun z =>
      let b := leAt z.2 4 4
      let l := leAt z.2 8 4
      ranged z.1 z.2 [(0, 1, 0, 41), (1, 1, 0, 7), (2, 1, 0, 3), (4, 4, 0, 0x3FFFF8), (8, 4, b, 0x3FFFF8)] ++ zeroed z.1 z.2 [(3, 1), (12, 4)]
        ++ [(z.1 + 4, decide (b % 8 ≠ 0)), (z.1 + 8, decide (l % 8 ≠ 0))])
    ++ repeated (fun r => leAt r 0 2) regs

/-- A ring of an engine's settings: its LOG2 field and its place in tank memory (Table 16-2). -/
def ringBad (log base : Nat) : Bool :=
  decide (log ≠ 0) && (decide (log < 4) || decide (base % 8 ≠ 0) || decide (0x400000 < base + 16 + 4 * 2 ^ log))

/-- FLUME. -/
def flumeChecks (x : ImgSection) : Checks :=
  let pins := recsAt x 0x0D01
  let banks := recsAt x 0x0D02
  let engs := recsAt x 0x0D04
  pins.flatMap (fun z =>
      let owner := leAt z.2 1 1
      let drives := decide (leAt z.2 2 1 ≠ 0)
      ranged z.1 z.2 [(0, 1, 0, 63), (2, 1, 0, 3), (3, 1, 0, 2), (4, 1, 0, 3), (5, 1, 0, 3), (6, 1, 0, 3)] ++ zeroed z.1 z.2 [(7, 1)]
        ++ [(z.1 + 1, (decide (47 < owner) && decide (owner ≠ 255))
              || (drives && engs.all (fun e => decide (leAt e.2 0 1 ≠ owner)))),
            (z.1 + 2, drives && banks.all (fun b => decide (leAt b.2 0 1 ≠ leAt z.2 0 1 / 32)))])
    ++ repeated (fun r => leAt r 0 1) pins
    ++ banks.flatMap (fun z => ranged z.1 z.2 [(0, 1, 0, 1), (1, 1, 0, 1)] ++ zeroed z.1 z.2 [(2, 6)])
    ++ repeated (fun r => leAt r 0 1) banks
    ++ engs.flatMap (fun z =>
      let r := z.2
      let join := leAt r 1 1 / 32 % 4
      let tx := leAt r 13 1 % 16
      let rx := leAt r 13 1 / 16
      ranged z.1 r [(0, 1, 0, 47), (1, 1, 0, 0x5F), (2, 2, 1, 65535), (5, 1, 0, 63), (6, 1, 1, 32), (7, 1, 1, 32), (8, 1, 0, 63), (9, 1, 0, 16),
          (10, 1, 0, 63), (11, 1, 0, 63), (12, 1, 0, 47)] ++ zeroed z.1 r [(14, 2), (24, 8)]
        ++ [(z.1 + 12, decide (arrayCount (some x) 0x0D03 ≤ leAt r 12 1)),
            (z.1 + 13, (decide (tx ≠ 0) && (decide (tx < 4) || decide (join = 2))) || (decide (rx ≠ 0) && (decide (rx < 4) || decide (join = 1)))),
            (z.1 + 16, decide (leAt r 16 4 % 8 ≠ 0) || ringBad tx (leAt r 16 4)),
            (z.1 + 20, decide (leAt r 20 4 % 8 ≠ 0) || ringBad rx (leAt r 20 4))])
    ++ repeated (fun r => leAt r 0 1) engs

/-- Whether an image uses a domain (R82). -/
def imgUses (i : Image) (d : Nat) : Bool :=
  if 5 ≤ d ∧ d ≤ 8 then (List.range 12).any (fun q => nbit (imgField i 1 (12 * (d - 5) + q) 1) 0)
  else if d = 9 then (List.range 8).any (fun u => decide (imgField i 1 (48 + u) 1 % 4 ≠ 0))
  else if 10 ≤ d ∧ d ≤ 13 then
    i.sections.any (fun y => decide (y.type = 9) && (match imgPers i y.inst with
      | some h => decide (leAt h (4 + (d - 10)) 1 ≠ 0)
      | none => false))
  else if d = 14 then decide (imgRecs i 7 0 0x0701 ≠ [])
  else if d = 15 then decide (imgRecs i 13 0 0x0D03 ≠ [])
  else if d = 16 then decide (imgField i 14 0 1 ≠ 0) || decide (imgField i 1 56 4 % 16 ≠ 0)
  else true

/-- POWER. -/
def powerChecks (i : Image) (x : ImgSection) : Checks :=
  let doms := recsAt x 0x0F01
  let pts := recsAt x 0x0F02
  doms.flatMap (fun z =>
      let d := leAt z.2 0 1
      let m := leAt z.2 1 1
      let idle := leAt z.2 4 4
      ranged z.1 z.2 [(0, 1, 1, 16), (1, 1, 0, 2), (2, 1, 0, 1)] ++ zeroed z.1 z.2 [(3, 1), (8, 8)]
        ++ [(z.1 + 1, (decide (d ≤ 4) && decide (m ≠ 0)) || (decide (m = 2) && (decide (d < 10) || decide (13 < d)))
              || (decide (m = 1) && imgUses i d)),
            (z.1 + 4, if m = 2 then decide (idle < 10) || decide (1000000 < idle) else decide (idle ≠ 0))])
    ++ repeated (fun r => leAt r 0 1) doms
    ++ pts.flatMap (fun z => ranged z.1 z.2 [(0, 1, 0, 3), (1, 1, 0, 1)] ++ zeroed z.1 z.2 [(2, 6)])
    ++ repeated (fun r => leAt r 0 1) pts

/-! ### The whole check -/

/-- The content rules of a section, its directory first. -/
def sectionChecks (i : Image) (x : ImgSection) : Checks :=
  match x.type with
  | 1 => lanesChecks x.payload
  | 2 => districtChecks i x.payload
  | 3 => queuesChecks x.payload
  | 4 => headgateChecks i x
  | 5 => timeChecks x
  | 6 => furrowChecks i x
  | 7 => confluenceChecks x
  | 8 => publishChecks i x
  | 9 => personalityChecks i x
  | 10 => riderChecks i x
  | 11 => tankChecks x
  | 12 => mailboxChecks x.payload
  | 13 => flumeChecks x
  | 14 => twinChecks x.payload
  | 15 => powerChecks i x
  | 16 => trickleChecks x.payload
  | 17 => bindChecks x.payload
  | 0xF0 => zeroed 0 x.payload [(1, 31), (192, 64)]
  | _ => []

/-- The offset of the first broken field. -/
def firstBad (l : Checks) : Option Nat := (l.find? (fun c => c.2)).map (fun c => c.1)

/-- Check 7: the table index and the payload offset of the first broken rule. Directories are judged before any content. -/
def semanticBad (i : Image) : Option (Nat × Nat) :=
  let first := fun (g : ImgSection → Checks) =>
    (i.sections.zipIdx).findSome? (fun z => (firstBad (g z.1)).map (fun o => (z.2, o)))
  match first (fun x => if isDirectory x.type then dirChecks x else []) with
  | some e => some e
  | none => first (sectionChecks i)

end Sys2Proof.Machine
end

