-- ==== Sys2Proof/Machine/ImageCheck.lean ====
section
/-!
DEFINITION. The verify pass (R54): the header, the section table, the digests, the signature, BIND, and the comparison of a swap with
the running image; and the image as the blocks read it once it has passed.
-/
namespace Sys2Proof.Machine

/-- What a failed check reports: code of Table 2-10, section-table index (0xFF none), image byte offset. -/
abbrev ImgError := Nat × Nat × Nat

/-- The class of a section type (Table 2-3). -/
def typeClass (t : Nat) : Option Nat :=
  if t = 0xF0 then some 2
  else if t = 1 ∨ t = 2 ∨ t = 3 ∨ t = 12 ∨ t = 14 ∨ t = 16 ∨ t = 17 then some 0
  else if (4 ≤ t ∧ t ≤ 11) ∨ t = 13 ∨ t = 15 then some 1
  else none

/-- The length of a flat section of fixed length (Table 2-3). -/
def flatLength (t : Nat) : Option Nat :=
  if t = 1 then some 496 else if t = 2 then some 520 else if t = 3 then some 512 else if t = 12 then some 512
  else if t = 14 then some 64 else if t = 16 then some 16 else if t = 0xF0 then some 256 else none

/-- The greatest INSTANCE of a section type (Table 2-2). -/
def instanceMax (t : Nat) : Nat := if t = 6 then 3 else if t = 9 then 31 else 0

/-- A field of entry `j` of the section table (Table 2-2). -/
def entryField (b : List Byte) (j off len : Nat) : Nat := leAt b (64 + 32 * j + off) len

/-- The end of the payload of entry `j`. -/
def entryEnd (b : List Byte) (j : Nat) : Nat := entryField b j 4 4 + entryField b j 8 4

/-- Check 1 (R29, R30): the header fields, then HEADER_CRC. -/
def headerBad (b : List Byte) : Option ImgError :=
  let size := leAt b 8 4
  if leAt b 0 4 ≠ 0x58424854 then some (1, 0xFF, 0)
  else if leAt b 4 2 ≠ 1 then some (2, 0xFF, 4)
  else if leAt b 16 4 ≠ 0x9192 then some (3, 0xFF, 16)
  else if 67108864 < size ∨ size % 64 ≠ 0 ∨ b.length < size then some (4, 0xFF, 8)
  else if leAt b 60 4 ≠ (crc32c (b.take 60)).toNat then some (5, 0xFF, 60)
  else none

/-- The faults of entry `j` that TABLE names (R29, R31, R54): each image offset with whether the field there is broken. -/
def entryFaults (b : List Byte) (n size j : Nat) : Checks :=
  let o := 64 + 32 * j
  let t := entryField b j 0 1
  let off := entryField b j 4 4
  let before := if j = 0 then 64 + 32 * n else entryEnd b (j - 1)
  [(o, (typeClass t).isNone || (decide (t = 0xF0) && decide (j + 1 ≠ n))), (o + 2, decide (instanceMax t < entryField b j 2 1)),
   (o + 3, decide (entryField b j 3 1 ≠ 0)), (o + 4, decide (off % 64 ≠ 0) || decide (off < before)),
   (o + 8, (match flatLength t with | some l => decide (entryField b j 8 4 ≠ l) | none => false) || decide (size < entryEnd b j)
     || (decide (t = 0xF0) && decide (entryEnd b j ≠ size))),
   (o + 20, (slice b (o + 20) 12).any (fun x => decide (x ≠ 0))),
   (before, decide (j ≠ 0) && (slice b before (off - before)).any (fun x => decide (x ≠ 0)))]

/-- The first entry that has a fault, in table order. -/
def firstEntry (n : Nat) (f : Nat → Option Nat) : Option (Nat × Nat) :=
  (List.range n).findSome? (fun j => (f j).map (fun o => (j, o)))

/-- The section types every image holds (Table 2-3). -/
def requiredTypes : List Nat := [1, 2, 3, 4, 5, 12, 14, 15, 16, 0xF0]

/-- Check 2 (R31, R32, R54): TABLE, CLASS, MISSING, DUPLICATE in that order over the whole table. -/
def tableBad (b : List Byte) : Option ImgError :=
  let n := leAt b 6 2
  let size := leAt b 8 4
  let t := fun (j : Nat) => entryField b j 0 1
  let has := fun (k : Nat) => (List.range n).any (fun j => decide (t j = k))
  if n < 2 ∨ 64 < n ∨ size < 64 + 32 * n then some (6, 0xFF, 6)
  else if leAt b 32 4 ≠ 64 then some (6, 0xFF, 32)
  else
    match firstEntry n (fun j => firstBad (entryFaults b n size j)) with
    | some e => some (6, e.1, e.2)
    | none =>
      match firstEntry n (fun j => if typeClass (t j) = some (entryField b j 1 1) then none else some (64 + 32 * j + 1)) with
      | some e => some (7, e.1, e.2)
      | none =>
        if !requiredTypes.all has || (has 9 && !has 10) then some (8, 0xFF, 64)
        else
          match firstEntry n (fun j =>
            if (List.range j).any (fun k => decide (t k = t j) && decide (entryField b k 2 1 = entryField b j 2 1))
            then some (64 + 32 * j) else none) with
          | some e => some (9, e.1, e.2)
          | none => none

/-- The payload of entry `j`. -/
def entryPayload (b : List Byte) (j : Nat) : List Byte := slice b (entryField b j 4 4) (entryField b j 8 4)

/-- Check 3: every section CRC (R33). -/
def crcBad (b : List Byte) : Option ImgError :=
  match firstEntry (leAt b 6 2) (fun j =>
    if entryField b j 12 4 = (crc32c (entryPayload b j)).toNat then none else some (64 + 32 * j + 12)) with
  | some e => some (10, e.1, e.2)
  | none => none

/-- The signed bytes (R48): all before the SIGNATURE payload, with the CRC of the SIGNATURE entry taken as zero. -/
def signedBytes (b : List Byte) : List Byte :=
  let j := leAt b 6 2 - 1
  patch (b.take (entryField b j 4 4)) (64 + 32 * j + 12) (zeros 4)

/-- A 256-bit value that holds byte i of a field at bits 8i. -/
def le256 (b : List Byte) (off : Nat) : BitVec 256 := BitVec.ofNat 256 (leAt b off 32)

/-- A big-endian 256-bit number of a field (R48). -/
def be256 (b : List Byte) (off : Nat) : BitVec 256 := BitVec.ofNat 256 (beAt b off 32)

/-- Checks 4 and 5 (R48, R49): IMAGE_DIGEST, the key slot, its hash, the signature. -/
def signatureBad (s : State) (b : List Byte) : Option ImgError :=
  let j := leAt b 6 2 - 1
  let o := entryField b j 4 4
  let digest := Config.sha256 (signedBytes b)
  let slot := leAt b o 1
  if digest ≠ le256 b (o + 32) then some (11, j, o + 32)
  else if 3 < slot ∨ !regBit s Reg.IMG_KEYSLOT (8 + slot) ∨ regBit s Reg.IMG_KEYSLOT (16 + slot) then some (12, j, o)
  else if Config.sha256 (slice b (o + 64) 64) ≠ tabGet (fun _ => 0) s.fuses.slotHash slot then some (13, j, o + 64)
  else if !Config.ecdsaValid (be256 b (o + 64)) (be256 b (o + 96)) (be256 b (o + 128)) (be256 b (o + 160)) digest then some (14, j, o + 128)
  else none

/-- The bytes of an image as the blocks read it: header fields and sections in table order. -/
def imageOf (b : List Byte) : Image :=
  let n := leAt b 6 2
  let o := entryField b (n - 1) 4 4
  { serial := leAt b 12 4, flags := leAt b 20 4, buildTime := leAt b 24 8, keySlot := leAt b o 1, digest := le256 b (o + 32)
    sections := (List.range n).map (fun j =>
      { type := entryField b j 0 1, cls := entryField b j 1 1, inst := entryField b j 2 1, offset := entryField b j 4 4
        generation := entryField b j 16 4, crc := entryField b j 12 4, payload := entryPayload b j }) }

/-! ### BIND (R45 to R47) -/

/-- What IMG_BIND_STATUS shows: PRESENT, BOUND, TOKEN_OK, MATCH. -/
structure BindView where
  present : Bool
  bound : Bool
  tokenOk : Bool
  index : Nat
  deriving DecidableEq, Repr

/-- Check 6 (R46): the fused identity is listed, and the bound-host token matches where it is required; a zero token is none (R481). -/
def bindView (s : State) (i : Image) : BindView :=
  match imageSection i 17 0 with
  | none => { present := false, bound := true, tokenOk := true, index := 0 }
  | some x =>
    let p := x.payload
    let found := (List.range (leAt p 0 1)).find? (fun k => decide (le256 p (64 + 32 * k) = s.fuses.identity))
    let token := senToken s.sen
    let ok := !nbit (leAt p 1 1) 0 || (token.any (fun x => decide (x ≠ 0)) && decide (Config.sha256 token = le256 p 32))
    { present := true, bound := found.isSome && ok, tokenOk := ok, index := found.getD 0 }

/-- A BIND section whose COUNT and LENGTH do not agree is left to check 7 (R54). -/
def bindMalformed (i : Image) : Bool :=
  match imageSection i 17 0 with
  | none => false
  | some x => decide (x.payload.length ≠ 64 + 32 * leAt x.payload 0 1)

/-- NOT_BOUND names the BIND section. -/
def bindError (i : Image) : ImgError :=
  let j := i.sections.findIdx (fun x => decide (x.type = 17))
  (15, j, match imageSection i 17 0 with | some x => x.offset | none => 0)

/-- IMG_BIND_STATUS as the last checked image leaves it (Table 2-21). -/
def bindShow (s : State) (v : BindView) : State :=
  regSet s Reg.IMG_BIND_STATUS (BitVec.ofNat 32 (b2n v.present + 2 * b2n v.bound + 4 * b2n v.tokenOk + 16 * (v.index % 16)))

/-! ### The whole pass -/

/-- The reserved bits of the header (R54: every reserved field zero). -/
def headerReserved (b : List Byte) : Option Nat :=
  firstBad [(20, decide (2 ≤ leAt b 20 4)), (36, (slice b 36 24).any (fun x => decide (x ≠ 0)))]

/-- Check 7. -/
def contentBad (b : List Byte) (i : Image) : Option ImgError :=
  match headerReserved b with
  | some o => some (16, 0xFF, o)
  | none =>
    match semanticBad i with
    | some e => some (16, e.1, entryField b e.1 4 4 + e.2)
    | none => none

/-- The payloads of the fixed sections of an image, in table order (R60). -/
def fixedBytes (i : Image) : List Byte := (i.sections.filter (fun x => decide (x.cls = 0))).flatMap (fun x => x.payload)

/-- The digests of the fixed sections differ from the running image's (R60). -/
def fixedChanged (s : State) (i : Image) : Bool :=
  match s.img.running with
  | some r => decide (Config.sha256 (fixedBytes r) ≠ Config.sha256 (fixedBytes i))
  | none => true

/-- How the verify pass ends: the first check that fails, or the image; and what BIND showed, where check 6 was reached. -/
def verify (s : State) (b : List Byte) (swap : Bool) : Option ImgError × Option BindView × Option Image :=
  match headerBad b with
  | some e => (some e, none, none)
  | none =>
    let b := b.take (leAt b 8 4)
    match tableBad b with
    | some e => (some e, none, none)
    | none =>
      match crcBad b with
      | some e => (some e, none, none)
      | none =>
        match signatureBad s b with
        | some e => (some e, none, none)
        | none =>
          let i := imageOf b
          let v := bindView s i
          if !v.bound && !bindMalformed i then (some (bindError i), some v, none)
          else
            match contentBad b i with
            | some e => (some e, some v, none)
            | none => if swap && fixedChanged s i then (some (19, 0xFF, 0), some v, none) else (none, some v, some i)

end Sys2Proof.Machine
end

