-- ==== Sys2Proof/Machine/KernOps.lean ====
section
/-!
DEFINITION. Engines as shared operations, with everything around them (chapters 12 and 13): starts, the end of events, exceptions, halts and
the re-placement of contexts, timers, and the issue of an instruction.
-/
namespace Sys2Proof.Machine

/-! ### Starting (R321) -/

/-- Start an engine's personality with a reason: threads 0 to THREADS − 1 at ENTRY with w1 and w2, all else at reset. -/
def engStart (s : State) (e reason : Nat) : State :=
  let p := engSlot s e
  let g := engGet s e
  let entry := BitVec.ofNat 15 (persField s p e 8 4)
  let n := persField s p e 20 1
  let one := fun (t : Nat) => { thread0 with
    started := true, regs := wSet (wSet [] 1 (BitVec.ofNat 32 t)) 2 (BitVec.ofNat 32 reason), pc := entry, resume := entry }
  let s := engSet s e { g with
    threads := (List.range n).map (fun t => (t, one t)), kept := [], memHalt := false, startCyc := clusterCyc s e, order := 0
    initEnds := some (s.run + persField s p e 22 2 * 1000000), abortHalts := nbit (persField s p e 21 1) 0, nThreads := n, entry := entry }
  let s := regSetFld (regSetFld s (Reg.KRN_ENG_STAT e) 2 0 1) (Reg.KRN_ENG_STAT e) 8 8 0
  regSet s (Reg.KRN_ENG_START e) (BitVec.ofNat 32 (persField s p e 2 2 * 65536 + reason))

/-! ### Timers (R313, R339) -/

/-- An entry fires: its TIMER event is posted in the next cluster cycle (R313). -/
def timerFire (s : State) (e : Nat) (t : KTimer) : State :=
  let g := engGet s e
  krnCount (engSet s e { g with fired := g.fired ++ [(t, clusterCyc s e)] }) e 6

/-- Post the TIMER events of the entries that fired in an earlier cluster cycle. -/
def firedPost (s : State) (e : Nat) : State :=
  let g := engGet s e
  let due := g.fired.filter (fun x => decide (x.2 < clusterCyc s e))
  if due.isEmpty then s
  else
    due.foldl (fun s x => postOwn s e (eventOf s 2 x.1.ctx x.1.cookie 0 []))
      (engSet s e { g with fired := g.fired.filter (fun x => decide (clusterCyc s e ≤ x.2)) })

/-- A set takes effect; answers the bits of the timer status. -/
def timerSet (s : State) (e t : Nat) (ctx : Option Nat) (target cookie : Word) : Nat × State :=
  let g := engGet s e
  let x : KTimer := { target := target, cookie := cookie, ctx := ctx }
  if (2000000000 : Int) < (target - nowNs32 s).toInt then (1, krnCount s e 7)
  else if 1024 ≤ g.timers.length then (2, krnRaise (krnCount s e 7) e t 8)
  else
    let s := regHigh s (Reg.KRN_TIMERS e) 31 16 (g.timers.length + 1)
    (0, if engReplica s e && reached (nowNs32 s) target then timerFire s e x else engSet s e { g with timers := g.timers ++ [x] })

/-- A cancel takes effect: an entry whose target is reached has fired, and so has one that fires in this cycle (R313). -/
def timerCancel (s : State) (e : Nat) (ctx : Option Nat) (cookie : Word) : Nat × State :=
  let g := engGet s e
  let hit := fun (t : KTimer) => decide (t.ctx = ctx) && decide (t.cookie = cookie)
  let late := g.timers.filter (fun t => hit t && engReplica s e && reached (nowNs32 s) t.target)
  let s := engSet s e { g with timers := g.timers.filter (fun t => !hit t) }
  if late.isEmpty && !g.fired.any (fun x => hit x.1 && decide (x.2 = clusterCyc s e)) then (0, s)
  else (4, late.foldl (fun s t => timerFire s e t) (krnCount s e 8))

/-- The timer requests of an event, in program order. -/
def timerApply (e t : Nat) (ctx : Option Nat) : List TimerReq → Nat → State → Nat × State
  | [], st, s => (st, s)
  | r :: rest, st, s =>
    let a := if r.set then timerSet s e t ctx r.target r.cookie else timerCancel s e ctx r.cookie
    timerApply e t ctx rest (st ||| a.1) a.2

/-- Apply timer requests and leave their status in the thread's TIMER_STAT. -/
def timerCommit (s : State) (e t : Nat) (ctx : Option Nat) (l : List TimerReq) : State :=
  if l.isEmpty then s
  else
    let r := timerApply e t ctx l 0 s
    thrSet r.2 e t { thrGet r.2 e t with timerStat := BitVec.ofNat 32 r.1 }

/-! ### The end of an event (R307, R355) -/

/-- The cycles of a thread's event go to its context's count for the interval. -/
def cyclesReport (s : State) (x : KThread) : State :=
  match x.event with
  | some v =>
    (match v.ctx with
      | some c => if (ctxGet s c).mode = .dormant then s else ctxMod s c (fun y => { y with cycles := y.cycles + x.issued })
      | none => s)
  | none => s

/-- The thread's event ends: its requests are dropped, its frame reference released, its cycles reported. -/
def eventEnd (s : State) (e t : Nat) : State :=
  let x := thrGet s e t
  match x.event with
  | none => s
  | some v =>
    let s := thrSet (cyclesReport s x) e t { x with event := none, reqs := [], ended := x.ended + 1 }
    if v.frame = noFrame then s else refDrop s v.frame

/-- What the end of an event makes possible: other events are taken, events that found no room are posted, a rider command that waited
for the boundary ends, a context may leave its slot. -/
def eventAfter (s : State) (e : Nat) : State := pauseSweep (pageKick (riderRetry (postRoom (krnDispatch s e))))

/-- A thread begins to wait for an event. -/
def thrWait (s : State) (e t rd : Nat) (ends after : Option Nat) : State :=
  let g := engGet s e
  let s := engSet s e { g with order := g.order + 1 }
  thrSet s e t { thrGet s e t with wait := some { order := g.order, rd := rd, ends := ends, after := after } }

/-! ### Halts (R318, R363) -/

/-- The next eligible engine of a personality slot after `e`, ascending and wrapping. -/
def nextEligible (s : State) (p e : Nat) : Option Nat :=
  ((List.range 32).map (fun i => (e + 1 + i) % 32)).find? (engEligible s p)

/-- Re-place one context of a halted engine, with the events that it loses to the replay. -/
def ctxReplace (s : State) (e c : Nat) (replays : List KEvent) : State :=
  let x := ctxGet s c
  let p := ctxPers s c
  let target := if x.pinned then nextEligible s p e else placeAmong s (eligible s p) x.weight
  let hold := fun (s : State) =>
    { s with rdr := { s.rdr with hold := replays.map (fun v => (c, { v with replay := true })) ++ s.rdr.hold } }
  let drop := fun (s : State) => replays.foldl (fun s v => if v.frame = noFrame then s else refDrop s v.frame) s
  if x.mode = .hot then
    let s := replays.foldl (fun s _ => rdrCount s 10) s
    (match target with
      | some b =>
        let s := journalNow s 7 5 c e b
        let s := hold (ctxMod s c (fun y => { y with owner := b, moving := none, first := true }))
        holdRelease (placeWake s b) c
      | none =>
        let s := journalNow s 9 5 c e 0xFF
        rdrRaise (hold (ctxMod s c (fun y => { y with mode := .orphan, moving := none }))) c 3)
  else if x.mode = .poisoned then drop s
  else
    (match target with
      | some b => drop (journalNow (ctxMod s c (fun y => { y with owner := b })) 7 5 c e b)
      | none => drop s)

/-- Contexts that engine `e` owns, ascending. -/
def ctxOwned (s : State) (e : Nat) : List Nat := ((ctxLive s).filter (fun x => decide (x.2.owner = e))).map (fun x => x.1)

/-- An engine halts (R318): every thread stops, references go, the rider re-places its contexts. `ecc`: on a memory error. -/
def engHalt (s : State) (e : Nat) (ecc : Bool) : State :=
  let g := engGet s e
  let running := g.threads.filterMap (fun t => t.2.event)
  let lost := (running ++ g.queue).filter (fun v => v.ctx.isSome)
  let s := g.threads.foldl (fun s t => cyclesReport s t.2) s
  let s := { s with krn := { s.krn with far := s.krn.far.filter (fun f => decide (f.eng ≠ e) || !farStalls f) } }
  let s := engSet s e { g with
    queue := g.queue.filter (fun v => v.ctx.isNone), kept := [], initEnds := none, memHalt := g.memHalt || ecc
    threads := (g.threads.map (fun t =>
      (t.1, { t.2 with started := false, event := none, wait := none, build := none, reqs := [], refused := none, hold := none }))).filter
        (fun t => decide (t.2 ≠ thread0)) }
  let s := g.kept.foldl refDrop s
  let s := regSetFld s (Reg.KRN_ENG_STAT e) 2 0 3
  let s := if ecc then krnRaise s e 0 2 else s
  let s := masterReset (krnRaise s e 0 6) e
  let mine := ctxOwned s e
  let s := mine.foldl (fun s c =>
    riderMoved (ctxReplace s e c (lost.filter (fun v => decide (v.ctx = some c)))) c) s
  let s := match mine.filter (fun c => decide ((ctxGet s c).mode ≠ .orphan)) with
    | c :: _ => rdrRaise s c 2
    | [] => s
  let s := (ctxLive s).foldl (fun s x =>
    match x.2.moving with
    | some (b, _, _) => if b = e then riderMoved (migrateAbort s x.1 5) x.1 else s
    | none => s) s
  freezeArmed (pauseSweep (riderRetry (postRoom s))) 1

/-! ### Exceptions (R317, R348 to R350) -/

/-- Thread `t` takes an exception with its code at a PC: the event is aborted, or the engine halts. -/
def thrExc (s : State) (e t code : Nat) (pc : BitVec 15) : State :=
  let s := farDrop (krnCount s e 2) e t
  let s := thrSet s e t { thrGet s e t with lastExc := BitVec.ofNat 32 (code * 2 ^ 24 + pc.toNat) }
  if (engGet s e).abortHalts then engHalt s e false
  else
    let r := match (thrGet s e t).event with
      | some v => (match v.ctx with
        | some c => (c, s)
        | none => freePick s 65536)
      | none => freePick s 65536
    let s := if (thrGet s e t).event.isSome then krnCount r.2 e 1 else r.2
    let s := eventEnd s e t
    let s := regSet s (Reg.KRN_FAULT e) (BitVec.ofNat 32 (code * 2 ^ 24 + t * 2 ^ 16 + r.1))
    let s := krnRaise (regSet s (Reg.KRN_FAULT_PC e) (pc.setWidth 32)) e t 3
    eventAfter (thrWait s e t 0 none (some code)) e

/-! ### Issue (R300, R328, R349) -/

/-- A word of format R (Table 13-2). -/
def kR (op rd rs1 rs2 fn : Nat) : Word := BitVec.ofNat 32 (op * 2 ^ 26 + rd * 2 ^ 21 + rs1 * 2 ^ 16 + rs2 * 2 ^ 11 + fn)

/-- A word of format I, S or B: two register fields and 16 bits (Table 13-2). -/
def kI (op a b : Nat) (imm : BitVec 16) : Word := BitVec.ofNat 32 (op * 2 ^ 26 + a * 2 ^ 21 + b * 2 ^ 16 + imm.toNat)

/-- A word of format J (Table 13-2). -/
def kJ (op rd : Nat) (off : BitVec 21) : Word := BitVec.ofNat 32 (op * 2 ^ 26 + rd * 2 ^ 21 + off.toNat)

/-- The instruction word at a thread's PC. -/
def krnWord (s : State) (e t : Nat) : Word := tabGet (fun _ => 0) (engGet s e).imem (thrGet s e t).pc.toNat

/-- Count the cycle in which a thread issues (R355, KRN_CNT[12]). -/
def issueCount (s : State) (e t : Nat) : State :=
  let x := thrGet s e t
  krnCount (thrSet s e t { x with issued := x.issued + 1 }) e 12

/-- What an issue does before the instruction's own effect: the issue slot and the cycle are the thread's, which may issue again after
`n` cycles. -/
def issueStart (s : State) (e t n : Nat) : State :=
  let s := idleRestart (issueCount (slotTake s e t) e t) (engDomain e)
  thrCost (thrSet s e t { thrGet s e t with hold := none }) e t n

/-- Thread `t` of engine `e` issues the instruction of word `w`, which takes `n` cycles: when it is the thread's turn and the word stands
at its PC (R300, R328). A posted store of the thread that was refused is taken first, and the instruction does not issue (R349). -/
def krnIssue (s : State) (e t : Nat) (w : Word) (n : Nat) (k : State → KThread → State) : Answer :=
  event s (fun s =>
    if krnMay s e t then
      (match (thrGet s e t).refused with
        | some pc => thrExc (thrSet (slotTake s e t) e t { thrGet (slotTake s e t) e t with refused := none }) e t 7 pc
        | none =>
          if krnWord s e t = w then
            let s := issueStart s e t n
            k s (thrGet s e t)
          else s)
    else s)

/-- The thread's exception at the instruction it issues. -/
def krnExc (s : State) (e t code : Nat) : State := thrExc s e t code (thrGet s e t).pc

/-- The instruction is done: PC advances by 1, wrapping (R328). -/
def thrNext (s : State) (e t : Nat) : State :=
  let x := thrGet s e t
  thrSet s e t { x with pc := x.pc + 1 }

/-- The instruction writes rd and is done. -/
def thrWrite (s : State) (e t rd : Nat) (v : Word) : State :=
  let x := thrGet s e t
  thrSet s e t { x with regs := wSet x.regs rd v, pc := x.pc + 1 }

/-- An instruction that computes rd from the thread's registers. -/
def krnAlu (s : State) (e t : Nat) (w : Word) (n rd : Nat) (f : Tab Word → Word) : Answer :=
  krnIssue s e t w n (fun s x => thrWrite s e t rd (f x.regs))

/-! ### Events (R307, R336) -/

/-- Write a committed context window to its hot slot, and to the twin when the context is mirrored (R307, R316). -/
def ctxCommit (s : State) (c : Nat) (window : List Byte) : State :=
  if (ctxGet s c).mode = .hot then
    let s := ctxMod s c (fun y => { y with data := window, dirty := true })
    if (ctxGet s c).mirror then culPend s 3 c window else s
  else s

/-- EVDONE: the event ends, committed or discarded; without one it is EVENT_STATE. -/
def evDone (s : State) (e t : Nat) (commit : Bool) : State :=
  let x := thrGet s e t
  match x.event with
  | none => krnExc s e t 4
  | some v =>
    let s := match v.ctx with
      | some c => if commit then ctxCommit s c x.window else s
      | none => s
    let s := if commit then timerCommit s e t v.ctx x.reqs else s
    eventAfter (thrNext (eventEnd s e t) e t) e

/-- A personality becomes READY (R322): its engine RUNNING, its fresh contexts announced, orphans of its mask placed, held events posted;
a second READY has no effect. -/
def engReadyNow (s : State) (e t : Nat) : State :=
  if engReady s e then s
  else
    let s := regSetFld (regSetFld s (Reg.KRN_ENG_STAT e) 8 8 1) (Reg.KRN_ENG_STAT e) 2 0 2
    let s := krnRaise (engSet s e { engGet s e with initEnds := none }) e t 7
    let s := (ctxLive s).foldl (fun s x =>
      let p := ctxPers s x.1
      if x.2.mode = .orphan ∧ engEligible s p e then
        (match if x.2.pinned then some e else placeAmong s (eligible s p) x.2.weight with
          | some b =>
            let s := journalNow s 7 2 x.1 0xFF b
            placeWake (ctxMod s x.1 (fun y => { y with mode := .hot, owner := b, first := true, wasHot := true })) b
          | none => s)
      else s) s
    eventAfter (postFresh s e) e

/-! ### Builds and sends (R310 to R312) -/

/-- A descriptor breaks Table 12-4. -/
def sendBad (s : State) (d : List Byte) (b : Build) : Bool :=
  let len := leAt d 0 2
  let dt := leAt d 2 1
  let flags := leAt d 3 1
  decide (len < 60) || decide (9216 < len) || decide (b.written < len) || nbit dt 3 || nbit dt 7 || decide (districtCount s ≤ dt % 8)
    || decide (64 ≤ flags) || decide (4096 ≤ leAt d 4 2) || (nbit flags 0 && decide (203 < leAt d 6 1)) || !zeroBytes d 7 8
    || !zeroBytes d 17 18 || !zeroBytes d 20 32

/-- Send a build by its descriptor: its cells are freed, and the frame enters at KP as if it were received. -/
def buildSend (s : State) (e t : Nat) (b : Build) (d : List Byte) : State :=
  let x := thrGet s e t
  let ctx := match x.event with
    | some v => v.ctx
    | none => none
  let flags := leAt d 3 1
  let tag := leAt d 18 2
  let frame := buildRead s (some b) 0 (leAt d 0 2)
  let s := thrSet frame.2 e t { x with build := none }
  if sendBad s d b then sendOutcome s e ctx flags tag 1 none
  else if b.failed then sendOutcome s e ctx flags tag 2 none
  else
    let r := injectPcp s frame.1
    let f : Frame := { frame0 frame.1 204 (leAt d 2 1 % 8) with
      tc := leAt d 2 1 / 16 % 8, vid := leAt d 4 2, pcp := r.1, origin := .engine e t ctx, flags := flags, dest := leAt d 6 1
      target := BitVec.ofNat 32 (leAt d 8 4), refNs32 := BitVec.ofNat 32 (leAt d 12 4), refFrac := leAt d 16 1, tag := tag }
    inject (krnCount r.2 e 4) f none

/-- A descriptor of `n` bytes in local data at a multiple of `m`: an exception code, or its bytes. -/
def localDesc (s : State) (e a n m : Nat) : MemAns :=
  if a % m ≠ 0 then .exc 2 else if 0x10000 < a + n then .exc 3 else .ok (dmemRead s e a n)

/-! ### Authentication jobs (R315, R343) -/

/-- Where a computed or received tag of `n` bytes may lie. -/
def tagRegion (a n : Nat) : Bool :=
  match kRegion a n with
  | some (.localData, _) => true
  | some (.build, _) => true
  | some (.tank, _) => true
  | _ => false

/-- A job descriptor breaks Table 13-11. -/
def authBad (d : List Byte) : Bool :=
  let alg := leAt d 2 1
  decide (1 < leAt d 1 1) || decide (alg = 0) || decide (5 < alg) || decide (1 < leAt d 3 1) || decide (leAt d 8 4 = 0)
    || decide (9216 < leAt d 8 4) || !zeroBytes d 20 32 || !operandRegion (leAt d 4 4) (leAt d 8 4)
    || !tagRegion (leAt d 12 4) (tagLen alg)

/-- Write a computed tag where its job names; false when the place takes nothing. -/
def tagPut (s : State) (e t a : Nat) (tag : List Byte) : Bool × State :=
  match kRegion a tag.length with
  | some (.localData, o) => (true, dmemWrite s e o tag)
  | some (.tank, o) => tankPut s e o tag
  | some (.build, o) =>
    tag.zipIdx.foldl (fun a y =>
      match (thrGet a.2 e t).build with
      | some b => (a.1, buildWrite a.2 e t b (o + y.2) [y.1])
      | none => (false, a.2)) (true, s)
  | _ => (false, s)

/-- Submit a job: 0 queued, 1 BUSY (R315). -/
def authSubmit (s : State) (e t : Nat) (d bytes : List Byte) (tag : Option (List Byte)) : Nat × State :=
  if 64 ≤ s.krn.lanes.length then (1, krnCount s e 10)
  else
    let ctx := match (thrGet s e t).event with
      | some v => v.ctx
      | none => none
    (0, laneEnter s (.engine e t ctx (leAt d 0 1) (leAt d 1 1) (leAt d 2 1) bytes tag (BitVec.ofNat 32 (leAt d 12 4))
      (BitVec.ofNat 32 (leAt d 16 4))))

/-- A job's computation ends (R315): ARG1 tells equal, or written. -/
def authEnd (s : State) (e t : Nat) (ctx : Option Nat) (alg : Nat) (bytes : List Byte) (tag : Option (List Byte)) (place jobTag : Word)
    (key : Option Key) : State :=
  let r := match key with
    | some k =>
      if k.alg = alg then
        let own := tagOf alg k.key (Config.secIv bytes) bytes
        (match tag with
          | some l => (decide (l = own), s)
          | none => tagPut s e t place.toNat own)
      else (false, krnCount s e 10)
    | none => (false, krnCount s e 10)
  postOwn r.2 e (eventOf r.2 6 ctx jobTag (BitVec.ofNat 32 (b2n r.1)) [])

end Sys2Proof.Machine
end

