-- ==== Sys2Proof/Machine/Trickle.lean ====
section
/-!
DEFINITION. Trickle service (R71 to R76): the flooding repeater on P000 to P007.
-/
namespace Sys2Proof.Machine

/-- The strap TRICKLE_EN (Table 3-10). -/
def strapTrickle (s : State) : Bool := regBit s Reg.GLB_STRAP 3

/-- A lane is enabled: Q00 and Q01 for trickle service, from step 7 of the ROM with D5 on its defaults (R68, Table 3-4), and the lanes the
running image enables (Table 2-4). -/
def laneEnabled (s : State) (n : Nat) : Bool :=
  (decide (n < 2) && (trickleOn s || (s.img.running.isNone && strapTrickle s))) || nbit (flatByte s 1 n) 0

/-- A lane's settings in a LANES section are the defaults of Table 3-4: enabled, nothing inverted, equaliser preset 0. -/
def laneDefault (x : Option ImgSection) (n : Nat) : Bool :=
  match x with
  | some x => decide (leAt x.payload n 1 = 1) && decide (leAt x.payload (259 + 4 * n) 1 = 0)
  | none => false

/-- Lanes Q00 and Q01 retrain where their settings in a LANES section differ from the defaults (R76). -/
def lanesRetrain (s : State) (x : Option ImgSection) : State :=
  [0, 1].foldl (fun s n => if laneDefault x n then s else regSetFld s (Reg.PRT_LANE_STAT n) 0 0 0) s

/-- A frame that ends now on a trickle port began at its frame boundary after the commit (R76): at 100 Mb/s a byte lasts 80 ns, with the
8 bytes of preamble and delimiter. -/
def trkGapped (s : State) (bytes : List Byte) : Bool :=
  s.trk.draining && decide (s.trk.commitAt + 80 * (frameLen bytes + 8) ≤ s.now)

/-- A trickle port is up: enabled by PORT_MASK, its lane in sync, its PHY at 100 Mb/s full duplex (R72). -/
def trkUp (s : State) (p : Nat) : Bool :=
  let x := portGet s p
  decide (p < 8) && s.trk.portMask.getLsbD p && domOn s 5 && laneSync s (p / 4) && x.phyLink && x.phyFull && decide (x.phySpeed = 1)

/-- The queues of a trickle port. -/
def trkHigh (s : State) (p : Nat) : List TrkFrame := tabGet (fun _ => []) s.trk.high p
def trkLow (s : State) (p : Nat) : List TrkFrame := tabGet (fun _ => []) s.trk.low p

/-- The state with the queues of a trickle port replaced. -/
def trkSet (s : State) (p : Nat) (high low : List TrkFrame) : State :=
  { s with trk := { s.trk with high := tabSet (fun _ => []) s.trk.high p high, low := tabSet (fun _ => []) s.trk.low p low } }

/-- Add to a drop counter of trickle service, which raises TRICKLE_DROP (Table 3-14). -/
def trkDrop (s : State) (a n : Nat) : State := countBy s a Reg.GLB_CAUSE 3 n

/-- The bytes that a queue holds of a port's 32 KiB, frame checks included. -/
def trkBytes (l : List TrkFrame) : Nat := l.foldl (fun n f => n + frameLen f.bytes) 0

/-- The priority of a frame: the PCP of a tag directly after the source address, 0 without one (R74). -/
def trkPriority (bytes : List Byte) : Nat := if beAt bytes 12 2 = 0x8100 then beAt bytes 14 1 / 32 else 0

/-- Queue a frame on an output port, or count the refusal (R74). -/
def trkAdmit (s : State) (f : TrkFrame) (p : Nat) : State :=
  let high := trkHigh s p
  let low := trkLow s p
  let n := frameLen f.bytes
  if 32768 < trkBytes high + trkBytes low + n then trkDrop s Reg.GLB_TRICKLE_DROP_FULL 1
  else if s.trk.prio ≤ trkPriority f.bytes then trkSet s p (high ++ [f]) low
  else if 24576 < trkBytes low + n then trkDrop s Reg.GLB_TRICKLE_DROP_FULL 1
  else trkSet s p high (low ++ [f])

/-- A frame received whole on a trickle port (R73, R76): in the handover a frame whose reception was under way at the commit is still
received. -/
def trkReceive (s : State) (p : Nat) (bytes : List Byte) (good : Bool) : State :=
  if trkGapped s bytes || !trickleOn s then trkDrop s Reg.GLB_TRICKLE_DROP_GAP 1
  else
    let s := regSet s Reg.GLB_TRICKLE_RX (regGet s Reg.GLB_TRICKLE_RX + 1)
    if !good || decide (1536 < frameLen bytes) || isReserved (dstMac bytes) then trkDrop s Reg.GLB_TRICKLE_DROP_ERR 1
    else ((List.range 8).filter (fun q => decide (q ≠ p) && trkUp s q)).foldl
      (fun s q => trkAdmit s { bytes := bytes, stamp := nowUs s } q) s

/-- A queued frame has reached 50 ms (R75). -/
def trkOld (s : State) (f : TrkFrame) : Bool := decide (f.stamp + 50000 ≤ nowUs s)

/-- Drop the frames of a port that have reached 50 ms. -/
def trkAge (s : State) (p : Nat) : State :=
  let keep := fun (l : List TrkFrame) => l.filter (fun f => !trkOld s f)
  let high := keep (trkHigh s p)
  let low := keep (trkLow s p)
  trkDrop (trkSet s p high low) Reg.GLB_TRICKLE_DROP_AGE
    ((trkHigh s p).length + (trkLow s p).length - high.length - low.length)

/-- A port in trickle service transmits its next frame: its high queue before its low queue, each in arrival order (R74, R75). -/
def trkSend (s : State) (p : Nat) : State :=
  let s := trkAge s p
  if !trkUp s p then s
  else
    match trkHigh s p, trkLow s p with
    | f :: high, low => emit (trkSet s p high low) (.frame p f.bytes false)
    | [], f :: low => emit (trkSet s p [] low) (.frame p f.bytes false)
    | [], [] => s

/-- Empty the trickle queues: what is left counts as the gap (R76). -/
def trkEmpty (s : State) : State :=
  let n := (List.range 8).foldl (fun n p => n + (trkHigh s p).length + (trkLow s p).length) 0
  trkDrop { s with trk := { s.trk with high := [], low := [] } } Reg.GLB_TRICKLE_DROP_GAP n

end Sys2Proof.Machine
end

