-- ==== Sys2Proof/Machine/Ports.lean ====
section
/-!
DEFINITION. The commands of ports, lanes and MACs (chapter 5).
-/
namespace Sys2Proof.Machine

/-! ### Lanes and uplinks (R120 to R124) -/

/-- The PCS evaluation of a lane's four ports. The last status word of a PHY outlives a loss of lane sync: the debounce starts again with it
when sync returns (DESIGN CHOICE, log entry 101). -/
def laneEval (s : State) (n : Nat) : State := [4 * n, 4 * n + 1, 4 * n + 2, 4 * n + 3].foldl pcsEval s

/-- LANE_SYNC_ACQUIRED (R68, R120): an enabled lane. -/
def execLaneSyncAcquired (n : Fin 48) (s : State) : Answer :=
  domEvent s (portDomain (4 * n)) (fun s =>
    if laneEnabled s n then laneEval (regSetFld s (Reg.PRT_LANE_STAT n) 0 0 1) n else s)

/-- LANE_SYNC_LOST (R120): counted; its ports' links are lost as LINK_DOWN recognises it. -/
def execLaneSyncLost (n : Fin 48) (s : State) : Answer :=
  domEvent s (portDomain (4 * n)) (fun s =>
    if regBit s (Reg.PRT_LANE_STAT n) 0 then
      laneEval (satInc (regSetFld s (Reg.PRT_LANE_STAT n) 0 0 0) (Reg.PRT_LANE_STAT n) 31 16) n
    else s)

/-- INBAND_STATUS (R121): the PHY's link, duplex and speed, acknowledged. -/
def execInbandStatus (p : Fin 192) (link full : Bool) (speed : Fin 4) (s : State) : Answer :=
  domEvent s (portDomain p) (fun s =>
    emit (pcsEval (portSet s p { portGet s p with phyLink := link, phyFull := full, phySpeed := speed }) p) (.ack p))

/-- UPLINK_PCS_UP (R122): block lock or FEC alignment without local fault. -/
def execUplinkPcsUp (u : Fin 8) (s : State) : Answer :=
  domEvent s 9 (fun s =>
    let p := 192 + u.val
    if uplinkMode s u = 0 then s
    else pcsEval (regSetFld (regSetFld s (Reg.PRT_STAT p) 1 1 1) (Reg.PRT_STAT p) 2 2 0) p)

/-- UPLINK_PCS_DOWN (R122, R123): lock is lost, or a local fault appears while it is held. -/
def execUplinkPcsDown (u : Fin 8) (lock : Bool) (s : State) : Answer :=
  domEvent s 9 (fun s =>
    let p := 192 + u.val
    pcsEval (regSetFld (regSetFld s (Reg.PRT_STAT p) 1 1 (b2n lock)) (Reg.PRT_STAT p) 2 2 1) p)

/-- REMOTE_FAULT_RX (R123): it starts or stops. -/
def execRemoteFaultRx (u : Fin 8) (on : Bool) (s : State) : Answer :=
  domEvent s 9 (fun s =>
    let p := 192 + u.val
    pcsEval (regSetFld s (Reg.PRT_STAT p) 3 3 (b2n on)) p)

/-- FEC_CODEWORD_CORRECTED (R124, R146). -/
def execFecCodewordCorrected (u : Fin 8) (s : State) : Answer :=
  domEvent s 9 (fun s =>
    let p := 192 + u.val
    if uplinkMode s u = 3 then countBy s (Reg.PRT_FEC_CORR p) (Reg.PRT_CAUSE p) 8 1 else s)

/-- FEC_CODEWORD_UNCORRECTABLE (R124, R146): the frames it touches end with a code error, as FRAME_END says of each. -/
def execFecCodewordUncorrectable (u : Fin 8) (s : State) : Answer :=
  domEvent s 9 (fun s =>
    let p := 192 + u.val
    if uplinkMode s u = 3 then portRaise (countBy s (Reg.PRT_FEC_UNCORR p) (Reg.PRT_CAUSE p) 8 1) p 9 else s)

/-! ### Reception (R125, R149, R189) -/

/-- FRAME_HEADER_ARRIVAL (R149). -/
def execFrameHeaderArrival (p : Fin 200) (bytes : List Byte) (s : State) : Answer :=
  flowEvent s (fun s => receiveFrame s p bytes)

/-- CELL_ADMISSION (R180, R187, R189): the next cell of the frame in reception. -/
def execCellAdmission (p : Fin 200) (s : State) : Answer :=
  flowEvent s (fun s =>
    match (portGet s p).rx with
    | some (h, _) => if domOn s (portDomain p) then receiveCell s p h else s
    | none => s)

/-- FRAME_END (R125): `fcs` says whether the check passed, `code` whether a code error or an uncorrectable codeword touched the frame. A
looped frame is as it was sent. -/
def execFrameEnd (p : Fin 200) (fcs code : Bool) (sent : Nat) (s : State) : Answer :=
  flowEvent s (fun s =>
    match (portGet s p).rx with
    | some (_, bytes) =>
      if !domOn s (portDomain p) then s
      else if (portGet s p).loop then loopedEnd s p sent
      else receiveEnd s p (rxClass s p (frameLen bytes) fcs code) sent
    | none => s)

/-- A MAC control frame as the port receives it: a time or a class-enable vector, the pause times by class, whether it carries the pause
address, whether its check passes, whether a code error touched it, and its length. -/
structure ControlRx where
  arg : Nat
  time : Nat → Nat
  group : Bool
  good : Bool
  code : Bool
  len : Nat

/-- The opcode of a control frame in bytes: 5 for pause, 6 for per-class pause, 7 for another, the counter it has (R126, Table 5-4). -/
def controlKind (bytes : List Byte) : Nat := if beAt bytes 14 2 = 1 then 5 else if beAt bytes 14 2 = 0x0101 then 6 else 7

/-- A MAC control frame of a kind arrives: an earlier frame in reception ends with a code error (R125); a looped port takes the next frame it
has sent, if that is one of the kind (R128). Answers the frame received, or none where the port takes no frame. -/
def controlTake (s : State) (p kind : Nat) (line : ControlRx) : Option ControlRx × State :=
  if !portServed s p || !domOn s (portDomain p) || !portEn s p || !portLink s p then (none, s)
  else if (portGet s p).loop then
    match loopHead s p with
    | none => (none, s)
    | some e =>
      let b := loopBytes e
      match e.fate with
      | some cut =>
        if isMacControl b && decide (controlKind b = kind) then
          (some { arg := beAt b 16 2, time := fun c => beAt b (18 + 2 * c) 2, group := decide (dstMac b = 0x0180C2000001)
                  good := cut.isNone, code := false, len := frameLen b },
            portSet s p { portGet s p with looped := (portGet s p).looped.drop 1 })
        else (none, s)
      | none => (none, s)
  else (some line, receiveBroken s p)

/-- Count a MAC control frame: under its own counter when it is good, else as a bad frame (R125, R145). -/
def controlCounted (s : State) (p n len : Nat) (good code : Bool) : State :=
  let s := portOctets s p 1 len
  match rxClass s p len good code with
  | some k => portCount s p k
  | none => portCount (portOctets s p 0 len) p n

/-- The last three conditions of R129 for a pause state. -/
def pauseTakes (s : State) (p st : Nat) : Bool :=
  (furMember s p).isNone && !wdHolding s p st && (decide (st = 8) || regBit s (Reg.PRT_FC p) (16 + st))

/-- A pause frame of a mode that the port honours by the first four conditions of R129. -/
def pauseHonoured (s : State) (p mode : Nat) (x : ControlRx) : Bool :=
  (rxClass s p x.len x.good x.code).isNone && x.group && decide (pauseMode s p = mode) && regBit s (Reg.PRT_FC p) 2

/-- PAUSE_FRAME_RX (R129, R130): `group` says that it carries the pause address, `code` that a code error touched it. -/
def execPauseFrameRx (p : Fin 200) (quanta : BitVec 16) (group : Bool) (check : RxCheck) (len : Nat) (s : State) : Answer :=
  flowEvent s (fun s =>
    match controlTake s p 5 { arg := quanta.toNat, time := fun _ => 0, group := group, good := check.good, code := check.code, len := len } with
    | (none, s) => s
    | (some x, s) =>
      let s := controlCounted s p 5 x.len x.good x.code
      if pauseHonoured s p 1 x then (if pauseTakes s p 8 then pauseLoad s p 8 x.arg else portCount s p 46) else s)

/-- PFC_FRAME_RX (R129, R130): each enabled class that is honoured loads its time; one that is ignored counts the frame once. -/
def execPfcFrameRx (p : Fin 200) (classes : BitVec 8) (quanta : List (BitVec 16)) (group : Bool) (check : RxCheck) (len : Nat) (s : State) :
    Answer :=
  flowEvent s (fun s =>
    let own := fun (c : Nat) => match quanta[c]? with
      | some q => q.toNat
      | none => 0
    match controlTake s p 6 { arg := classes.toNat, time := own, group := group, good := check.good, code := check.code, len := len } with
    | (none, s) => s
    | (some x, s) =>
      let s := controlCounted s p 6 x.len x.good x.code
      if pauseHonoured s p 2 x then
        let named := (List.range 8).filter (fun c => nbit x.arg c)
        let taken := named.filter (pauseTakes s p)
        let s := taken.foldl (fun s c => pauseLoad s p c (x.time c)) s
        if taken.length < named.length then portCount s p 46 else s
      else s)

/-- MAC_CONTROL_OTHER_RX (R126). -/
def execMacControlOtherRx (p : Fin 200) (check : RxCheck) (len : Nat) (s : State) : Answer :=
  flowEvent s (fun s =>
    match controlTake s p 7 { arg := 0, time := fun _ => 0, group := false, good := check.good, code := check.code, len := len } with
    | (none, s) => s
    | (some x, s) => controlCounted s p 7 x.len x.good x.code)

/-! ### Pause (R130 to R134) -/

/-- PAUSE_TIMER_EXPIRY (R130): a new pause time in the cycle of the expiry applies (Table 1-10), so that the expiry acts after it (log entry
93). -/
def execPauseTimerExpiry (p : Fin 200) (st : Fin 9) (s : State) : Answer :=
  domEvent s (portDomain p) (fun s =>
    match tabGet (fun _ => none) (portGet s p).pause st with
    | some h => if h.ends < runUnits s then pauseSet s p st none else s
    | none => s)

/-- PAUSE_WD_TRIP (R131, R132): a state held for LIMIT_US is released, and received pause is ignored for HOLD_MS; a release in the cycle of
the trip is honoured, so that the trip acts after it (Table 1-10, log entry 93). -/
def execPauseWdTrip (p : Fin 200) (st : Fin 9) (s : State) : Answer :=
  domEvent s (portDomain p) (fun s =>
    let limit := regFld s (Reg.PRT_PAUSEWD p) 15 0
    match tabGet (fun _ => none) (portGet s p).pause st with
    | some h =>
      if limit ≠ 0 ∧ pauseHolds s p st ∧ h.since + limit * 1000 < s.run then
        let s := portRaise (portCount (pauseSet s p st none) p 45) p 7
        let ms := regFld s (Reg.PRT_PAUSEWD p) 25 16
        let x := portGet s p
        if ms = 0 then s
        else portSet s p { x with wdHold := tabSet (fun _ => none) x.wdHold st (some (s.run + ms * 1000000)) }
      else s
    | none => s)

/-- PAUSE_WD_HOLD_END (R132). -/
def execPauseWdHoldEnd (p : Fin 200) (st : Fin 9) (s : State) : Answer :=
  domEvent s (portDomain p) (fun s =>
    let x := portGet s p
    if wdHolding s p st then s else portSet s p { x with wdHold := tabSet (fun _ => none) x.wdHold st none })

/-- PAUSE_FRAME_TX (R134). -/
def execPauseFrameTx (p : Fin 200) (s : State) : Answer := domEvent s (portDomain p) (fun s => pauseSend s p)

/-- PAUSE_REFRESH_EXPIRY (R134). -/
def execPauseRefreshExpiry (p : Fin 200) (s : State) : Answer := domEvent s (portDomain p) (fun s => pauseRepeat s p)

/-! ### Loopback (R128) -/

/-- LOOPBACK_TAKE_EFFECT (R128): with both directions at a frame boundary. An enabled port counts as up at once; at the end the link
follows the PCS. -/
def execLoopbackTakeEffect (p : Fin 200) (s : State) : Answer :=
  domEvent s (portDomain p) (fun s =>
    let x := portGet s p
    let want := decide (regFld s (Reg.PRT_CTL p) 3 2 = 1)
    if x.loop = want ∨ x.rx.isSome ∨ x.tx.isSome ∨ x.looped.isEmpty = false then s
    else if want then
      let fixed := portFixed s p
      let speed := if 192 ≤ p.val then 3 else if fixed ≠ 0 then fixed - 1 else if x.phyLink && x.phyFull then x.phySpeed else 2
      let s := regSetFld (portSet s p { x with loop := true }) (Reg.PRT_STAT p) 9 8 speed
      lineEval (if portEn s p && !portLink s p then linkUp s p else s) p
    else
      let s := pcsEval (portSet s p { x with loop := false }) p
      if portLink s p && !pcsReport s p then linkDown s p 0 else s)

/-! ### Transmission (R135, R136, R195) -/

/-- EGRESS_SELECT (R135, R195): `early` says that THRESH bytes of a host frame have come (function, ring, frame, bytes so far), which
queues it before it is whole. In trickle service P000 to P007 send from the trickle queues (R74). -/
def execEgressSelect (p : Fin 200) (early : Option (Fin 4 × Fin 8 × List Byte × Nat)) (s : State) : Answer :=
  flowEvent s (fun s =>
    let s := match early with
      | some (f, t, bytes, n) => earlyArrive s p f t bytes n
      | none => s
    if trickleHas s p then trkSend s p else egressSelect s p)

/-- FRAME_TX_END (R127). -/
def execFrameTxEnd (p : Fin 200) (s : State) : Answer :=
  flowEvent s (fun s => if domOn s (portDomain p) then txEnd s p else s)

/-- UNDERRUN (R136) after `sent` bytes. -/
def execUnderrun (p : Fin 200) (sent : Nat) (s : State) : Answer :=
  flowEvent s (fun s => if domOn s (portDomain p) then txUnderrun s p sent else s)

/-- LAUNCH_DUE (R111, R113). -/
def execLaunchDue (p : Fin 200) (s : State) : Answer := flowEvent s (fun s => egressLaunch s p)

/-! ### Link loss, hold, disable (R137 to R143) -/

/-- LINK_DOWN (R137): the PCS no longer reports a linked port up. -/
def execLinkDown (p : Fin 200) (sent : Nat) (s : State) : Answer :=
  flowEvent s (fun s =>
    if domOn s (portDomain p) && portLink s p && !(portGet s p).loop && !pcsReport s p then linkDown s p sent else s)

/-- LINK_UP (R139): the debounce has completed. -/
def execLinkUp (p : Fin 200) (s : State) : Answer :=
  flowEvent s (fun s =>
    if domOn s (portDomain p) && portEn s p && !portLink s p && debounced s p then linkUp s p else s)

/-- HOLD_EXPIRY (R140): the flush, unless the link returns in this cycle. -/
def execHoldExpiry (p : Fin 200) (s : State) : Answer :=
  flowEvent s (fun s =>
    match (portGet s p).hold with
    | some t =>
      if domOn s (portDomain p) && decide (t ≤ s.run) then
        (if portEn s p && debounced s p then linkUp s p else portRaise (portFlush s p) p 3)
      else s
    | none => s)

/-- The port is enabled: it comes up as on any link return (R142), a looped port at once (R128). -/
def portTurnOn (s : State) (p : Nat) : State :=
  let s := regSetFld (regSetFld s (Reg.PRT_CTL p) 0 0 1) (Reg.PRT_STAT p) 15 15 0
  let s := pcsEval (portSet s p { portGet s p with pcsUp := false }) p
  if (portGet s p).loop && !portLink s p then linkUp s p else s

/-- FLUSH_DONE (R141, R142): the flush runs in CORE. -/
def execFlushDone (p : Fin 200) (s : State) : Answer :=
  event s (fun s =>
    if portFlushing s p then
      let s := portRaise (regSetFld s (Reg.PRT_STAT p) 14 14 0) p 4
      if portPending s p then portTurnOn s p else s
    else s)

/-- PORT_DISABLE (R142): a write of EN = 0; a pending enable is cancelled. -/
def execPortDisable (f : Fin 4) (p : Fin 200) (s : State) : Answer :=
  hostCmd s f (Reg.PRT_CTL p) (fun s =>
    let s := regSetFld s (Reg.PRT_STAT p) 15 15 0
    if portEn s p then
      let s := regSetFld (regSetFld s (Reg.PRT_CTL p) 0 0 0) (Reg.PRT_STAT p) 0 0 0
      pauseSweep (lineEval (furLinkDown (portFlush s p) p) p)
    else s)

/-- PORT_ENABLE (R142): a write of EN = 1; during a flush it is held. -/
def execPortEnable (f : Fin 4) (p : Fin 200) (s : State) : Answer :=
  hostCmd s f (Reg.PRT_CTL p) (fun s =>
    if portEn s p then s
    else if portFlushing s p then regSetFld s (Reg.PRT_STAT p) 15 15 1
    else portTurnOn s p)

/-! ### Registers (R136, R147, R148) -/

/-- TXSTART_WRITE (R136): THRESH is rounded down to a multiple of 256 within 256 to 9216. -/
def execTxstartWrite (f : Fin 4) (p : Fin 200) (v : Word) (s : State) : Answer :=
  hostCmd s f (Reg.PRT_TXSTART p) (fun s =>
    let th := min 9216 (max 256 (fld v 13 0 / 256 * 256))
    let s := regSetFld (regSetFld s (Reg.PRT_TXSTART p) 13 0 th) (Reg.PRT_TXSTART p) 31 31 (fld v 31 31)
    if th < maxLen s p then regSetFld s (Reg.PRT_TXSTART p) 16 16 0 else s)

/-- MAXLEN_WRITE (R148): refused outside 1518 to 9216; read-only once the ports are locked. -/
def execMaxlenWrite (f : Fin 4) (p : Fin 200) (v : Word) (s : State) : Answer :=
  hostCmd s f (Reg.PRT_MAXLEN p) (fun s =>
    let n := fld v 13 0
    if n < 1518 ∨ 9216 < n then portRaise s p 10
    else if locked s (Reg.PRT_MAXLEN p) then s
    else regSetFld s (Reg.PRT_MAXLEN p) 13 0 n)

/-- The octet counters, which are 48 bits wide (Table 5-4). -/
def isOctets (n : Nat) : Bool := decide (n ≤ 1) || decide (n = 23) || decide (n = 24)

/-- A read of a counter's low word: it is returned, an octet counter's high bits are latched, and the counter is cleared. -/
def counterRead (s : State) (p n : Nat) : State :=
  let a := Reg.PRT_CNT_LO p n
  let lo := regGet s a
  let s := if isOctets n then cntHiSet (regSet s (Reg.PRT_CNT_HI p n) (BitVec.ofNat 32 (cntHiGet s a))) a 0 else s
  { regSet s a 0 with rdata := lo.setWidth 64 }

/-- The port and the number of the counter whose low word lies at an address. -/
def counterAt (a : Nat) : Option (Nat × Nat) :=
  let p := (a - 0x400000) / 0x2000
  if 0x400000 ≤ a ∧ p < 200 then ((List.range 48).find? (fun n => decide (a = Reg.PRT_CNT_LO p n))).map (fun n => (p, n)) else none

/-- COUNTER_LO_READ (R147). -/
def execCounterLoRead (f : Fin 4) (p : Fin 200) (n : Fin 48) (s : State) : Answer :=
  hostCmd s f (Reg.PRT_CNT_LO p n) (fun s => counterRead s p n)

end Sys2Proof.Machine
end

