-- ==== Sys2Proof/Machine/Load.lean ====
section
/-!
DEFINITION. What each block takes from its section: at the commit of a full load (R57), at a swap's safe point (R62), and when its domain
comes on.
-/
namespace Sys2Proof.Machine

/-- The state with every register of `[lo, hi)` at its reset value. -/
def regWindow (s : State) (lo hi : Nat) : State := regClear s (fun k => decide (k < lo) || decide (hi ≤ k))

/-- A list of values as a table of its non-zero entries, from index `i`. -/
def tabOf {w : Nat} : Nat → List (BitVec w) → Tab (BitVec w)
  | _, [] => []
  | i, b :: t => if b = 0 then tabOf (i + 1) t else (i, b) :: tabOf (i + 1) t

/-! ### Time base (R103, R117) -/

/-- The one time-settings record of the TIME section that runs. -/
def timeField (s : State) (off len : Nat) : Nat :=
  match arrayRec (unitSection s 5 0 0) 0x0501 0 with
  | some r => leAt r off len
  | none => 0

/-- Load the latency constants; a port without a record has 0. -/
def latLoad (s : State) : State :=
  (List.range 200).foldl (fun s p =>
    let r := match arrayRec (unitSection s 5 0 0) 0x0502 p with
      | some r => r
      | none => zeros 8
    regSet (regSet s (Reg.TIM_LAT_RX p) (BitVec.ofNat 32 (leAt r 0 4))) (Reg.TIM_LAT_TX p) (BitVec.ofNat 32 (leAt r 4 4))) s

/-- Load the launch-calendar policies. -/
def calLoad (s : State) : State :=
  let recs := arrayAll (unitSection s 5 0 0) 0x0503
  let policy := (List.range 5).foldl (fun t g =>
    match recs.find? (fun r => decide (leAt r 0 1 = g)) with
    | some r => tabSet (fun _ => calPolicy0) t g { drop := decide (leAt r 1 1 = 1), guard := leAt r 2 2, tol := leAt r 4 2 }
    | none => t) []
  { s with clk := { s.clk with policy := policy } }

/-- Load the TIME section, without the increment at a swap. -/
def timeLoad (s : State) (full : Bool) : State :=
  let s := regSetFld s Reg.TIM_DISC_OWNER 5 0 (timeField s 0 1)
  let s := regSetFld (regSetFld s Reg.TIM_PPS_CTL 31 12 (timeField s 4 4)) Reg.TIM_PPS_CTL 1 0 (timeField s 2 1)
  let s := ppsAlign (regSet s Reg.TIM_PPS_OFFSET (BitVec.ofNat 32 (timeField s 8 4)))
  let s := { s with clk := { s.clk with tc := { mode := timeField s 1 1, ports := BitVec.ofNat 256 (timeField s 24 32) } } }
  let s := calLoad (latLoad s)
  if full then
    let frac := BitVec.ofNat 32 (timeField s 12 4)
    { s with clk := { s.clk with incFrac := frac, staged := frac, incInt := BitVec.ofNat 8 (timeField s 16 1) } }
  else s

/-- The kept speed of a front port becomes the speed its PORT byte fixes (R103). -/
def keptLoad (s : State) (p : Nat) : State :=
  if p < 192 then { s with clk := { s.clk with keptSpeed := tabSet (fun _ => 0) s.clk.keptSpeed p (portFixed s p) } } else s

/-! ### Ports (R144) -/

/-- Whether the image enables a port. -/
def portWanted (s : State) (p : Nat) : Bool := if p < 192 then nbit (portByte s p) 2 else decide (uplinkMode s (p - 192) ≠ 0)

/-- Load EN of a port: a port that was enabled and stays so keeps its link; one that still flushes is enabled when the flush ends, as R142
has it of a write (DESIGN CHOICE, log entry 101). -/
def portLoad (s : State) (p : Nat) : State :=
  let s := regSetFld (keptLoad s p) (Reg.PRT_STAT p) 15 15 0
  if portWanted s p then
    (if portEn s p then pcsEval s p else if portFlushing s p then regSetFld s (Reg.PRT_STAT p) 15 15 1 else portTurnOn s p)
  else if portEn s p then
    lineEval (furLinkDown (portFlush (regSetFld (regSetFld s (Reg.PRT_CTL p) 0 0 0) (Reg.PRT_STAT p) 0 0 0) p) p) p
  else s

/-- Whatever a port has on the wire ends; how much of a frame has left is a free value (log entry 7). -/
def portCut (s : State) (p : Nat) : State :=
  let s := match (portGet s p).tx with
    | some t => (let r := freePick s (t.bytes.length + 1); txAbort r.2 p r.1)
    | none => s
  receiveCut s p

/-! ### Headgate (R152, R183, R204) -/

/-- The static forwarding entries of a HEADGATE section. -/
def staticEntries (x : Option ImgSection) : List FdbEntry :=
  ((arrayAll x 0x0406).filter (fun r => nbit (leAt r 11 1) 0)).map (fun r => { fdbEntryOf r with dynamic := false })

/-- Place a static entry: in the place of an entry with its key, else in a free way of its bucket, else in that of a learned entry. -/
def staticPlace (s : State) (e : FdbEntry) : State :=
  let ways := fdbWays s e.district e.mac e.fid
  let free := ways.find? (fun i => (fdbGet s i).isNone)
  let learned := ways.find? (fun i => match fdbGet s i with
    | some x => x.dynamic
    | none => false)
  match fdbFind s e.district e.mac e.fid, free, learned with
  | some i, _, _ => fdbSet s i (some e)
  | none, some i, _ => fdbSet s i (some e)
  | none, none, some i => fdbSet s i (some e)
  | none, none, none => s

/-- Load the headgate tables and the static entries; a policer whose record is unchanged keeps its bucket. -/
def headgateLoad (s : State) : State :=
  let x := unitSection s 4 0 0
  let table := fun (arr base : Nat) (d : List Byte) (t : Tab (List Byte)) =>
    ((arrayAll x arr).zipIdx).foldl (fun t e => tabSet (fun _ => d) t (base + e.2) e.1) t
  let kept := s.hdg.policers
  let s := { s with hdg := { s.hdg with
    roles := table 0x0401 0 role0 [], vlans := table 0x0402 0 (zeros 16) []
    streams := table 0x0404 65536 (zeros 32) (table 0x0403 0 (zeros 32) []), policers := [] } }
  let s := ((arrayAll x 0x0405).zipIdx).foldl (fun s e =>
    match tabGet (fun _ => none) kept e.2 with
    | some p =>
      if p.rate = leAt e.1 0 4 ∧ p.burst = leAt e.1 4 4 then
        { s with hdg := { s.hdg with policers := tabSet (fun _ => none) s.hdg.policers e.2 (some p) } }
      else policerSet s e.2 e.1
    | none => policerSet s e.2 e.1) s
  (staticEntries x).foldl staticPlace s

/-- Remove the static entries that the outgoing section names (R204). -/
def staticRemove (s : State) (x : Option ImgSection) : State :=
  (staticEntries x).foldl (fun s e =>
    match fdbFind s e.district e.mac e.fid with
    | some i => if (match fdbGet s i with | some y => y.dynamic | none => true) then s else fdbSet s i none
    | none => s) s

/-! ### Cistern (R204) -/

/-- Discard every frame; one of a host function that has not completed completes DROPPED. -/
def cisternClear (s : State) : State :=
  let s := (List.range 200).foldl portCut s
  let s := (frameAll s).foldl (fun s f => match f.2.origin with
    | .host _ _ _ => frameComplete s f.1 5 none
    | _ => s) s
  let c := s.cis
  { s with
    cis := { c with frames := [], queues := [], xfer := [], fdb := [], mcg := [], deficit := [], dwrrPtr := [], turn := [] }
    clk := { s.clk with cal := [] } }

/-- Load the class figures of the QUEUES section. -/
def queuesLoad (s : State) : State :=
  (List.range 8).foldl (fun s d => (List.range 8).foldl (fun s c =>
    let s := regSetFld s (Reg.CIS_WEIR_CLASS d c) 2 0 (flatField s 3 (64 * d + c) 1)
    regSet s (Reg.CIS_SCHED_CLASS d c)
      (BitVec.ofNat 32 (flatField s 3 (64 * d + 24 + 2 * c) 2 * 65536 + flatField s 3 (64 * d + 40 + c) 1))) s) s

/-! ### Furrow (R225) -/

/-- Stop every domain of the Furrow block and begin its time anew. -/
def furrowClear (s : State) : State :=
  let s := (List.range 4).foldl (fun s d => regSet (furStop s d) (Reg.FUR_OFFSET d) 0) s
  { s with fur := FurState.reset }

/-- A forced mode that the new set does not have is forgotten. -/
def furForcedKeep (s : State) (d : Nat) : State :=
  let x := furGet s d
  furSet s d { x with forced := x.forced.filter (fun m => (furModeRec s d m).isSome) }

/-- Apply a domain's section at a swap (Table 2-12): the active mode is kept if the new set has it, else mode 0. A running domain does so at
the cycle start `next`, which starts under the new section, at the same instant if domain time itself changes. -/
def furrowApply (s : State) (d : Nat) (next : Option (Word × Word)) : State :=
  let due := match next with
    | some x => regBit s (Reg.FUR_STAT d) 11 && decide (regGet s (Reg.FUR_EFFECTIVE d) = x.2)
    | none => false
  let off := regGet s (Reg.FUR_OFFSET d)
  let s := furForcedKeep (furLoad (if due then furApply s d else s) d) d
  let s := if (furModeRec s d (furMode s d)).isNone then regSetFld s (Reg.FUR_STAT d) 6 4 0 else s
  match next with
  | some (start, number) => if furState s d = 3 then furTurn s d (start + regGet s (Reg.FUR_OFFSET d) - off) number else s
  | none => s

/-! ### Confluence (R271, R272, R276) -/

/-- Everything but the causes, their enables and the thresholds returns to reset. -/
def confluenceClear (s : State) : State :=
  let s := regWindow (regSet s Reg.CNF_ECC_CORR 0) 0xA01000 0xB00000
  { regSet (regSet s Reg.CNF_INGEST 0) Reg.CNF_ROW_LATE 0 with cnf := CnfState.reset }

/-- Load EN of a stream: an enabled stream waits with an empty store. -/
def streamLoad (s : State) (i : Nat) : State :=
  let on := nbit (strField s i 0 1) 0
  let s := cnfStrSet s i { cnfStr0 with marks := (cnfStr s i).marks }
  strTo (regSetFld s (Reg.CNF_STR_CTL i) 0 0 (b2n on)) i (b2n on)

/-- The outgoing section's record of a stream no longer runs: the history restarts under the new one, and the next rows show RESTART (R276). -/
def streamSwap (s : State) (i : Nat) : State :=
  let s := cnfRaise (streamLoad s i) 0 i 4
  let x := cnfStr s i
  let l := (List.range 16).filter (fun b => mapNames (unitSection s 7 0 b) b i || mapNames (runSection s 7) b i)
  cnfStrSet s i { x with marks := x.marks ++ l.map (fun b => (b, 4)) }

/-- Streams whose record changes from that of an outgoing section, and that no basin holds to it. -/
def streamsSwap (s : State) (old : Option ImgSection) (l : List Nat) : State :=
  (l.filter (fun i => (strHeld s i).isNone && decide (arrayRec old 0x0702 i ≠ strRec s i))).foldl streamSwap s

/-- Load RUN of a basin, and apply it. -/
def basinLoad (s : State) (b : Nat) : State :=
  basApply (regSetFld s (Reg.CNF_BASIN_CTL b) 0 0 (b2n (nbit (basField s b 1 1) 0))) b

/-- Load the CONFLUENCE section. -/
def confluenceLoad (s : State) : State :=
  let s := (List.range (arrayCount (runSection s 7) 0x0702)).foldl streamLoad s
  (List.range 16).foldl basinLoad s

/-! ### Publisher (R297) -/

/-- Every publication, republication and subscription afresh; the event rings at reset. -/
def publisherClear (s : State) : State :=
  { regWindow (regWindow s 0xB00100 0xB00200) 0xB01000 0xC00000 with
    pub := { PubState.reset with waits := s.pub.waits }, krn := { s.krn with lanes := [], laneRun := [] } }

/-- Load the PUBLISH section. -/
def publisherLoad (s : State) : State :=
  let x := runSection s 8
  let s := (List.range (arrayCount x 0x0801)).foldl gooseLoad s
  let s := (List.range (arrayCount x 0x0803)).foldl svLoad s
  (List.range (arrayCount x 0x0802)).foldl subLoad s

/-! ### Engines (R320, R321) -/

/-- The personality slot whose mask names an engine. -/
def slotOfEngine (s : State) (e : Nat) : Option Nat := (List.range 32).find? (fun p => nbit (persMask s p) e)

/-- Words of an array of 4-byte records. -/
def wordsOf (l : List (List Byte)) : List Word := l.map (fun r => BitVec.ofNat 32 (leNat r))

/-- Load the registers that name an engine's personality: READY clear, STATE as given. -/
def persShow (s : State) (e p st : Nat) : State :=
  let s := regSet s (Reg.KRN_ENG_STAT e) (BitVec.ofNat 32 (persField s p e 0 2 * 65536 + p * 512 + st))
  regSet s (Reg.KRN_WDOG e) (BitVec.ofNat 32 (persField s p e 32 4))

/-- Reload an engine: memories and registers from its personality, and the start with reason LOAD while its cluster is on; an engine in
no mask is EMPTY. Its event queue and its timers are kept. -/
def engineLoad (s : State) (e : Nat) : State :=
  let on := domOn s (engDomain e)
  let g := engGet s e
  let s := farClear (g.kept.foldl refDrop s) e
  match slotOfEngine s e with
  | none =>
    let s := engSet s e { eng0 with queue := g.queue, timers := g.timers, fired := g.fired, free := g.free }
    regSet s (Reg.KRN_ENG_STAT e) (if on then 0 else 4)
  | some p =>
    let x := unitSection s 9 p e
    let imem := tabOf 0 (wordsOf (arrayAll x 0x0902))
    let dmem := tabOf 0 (arrayBytes x 0x0903 0 (arrayCount x 0x0903))
    let s := engSet s e { eng0 with
      imem := imem, dmem := dmem, queue := g.queue, timers := g.timers, fired := g.fired, free := g.free }
    let s := persShow s e p 4
    if on then engStart s e 0 else s

/-- Every engine afresh. -/
def enginesClear (s : State) : State := { s with krn := { KrnState.reset with half := s.krn.half } }

/-! ### Ditch Rider (R368) -/

/-- The engine a new context goes to at a commit: its pinned engine, or one of its personality's mask by Table 14-4. -/
def placeNew (s : State) (d : List Byte) : Option Nat :=
  if nbit (leAt d 3 1) 1 then some (leAt d 4 1)
  else placeAmong s ((List.range 32).filter (fun e => nbit (persMask s (leAt d 2 1)) e)) (leAt d 6 2)

/-- Create a declared context that starts live. -/
def ctxStart (s : State) (d : List Byte) (reason : Nat) : State :=
  match slotFree s, placeNew s d with
  | some n, some e => postFresh (ctxCreate s (leAt d 0 2) n e d reason) e
  | _, _ => s

/-- The declarations of the running image in ascending context ID. -/
def declarations (s : State) : List (List Byte) :=
  (arrayAll (runSection s 10) 0x0A02).mergeSort (fun a b => decide (leAt a 0 2 ≤ leAt b 0 2))

/-- The rider after a full load: registers at reset, START_LIVE, PINNED and RESIDENT contexts created. -/
def riderLoad (s : State) : State :=
  let s := { regWindow s 0xD00000 0xE00000 with rdr := { RdrState.reset with intervalFrom := s.run } }
  let s := regSetFld s Reg.RDR_POLICY 1 0 (riderPolicy s 0 1)
  ((declarations s).filter (fun d => decide (leAt d 3 1 % 8 ≠ 0))).foldl (fun s d => ctxStart s d 0) s

/-! ### Tank memory (R380, R385) and mailboxes (R386) -/

/-- The bank record of a section as TNK_BANK shows it. -/
def bankWord (x : Option ImgSection) (b : Nat) : Word :=
  match (arrayAll x 0x0B01).find? (fun r => decide (leAt r 0 1 = b)) with
  | some r => BitVec.ofNat 32 (leAt r 1 1 * 65536 + leAt r 2 1 * 256)
  | none => 0x3F00

/-- Load the record of a bank; a handover that was pending is gone. -/
def bankLoad (s : State) (b : Nat) : State :=
  let s := { s with tnk := { s.tnk with pend := tabSet (fun _ => none) s.tnk.pend b none } }
  regSet s (Reg.TNK_BANK b) (bankWord (unitSection s 11 0 b) b)

/-- Load the regions: those of the section, or without one region 0 of the supervisor and of each host function. -/
def regionsLoad (s : State) (x : Option ImgSection) : State :=
  (List.range 42).foldl (fun s m => (List.range 8).foldl (fun s r =>
    let put := fun (base last ctl : Word) =>
      regSet (regSet (regSet s (Reg.TNK_REGION_BASE m r) base) (Reg.TNK_REGION_LAST m r) last) (Reg.TNK_REGION_CTL m r) ctl
    match x with
    | none => put (regReset (Reg.TNK_REGION_BASE m r)) (regReset (Reg.TNK_REGION_LAST m r)) (regReset (Reg.TNK_REGION_CTL m r))
    | some _ =>
      match (arrayAll x 0x0B02).find? (fun e => decide (leAt e 0 1 = m) && decide (leAt e 1 1 = r)) with
      | some e => put (BitVec.ofNat 32 (leAt e 4 4)) (BitVec.ofNat 32 (leAt e 8 4)) (BitVec.ofNat 32 (leAt e 2 1))
      | none => put 0 0 0) s) s

/-- A full load replaces all ownership and frees every lock. -/
def tankLoad (s : State) : State :=
  let s := (List.range 42).foldl locksReclaim s
  regionsLoad ((List.range 64).foldl bankLoad s) (runSection s 11)

/-- Load the binding of a mailbox channel. -/
def mailboxLoad (s : State) (c : Nat) : State :=
  regSet s (Reg.MBX_BIND c)
    (BitVec.ofNat 32 (flatByte s 12 (8 * c + 2) * 65536 + flatByte s 12 (8 * c + 1) * 256 + flatByte s 12 (8 * c)))

/-- Every channel EMPTY with its new binding; what the functions' pending bits showed is gone. -/
def mailboxesLoad (s : State) : State :=
  let s := [0, 1, 2, 3].foldl (fun s f =>
    regSet (regSet (regSet (regSet s (Reg.MBX_RX_PEND_LO f) 0) (Reg.MBX_RX_PEND_HI f) 0) (Reg.MBX_ACK_PEND_LO f) 0) (Reg.MBX_ACK_PEND_HI f) 0)
    (mbxClearAll s)
  mbxAll.foldl mailboxLoad s

/-! ### Flume (R397, R398, R418, R419) -/

/-- The settings record of a flume engine (Table 16-7). -/
def flumeRec (x : Option ImgSection) (e : Nat) : Option (List Byte) := (arrayAll x 0x0D04).find? (fun r => decide (leAt r 0 1 = e))

/-- The program record that an engine's settings name. -/
def flumeProg (x : Option ImgSection) (e : Nat) : List Byte :=
  match flumeRec x e with
  | some r => (match arrayRec x 0x0D03 (leAt r 12 1) with | some p => p | none => zeros 128)
  | none => zeros 128

/-- Load the settings and the program of an engine; without a record they are at reset. -/
def flumeSet (s : State) (e : Nat) : State :=
  let x := runSection s 13
  let put := fun (s : State) (a : Nat) (v : Option Nat) => regSet s a (match v with | some n => BitVec.ofNat 32 n | none => regReset a)
  let r := flumeRec x e
  let f := fun (k : List Byte → Nat) => r.map k
  let s := put s (Reg.FLM_ENG_CLK e) (f (fun r => leAt r 2 2 * 65536 + leAt r 4 1))
  let s := put s (Reg.FLM_ENG_SHIFT e)
    (f (fun r => leAt r 7 1 * 2 ^ 24 + leAt r 6 1 * 65536 + leAt r 5 1 * 256 + leAt r 1 1 / 2 % 64 * 2))
  let s := put s (Reg.FLM_ENG_PINS e) (f (fun r => leAt r 11 1 * 2 ^ 24 + leAt r 10 1 * 65536 + leAt r 9 1 * 256 + leAt r 8 1))
  let s := put s (Reg.FLM_DMA_TX e) (f (fun r => leAt r 16 4))
  let s := put s (Reg.FLM_DMA_RX e) (f (fun r => leAt r 20 4))
  let s := put s (Reg.FLM_DMA_CTL e) (f (fun r => leAt r 13 1))
  let p := flumeProg x e
  (List.range 32).foldl (fun s j => regSet s (Reg.FLM_PROG e j) (BitVec.ofNat 32 (leAt p (4 * j) 4))) s

/-- Load the record of a pin (Table 16-4); a pin without one is an input with no pull. -/
def pinLoad (s : State) (n : Nat) : State :=
  match (arrayAll (runSection s 13) 0x0D01).find? (fun r => decide (leAt r 0 1 = n)) with
  | none => regSet s (Reg.FLM_PIN_CFG n) (regReset (Reg.FLM_PIN_CFG n))
  | some r =>
    regSet s (Reg.FLM_PIN_CFG n) (BitVec.ofNat 32 (leAt r 1 1 * 2 ^ 24 + leAt r 6 1 % 4 * 65536 + leAt r 4 1 * 4096 + leAt r 3 1 * 1024
      + leAt r 5 1 % 4 * 256 + leAt r 2 1))

/-- Give a pin its INIT level and direction. -/
def pinInit (s : State) (n : Nat) : State :=
  let cfg := regGet s (Reg.FLM_PIN_CFG n)
  let m : BitVec 64 := 1#64 <<< n
  let s := { s with flm := { s.flm with level := if bitOf cfg 8 then s.flm.level ||| m else s.flm.level &&& ~~~m } }
  let e := fld cfg 31 24
  let i := (n + 64 - regFld s (Reg.FLM_ENG_PINS e) 5 0) % 64
  if e < 48 ∧ i < outCount s e then
    let x := fluGet s e
    let d : BitVec 16 := 1#16 <<< i
    fluSet s e { x with dirs := if bitOf cfg 9 then x.dirs ||| d else x.dirs &&& ~~~d }
  else s

/-- Load the bank supply declarations. -/
def banksLoad (s : State) : State :=
  let decl := (arrayAll (runSection s 13) 0x0D02).foldl (fun t r => tabSet (fun _ => none) t (leAt r 0 1) (some (leAt r 1 1))) []
  [0, 1].foldl bankCheck { s with flm := { s.flm with decl := decl } }

/-- Start an engine whose settings have ENABLE set. -/
def flumeEnable (s : State) (e : Nat) : State :=
  match flumeRec (runSection s 13) e with
  | some r => if nbit (leAt r 1 1) 0 then flmStart s e false else s
  | none => s

/-- An engine whose queues are empty and that has stopped; its latches, counters, M and EDGE keep their values (R414, R418). -/
def flumeEmpty (s : State) (e : Nat) : State :=
  fluSet s e { fluGet s e with
    mode := .stopped, stall := 0, rest := none, txq := [], rxq := [], txStopped := false, rxStopped := false, txNew := (0, 0), rxGone := (0, 0) }

/-- The flume block runs its section: programs, settings and pin map where they are not kept, INIT, flags and queues, the starts, the
positions of the rings. -/
def flumeLoad (s : State) (keep : Bool) : State :=
  let s := (List.range 48).foldl flumeEmpty { s with flm := { s.flm with
    flags := 0, cycle := 0, flagsOld := 0, flagsUp := 0, flagsTaken := 0, driven := s.img.running.isSome } }
  let s := if keep then s else (List.range 64).foldl pinLoad ((List.range 48).foldl flumeSet s)
  let s := (List.range 64).foldl pinInit (banksLoad s)
  let s := (List.range 48).foldl flumeEnable s
  (List.range 64).foldl pinShow ((List.range 48).foldl ringsTake s)

/-- An engine that a swap changed: it stops, its queues empty, its new records apply, and it starts again (R418). -/
def flumeSwap (s : State) (e : Nat) : State :=
  ringsTake (flumeEnable (flumeSet (flumeEmpty s e) e) e) e

end Sys2Proof.Machine
end

