-- ==== Sys2Proof/Machine/Domains.lean ====
section
/-!
DEFINITION. Power domains: what a domain loses and regains with its sequences (R77, R78, and the chapters of the blocks), and the commands of
chapter 3 that switch domains and operating points (R79 to R86).
-/
namespace Sys2Proof.Machine

/-! ### Crossings (R18 to R21, Table 1-8) -/

/-- The two domains of a row of Table 1-8, instance by instance; 0 stands for the sentinel, on VBAT. -/
def crossRows : List (Nat × Nat) :=
  [(5, 3), (6, 3), (7, 3), (8, 3), (9, 3)] ++ List.replicate 16 (3, 4)
    ++ [(10, 3), (11, 3), (12, 3), (13, 3), (14, 3), (2, 3), (16, 3), (15, 3), (1, 3), (1, 3), (1, 5), (1, 6), (1, 7), (1, 8), (1, 9),
      (1, 10), (1, 11), (1, 12), (1, 13), (1, 14), (1, 16), (1, 15), (1, 1), (1, 0)]

/-- The domains of a channel, near side first: channels 2n and 2n + 1 are the two directions of instance n. -/
def crossEnds (ch : Nat) : Nat × Nat :=
  let e := crossRows.getD (ch / 2) (1, 1)
  if ch % 2 = 0 then e else (e.2, e.1)

/-- A side of a crossing is powered. -/
def crossOn (s : State) (d : Nat) : Bool := if d = 0 then senUp s else domOn s d

/-- The crossings of a domain are emptied as it comes on (R21). -/
def crossReset (s : State) (d : Nat) : State :=
  let apart := fun (ch : Nat) => decide ((crossEnds ch).1 ≠ d) && decide ((crossEnds ch).2 ≠ d)
  { s with arch := { s.arch with
    crossing := s.arch.crossing.filter (fun e => apart e.1), handshake := s.arch.handshake.filter (fun e => apart e.1) } }

/-! ### What a domain loses (R78, R143, R275, R419) -/

/-- The front ports or uplinks of a domain. -/
def domPorts (d : Nat) : List Nat :=
  if 5 ≤ d ∧ d ≤ 8 then (List.range 48).map (fun i => 48 * (d - 5) + i) else if d = 9 then (List.range 8).map (fun i => 192 + i) else []

/-- A port loses its domain: what is on its wire ends, it is link-down and flushes at once (R143). -/
def portOff (s : State) (p : Nat) : State :=
  furLinkDown (portFlush (regSetFld (portCut s p) (Reg.PRT_STAT p) 0 0 0) p) p

/-- The lanes of a quadrant lose synchronisation. -/
def lanesOff (s : State) (d : Nat) : State :=
  if 5 ≤ d ∧ d ≤ 8 then (List.range 12).foldl (fun s i => regSetFld s (Reg.PRT_LANE_STAT (12 * (d - 5) + i)) 0 0 0) s else s

/-- An engine loses its cluster: its instruction memory stays, its data memory where RETAIN selects it (Table 3-5); what it held of
events, timers and frames is gone. -/
def engineOff (s : State) (retain : Bool) (e : Nat) : State :=
  let g := engGet s e
  let s := (g.threads.filterMap (fun t => t.2.event) ++ g.queue).foldl
    (fun s v => if v.frame = noFrame then s else refDrop s v.frame) s
  let s := g.kept.foldl refDrop s
  let s := farClear (engSet s e { eng0 with imem := g.imem, dmem := if retain then g.dmem else [] }) e
  let s := masterReset (regSetFld (regSetFld s (Reg.KRN_ENG_STAT e) 2 0 4) (Reg.KRN_ENG_STAT e) 8 8 0) e
  (ctxLive s).foldl (fun s x =>
    match x.2.moving with
    | some (b, _, _) => if b = e then riderMoved (migrateAbort s x.1 5) x.1 else s
    | none => s) s

/-- The engines of a domain. -/
def domEngines (d : Nat) : List Nat := if 10 ≤ d ∧ d ≤ 13 then (List.range 8).map (fun i => 8 * (d - 10) + i) else []

/-- A basin without its domain: rows not yet sealed are lost; without RETAIN the written values are too, but STEP and LOST stay owed. -/
def basOff (retain : Bool) (s : State) (b : Nat) : State :=
  let x := cnfBas (basStop s b) b
  let y := if retain then x else { cnfBas0 with step := x.step, lost := x.lost }
  cnfBasSet (basStop s b) b { y with rows := [], lost := x.lost + x.rows.length }

/-- Confluence loses D14: basins stop; without RETAIN stores, states, written values and counters are cleared (R275). -/
def confluenceOff (s : State) (retain : Bool) : State :=
  let s := (List.range 16).foldl (basOff retain) s
  let s := { s with cnf := { s.cnf with order := [] } }
  if retain then s
  else
    let s := (List.range (arrayCount (runSection s 7) 0x0702)).foldl (fun s i =>
      let on := b2n (regBit s (Reg.CNF_STR_CTL i) 0)
      let s := regClear s (fun k => decide (k < Reg.CNF_STR_STAT i) || decide (Reg.CNF_STR_CTL (i + 1) ≤ k))
      strTo (cnfStrSet s i cnfStr0) i on) s
    let s := (List.range 16).foldl (fun s b =>
      [Reg.CNF_ROWS b, Reg.CNF_ROWS_DROPPED b, Reg.CNF_ROWS_SKIPPED b, Reg.CNF_FILLS b].foldl (fun s a => regSet s a 0) s) s
    regSet (regSet s Reg.CNF_ECC_CORR 0) Reg.CNF_ROW_LATE 0

/-- The islands of a domain in the numbering of PWR_AGE (Table 20-17). -/
def domIslands (d : Nat) : List Nat := (List.range 17).filter (fun i => decide (islandDomain i = d))

/-- The end of an off-sequence, and what it takes with it. -/
def domainDown (s : State) (d : Nat) : State :=
  let retain := domRetain s d
  let s := (domIslands d).foldl (fun s i =>
    regSetFld { s with clk := { s.clk with replicaOk := tabSet (fun _ => false) s.clk.replicaOk i false } } (Reg.PWR_AGE i) 31 31 0) s
  let s := lanesOff ((domPorts d).foldl portOff s) d
  let s := (domEngines d).foldl (fun s e => engineOff s retain e) s
  let s := if d = 14 then confluenceOff s retain else s
  let s :=
    if d = 15 then
      (let on := (List.range 64).filter (fun n => (pinDrive s n).isSome)
       let s := { s with flm := { s.flm with eng := [], flags := 0, cycle := 0, flagsOld := 0, flagsUp := 0, flagsTaken := 0 } }
       on.foldl (fun s n => emit s (.pin n none)) s)
    else s
  let s := if d = 16 then culOff s else s
  let s := if 10 ≤ d ∧ d ≤ 13 then regSetFld (idleRestart s d) Reg.PWR_OPPOINT_STAT (d - 6) (d - 6) 0 else s
  pauseSweep (riderRetry (postRoom (sluDomainOff s d)))

/-! ### What a domain regains -/

/-- A port whose domain comes on: registers and counters at reset, EN as at commit (R103, R143). -/
def portOn (s : State) (p : Nat) : State :=
  let lo := 0x400000 + 0x2000 * p
  let s := regWindow s lo (lo + 0x2000)
  let s := portSet { s with cntHi := s.cntHi.filter (fun e => decide (e.1 < lo) || decide (lo + 0x2000 ≤ e.1)) } p port0
  let s := keptLoad s p
  if s.img.running.isSome && portWanted s p then portTurnOn s p else s

/-- An engine whose cluster comes on: its registers at reset but for what names its personality, and the start with reason WAKE_RETAINED or
WAKE_CLEARED (R321). -/
def engineOn (s : State) (retained : Bool) (e : Nat) : State :=
  let lo := 0xC01000 + 0x100 * e
  let s := regWindow s lo (lo + 0x100)
  match slotOfEngine s e with
  | none => s
  | some p =>
    let s := persShow s e p 0
    let s := if retained then s else engSet s e { engGet s e with dmem := [] }
    engStart s e (if retained then 1 else 2)

/-- A cluster takes its requested point at its on-sequence (R84). -/
def clusterPoint (s : State) (d : Nat) : State :=
  if 10 ≤ d ∧ d ≤ 13 then
    let c := d - 10
    regSetFld (regSetFld s Reg.PWR_OPPOINT_STAT (4 + c) (4 + c) 0) Reg.PWR_OPPOINT_STAT c c (regFld s Reg.PWR_OPPOINT c c)
  else s

/-- The end of an on-sequence: `retained` is what RETAINED showed before it. -/
def domainUp (s : State) (d : Nat) (retained : Bool) : State :=
  let s := clusterPoint (crossReset s d) d
  let s := (domPorts d).foldl portOn s
  let s := if s.img.running.isSome then (domEngines d).foldl (fun s e => engineOn s retained e) s else s
  let s := if d = 14 then (List.range 16).foldl basApply s else s
  let s := if d = 15 ∧ s.img.running.isSome then flumeLoad s retained else s
  pauseSweep (riderRetry (postRoom (mbxDomainOn s d)))

/-! ### Requests (R79 to R83) -/

/-- DOMAIN_ON_REQUEST (R79): the policy or a wake source asks for ON. -/
def execDomainOnRequest (d : Fin 17) (s : State) : Answer :=
  event s (fun s => if d.val < 2 then s else domOnRequest s d)

/-- DOMAIN_OFF_REQUEST (R79): the policy or the idle timer asks for OFF; D1 to D4 stay on (R77). -/
def execDomainOffRequest (d : Fin 17) (s : State) : Answer :=
  event s (fun s => if d.val < 5 then s else domOffRequest s d)

/-- A sequence ends (Table 3-6). Table 3-6 has no row for a pending request of the direction in which the domain already went (ON held during
ON_SEQ, OFF during OFF_SEQ): such a request asks for what the sequence gives, so that it ends here as without one (DESIGN CHOICE, log entry
94). -/
def sequenceDone (s : State) (d : Nat) : State :=
  let stat := Reg.PWR_DOMAIN_STAT d
  let pend := regBit s stat 3
  let on := tabGet (fun _ => false) s.pwr.pendingOn d
  let retained := regBit s stat 8
  if domState s d = 1 then
    if pend && !on then raise (regSetFld (regSetFld (domPend s d none) stat 5 4 2) stat 2 0 3) Reg.PWR_CAUSE 2
    else
      let s := regSetFld (regSetFld (regSetFld (domPend s d none) stat 5 4 0) stat 2 0 2) stat 8 8 0
      raise (domainUp s d retained) Reg.PWR_CAUSE 0
  else if domState s d = 3 then
    let keeps := domRetain s d && decide (10 ≤ d) && decide (d ≤ 15)
    let s := domainDown s d
    if pend && on then
      let s := regSetFld (regSetFld (domPend s d none) stat 5 4 1) stat 8 8 (b2n keeps)
      raise (startOn s d) Reg.PWR_CAUSE 1
    else
      let s := regSetFld (regSetFld (regSetFld (domPend s d none) stat 5 4 0) stat 2 0 0) stat 8 8 (b2n keeps)
      raise s Reg.PWR_CAUSE 0
  else s

/-- No context, no runnable thread and no waiting message in a cluster (R81). -/
def clusterIdle (s : State) (c : Nat) : Bool :=
  (domEngines (10 + c)).all (fun e =>
    (ctxOwned s e).isEmpty && (engGet s e).threads.all (fun t => !t.2.started || t.2.wait.isSome)
      && mbxAll.all (fun ch => decide (mbxState s ch ≠ 1) || decide (mbxReceiver s ch ≠ e)))

/-- The idle timer of an ON_DEMAND cluster: it runs from the instant since which the cluster has been idle without a break (R81). -/
def idleTick (s : State) (c : Nat) : State :=
  let old := tabGet (fun _ => none) s.pwr.idleFrom c
  let runs := domOn s (10 + c) && decide ((domPolicy s (10 + c)).mode = 2) && clusterIdle s c
  let new := if !runs then none else if old.isSome then old else some s.run
  { s with pwr := { s.pwr with idleFrom := tabSet (fun _ => none) s.pwr.idleFrom c new } }

/-- IDLE_HOLD_EXPIRY (R81): an ON_DEMAND cluster idle for its IDLE_HOLD without a break receives an OFF request. -/
def execIdleHoldExpiry (c : Fin 4) (s : State) : Answer :=
  event s (fun s =>
    let s := idleTick s c
    match tabGet (fun _ => none) s.pwr.idleFrom c with
    | some t =>
      if t + (domPolicy s (10 + c)).idleHold * 1000 ≤ s.run then domOffRequest (idleRestart s (10 + c)) (10 + c) else s
    | none => s)

/-- A wake source waits for a cluster: a message whose wake it is to carry, or a context placed on one of its engines. -/
def wakeWaits (s : State) (d : Nat) : Bool :=
  (domEngines d).any (fun e => !(ctxOwned s e).isEmpty)
    || mbxAll.any (fun ch => decide (mbxState s ch = 1) && mbxWakeWait s ch && decide (masterDomain (mbxReceiver s ch) = d)
      && nbit (regFld s (Reg.MBX_BIND ch) 17 16) 1)

/-- The request a domain's policy makes (Table 3-7). -/
def policyRequest (s : State) (d : Nat) : State :=
  if s.img.running.isNone then s
  else
    let m := (domPolicy s d).mode
    if m = 0 then domOnRequest s d
    else if m = 1 then domOffRequest s d
    else if wakeWaits s d then domOnRequest s d
    else s

/-- A write of PWR_DOMAIN_CTL (R83): REQ as the command's row has it, RETAIN from the word; a refusal leaves the register as it was. -/
def powerWrite (s : State) (d req : Nat) (v : Word) : State :=
  let a := Reg.PWR_DOMAIN_CTL d
  let ctl := regSetFld (regSetFld s a 4 4 (fld v 4 4)) a 1 0 req
  if locked s a then s
  else if req = 3 ∨ (req = 2 ∧ d < 5) ∨ (req = 1 ∧ !domClocked s d) then pwrRefuse s d
  else if req = 1 then domRequest ctl d true
  else if req = 2 then domRequest ctl d false
  else policyRequest ctl d

/-- PWR_REQ_ON, PWR_REQ_OFF, PWR_REQ_POLICY. -/
def powerCmd (f : Nat) (d req : Nat) (v : Word) (s : State) : Answer :=
  hostCmd s f (Reg.PWR_DOMAIN_CTL d) (fun s => if d = 0 then s else powerWrite s d req v)
def execPwrReqOn (f : Fin 4) (d : Fin 17) (v : Word) (s : State) : Answer := powerCmd f d 1 v s
def execPwrReqOff (f : Fin 4) (d : Fin 17) (v : Word) (s : State) : Answer := powerCmd f d 2 v s
def execPwrReqPolicy (f : Fin 4) (d : Fin 17) (v : Word) (s : State) : Answer := powerCmd f d 0 v s

/-! ### Operating points (R84) -/

/-- Start the change of a cluster whose requested point is not the one it has; a change that runs ends first. To LOW the clock switches at
once and the supply follows; to FULL the supply rises first. -/
def pointStart (s : State) (c : Nat) : State :=
  let low := regFld s Reg.PWR_OPPOINT_STAT c c
  if domOn s (10 + c) && !regBit s Reg.PWR_OPPOINT_STAT (4 + c) && decide (regFld s Reg.PWR_OPPOINT c c ≠ low) then
    let s := regSetFld s Reg.PWR_OPPOINT_STAT (4 + c) (4 + c) 1
    let bit : BitVec 4 := 1#4 <<< c
    if low = 0 then regSetFld { s with pwr := { s.pwr with toFull := s.pwr.toFull &&& ~~~bit } } Reg.PWR_OPPOINT_STAT c c 1
    else { s with pwr := { s.pwr with toFull := s.pwr.toFull ||| bit } }
  else s

/-- PWR_OPPOINT_WRITE (R84): the requests, and the changes they start. -/
def execPwrOppointWrite (f : Fin 4) (v : Word) (s : State) : Answer :=
  hostCmd s f Reg.PWR_OPPOINT (fun s =>
    if locked s Reg.PWR_OPPOINT then s
    else [0, 1, 2, 3].foldl pointStart (regSetFld s Reg.PWR_OPPOINT 3 0 (fld v 3 0)))

/-- OPPOINT_CHANGE_DONE (R84): the cluster is at the other point, its clock switched last on a change to FULL; a request written meanwhile
starts its change. -/
def execOppointChangeDone (c : Fin 4) (s : State) : Answer :=
  event s (fun s =>
    if regBit s Reg.PWR_OPPOINT_STAT (4 + c) then
      let s := regSetFld s Reg.PWR_OPPOINT_STAT (4 + c) (4 + c) 0
      let s := if s.pwr.toFull.getLsbD c then regSetFld s Reg.PWR_OPPOINT_STAT c c 0 else s
      raise (pointStart s c) Reg.PWR_CAUSE 4
    else s)

/-! ### Deep standby and supply loss (R85, R86) -/

/-- DEEP_STANDBY_ENTER (R85): a write of PWR_DEEP. With the code the sentinel write that runs completes, D16 to D2 and then D1 go off, and the
device answers nothing more, the wire generator with it silent; with a wrong code the write is refused. -/
def execDeepStandbyEnter (f : Fin 4) (v : Word) (s : State) : Answer :=
  hostCmd s f Reg.PWR_DEEP (fun s =>
    if fld v 31 16 ≠ 0xD5E7 then raise s Reg.PWR_CAUSE 3
    else if !bitOf v 0 then s
    else
      let s := regSetFld (senDone s) Reg.CUL_STAT 23 22 0
      let s := [16, 15, 14, 13, 12, 11, 10, 9, 8, 7, 6, 5, 4, 3, 2].foldl (fun s d =>
        if domState s d = 0 then s else regSetFld (domainDown s d) (Reg.PWR_DOMAIN_STAT d) 3 0 0) s
      { regSetFld s (Reg.PWR_DOMAIN_STAT 1) 2 0 0 with pwr := { s.pwr with deep := true } })

/-- VDD_LOW_ISOLATE (R86): the sentinel isolates itself; a write that runs is dropped and its earlier contents stay. -/
def execVddLowIsolate (s : State) : Answer := .next { s with sen := { s.sen with isolated := true, busy := none } }

/-- BOOT_US_READ (R87): the low bits, and the high bits latched. -/
def execBootUsRead (f : Fin 4) (s : State) : Answer :=
  hostCmd s f Reg.GLB_BOOT_US_LO (fun s =>
    let s := regSet s Reg.GLB_BOOT_US_HI (BitVec.ofNat 32 (nowUs s / 2 ^ 32))
    { s with rdata := (BitVec.ofNat 32 (nowUs s)).setWidth 64 })

end Sys2Proof.Machine
end

