-- ==== Sys2Proof/Machine/Image.lean ====
section
/-!
DEFINITION. The image loader (chapter 2): its commands and their refusals, the verify and apply passes, commit, and the units of a swap with
their safe points.
-/
namespace Sys2Proof.Machine

/-- STATE of the loader (Table 2-16). -/
def imgState (s : State) : Nat := regFld s Reg.IMG_STATUS 3 0
def imgTo (s : State) (st : Nat) : State := regSetFld s Reg.IMG_STATUS 3 0 st

/-- VERIFY, APPLY, SWAP_VERIFY or SWAP_APPLY. -/
def imgBusy (s : State) : Bool :=
  decide (imgState s = 1) || decide (imgState s = 2) || decide (imgState s = 4) || decide (imgState s = 5)

/-- Record an error in IMG_STATUS and IMG_ERR_OFFSET. -/
def imgError (s : State) (e : ImgError) : State :=
  regSet (regSetFld (regSetFld s Reg.IMG_STATUS 15 8 e.1) Reg.IMG_STATUS 23 16 e.2.1) Reg.IMG_ERR_OFFSET (BitVec.ofNat 32 e.2.2)

/-- IMG_PROGRESS: the pass and the bytes read in it. -/
def imgProgress (s : State) (pass bytes : Nat) : State :=
  regSet s Reg.IMG_PROGRESS (BitVec.ofNat 32 (pass * 2 ^ 27 + bytes % 2 ^ 27))

/-! ### Commands (R50, R58, R59) -/

/-- A load or a swap starts. -/
def imgStart (s : State) (c : LoadCmd) : State :=
  let s := imgProgress (imgTo s (if c.swap then 4 else 1)) 0 0
  { s with img := { s.img with cmd := some c, held := none, applied := [] } }

/-- The boot source starts on the first source of a list; with an empty list the loader waits for a command (R51). -/
def bootStart (s : State) (l : List Nat) : State :=
  match l with
  | [] => s
  | x :: t => imgStart { s with img := { s.img with bootNext := t } } { swap := false, src := x, func := 0, boot := true }

/-- A write of IMG_LOAD or IMG_SWAP, with the refusals of R58 in its order. -/
def imgCommand (s : State) (f : Nat) (swap : Bool) (v : Word) : State :=
  if !regBit s Reg.GLB_STATUS 4 then imgRaise s 2
  else if regBit s Reg.IMG_LOCK 1 then
    imgRaise (regSetFld (regSetFld s Reg.IMG_STATUS 15 8 0x14) Reg.IMG_STATUS 23 16 0xFF) 2
  else if imgBusy s || decide (imgState s = 8) || (swap && decide (imgState s ≠ 3)) then imgRaise s 2
  else
    imgStart { s with img := { s.img with bootNext := [] } } { swap := swap, src := fld v 1 0, func := f, boot := false }

/-- IMG_LOAD and IMG_SWAP (R58). -/
def execImgLoad (f : Fin 4) (v : Word) (s : State) : Answer := hostCmd s f.val Reg.IMG_LOAD (fun s => imgCommand s f.val false v)
def execImgSwap (f : Fin 4) (v : Word) (s : State) : Answer := hostCmd s f.val Reg.IMG_SWAP (fun s => imgCommand s f.val true v)

/-- Where the loader goes when a command ends without a commit: the running image keeps running. -/
def imgBack (s : State) (without : Nat) : State :=
  let s := imgTo s (if s.img.running.isSome then 3 else without)
  { s with img := { s.img with cmd := none, held := none, applied := [] } }

/-- A command ends with an error (Table 2-11). NOT_BOUND raises its own cause; a boot source that fails a check of R54 gives way to the
next one (R51, R52). -/
def imgFail (s : State) (c : LoadCmd) (e : ImgError) : State :=
  if e.1 = 15 then imgRaise (imgBack (imgError { s with img := { s.img with bootNext := [] } } e) 6) 3
  else if c.boot && !s.img.bootNext.isEmpty && decide (e.1 ≠ 0x11) && decide (e.1 ≠ 0x15) then bootStart (imgError s e) s.img.bootNext
  else imgRaise (imgBack (imgError { s with img := { s.img with bootNext := [] } } e) 7) 1

/-- IMG_ABORT (R59): before commit the command ends with ABORTED; once every section has matched the commit has begun. -/
def execImgAbort (f : Fin 4) (v : Word) (s : State) : Answer :=
  hostCmd s f.val Reg.IMG_ABORT (fun s =>
    match s.img.cmd with
    | some c => if bitOf v 0 && imgBusy s && decide (s.pwr.romStep ≠ 9 ∨ s.img.running.isSome) then imgFail s c (0x15, 0xFF, 0) else s
    | none => s)

/-- Another slot would remain programmed and unrevoked (R50). -/
def slotsLeft (s : State) (slot : Nat) : Bool :=
  (List.range 4).any (fun i => decide (i ≠ slot) && regBit s Reg.IMG_KEYSLOT (8 + i) && !regBit s Reg.IMG_KEYSLOT (16 + i)
    && !s.img.revoking.contains i)

/-- IMG_KEY_REVOKE (R50). -/
def execImgKeyRevoke (f : Fin 4) (v : Word) (s : State) : Answer :=
  hostCmd s f.val Reg.IMG_KEY_REVOKE (fun s =>
    let slot := fld v 1 0
    let runs : Bool := match s.img.running with
      | some i => decide (i.keySlot = slot)
      | none => false
    if fld v 31 16 ≠ 0xA5C3 ∨ regBit s Reg.IMG_LOCK 0 ∨ runs ∨ !slotsLeft s slot ∨ imgBusy s then imgRaise s 5
    else { s with img := { s.img with revoking := s.img.revoking ++ [slot] } })

/-- REVOKE_DONE (R50): the fuse is programmed. -/
def execRevokeDone (s : State) : Answer :=
  event s (fun s =>
    match s.img.revoking with
    | [] => s
    | k :: t =>
      let s := { s with img := { s.img with revoking := t }, fuses := { s.fuses with revoked := s.fuses.revoked ||| (1#4 <<< k) } }
      imgRaise (regSetFld s Reg.IMG_KEYSLOT (16 + k) (16 + k) 1) 4)

/-! ### The verify pass (R52 to R54, R60) -/

/-- The partner serves its image only if the image's TWIN_DELIVERABLE flag is set (R53, Table 2-1). -/
def sourceServes (c : LoadCmd) (image : List Byte) : Bool := decide (c.src ≠ 3) || nbit (leAt image 20 4) 0

/-- The source can be read: the host's while the function may master the bus, the twin's while the culvert is up (R53). -/
def sourceUp (s : State) (c : LoadCmd) : Bool :=
  if c.src = 2 then (fnGet s c.func).busMaster
  else if c.src = 3 then culLinkUp s
  else true

/-- VERIFY_COMPLETE (R54): the first check that fails ends the command; else the apply pass starts. -/
def execVerifyComplete (r : ImageRead) (s : State) : Answer :=
  event s (fun s =>
    match s.img.cmd with
    | none => s
    | some c =>
      if imgState s ≠ 1 ∧ imgState s ≠ 4 then s
      else if !r.answered || decide (r.bytes.length < 64) || !sourceUp s c || !sourceServes c r.bytes then imgFail s c (0x12, 0xFF, 0)
      else
        let s := imgProgress s 0 (min r.bytes.length (leAt r.bytes 8 4))
        let v := verify s r.bytes c.swap
        let s := match v.2.1 with
          | some b => bindShow s b
          | none => s
        match v.1, v.2.2 with
        | some e, _ => imgFail s c e
        | none, some i =>
          let s := imgProgress (imgTo s (if c.swap then 5 else 2)) 1 0
          { s with img := { s.img with held := some i, applied := [] } }
        | none, none => s)

/-! ### What a swap replaces (R61) -/

/-- Two sections are equal in LENGTH, CRC and GENERATION, or both absent. -/
def sectionSame : Option ImgSection → Option ImgSection → Bool
  | none, none => true
  | some a, some b => decide (a.payload.length = b.payload.length) && decide (a.crc = b.crc) && decide (a.generation = b.generation)
  | _, _ => false

/-- A swap from image `a` to image `b` replaces, adds or removes a section. -/
def swapped (a b : Image) (type inst : Nat) : Bool := !sectionSame (imageSection a type inst) (imageSection b type inst)

/-- The sections that the apply pass reads, by index in the table. -/
def applyReads (s : State) (c : LoadCmd) (i : Image) : List Nat :=
  (List.range i.sections.length).filter (fun j =>
    match i.sections[j]?, s.img.running with
    | some x, some a => !c.swap || decide (x.cls = 0) || (decide (x.cls = 1) && swapped a i x.type x.inst)
    | _, _ => true)

/-! ### Power at a commit (R83, R88) -/

/-- The policy record of a domain in a POWER section, and the operating point of a cluster. -/
def powerRec (x : Option ImgSection) (d : Nat) : Option (List Byte) := (arrayAll x 0x0F01).find? (fun r => decide (leAt r 0 1 = d))
def pointRec (x : Option ImgSection) (c : Nat) : Option (List Byte) := (arrayAll x 0x0F02).find? (fun r => decide (leAt r 0 1 = c))

/-- A record as a policy. -/
def policyOf : Option (List Byte) → DomPolicy
  | some r => { mode := leAt r 1 1, retain := nbit (leAt r 2 1) 0, idleHold := leAt r 4 4 }
  | none => policy0

/-- Load the policy of a domain: the host override ends. -/
def policyLoad (s : State) (x : Option ImgSection) (d : Nat) : State :=
  let a := Reg.PWR_DOMAIN_CTL d
  let s := regSetFld (regSetFld s a 4 4 0) a 1 0 0
  { s with pwr := { s.pwr with policy := tabSet (fun _ => policy0) s.pwr.policy d (policyOf (powerRec x d)) } }

/-- Load the requested point of a cluster. -/
def pointLoad (s : State) (x : Option ImgSection) (c : Nat) : State :=
  regSetFld s Reg.PWR_OPPOINT c c (match pointRec x c with | some r => leAt r 1 1 | none => 0)

/-- The domains of an image, D1 to D16. -/
def domAll : List Nat := (List.range 16).map (· + 1)

/-- The first commit powers a domain: its policy in the image is not ALWAYS_OFF and its PLL has locked (R69, R512). -/
def domWanted (s : State) (x : Option ImgSection) (d : Nat) : Bool :=
  decide ((policyOf (powerRec x d)).mode ≠ 1) && domClocked s d

/-- At the first commit a domain that is to be powered and is not gets its on-sequence (R69 step 9, R79). -/
def domBring (s : State) (x : Option ImgSection) (d : Nat) : State :=
  if domWanted s x d ∧ (domState s d = 0 ∨ (domState s d = 3 ∧ !regBit s (Reg.PWR_DOMAIN_STAT d) 3)) then domRequest s d true else s

/-! ### The commit of a full load (R57) -/

/-- Every block stops and forgets what it held of the outgoing structure. -/
def blocksStop (s : State) : State :=
  let s := confluenceClear (furrowClear (cisternClear s))
  let s := enginesClear (publisherClear s)
  let h := s.hdg
  let s := (domAll.filter (fun d => decide (10 ≤ d))).foldl (fun s d => regSetFld s (Reg.PWR_DOMAIN_STAT d) 8 8 0) s
  { s with
    hdg := { HdgState.reset with tblCmd := h.tblCmd, keyCmd := h.keyCmd }
    slu := SluState.reset }

/-- Every block takes its sections, and starts. -/
def blocksStart (s : State) : State :=
  let s := timeLoad s true
  let s := (List.range 200).foldl portLoad s
  let s := queuesLoad (headgateLoad s)
  let s := [0, 1, 2, 3].foldl furLoad s
  let s := publisherLoad (confluenceLoad s)
  let s := (List.range 32).foldl engineLoad s
  let s := mailboxesLoad (tankLoad (riderLoad s))
  let s := if domOn s 15 then flumeLoad s false else { s with flm := { s.flm with eng := [], flags := 0, cycle := 0, flagsOld := 0, flagsUp := 0, flagsTaken := 0, driven := true } }
  culCommit s

/-- The registers that show the running image (Tables 2-16, 2-19, 2-20). -/
def imgShow (s : State) (c : LoadCmd) (i : Image) : State :=
  let s := regSetFld (imgTo s 3) Reg.IMG_STATUS 25 24 c.src
  let s := regSet256 (regSet s Reg.IMG_SERIAL (BitVec.ofNat 32 i.serial)) Reg.IMG_HASH i.digest
  regSetFld s Reg.IMG_KEYSLOT 1 0 i.keySlot

/-- Trickle service during a full reload, on the terms of the outgoing image (R71, R76); without it full service goes on. -/
def reloadTrickle (s : State) (out : Image) : State :=
  let p := match imageSection out 16 0 with
    | some x => x.payload
    | none => []
  if leAt p 0 1 = 1 then
    let s := { s with trk := { TrickleState.reset with prio := leAt p 1 1, portMask := BitVec.ofNat 8 (leAt p 2 1), commitAt := s.now } }
    let s := lanesRetrain (regSetFld (regSetFld s Reg.GLB_STATUS 2 2 0) Reg.GLB_STATUS 1 1 1) (imageSection out 1 0)
    (List.range 8).foldl (fun s q => regSetFld s (Reg.PRT_STAT q) 0 0 0) s
  else s

/-- Once the first structure has applied full service starts, unless trickle service hands over to it (R69 step 9, R76). -/
def firstService (s : State) : State := if trickleOn s then s else regSetFld s Reg.GLB_STATUS 2 2 1

/-- The loader signals the first commit: trickle service begins its handover (R76), and the ROM is at step 9. -/
def firstCommit (s : State) : State :=
  { s with pwr := { s.pwr with romStep := 9 }, trk := { s.trk with draining := trickleOn s, commitAt := s.now } }

/-- The commit of a full load. -/
def commitFull (s : State) (c : LoadCmd) (i : Image) : State :=
  let out := s.img.running
  let s := blocksStop s
  let s := { s with img := { s.img with
    running := some i, held := none, cmd := none, applied := [], units := [], swapsOpen := 0, bootNext := [] } }
  let s := imgShow (regSet s Reg.IMG_SWAP_PENDING 0) c i
  let x := imageSection i 15 0
  let s := [0, 1, 2, 3].foldl (fun s k => pointLoad s x k) (domAll.foldl (fun s d => policyLoad s x d) s)
  let s := blocksStart ([0, 1, 2, 3].foldl pointStart (domAll.foldl policyRequest s))
  let s := match out with
    | none => firstService s
    | some o => reloadTrickle s o
  imgRaise (satInc (culSettle s) Reg.IMG_COUNT 15 0) 0

/-- Every PLL has locked, or has failed to (R512). -/
def pllsSettled (s : State) : Bool := (List.range 10).all (fun i => regBit s Reg.PWR_CLK_STAT i || s.pwr.pllFailed.getLsbD i)

/-- The first commit waits for the PLLs that have not locked yet, then for the domains it powers; then every section applies (R69 step 9,
R512). -/
def commitWhenLocked (s : State) : State :=
  match s.img.cmd, s.img.held with
  | some c, some i =>
    if s.pwr.romStep = 9 ∧ s.img.running.isNone ∧ pllsSettled s then
      let x := imageSection i 15 0
      let s := domAll.foldl (fun s d => domBring s x d) s
      if domAll.all (fun d => !domWanted s x d || domOn s d) then commitFull s c i else s
    else s
  | _, _ => s

/-! ### The units of a swap (Table 2-12) -/

/-- What a basin takes from a CONFLUENCE section: its record, its map entries, the records of its streams. -/
def basinKey (x : Option ImgSection) (b : Nat) : List (List Byte) :=
  let m := (arrayAll x 0x0703).filter (fun r => decide (leAt r 3 1 = b))
  (arrayAll x 0x0701).filter (fun r => decide (leAt r 0 1 = b)) ++ m ++ m.filterMap (fun r => arrayRec x 0x0702 (leAt r 0 2 % 1024))

/-- What a publication (its template at the given places of its record), or a subscription, takes from a PUBLISH section. -/
def templateKey (x : Option ImgSection) (arr i off len : Nat) : List (List Byte) :=
  match arrayRec x arr i with
  | some r => [r, arrayBytes x 0x0804 (leAt r off 4) (leAt r len 2)]
  | none => []

/-- The section of the personality whose mask names an engine, with its slot. -/
def engineSection (i : Image) (e : Nat) : Option (Nat × ImgSection) :=
  (List.range 32).findSome? (fun p =>
    match imageSection i 9 p with
    | some x => (match arrayRec (some x) 0x0901 0 with
      | some r => if nbit (leAt r 4 4) e then some (p, x) else none
      | none => none)
    | none => none)

/-- The engine keeps slot and section. -/
def engineSame (a b : Image) (e : Nat) : Bool :=
  match engineSection a e, engineSection b e with
  | none, none => true
  | some x, some y => decide (x.1 = y.1) && sectionSame (some x.2) (some y.2)
  | _, _ => false

/-- The units that a swap from `a` to `b` gives new content, with the section each keeps running. -/
def swapUnits (a b : Image) : List UnitPend :=
  let whole := fun (t : Nat) => if swapped a b t 0 then [({ type := t, unit := 0, old := imageSection a t 0 } : UnitPend)] else []
  let parts := fun (t : Nat) (l : List Nat) =>
    if swapped a b t 0 then l.map (fun u => ({ type := t, unit := u, old := imageSection a t 0 } : UnitPend)) else []
  let cnf := (imageSection a 7 0, imageSection b 7 0)
  let pub := (imageSection a 8 0, imageSection b 8 0)
  let tnk := (imageSection a 11 0, imageSection b 11 0)
  let banks := (List.range 64).filter (fun k => decide (bankWord tnk.1 k ≠ bankWord tnk.2 k))
  whole 4 ++ whole 5
    ++ ((List.range 4).filter (swapped a b 6)).map (fun d => { type := 6, unit := d, old := imageSection a 6 d })
    ++ parts 7 ((List.range 16).filter (fun k => decide (basinKey cnf.1 k ≠ basinKey cnf.2 k)))
    ++ parts 8 ((List.range 512).filter (fun g => decide (templateKey pub.1 0x0801 g 28 32 ≠ templateKey pub.2 0x0801 g 28 32)))
    ++ parts 8 (((List.range 64).filter (fun v => decide (templateKey pub.1 0x0803 v 20 24 ≠ templateKey pub.2 0x0803 v 20 24))).map (512 + ·))
    ++ parts 8 (((List.range 8192).filter (fun v => decide (arrayRec pub.1 0x0802 v ≠ arrayRec pub.2 0x0802 v))).map (1024 + ·))
    ++ ((List.range 32).filter (fun e => !engineSame a b e)).map
        (fun e => { type := 9, unit := e, old := (engineSection a e).map (fun x => x.2) })
    ++ whole 10
    ++ parts 11 (if banks.isEmpty then [0] else banks)

/-- The columns of a basin keep what they last wrote where their map entry and the output format are unchanged (R276). -/
def columnsKeep (s : State) (b : Nat) (old : Option ImgSection) : State :=
  let x := cnfBas s b
  let rec_ := fun (l : List (List Byte)) (c : Nat) => l.find? (fun r => decide (leAt r 4 2 = c))
  let was := mapOf old b
  let fmt := ((arrayAll old 0x0701).find? (fun r => decide (leAt r 0 1 = b))).map (fun r => nbit (leAt r 1 1) 1)
  let same := fun (c : Nat) => decide (fmt = some (nbit (basField s b 1 1) 1)) && decide (rec_ was c = rec_ (basMap s b) c)
  cnfBasSet s b { x with cols := x.cols.filter (fun e => same e.1), holds := x.holds.filter (fun e => same e.1) }

/-- A basin applies: its record's RUN, and the restart (R271); with it the streams that it alone still held to the outgoing section. -/
def basinApply (s : State) (b : Nat) (old : Option ImgSection) : State :=
  let s := streamsSwap s old ((mapOf old b).map (fun r => leAt r 0 2 % 1024)).dedup
  let s := basinLoad (columnsKeep s b old) b
  if regBit s (Reg.CNF_BASIN_CTL b) 0 && (basRec s b).isSome then s else basStop s b

/-- The unpinned contexts of an engine that its reload waits for, each with the engine it can move to. -/
def awayMoves (s : State) (e : Nat) : List (Nat × Nat) :=
  (ctxLive s).filterMap (fun x =>
    if x.2.mode = .hot ∧ x.2.owner = e ∧ !x.2.pinned ∧ x.2.moving.isNone then
      (placeAmong s ((eligible s (ctxPers s x.1)).filter (fun b => decide (b ≠ e))) x.2.weight).map (fun b => (x.1, b))
    else none)

/-- The rider migrates the unpinned contexts of an engine away. -/
def awayStart (s : State) (e : Nat) : State :=
  (ctxOwned s e).foldl (fun s c => match (awayMoves s e).find? (fun m => decide (m.1 = c)) with
    | some m => migrateStart s c m.2 6
    | none => s) s

/-- The engine whose turn it is: the lowest pending one. -/
def engineTurn (s : State) : Option Nat := (List.range 32).find? (unitPends s 9)

/-- The engine whose turn it is prepares for its reload. -/
def engineNext (s : State) : State :=
  match engineTurn s with
  | some e => awayStart s e
  | none => s

/-- No context moves away from the engine and no thread holds an event. -/
def engineQuiet (s : State) (e : Nat) : Bool :=
  (ctxOwned s e).all (fun c => (ctxGet s c).moving.isNone) && (engGet s e).threads.all (fun t => t.2.event.isNone)

/-- The rider applies its section (R368): contexts that are no longer declared leave, new START_LIVE ones are created. `old` is the section that
ran. -/
def riderApply (s : State) (old : Option ImgSection) : State :=
  let gone := (ctxLive s).filter (fun x => (ctxDecl s x.1).isNone && decide (x.2.mode ≠ .dormant))
  let s := { s with rdr := { s.rdr with leaving := gone.map (fun x => x.1) } }
  let was := (arrayAll old 0x0A02).map (fun r => leAt r 0 2)
  let fresh := (declarations s).filter (fun d => nbit (leAt d 3 1) 0 && !was.contains (leAt d 0 2)
    && decide ((ctxGet s (leAt d 0 2)).mode = .dormant))
  let s := fresh.foldl (fun s d => ctxStart s d 6) s
  leaveRetry (regSetFld s Reg.RDR_POLICY 1 0 (riderPolicy s 0 1))

/-- A unit of PUBLISH that is about to transmit, or that neither sends nor receives anything (R62); else its next transmission or reception
applies it. -/
def publishSafe (s : State) (u : Nat) : Bool :=
  if u < 512 then
    !gpEn s u || !gpStarted s u || pubGated s || ((gpGet s u).launch.isNone && (match (gpGet s u).due with
      | some t => decide (t ≤ pubNow s)
      | none => false))
  else if u < 1024 then !regBit s (Reg.PUB_SV_STAT (u - 512)) 31 || pubGated s
  else !regBit s (Reg.PUB_SUB_STAT (u - 1024)) 31

/-- Whether a pending unit is at its safe point, as far as the state shows it. -/
def safePoint (s : State) (type unit : Nat) : Bool :=
  match type with
  | 5 => decide (s.clk.ns.toNat ≤ s.clk.incInt.toNat + 1)
  | 6 => decide (furState s unit ≠ 3) || (match furNext s unit with
    | some x => !regBit s (Reg.FUR_STAT unit) 11 || decide (regGet s (Reg.FUR_EFFECTIVE unit) = x.2)
    | none => false)
  | 7 => (cnfBas s unit).rows.isEmpty
  | 8 => publishSafe s unit
  | 9 => decide (engineTurn s = some unit) && engineQuiet s unit
  | 10 => decide (s.rdr.intervalFrom + riderPolicy s 4 4 * 1000 ≤ s.run) || decide (s.rdr.intervalFrom = s.run)
  | _ => true

/-- A unit applies its replaced section. -/
def unitApply (s : State) (type unit : Nat) : State :=
  let old := unitSection s type 0 unit
  let next := if furState s unit = 3 then furNext s unit else none
  let s := unitTake s type unit
  match type with
  | 4 => headgateLoad (staticRemove s old)
  | 5 => timeLoad s false
  | 6 =>
    let s := furrowApply s unit next
    if next.isSome then cycleSend s unit else s
  | 7 => basinApply s unit old
  | 8 => publishApply s unit (arrayRec old 0x0801 unit).isSome
  | 9 => engineNext (pauseSweep (riderRetry (postRoom (engineLoad (masterReset s unit) unit))))
  | 10 => riderApply s old
  | 11 => regionsLoad (bankLoad s unit) (runSection s 11)
  | _ => s

/-- SWAP_SAFE_POINT_APPLY (R62). -/
def execSwapSafePointApply (type unit : Nat) (s : State) : Answer :=
  event s (fun s =>
    if !unitPends s type unit then s
    else
      let s := if type = 9 then engineNext s else s
      if safePoint s type unit then swapSettle (unitApply s type unit) else s)

/-! ### The commit of a swap (R61, R62, R83, R418) -/

/-- POWER applies at once, to the domains and clusters whose records changed. -/
def powerSwap (s : State) (a b : Image) : State :=
  let x := imageSection a 15 0
  let y := imageSection b 15 0
  let ds := domAll.filter (fun d => decide (powerRec x d ≠ powerRec y d))
  let cs := [0, 1, 2, 3].filter (fun c => decide (pointRec x c ≠ pointRec y c))
  let s := ds.foldl (fun s d => policyRequest (policyLoad s y d) d) s
  cs.foldl (fun s c => pointStart (pointLoad s y c) c) s

/-- FLUME applies at once: each engine whose settings or program changed, the pins whose records changed, the declarations. -/
def flumesSwap (s : State) (a b : Image) : State :=
  if !swapped a b 13 0 then s
  else
    let x := imageSection a 13 0
    let y := imageSection b 13 0
    let es := (List.range 48).filter (fun e => decide (flumeRec x e ≠ flumeRec y e) || decide (flumeProg x e ≠ flumeProg y e))
    let pin := fun (z : Option ImgSection) (n : Nat) => (arrayAll z 0x0D01).find? (fun r => decide (leAt r 0 1 = n))
    let ns := (List.range 64).filter (fun n => decide (pin x n ≠ pin y n))
    let s := banksLoad (ns.foldl pinLoad s)
    let s := if domOn s 15 then es.foldl flumeSwap s else es.foldl flumeSet s
    ns.foldl pinShow s

/-- Basins that are new or not RUNNING apply at commit. -/
def basinsNow (s : State) (a : Image) : State :=
  (List.range 16).foldl (fun s b =>
    let new := ((arrayAll (imageSection a 7 0) 0x0701).find? (fun r => decide (leAt r 0 1 = b))).isNone
    if unitPends s 7 b && (new || decide (basState s b ≠ 2)) then unitApply s 7 b else s) s

/-- The commit of a swap; what was pending of an earlier one keeps the section it runs. -/
def commitSwap (s : State) (c : LoadCmd) (a b : Image) : State :=
  let new := (swapUnits a b).filter (fun u => !unitPends s u.type u.unit)
  let s := imgShow { s with img := { s.img with
    running := some b, held := none, cmd := none, applied := [], units := s.img.units ++ new, swapsOpen := s.img.swapsOpen + 1 } } c b
  swapSettle (engineNext (basinsNow (flumesSwap (powerSwap (streamsSwap s (imageSection a 7 0) (List.range 1024)) a b) a b) a))

/-! ### The apply pass (R55) -/

/-- Every section has matched: the commit of a swap, of a reload, or of the first load once the PLLs are settled. -/
def imgCommit (s : State) (c : LoadCmd) (i : Image) : State :=
  match s.img.running with
  | some a => if c.swap then commitSwap s c a i else commitFull s c i
  | none => commitWhenLocked (firstCommit s)

/-- APPLY_SECTION_READ (R55): the next section of the apply pass is read and compared. -/
def execApplySectionRead (index : Nat) (payload : List Byte) (s : State) : Answer :=
  event s (fun s =>
    match s.img.cmd, s.img.held with
    | some c, some i =>
      let todo := (applyReads s c i).filter (fun j => !s.img.applied.contains j)
      (match i.sections[index]? with
        | none => s
        | some x =>
          if todo.head? ≠ some index then s
          else if !sourceUp s c then imgFail s c (0x12, index, x.offset)
          else if Config.sha256 payload ≠ Config.sha256 x.payload then imgFail s c (0x11, index, x.offset)
          else
            let s := imgProgress s 1 (regFld s Reg.IMG_PROGRESS 26 0 + x.payload.length)
            let s := { s with img := { s.img with applied := s.img.applied ++ [index] } }
            if todo.length = 1 then imgCommit s c i else s)
    | _, _ => s)

end Sys2Proof.Machine
end

