-- ==== Sys2Proof/Machine/Publisher.lean ====
section
/-!
DEFINITION. The commands of the publisher (chapter 11): updates, tags, retransmissions, subscriptions.
-/
namespace Sys2Proof.Machine

/-- The update in a mailbox message (Table 11-3). -/
def updateOfMsg (m : List Byte) : PubUpdate :=
  { op := leAt m 0 1, buf := leAt m 1 1, pub := leAt m 2 2, len := leAt m 4 2, target := BitVec.ofNat 32 (leAt m 8 4) }

/-- The update in the registers of a function (Table 11-12). -/
def updateOfRegs (s : State) (f : Nat) (w0 : Word) : PubUpdate :=
  { op := fld w0 31 24, buf := fld w0 16 16, pub := fld w0 8 0, len := regFld s (regKey f Reg.PUB_UPD_W1) 15 0
    target := regGet s (regKey f Reg.PUB_UPD_W2) }

/-- An update of the registers of a function is executed and answered; BUSY until its last one is. -/
def regUpdate (s : State) (f : Nat) (u : PubUpdate) : State :=
  let r := pubUpdate s u
  let stat := regKey f Reg.PUB_UPD_STAT
  regSetFld (regSetFld r.2 stat 7 0 r.1) stat 31 31 (b2n (r.2.pub.waits.any (fun w => decide (w.2.1 = f))))

/-- A mailbox update that arrived no later than `t` is still to be executed. -/
def mailFirst (s : State) (t : Nat) : Bool :=
  match mbxOldest s 35 with
  | some c => decide ((mbxGet s c).since ≤ t)
  | none => false

/-- Register updates whose turn has come are executed, `n` at most (R286). -/
def regDrain : Nat → State → State
  | 0, s => s
  | n + 1, s =>
    match s.pub.waits with
    | [] => s
    | (t, f, u) :: rest =>
      if mailFirst s t then s else regDrain n (regUpdate { s with pub := { s.pub with waits := rest } } f u)

/-- Execute the update of a source when its OP meets `p`, and answer it, in arrival order (R286): a mailbox update when it is the oldest; a
register update at once, or when the mailbox updates before it have been executed. -/
def pubExec (s : State) (src : PubSrc) (p : Nat → Bool) : Answer :=
  match src with
  | .mailbox c =>
    flowEvent s (fun s =>
      let u := updateOfMsg (mbxGet s c).msg
      if domOn s 3 && decide (mbxOldest s 35 = some c.val) && p u.op then
        let r := pubUpdate s u
        let s := mbxAck r.2 c (BitVec.ofNat 32 r.1)
        regDrain s.pub.waits.length s
      else s)
  | .register f w0 =>
    hostCmd s f Reg.PUB_UPD_W0 (fun s =>
      let u := updateOfRegs s f w0
      if !p u.op then s
      else
        let s := { s with pub := { s.pub with waits := s.pub.waits ++ [(s.run, f.val, u)] } }
        let s := regSetFld s (regKey f Reg.PUB_UPD_STAT) 31 31 1
        pauseSweep (regDrain s.pub.waits.length s))

/-- PUB_UPDATE (R287): any OP but UPDATE_LAUNCH. -/
def execPubUpdate (src : PubSrc) (s : State) : Answer := pubExec s src (fun op => decide (op ≠ 2))

/-- PUB_UPDATE_LAUNCH (R288). -/
def execPubUpdateLaunch (src : PubSrc) (s : State) : Answer := pubExec s src (fun op => decide (op = 2))

/-- PUB_TAG_DONE (R289): the lane with the `i`-th job in progress finishes a frame's tag, and takes the oldest waiting job. -/
def execPubTagDone (i : Nat) (s : State) : Answer :=
  flowEvent s (fun s =>
    match s.krn.laneRun[i]? with
    | some r =>
      (match r.job with
        | .frame bytes index sv target _ alg =>
          let s := { s with krn := { s.krn with laneRun := s.krn.laneRun.eraseIdx i } }
          laneKick (pubTagged s bytes index sv target alg r.key)
        | .engine _ _ _ _ _ _ _ _ _ _ => s)
    | none => s)

/-- GOOSE_RETRANSMIT (R284). -/
def execGooseRetransmit (g : Fin 512) (s : State) : Answer := flowEvent s (fun s => if domOn s 3 then gpRetransmit s g else s)

/-- SUBSCRIPTION_EXPIRY (R294): the cycle in which the clock reached the deadline plus SETTLE_US is over (log entry 93). -/
def execSubscriptionExpiry (v : Fin 8192) (s : State) : Answer :=
  domEvent s 3 (fun s =>
    let settle : Int := (subField s v 2 2 * 1000 : Nat)
    if subState s v = 2 ∧ (subGet s v).deadline + (settle + 1) * tNano ≤ clkTime s.clk then subExpire s v else s)

/-- SUBSCRIPTION_ENABLE (R294): IDLE goes to WAIT, with no expiry counted. -/
def execSubscriptionEnable (f : Fin 4) (v : Fin 8192) (s : State) : Answer :=
  hostCmd s f (Reg.PUB_SUB_STAT v) (fun s =>
    let s := regSetFld s (Reg.PUB_SUB_STAT v) 31 31 1
    if subState s v = 0 then
      subMirror (subTo (regSetFld (subSet s v { subGet s v with seen := false }) (Reg.PUB_SUB_STAT v) 15 0 0) v 1) v
    else s)

/-- SUBSCRIPTION_DISABLE (R294). -/
def execSubscriptionDisable (f : Fin 4) (v : Fin 8192) (s : State) : Answer :=
  hostCmd s f (Reg.PUB_SUB_STAT v) (fun s =>
    let s := regSetFld s (Reg.PUB_SUB_STAT v) 31 31 0
    if subState s v = 0 then s else subMirror (subTo s v 0) v)

/-- PUBLICATION_DISABLE (R288): retransmissions stop; a copy in a calendar is still launched. -/
def execPublicationDisable (f : Fin 4) (g : Fin 512) (s : State) : Answer :=
  hostCmd s f (Reg.PUB_GP_STAT g) (fun s =>
    gpStop (gpSettle s g) g)

end Sys2Proof.Machine
end

