-- ==== Sys2Proof/Machine/Rider.lean ====
section
/-!
DEFINITION. The commands of the rider (chapter 14): interval ends, page operations, migrations, and the commands of Table 14-5. `data` of a
command is what a host read of its ADDR returns.
-/
namespace Sys2Proof.Machine

/-! ### Time and pages -/

/-- W after an interval of INTERVAL_US with `cycles` counted (R355). -/
def weightNext (s : State) (w cycles : Nat) : Nat :=
  let sample : Int := (cycles * 1000 / (riderPolicy s 4 4 * 1000) : Nat)
  ((w : Int) + (sample - w).tdiv (2 ^ riderPolicy s 1 1)).toNat

/-- RIDER_INTERVAL_END (R355, R356): the weights of the contexts that were hot are updated, then the policy runs. -/
def execRiderIntervalEnd (s : State) : Answer :=
  domEvent s 3 (fun s =>
    let period := riderPolicy s 4 4 * 1000
    if period ≠ 0 ∧ s.rdr.intervalFrom + period ≤ s.run then
      let s := (ctxLive s).foldl (fun s x =>
        ctxMod s x.1 (fun y => { y with
          weight := if y.wasHot then weightNext s y.weight y.cycles else y.weight, cycles := 0
          wasHot := decide (y.mode = .hot) })) s
      polInterval { s with rdr := { s.rdr with interval := s.rdr.interval + 1, intervalFrom := s.rdr.intervalFrom + period } }
    else s)

/-- PAGE_IN_COMPLETE (R358, R359): the home read of a context completes with its 512 bytes, or with an error. -/
def execPageInComplete (c : Fin 65536) (home : Option (List Byte)) (s : State) : Answer :=
  flowEvent s (fun s => if domOn s 3 then pageInEnd s c home else s)

/-- PAGE_OUT_COMPLETE (R358, R359): the slot has been read, or met an uncorrectable error. -/
def execPageOutComplete (c : Fin 65536) (ecc : Bool) (s : State) : Answer :=
  flowEvent s (fun s => if domOn s 3 then pageOutEnd s c ecc else s)

/-- MIGRATION_DRAINED (R360): the old engine holds no event of the context. -/
def execMigrationDrained (c : Fin 65536) (s : State) : Answer :=
  domEvent s 3 (fun s =>
    let x := ctxGet s c
    if x.moving.isSome ∧ engHolds s x.owner c = false then riderMoved (migrateDone s c) c else s)

/-- MIGRATE_TIMEOUT (R361). -/
def execMigrateTimeout (c : Fin 65536) (s : State) : Answer :=
  domEvent s 3 (fun s =>
    match (ctxGet s c).moving with
    | some (_, t, _) => if t + riderPolicy s 16 4 * 1000 < s.run then riderMoved (migrateAbort s c 7) c else s
    | none => s)

/-- EVENT_BOUNDARY_TIMEOUT (R365): the waiting command answers BUSY. -/
def execEventBoundaryTimeout (s : State) : Answer := domEvent s 3 riderGiveUp

/-! ### Commands (R365) -/

/-- The command in a mailbox message. -/
def riderOfMsg (c : Nat) (m : List Byte) : RiderWait :=
  { src := .mailbox c, op := leAt m 0 1, ctx := leAt m 2 2, engine := leAt m 4 1, flags := leAt m 5 1, addr := leAt m 8 4, data := []
    since := 0 }

/-- The command of a submission queue (Table 17-4). -/
def riderOfSq (f q : Nat) (c : HostCmd) (data : List Byte) : RiderWait :=
  { src := .queue f q c.index (leAt c.bytes 2 2), op := leAt c.bytes 8 1, ctx := leAt c.bytes 10 2, engine := leAt c.bytes 12 1
    flags := leAt c.bytes 13 1, addr := leAt c.bytes 16 8, data := data, since := 0 }

/-- The command in RDR_CMD_ARG. -/
def riderOfRegs (s : State) (f op : Nat) (data : List Byte) : RiderWait :=
  let a := regGet s (Reg.RDR_CMD_ARG 0)
  { src := .register f, op := op, ctx := fld a 15 0, engine := fld a 23 16, flags := fld a 31 24
    addr := (regGet s (Reg.RDR_CMD_ARG 1)).toNat + (regGet s (Reg.RDR_CMD_ARG 2)).toNat * 2 ^ 32, data := data, since := 0 }

/-- The command `op` arrives from a source. The rider runs one command at a time: a mailbox or queue command waits its turn where it is,
a register command that finds BUSY is refused. -/
def riderCmd (s : State) (src : RiderFrom) (op : Nat) (data : List Byte) : Answer :=
  let idle := fun (s : State) => s.rdr.waits.isEmpty
  match src with
  | .mailbox c =>
    domEvent s 3 (fun s =>
      let w := riderOfMsg c (mbxGet s c).msg
      if mbxState s c = 1 ∧ mbxReceiver s c = 33 ∧ mbxWakeWait s c = false ∧ w.op = op ∧ idle s then pauseSweep (riderStart s w) else s)
  | .queue f q =>
    domEvent s 3 (fun s =>
      match sqNext s f q with
      | none => s
      | some h =>
        let w := riderOfSq f q h data
        if leAt h.bytes 0 1 = 2 ∧ sqStatus h.bytes = 0 ∧ w.op = op ∧ idle s then
          pauseSweep (riderStart (sqStart s f q h.index) w)
        else s)
  | .register f =>
    hostCmd s f Reg.RDR_CMD (fun s =>
      if regBit s Reg.RDR_CMD_STAT 31 then rdrRaise s (regFld s (Reg.RDR_CMD_ARG 0) 15 0) 5
      else if idle s then pauseSweep (riderStart (regSet s Reg.RDR_CMD_STAT 0x80000000) (riderOfRegs s f op data))
      else
        { regSet s Reg.RDR_CMD_STAT 0x80000000 with rdr := { s.rdr with waits := s.rdr.waits ++ [riderOfRegs s f op data] } })

/-- CREATE (R365). -/
def execRiderCreate (src : RiderFrom) (s : State) : Answer := riderCmd s src 1 []

/-- RETIRE (R365). -/
def execRiderRetire (src : RiderFrom) (s : State) : Answer := riderCmd s src 2 []

/-- MOVE (R365). -/
def execRiderMove (src : RiderFrom) (s : State) : Answer := riderCmd s src 3 []

/-- PIN (R365). -/
def execRiderPin (src : RiderFrom) (s : State) : Answer := riderCmd s src 4 []

/-- UNPIN (R365). -/
def execRiderUnpin (src : RiderFrom) (s : State) : Answer := riderCmd s src 5 []

/-- RESIDENT (R365). -/
def execRiderResident (src : RiderFrom) (s : State) : Answer := riderCmd s src 6 []

/-- EVICT (R365). -/
def execRiderEvict (src : RiderFrom) (s : State) : Answer := riderCmd s src 7 []

/-- READ (R365). -/
def execRiderRead (src : RiderFrom) (s : State) : Answer := riderCmd s src 8 []

/-- WRITE (R365). -/
def execRiderWrite (src : RiderFrom) (data : List Byte) (s : State) : Answer := riderCmd s src 9 data

/-- CLEAR_POISON (R365). -/
def execRiderClearPoison (src : RiderFrom) (data : List Byte) (s : State) : Answer := riderCmd s src 10 data

/-- MAP (R366). -/
def execRiderMap (src : RiderFrom) (s : State) : Answer := riderCmd s src 11 []

/-- RUN_POLICY (R365). -/
def execRiderRunPolicy (src : RiderFrom) (s : State) : Answer := riderCmd s src 12 []

end Sys2Proof.Machine
end

