-- ==== Sys2Proof/Machine/TimeApply.lean ====
section
/-!
DEFINITION. Steps and sets at their instant (R92 to R94), and what follows them in every block (R110, R219, R228, R273, R285).
-/
namespace Sys2Proof.Machine

/-- What the blocks do when a step or set has moved the clock by `delta` units of 2⁻³² ns; what is stopped by a freeze does it at thaw. -/
def clockChanged (s : State) (delta : Int) : State :=
  let s := ppsBack (furShift s delta)
  if s.frz.frozen then
    let sum : Int := match s.frz.moved with
      | some m => m
      | none => 0
    let s := pubShift s delta
    { s with frz := { s.frz with moved := some (sum + delta) } }
  else
    let s := calRecheck s
    let s := (List.range 4).foldl (fun s d => if furFree s d then s else furBreak s d) s
    cnfShift (pubShift s delta) delta

/-- STEP_APPLY (R92, R94): the step that waits first takes effect at its instant, and what was held behind it goes on. -/
def execStepApply (s : State) : Answer :=
  timeEvent s (fun s =>
    match s.clk.held with
    | .step adj :: rest =>
      if s.clk.wait ≠ 0 then s
      else
        let s := { s with clk := { clkStep s.clk adj with lost := 0 } }
        heldTake (clockChanged (raiseTim s 0) (adj.toInt * 2 ^ 32)) rest
    | _ => s)

/-- SET_APPLY (R93, R94): the set that waits first takes effect at its instant, and what was held behind it goes on. -/
def execSetApply (s : State) : Answer :=
  timeEvent s (fun s =>
    match s.clk.held with
    | .set sec ns :: rest =>
      if s.clk.wait ≠ 0 then s
      else
        let before := clkTime s.clk
        let s := { s with clk := { clkSet s.clk sec ns with lost := 0 } }
        heldTake (clockChanged (raiseTim s 2) (clkTime s.clk - before)) rest
    | _ => s)

end Sys2Proof.Machine
end

