-- ==== Sys2Proof/Machine/TimeBase.lean ====
section
/-!
DEFINITION. The commands of the time base (chapter 4): increment, slew, set, compare, capture and PPS.
-/
namespace Sys2Proof.Machine

/-- TIM_INCR_FRAC_WRITE (R91): the fraction is staged. -/
def execTimIncrFracWrite (m : Fin 42) (v : Word) (s : State) : Answer :=
  timWrite s m Reg.TIM_INCR_FRAC (fun s => { s with clk := { s.clk with staged := v } })

/-- TIM_INCR_INT_WRITE (R91): the staged fraction and the written integer become the increment together. -/
def execTimIncrIntWrite (m : Fin 42) (v : Word) (s : State) : Answer :=
  timWrite s m Reg.TIM_INCR_INT (fun s =>
    culTime { s with clk := { s.clk with incInt := v.setWidth 8, incFrac := s.clk.staged } })

/-- ADJ_STEP (R92, R94). -/
def execAdjStep (m : Fin 42) (s : State) : Answer :=
  timWrite s m Reg.TIM_ADJ_CTL (fun s => clkHold s (.step (regGet s Reg.TIM_ADJ_NS)))

/-- CANCEL (R92, R94): it ends the slew and discards every held slew. -/
def adjCancel (s : State) : State :=
  { s with clk := { slewStop s.clk with held := s.clk.held.filter (fun h => match h with | .slew _ _ => false | _ => true) } }

/-- ADJ_SLEW (R92, R94): it starts, or is held behind a step or set that waits; a rate of 0 is a CANCEL. -/
def execAdjSlew (m : Fin 42) (rate : BitVec 16) (s : State) : Answer :=
  timWrite s m Reg.TIM_ADJ_CTL (fun s =>
    let adj := regGet s Reg.TIM_ADJ_NS
    if rate = 0 then adjCancel s
    else if s.clk.held.isEmpty then slewBegin s adj rate.toNat
    else clkHold s (.slew adj rate.toNat))

/-- ADJ_CANCEL (R92). -/
def execAdjCancel (m : Fin 42) (s : State) : Answer := timWrite s m Reg.TIM_ADJ_CTL adjCancel

/-- TIM_SET_CMD (R93): with the code, the SET registers wait for their instant; NS out of range raises DISC_REFUSED. -/
def execTimSetCmd (m : Fin 42) (v : Word) (s : State) : Answer :=
  timWrite s m Reg.TIM_SET_CMD (fun s =>
    let ns := regFld s Reg.TIM_SET_NS 29 0
    if fld v 31 16 ≠ 0x5E7C then s
    else if 999999999 < ns then raise s Reg.TIM_CAUSE 3
    else clkHold s (.set (BitVec.ofNat 48 (regFld s Reg.TIM_SET_SEC_HI 15 0 * 2 ^ 32 + (regGet s Reg.TIM_SET_SEC_LO).toNat)) ns))

/-- SLEW_END (R92): the slew whose total has been added ends, and SLEW_DONE is raised. -/
def execSlewEnd (s : State) : Answer :=
  event s (fun s =>
    match s.clk.slew with
    | none => s
    | some w =>
      if w.remaining = 0 then raise { s with clk := { s.clk with slew := none, lost := 0 } } Reg.TIM_CAUSE 1 else s)

/-- TIM_NOW_READ (R95): NS is returned; SEC, FRAC and ns32 are latched for the function. -/
def execTimNowRead (f : Fin 4) (s : State) : Answer :=
  hostCmd s f Reg.TIM_NOW_NS (fun s =>
    let s := regSet s (regKey f Reg.TIM_NOW_SEC_LO) (s.clk.sec.setWidth 32)
    let s := regSet s (regKey f Reg.TIM_NOW_SEC_HI) ((s.clk.sec >>> 32).setWidth 32)
    let s := regSet s (regKey f Reg.TIM_NOW_FRAC) s.clk.frac
    let s := regSet s (regKey f Reg.TIM_NOW_NS32) s.clk.ns32
    { s with rdata := s.clk.ns.setWidth 64 })

/-- CMP_ARM (R114). -/
def execCmpArm (f : Fin 4) (n : Fin 8) (s : State) : Answer :=
  hostCmd s f (Reg.TIM_CMP_CTL n) (fun s => { s with clk := { s.clk with cmpArmed := s.clk.cmpArmed ||| (1#8 <<< n.val) } })

/-- CMP_DISARM (R114). -/
def execCmpDisarm (f : Fin 4) (n : Fin 8) (s : State) : Answer :=
  hostCmd s f (Reg.TIM_CMP_CTL n) (fun s => { s with clk := { s.clk with cmpArmed := s.clk.cmpArmed &&& ~~~(1#8 <<< n.val) } })

/-- COMPARE_FIRE (R114): an armed channel whose target is reached fires. -/
def execCompareFire (n : Fin 8) (s : State) : Answer :=
  timeEvent s (fun s =>
    if s.clk.cmpArmed.getLsbD n && reached (nowNs32 s) (regGet s (Reg.TIM_CMP_TARGET n)) then cmpFire s n else s)

/-- PPS_IN_EDGE (R115): each channel whose source is this edge captures. -/
def execPpsInEdge (rising : Bool) (s : State) : Answer :=
  timeEvent s (fun s =>
    let src := if rising then 0 else 1
    let s := if regFld s (Reg.TIM_CAP_CTL 0) 1 0 = src then capture s 0 else s
    if regFld s (Reg.TIM_CAP_CTL 1) 1 0 = src then capture s 1 else s)

/-- CAPTURE_SNAP (R115): the write sets SRC and clears OVR by type, and SNAP captures when the source is software. -/
def execCaptureSnap (f : Fin 4) (c : Fin 2) (v : Word) (s : State) : Answer :=
  hostCmd s f (Reg.TIM_CAP_CTL c) (fun s =>
    let s := regSetFld s (Reg.TIM_CAP_CTL c) 1 0 (fld v 1 0)
    let s := if bitOf v 4 then regSetFld s (Reg.TIM_CAP_CTL c) 4 4 0 else s
    if bitOf v 2 && decide (fld v 1 0 = 2) then capture s c else s)

/-- CAPTURE_READ (R115): the captured NS is returned and FULL cleared. -/
def execCaptureRead (f : Fin 4) (c : Fin 2) (s : State) : Answer :=
  hostCmd s f (Reg.TIM_CAP_NS c) (fun s =>
    { regSetFld s (Reg.TIM_CAP_CTL c) 3 3 0 with rdata := (regGet s (Reg.TIM_CAP_NS c)).setWidth 64 })

/-- PPS_OUT_RISE (R116): in SECOND mode once for the edge instants that the clock has reached since the last; in COMPARE mode the rise is
that of the firing of channel 0 itself (COMPARE_FIRE); OFF holds the output low. -/
def execPpsOutRise (s : State) : Answer :=
  timeEvent s (fun s =>
    if regFld s Reg.TIM_PPS_CTL 1 0 = 1 ∧ s.clk.ppsSec < ppsIndex s then ppsRise (ppsAlign s) else s)

/-- PPS_OUT_FALL (R116): WIDTH_US after the last rising instant. -/
def execPpsOutFall (s : State) : Answer :=
  timeEvent s (fun s =>
    match s.clk.ppsFall with
    | some t =>
      if t ≤ s.now then emit { s with clk := { s.clk with ppsHigh := false, ppsFall := none } } (.pps false) else s
    | none => s)

/-- REPLICA_VALID (R100): the replica of an island whose domain is on becomes valid; with that of CONF, basins with RUN set that could
not apply before do so (R271). -/
def execReplicaValid (island : Fin 17) (s : State) : Answer :=
  event s (fun s =>
    match replicaDomain island with
    | some d =>
      if domOn s d then
        let s := { s with clk := { s.clk with replicaOk := tabSet (fun _ => false) s.clk.replicaOk island true } }
        if island.val = 13 then (List.range 16).foldl (fun s b => if basState s b = 0 then basApply s b else s) s else s
      else s
    | none => s)

end Sys2Proof.Machine
end

