-- ==== Sys2Proof/Machine/Arch.lean ====
section
/-!
DEFINITION. The commands of chapters 0 and 1: register accesses (R5 to R8, R28), crossings (R18 to R21), ECC errors and scrubbing (R24
to R27).
-/
namespace Sys2Proof.Machine

/-! ### Register writes (R6, R7) -/

/-- A write that acts on each field of the register by its type (R7); a write of an unassigned address has no effect (R6). -/
def plainWrite (s : State) (f a : Nat) (v : Word) : State :=
  match findReg a with
  | none => s
  | some r =>
    let k := regKey f a
    blockIrq (irqStatus s) (regSet s k (writeByType r (locked s a) (regGet s k) v))

/-- Whether a ring's BASE or CTL register may not change: EN is set (R269). -/
def ringFixed (s : State) (ctl : Nat) : Bool := regBit s ctl 31

/-- A write to a ring's BASE or CTL register with the refusals of R269; `mask` holds the guarded fields of CTL and `bad` says that EN with the
written values is out of range. -/
def ringStore (s : State) (f a ctl : Nat) (v mask : Word) (bad : Bool) (refuse : State → State) : State :=
  if a = ctl then
    if (ringFixed s ctl && decide ((regGet s ctl ^^^ v) &&& mask ≠ 0)) || (bitOf v 31 && bad) then refuse s else plainWrite s f a v
  else if ringFixed s ctl then refuse s
  else plainWrite s f a v

/-- LOG2_SLOTS outside 4 to 16 or VECTOR 0 (R269, R295, R367). -/
def ringRange (v : Word) : Bool := decide (fld v 27 24 < 4) || decide (fld v 23 16 = 0)

/-- A write in the power window: PWR_DOMAIN_CTL acts whole, so that REQ = 3 is refused (R83). -/
def writePwr (s : State) (f a : Nat) (v : Word) : State :=
  match regIndex a (Reg.PWR_DOMAIN_CTL 1) 4 16 with
  | some i => powerWrite s (i + 1) (fld v 1 0) v
  | none => plainWrite s f a v

/-- The discipline registers without a command of their own (R90). -/
def isDiscipline (a : Nat) : Bool :=
  [Reg.TIM_ADJ_NS, Reg.TIM_ADJ_CTL, Reg.TIM_SET_NS, Reg.TIM_SET_SEC_LO, Reg.TIM_SET_SEC_HI, Reg.TIM_SYNC_STATE].contains a
    || (regIndex a (Reg.TIM_PDELAY 0) 4 200).isSome

/-- OFFSET_EST saturates at ±32,767 (Table 4-9). -/
def offsetSat (v : Word) : Word := if fld v 31 16 = 0x8000 then setFld v 31 16 0x8001 else v

/-- TIM_PPS_OFFSET is clamped to ±1,000,000 (Table 4-11). -/
def ppsClamp (v : Word) : Word := BitVec.ofInt 32 (max (-1000000) (min 1000000 v.toInt))

/-- In OFF, PPS_OUT is held low (R116). -/
def ppsMode (s : State) : State :=
  let mode := regFld s Reg.TIM_PPS_CTL 1 0
  if s.clk.ppsHigh && (decide (mode = 0) || decide (mode = 3)) then
    emit { s with clk := { s.clk with ppsHigh := false, ppsFall := none } } (.pps false)
  else s

/-- A write of a discipline register by master `m` (R90). -/
def writeDiscipline (s : State) (m a : Nat) (v : Word) : State :=
  disciplined s m (fun s => if a = Reg.TIM_SYNC_STATE then culTime (plainWrite s 0 a (offsetSat v)) else plainWrite s 0 a v)

/-- A write in the time window by function `f` (R90, R116, R119). -/
def writeTim (s : State) (f a : Nat) (v : Word) : State :=
  if isDiscipline a then writeDiscipline s (36 + f) a v
  else if a = Reg.TIM_PPS_OFFSET then ppsAlign (plainWrite s f a (ppsClamp v))
  else if a = Reg.TIM_PPS_CTL then ppsMode (ppsAlign (plainWrite s f a v))
  else plainWrite s f a v

/-- A write in the headgate window: a table command with an OP or TABLE that has no meaning ends as BAD_FIELD (Table 6-10); more lanes
take waiting jobs (R169). -/
def writeHdg (s : State) (f a : Nat) (v : Word) : State :=
  if a = Reg.HDG_TBL_CMD then
    let op := fld v 2 0
    if op = 0 ∨ 6 ≤ op then tblStart s op (fld v 6 4) else s
  else if a = Reg.HDG_KEY_CTL ∧ regBit s Reg.HDG_KEY_STAT 8 then raise s Reg.HDG_CAUSE 5
  else if a = Reg.HDG_AUTH_SPLIT then
    let s := plainWrite s f a v
    laneKick (authStart s s.hdg.authQ)
  else plainWrite s f a v

/-- A write in the cistern window: a database command of no meaning ends as BAD_FIELD (Table 7-8), siphon registers keep the bits of ports
(Table 7-11), and the weir follows its thresholds (R193). -/
def writeCis (s : State) (f a : Nat) (v : Word) : State :=
  if a = Reg.CIS_FDB_CMD then (if fld v 2 0 = 0 ∨ fld v 2 0 = 7 then fdbStart s (fld v 2 0) else s)
  else
    match regIndex a (Reg.CIS_SIPH_CTL 0) 0x80 8 with
    | some x => siphWrite s x v
    | none =>
      let o := (a - 0x700600) % 0x80
      let siph := decide (0x700600 ≤ a) && decide (a < 0x700A00)
      let v := if siph && decide (o = 0x38) then v &&& 0x7FFF else if siph && decide (o = 0x58) then v &&& 0xFFF else v
      pauseSweep (plainWrite s f a v)

/-- A write in the publisher window: the rings of R295, EN of a publication (STARTED, stNum and sqNum start afresh, R283) and of a
republication (R290). -/
def writePub (s : State) (f a : Nat) (v : Word) : State :=
  match (List.range 4).find? (fun r =>
      decide (a = Reg.PUB_EVR_BASE_LO r) || decide (a = Reg.PUB_EVR_BASE_HI r) || decide (a = Reg.PUB_EVR_CTL r)) with
  | some r =>
    let ctl := Reg.PUB_EVR_CTL r
    let t := ringStore s f a ctl v 0x0FFF0000 (ringRange v) (fun s => raise s Reg.PUB_CAUSE 1)
    if regFld t ctl 15 0 = regFld s ctl 15 0 then t
    else { t with pub := { t.pub with evrSince := tabSet (fun _ => 0) t.pub.evrSince r 0 } }
  | none =>
    match regIndex a (Reg.PUB_GP_STAT 0) 0x10 512 with
    | some g =>
      let on := gpEn s g
      let t := plainWrite s f a v
      if bitOf v 31 && !on then gpStart t g else if !bitOf v 31 && on then gpStop (gpSettle t g) g else t
    | none =>
      match regIndex a (Reg.PUB_SV_STAT 0) 0x10 64 with
      | some i => { plainWrite s f a v with pub := { s.pub with sv := tabSet (fun _ => { rows := [] }) s.pub.sv i { rows := [] } } }
      | none => plainWrite s f a v

/-- A write in the rider window (R357, R365, R369). -/
def writeRdr (s : State) (f a : Nat) (v : Word) : State :=
  let refuse := fun (s : State) => rdrRaise s 0 5
  if a = Reg.RDR_HOME_LO ∨ a = Reg.RDR_HOME_HI ∨ a = Reg.RDR_HOME_CTL then
    pauseSweep (pageKick (ringStore s f a Reg.RDR_HOME_CTL v 0x30000000 false refuse))
  else if a = Reg.RDR_JNL_BASE_LO ∨ a = Reg.RDR_JNL_BASE_HI ∨ a = Reg.RDR_JNL_CTL then
    let t := ringStore s f a Reg.RDR_JNL_CTL v 0x3FFF0000 (ringRange v) refuse
    if regFld t Reg.RDR_JNL_CTL 15 0 = regFld s Reg.RDR_JNL_CTL 15 0 then t else { t with rdr := { t.rdr with jnlSince := 0 } }
  else if a = Reg.RDR_CMD then
    let op := fld v 3 0
    if 1 ≤ op ∧ op ≤ 12 then s
    else if regBit s Reg.RDR_CMD_STAT 31 then rdrRaise s (regFld s (Reg.RDR_CMD_ARG 0) 15 0) 5
    else pauseSweep (riderStart (regSet s Reg.RDR_CMD_STAT 0x80000000) (riderOfRegs s f op []))
  else plainWrite s f a v

/-- A write of the staging of a mailbox channel (R386, R387): only the sender's; any other listed offset, and any access of a master that the
binding does not name, is refused (R379). -/
def writeMbx (s : State) (f a : Nat) (v : Word) : State :=
  let x := a - 0xF00000
  let c := x / 128
  if x % 128 < 0x40 ∧ mbxSender s c = 36 + f then
    let m := mbxGet s c
    mbxSet s c { m with staging := patch m.staging (x % 128) (leBytes 4 v.toNat) }
  else if mbxUnassigned s (36 + f) x then s
  else tankRefuse s (36 + f) x

/-- A write in the host window (R426, R435 to R439, Table 17-12). -/
def writeHst (s : State) (f a : Nat) (v : Word) : State :=
  let queue := (List.range 4).flatMap (fun k => (List.range (if k ≤ 1 then 4 else 8)).map (fun q => (k, q)))
  let key := regKey f a
  match queue.find? (fun x => decide (hostQ f x.1 x.2 0 ≤ key) && decide (key < hostQ f x.1 x.2 0x40)) with
  | some (k, q) =>
    let o := key - hostQ f k q 0
    if o = 8 then pauseSweep (if bitOf v 31 then qWriteOn s f k q v else qWriteOff s f k q v)
    else if o = 0 ∨ o = 4 ∨ (k = 3 ∧ o = 0x14) then (if qLocked s f k q then qRefuse s f k q else plainWrite s f a v)
    else plainWrite s f a v
  | none =>
    if a = Reg.HST_BLK_IRQ then
      if bitOf v 31 && decide (fld v 23 16 = 0) && !locked s a then hstRaise s f 4 0 2 else plainWrite s f a v
    else if a = Reg.HST_RESYNC then pauseSweep (resyncKey s f v)
    else
      match regIndex a (Reg.MSIX_CTL 0) 0x10 256 with
      | some n =>
        let s := plainWrite s f a v
        if !bitOf v 0 && (fnGet s f).msixEnable && regBit s (msixPba f n) (n % 32) then
          msix (regSetFld s (msixPba f n) (n % 32) (n % 32) 0) f n
        else s
      | none => plainWrite s f a v

/-- A write in the culvert window (R455, R465): an OP of no command is refused, OFFSET keeps its value while EN is set. -/
def writeCul (s : State) (f a : Nat) (v : Word) : State :=
  if a = Reg.CUL_CMD then (if fld v 2 0 = 0 ∨ 5 ≤ fld v 2 0 then culRefuse s else s)
  else if a = Reg.CUL_PEER_TANK then
    if regBit s a 31 && decide ((regGet s a ^^^ v) &&& 0x003FFFF8 ≠ 0) then culRefuse s else plainWrite s f a v
  else if a = Reg.CUL_CTL then culSettle (plainWrite s f a v)
  else plainWrite s f a v

/-- A write in the freeze and sentinel window (R466, R474, R481). -/
def writeFrz (s : State) (f a : Nat) (v : Word) : State :=
  if a = Reg.FRZ_CTL then frzCtl s v
  else if a = Reg.FRZ_LOCK then
    let s := plainWrite s f a v
    regSetFld s Reg.FRZ_STAT 0 0 (b2n (regBit s Reg.FRZ_LOCK 1))
  else if a = Reg.SEN_CMD then senCmd s v
  else plainWrite s f a v

/-- The mailbox windows of BAR0 (R387). -/
def inMailbox (a : Nat) : Bool := decide (0xF00000 ≤ a) && decide (a < 0xF02000)

/-- A register write by the window of its address. -/
def regWrite (s : State) (f a : Nat) (v : Word) : State :=
  match a / 0x100000 with
  | 1 => writePwr s f a v
  | 3 => writeTim s f a v
  | 4 => pauseSweep (plainWrite s f a v)
  | 5 => pauseSweep (plainWrite s f a v)
  | 6 => writeHdg s f a v
  | 7 => writeCis s f a v
  | 10 =>
    (match (List.range 16).find? (fun b =>
        decide (a = Reg.CNF_RING_BASE_LO b) || decide (a = Reg.CNF_RING_BASE_HI b) || decide (a = Reg.CNF_RING_CTL b)) with
      | some b => ringRegWrite s b a v
      | none => plainWrite s f a v)
  | 11 => writePub s f a v
  | 13 => writeRdr s f a v
  | 15 => if inMailbox a then writeMbx s f a v else plainWrite s f a v
  | 16 => writeHst s f a v
  | 17 => writeCul s f a v
  | 18 => writeFrz s f a v
  | _ => plainWrite s f a v

/-- REGISTER_WRITE (R6, R7, R90): a write to a field that has no row of its own, by a host function (masters 36 to 39). During a system reset
only reads act (R67). Any other master reaches the discipline registers alone (R90, R301). -/
def execRegisterWrite (m : Fin 42) (a : Nat) (v : Word) (s : State) : Answer :=
  if 36 ≤ m.val ∧ m.val < 40 then
    hostCmd s (m.val - 36) a (fun s => if s.pwr.resetRun || decide (a % 4 ≠ 0) then s else regWrite s (m.val - 36) a v)
  else event s (fun s => if isDiscipline a then writeDiscipline s m.val a v else s)

/-- UNALIGNED_ACCESS (R5): no effect, 0 read, ACCESS_ERR with its address; in a mailbox window it is a refused access (R387). -/
def execUnalignedAccess (f : Fin 4) (a : Nat) (_write : Bool) (s : State) : Answer :=
  .next (
    if !hostReach s a then { s with rdata := 0 }
    else if inMailbox a && domOn s 3 then { tankRefuse s (36 + f.val) (a - 0xF00000) with rdata := 0 }
    else raise { regSet s Reg.GLB_ERR_ADDR (BitVec.ofNat 32 (f.val * 0x2000000 + a)) with rdata := 0 } Reg.GLB_CAUSE 0)

/-! ### Reads that clear (R8) -/

/-- What an RC field holds after its read: 0 (R7); the highest temperature and spread restart from the current reading (R509). -/
def highNow (s : State) (a : Nat) : Word :=
  if a = Reg.PWR_TEMP_SPREAD then setFld 0 15 8 (tempSpread s)
  else if a = Reg.PWR_TEMP_MAX then
    (match temps s with
      | [] => 0
      | t :: l => (BitVec.ofInt 12 (l.foldl max t)).setWidth 32)
  else 0

/-- Clear the RC fields of the register at an address (R7, R8). -/
def rcClear (s : State) (f a : Nat) : State :=
  match findReg a with
  | none => s
  | some r =>
    let k := regKey f a
    let m := BitVec.ofNat 32 r.rc
    regSet s k ((regGet s k &&& ~~~m) ||| (highNow s a &&& m))

/-- A read of MSG or STATE in a mailbox window (R387); an unassigned offset reads 0 (R6), any other that no command reads is refused (R379). -/
def mailboxRead (s : State) (f a : Nat) : State :=
  let x := a % 0x100000
  let o := x % 128
  let r := if o < 0x40 ∨ o = 0x48 then mailRead s (36 + f) x 4 else (none, s)
  match r with
  | (some l, s) => { s with rdata := BitVec.ofNat 64 (leNat l) }
  | (none, s) => if mbxUnassigned s (36 + f) x then { s with rdata := 0 } else { tankRefuse s (36 + f) x with rdata := 0 }

/-- RC_READ (R8): the value from before the clear is returned; a read of a register without RC fields only returns it. The WAIT counter of a
sluice counts up to now, latches its high bits and clears them too (Table 8-6). -/
def execRcRead (f : Fin 4) (a : Nat) (s : State) : Answer :=
  hostCmd s f.val a (fun s =>
    if a % 4 ≠ 0 then { s with rdata := 0 }
    else if inMailbox a then mailboxRead s f.val a
    else
      match counterAt a with
      | some (p, n) => counterRead s p n
      | none =>
      let i := (a - 0x800000) / 0x1000
      let r := ((a - 0x800000) % 0x1000 - 0x100) / 0x20
      let wait := decide (a / 0x100000 = 8) && decide (i < 115) && decide (r < sluRequesters i) && decide (a = Reg.SLU_WAIT_LO i r)
      let s := if wait then sluWait s i r else s
      let v := regRead s f.val a
      let s := if wait then
          (let s := regSet s (Reg.SLU_WAIT_HI i r) (wordN (cntHiGet s a))
           cntHiSet s a 0)
        else s
      { rcClear s f.val a with rdata := v.setWidth 64 })

/-- DOMAIN_OFF_ACCESS (R28): an access to a block whose domain is off. -/
def execDomainOffAccess (f : Fin 4) (a : Nat) (_write : Bool) (s : State) : Answer :=
  .next (if hostReach s a && !domOn s (addrDomain a) then domainOff s f.val a else s)

/-! ### Crossings (R18 to R21) -/

/-- CROSSING_WORD_DELIVERY (R18, R19, R21): a word offered is delivered once, in order, when both sides are powered and run; towards a side
that is off it is not delivered. A handshake that a freeze catches holds its levels until thaw; no other begins on that channel. -/
def execCrossingWordDelivery (ch : Fin 90) (w : BitVec 512) (s : State) : Answer :=
  let both := crossOn s (crossEnds ch.val).1 && crossOn s (crossEnds ch.val).2
  if s.frz.frozen && both && !s.pwr.porstLow && !s.pwr.resetRun then .next (crossHold s ch.val w)
  else event s (fun s => if both then crossDeliver s ch.val w else s)

/-! ### ECC (R24 to R27) -/

/-- The domain that powers a memory. -/
def eccDomain (m : EccMem) (i : Nat) : Nat :=
  match m with
  | .cistern => 4
  | .engine => 10 + i % 32 / 8
  | .confStream => 14
  | .confBasin => 14
  | .flumeProgram => 15
  | .supervisor => 1
  | .loader => 1
  | .calendar => 5 + i % 5
  | .replay => 16
  | _ => 3

/-- Island and memory of Table 19-4; no row of it lists the key memory. -/
def eccPlace (m : EccMem) (i : Nat) : Option Nat :=
  match m with
  | .cistern => some (32 * 3)
  | .reservoir => some (32 * 2)
  | .tank => some (32 * 2 + 1)
  | .forwarding => some (32 * 2 + 2)
  | .stream => some (32 * 2 + 3)
  | .node => some (32 * 2 + 4)
  | .vlan => some (32 * 2 + 5)
  | .portRole => some (32 * 2 + 5)
  | .policer => some (32 * 2 + 5)
  | .publication => some (32 * 2 + 6)
  | .subscription => some (32 * 2 + 6)
  | .key => none
  | .engine => some (32 * (9 + i % 32 / 8) + i % 8 + (if i < 32 then 0 else 8))
  | .confStream => some (32 * 13)
  | .confBasin => some (32 * 13 + 1)
  | .supervisor => some 0
  | .loader => some 0
  | .flumeProgram => some (32 * 14)
  | .queue => some (32 * 2 + 7)
  | .calendar => some (32 * (4 + i % 5))
  | .replay => some (32 * 15)

/-- Count in a table of errors by memory. -/
def eccNote (t : Tab Nat) (m : EccMem) (i : Nat) : Tab Nat :=
  match eccPlace m i with
  | some k => tabSet (fun _ => 0) t k (tabGet (fun _ => 0) t k + 1)
  | none => t

/-- The correctable-error counter, its threshold, the cause register and ECC_CORR of a memory's block; the register maps of the supervisor,
the ports and the culvert have none (log entry 30). -/
def eccCounter (m : EccMem) : Option (Nat × Nat × Nat × Nat) :=
  match m with
  | .cistern => some (Reg.CIS_ECC_CORR, Reg.CIS_ECC_THRESH, Reg.CIS_CAUSE, 2)
  | .forwarding => some (Reg.CIS_ECC_CORR, Reg.CIS_ECC_THRESH, Reg.CIS_CAUSE, 2)
  | .stream => some (Reg.HDG_ECC_CORR, Reg.HDG_ECC_THRESH, Reg.HDG_CAUSE, 4)
  | .vlan => some (Reg.HDG_ECC_CORR, Reg.HDG_ECC_THRESH, Reg.HDG_CAUSE, 4)
  | .portRole => some (Reg.HDG_ECC_CORR, Reg.HDG_ECC_THRESH, Reg.HDG_CAUSE, 4)
  | .node => some (Reg.HDG_ECC_CORR, Reg.HDG_ECC_THRESH, Reg.HDG_CAUSE, 4)
  | .policer => some (Reg.HDG_ECC_CORR, Reg.HDG_ECC_THRESH, Reg.HDG_CAUSE, 4)
  | .key => some (Reg.HDG_ECC_CORR, Reg.HDG_ECC_THRESH, Reg.HDG_CAUSE, 4)
  | .reservoir => some (Reg.RDR_ECC_CORR, Reg.RDR_ECC_THRESH, Reg.RDR_CAUSE, 8)
  | .engine => some (Reg.KRN_ECC_CORR, Reg.KRN_ECC_THRESH, Reg.KRN_CAUSE, 1)
  | .tank => some (Reg.TNK_ECC_CORR, Reg.TNK_ECC_THRESH, Reg.TNK_CAUSE, 1)
  | .confStream => some (Reg.CNF_ECC_CORR, Reg.CNF_ECC_THRESH, Reg.CNF_CAUSE, 1)
  | .confBasin => some (Reg.CNF_ECC_CORR, Reg.CNF_ECC_THRESH, Reg.CNF_CAUSE, 1)
  | .publication => some (Reg.PUB_ECC_CORR, Reg.PUB_ECC_THRESH, Reg.PUB_CAUSE, 8)
  | .subscription => some (Reg.PUB_ECC_CORR, Reg.PUB_ECC_THRESH, Reg.PUB_CAUSE, 8)
  | .flumeProgram => some (Reg.FLM_ECC_CORR, Reg.FLM_ECC_THRESH, Reg.FLM_CAUSE, 1)
  | .queue => some (Reg.CIS_ECC_CORR, Reg.CIS_ECC_THRESH, Reg.CIS_CAUSE, 2)
  | .supervisor => none
  | .loader => none
  | .calendar => none
  | .replay => none

/-- The block of a memory counts a corrected error, and raises ECC_CORR as its counter reaches the threshold (R25). -/
def eccCount (s : State) (m : EccMem) : State :=
  match eccCounter m with
  | none => s
  | some (cnt, th, cause, bit) =>
    let s := count s cnt cause
    if regGet s th ≤ regGet s cnt then raise s cause bit else s

/-- CORRECTABLE_ECC_ERROR (R25). -/
def execCorrectableEccError (m : EccMem) (i : Nat) (s : State) : Answer :=
  domEvent s (eccDomain m i) (fun s => eccCount { s with arch := { s.arch with corrected := eccNote s.arch.corrected m i } } m)

/-- Take a frame off every queue, calendar and transfer list, and end its transmissions with an inverted check; it completes as DROPPED. -/
def framePurge (s : State) (h : Nat) : State :=
  let s := (s.cis.queues.map (fun e => e.1)).foldl (fun s q =>
    let l := queueGet s q
    (l.filter (fun e => decide (e.handle = h))).foldl (fun s e => entryGone s (q / 64) e 5)
      (queueSet s q (l.filter (fun e => decide (e.handle ≠ h))))) s
  let s := (List.range 5).foldl (fun s g =>
    ((calGet s g).filter (fun e => decide (e.handle = h))).foldl (fun s e => calGone s e 5) s) s
  let s := s.cis.xfer.foldl (fun s e =>
    (e.2.filter (fun x => decide (x = h))).foldl (fun s _ => refDrop (destRemove s h e.1) h)
      { s with cis := { s.cis with xfer := tabSet (fun _ => []) s.cis.xfer e.1 (e.2.filter (fun x => decide (x ≠ h))) } }) s
  s.prt.foldl (fun s e =>
    match e.2.tx with
    | some t =>
      if t.handle = h then
        (let r := freePick s (t.bytes.length + 1)
         txStomp (frameComplete r.2 h 5 (txUnstamped e.1 t)) e.1 r.1)
      else s
    | none => s) s

/-- A frame is dropped with reason ECC (R203): purged, completed, its other cells freed; who still refers to it finds no bytes that a rule
fixes. -/
def frameEcc (s : State) (h : Nat) : State :=
  match frameGet s h with
  | none => s
  | some f =>
    let s := count s (Reg.CIS_DROP 5) Reg.CIS_CAUSE
    let s := s.prt.foldl (fun s e =>
      match e.2.rx with
      | some (x, bytes) => if x = h then portSet s e.1 { portGet s e.1 with rx := some (noFrame, bytes) } else s
      | none => s) s
    let s := framePurge (frameComplete s h 5 none) h
    let d := freeBytes s f.bytes.length
    frameLetGo (frameMod d.2 h (fun x => { x with dests := [], cells := [], bytes := d.1, drop := some droppedInCistern })) h

/-- Quarantine a cell: CIS_QUAR_LAST and ECC (R203). -/
def cellQuarantine (s : State) (c d : Nat) : State :=
  raise (regSet { s with cis := { s.cis with quarantined := s.cis.quarantined ++ [(c, d)] } } Reg.CIS_QUAR_LAST (wordN c)) Reg.CIS_CAUSE 1

/-- An uncorrectable error in a cell (R203): of a frame, of a frame being built, or of none. -/
def cellFail (s : State) (c : Nat) : State :=
  if s.cis.quarantined.any (fun q => decide (q.1 = c)) || decide (98304 ≤ c) then s
  else
    match (frameAll s).find? (fun e => e.2.cells.contains c) with
    | some (h, f) => pauseSweep (frameEcc (cellQuarantine s c f.district) h)
    | none =>
      match s.krn.eng.findSome? (fun e => e.2.threads.findSome? (fun t => match t.2.build with
          | some b => if b.cells.any (fun x => decide (x.2 = c)) then some (e.1, t.1, b.district) else none
          | none => none)) with
      | some (e, t, d) =>
        let s := cellQuarantine (thrSet s e t { thrGet s e t with build := none }) c d
        pauseSweep (count s (Reg.CIS_DROP 5) Reg.CIS_CAUSE)
      | none =>
        let r := freePick s (max 1 (districtCount s))
        pauseSweep (cellQuarantine r.2 c r.1)

/-- An entry of a headgate table is invalidated, counted in HDG_DROP[16] and reported (R27, R172, Table 6-12). -/
def hdgEcc (s : State) (table i : Nat) : State :=
  raise (regSet (hdgDrop s 16) Reg.HDG_ECC_TABLE (wordN (table * 2 ^ 28 + i % 2 ^ 17))) Reg.HDG_CAUSE 3

/-- A tank word is poisoned (R381). -/
def tankPoison (s : State) (x : Nat) : State :=
  let w := x / 8
  let s := if (poisonOf s x).isNone then regSet s Reg.TNK_POISON_COUNT (regGet s Reg.TNK_POISON_COUNT + 1) else s
  let s := { s with tnk := { s.tnk with poison := tabSet (fun _ => none) s.tnk.poison w (some 0) } }
  raise (regSet s Reg.TNK_POISON_LAST (wordN (8 * w))) Reg.TNK_CAUSE 2

/-- The loader and the supervisor stop taking loads until reset (Table 1-12): a fatal event, and HALTED. -/
def supervisorFatal (s : State) (code : Nat) : State :=
  fatal { imgTo s 8 with img := { s.img with cmd := none, bootNext := [] } } code

/-- What an uncorrectable error does (Table 1-12): `i` names the cell, entry, slot, offset, engine, stream, basin and column, or index. The
table gives no action for the queue memories, the launch calendars and the replay buffer (log entry 30). -/
def eccFail (s : State) (m : EccMem) (i : Nat) : State :=
  match m with
  | .cistern => cellFail s i
  | .forwarding => raise (fdbSet s i none) Reg.CIS_CAUSE 1
  | .stream => hdgEcc (streamSet s i (zeros 32)) 0 i
  | .vlan => hdgEcc { s with hdg := { s.hdg with vlans := tabSet (fun _ => zeros 16) s.hdg.vlans i (zeros 16) } } 1 i
  | .portRole => hdgEcc { s with hdg := { s.hdg with roles := tabSet (fun _ => role0) s.hdg.roles i role0 } } 2 i
  | .node => hdgEcc (nodeSet s i none) 3 i
  | .policer => hdgEcc { s with hdg := { s.hdg with policers := tabSet (fun _ => none) s.hdg.policers i none } } 4 i
  | .key => hdgEcc { s with hdg := { s.hdg with keys := tabSet (fun _ => none) s.hdg.keys i none } } 5 (i / 2)
  | .reservoir =>
    (match (ctxLive s).find? (fun e => decide (e.2.slot = some i)) with
      | some (c, x) =>
        if x.mode = .hot then pauseSweep (ctxPoison s c 10) else if x.mode = .out then pauseSweep (pageOutEnd s c true) else s
      | none => s)
  | .engine => engHalt s (i % 32) true
  | .tank => if i < 0x400000 then tankPoison s i else s
  | .confStream =>
    let s := if strState s i = 0 then s else strTo (cnfStrSet s i { cnfStr0 with marks := (cnfStr s i).marks }) i 1
    cnfRaise (strMark s i 9) 0 i 2
  | .confBasin =>
    let b := i % 16
    let x := cnfBas s b
    let c := i / 16
    let cols := match tabGet (fun _ => none) x.cols c with
      | some _ => tabSet (fun _ => none) x.cols c (some (0, 1))
      | none => x.cols
    cnfRaise (cnfBasSet s b { x with cols := cols }) b 0 2
  | .publication =>
    let s := gpSettle (regSetFld s (Reg.PUB_GP_STAT (i % 512)) 31 31 0) (i % 512)
    let s := gpSet s (i % 512) { gpGet s (i % 512) with due := none, old := none }
    raise (regSet s Reg.PUB_EVENT (wordN (i % 512))) Reg.PUB_CAUSE 7
  | .subscription =>
    let v := i % 8192
    let s := regSetFld s (Reg.PUB_SUB_STAT v) 31 31 0
    let s := if subState s v = 0 then s else subMirror (subTo s v 0) v
    raise (regSet s Reg.PUB_EVENT (wordN (2 ^ 31 + v))) Reg.PUB_CAUSE 7
  | .supervisor => supervisorFatal s 1
  | .loader => supervisorFatal s 2
  | .flumeProgram =>
    let e := i % 48
    let runs := decide ((fluGet s e).mode = .running) || decide ((fluGet s e).mode = .stalled)
    flmRaise (if runs then flmFault s e 3 else s) e 2
  | .queue => s
  | .calendar => s
  | .replay => s

/-- UNCORRECTABLE_ECC_ERROR (R27, Table 1-12). -/
def execUncorrectableEccError (m : EccMem) (i : Nat) (s : State) : Answer :=
  domEvent s (eccDomain m i) (fun s =>
    eccFail { s with arch := { s.arch with uncorrectable := eccNote s.arch.uncorrectable m i } } m i)

/-! ### Scrubbing (R26) -/

/-- The domains of the other SRAMs (Table 1-11): supervisor RAM, the loader's, forwarding database, stream, node, VLAN and key tables,
publisher, queues, four launch calendars, the uplinks' calendar, stream stores, columns, flume programs, replay buffer. -/
def otherSrams : List Nat := [1, 1, 3, 3, 3, 3, 3, 3, 3, 5, 6, 7, 8, 9, 14, 14, 15, 16]

/-- Domain, banks and words per bank of a memory of Table 1-11; the engines' memories have one bank an engine, and the other SRAMs count as
one bank each, of a size that no rule gives. -/
def scrubShape (mem bank : Nat) : Option (Nat × Nat × Nat) :=
  if mem = 0 then some (4, 64, 49152) else if mem = 1 then some (3, 16, 16384) else if mem = 2 then some (3, 64, 8192)
  else if mem = 3 then some (10 + bank / 8, 32, 16384) else if mem = 4 then some (10 + bank / 8, 32, 8192)
  else (otherSrams[bank]?).map (fun d => (d, otherSrams.length, (Config.memWords 17 bank).toNat + 1))

/-- SCRUB_SLOT (R26): in its slot the scrubber reads the next word of a bank and writes it back as corrected. The memories of the model hold
corrected words, so that the write-back, and its discard when a master has written the word, both leave what a master reads as it is; an
error that the slot meets is an ECC command of its own (R25, R27). -/
def execScrubSlot (mem : Fin 6) (bank : Fin 64) (s : State) : Answer :=
  event s (fun s =>
    match scrubShape mem.val bank.val with
    | some (d, banks, words) =>
      if domOn s d && decide (bank.val < banks) then
        let k := 64 * mem.val + bank.val
        let n := (tabGet (fun _ => 0) s.arch.scrub k + 1) % words
        { s with arch := { s.arch with scrub := tabSet (fun _ => 0) s.arch.scrub k n } }
      else s
    | none => s)

end Sys2Proof.Machine
end

