-- ==== Sys2Proof/Machine/Bringup.lean ====
section
/-!
DEFINITION. Resets, the supervisor ROM and trickle service (R64 to R76, R512).
-/
namespace Sys2Proof.Machine

/-! ### Resets (R64 to R67) -/

/-- The sentinel through a reset: its contents stay; a write that runs is dropped (R64, R86). -/
def senKeep (x : SenState) : SenState := { x with busy := none }

/-- Everything a power-on reset resets: the fuses, the sentinel, the levels at the balls and what the device has put out remain. -/
def porstState (s : State) : State :=
  { State.reset with
    pending := s.pending, freeCtr := s.freeCtr, out := s.out, fuses := s.fuses, sen := senKeep s.sen
    flm := { FlmState.reset with ball := s.flm.ball }, frz := { FrzState.reset with pinLow := s.frz.pinLow } }

/-- The shortest low pulse of a reset pin that the device takes, in ns (R65). -/
def pinFilter : Nat := 100

/-- PORST_ASSERT (R64, R65): PORST_N falls. The device takes it once it has been low for 100 ns (`tickPins`). -/
def execPorstAssert (s : State) : Answer :=
  .next (if s.pwr.porstLow || s.pwr.porstFrom.isSome then s else { s with pwr := { s.pwr with porstFrom := some s.now } })

/-- A reset ends with FREEZE_N still low: the trigger of R466 is held pending anew (log entry 117). -/
def freezeHeld (x : FrzState) : FrzState := { x with trigger := if x.pinLow then some (1, none) else none }

/-- PORST_RELEASE (R66, R68): the straps are latched, the boot oscillator counts, and the ROM senses the fuses; with the rails back the sentinel
answers again. A low pulse that was not taken has no effect (R65). -/
def execPorstRelease (straps : BitVec 4) (s : State) : Answer :=
  if !s.pwr.porstLow then .next { s with pwr := { s.pwr with porstFrom := none } }
  else
    .next { regSet s Reg.GLB_STRAP (straps.setWidth 32) with
      now := 0, run := 0, pwr := { s.pwr with porstLow := false, romStep := 1 }, sen := { s.sen with isolated := false }
      frz := freezeHeld s.frz }

/-- What a register keeps through a system reset: JTAG_LOCK and the count of freezes (R484), SEN_LOCK (R485), the counts of loads and swaps
(Table 2-22). -/
def srstRegs (s t : State) : State :=
  let lock := b2n (regBit s Reg.FRZ_LOCK 1)
  let t := regSetFld (regSetFld t Reg.FRZ_LOCK 1 1 lock) Reg.FRZ_STAT 0 0 lock
  let t := regSetFld t Reg.FRZ_STAT 31 16 (regFld s Reg.FRZ_STAT 31 16)
  regSet (regSet t Reg.SEN_LOCK (regGet s Reg.SEN_LOCK)) Reg.IMG_COUNT (regGet s Reg.IMG_COUNT)

/-- The configuration space of a function: what a system reset leaves of it (R64). -/
def hostKeep (h : HostFn) : HostFn := { hostFn0 with msixEnable := h.msixEnable, busMaster := h.busMaster, relaxed := h.relaxed }

/-- A system reset begins (R64, R67): every domain is in reset, the PCIe link and configuration space stay, the wire yields (Table 18-3).
`ends` is the end of its hold. GLB_STRAP reads 0 until the straps are sampled at its end: the spec does not say what it shows meanwhile
(DESIGN CHOICE, log entry 95). -/
def srstBegin (s : State) (ends : Option Nat) : State :=
  let base := porstState s
  let t := { base with
    now := s.now, run := s.run
    hst := { HstState.reset with
      fn := [0, 1, 2, 3].foldl (fun t f => tabSet (fun _ => hostFn0) t f (hostKeep (fnGet s f))) [], resyncCount := s.hst.resyncCount }
    pwr := { PwrState.reset with
      porstLow := false, srstLow := s.pwr.srstLow, porstFrom := s.pwr.porstFrom, srstFrom := s.pwr.srstFrom, resetRun := true
      holdEnd := ends, linkUp := s.pwr.linkUp }
    frz := freezeHeld { base.frz with ir := s.frz.ir, addr := s.frz.addr, word := s.frz.word } }
  regSetFld (srstRegs s t) Reg.CUL_STAT 23 22 2

/-- A system reset can begin: PORST_N is high and the device is not in deep standby (R65, R85). -/
def srstMay (s : State) : Bool := !s.pwr.porstLow && !s.pwr.deep

/-- SRST_ASSERT (R64, R65): SRST_N falls; it is ignored while PORST_N is low. The device takes it once it has been low for 100 ns
(`tickPins`). -/
def execSrstAssert (s : State) : Answer :=
  .next (if srstMay s && !s.pwr.srstLow && s.pwr.srstFrom.isNone then { s with pwr := { s.pwr with srstFrom := some s.now } } else s)

/-- SRST_RELEASE (R67): the hold of 10 µs begins. A low pulse that was not taken has no effect (R65). -/
def execSrstRelease (s : State) : Answer :=
  .next (if srstMay s && s.pwr.srstLow then
    { s with pwr := { s.pwr with srstLow := false, holdEnd := some (s.now + 10000) } }
  else { s with pwr := { s.pwr with srstFrom := none } })

/-- SRST_N is taken: the system reset that lasts while it is low begins. It ends a freeze (R476). -/
def srstTaken (s : State) : State :=
  let t := srstBegin s none
  { t with pwr := { t.pwr with srstLow := true, srstFrom := none } }

/-- A pin low since an instant has been so for 100 ns (R65). -/
def pinTaken (s : State) : Option Nat → Bool
  | some t => decide (t + pinFilter ≤ s.now)
  | none => false

/-- The reset pins that have been low for 100 ns are taken; the TAP resets with PORST_N (R64, R65, R473). -/
def tickPins (s : State) : State :=
  if pinTaken s s.pwr.porstFrom then porstState s else if pinTaken s s.pwr.srstFrom && srstMay s then srstTaken s else s

/-- GLB_RESET_SYS (R67, Table 3-11): with SYS and the code a system reset of 10 µs begins; during one a write has no effect. -/
def execGlbResetSys (f : Fin 4) (v : Word) (s : State) : Answer :=
  hostCmd s f.val Reg.GLB_RESET (fun s =>
    if fld v 31 16 = 0x5A3C ∧ bitOf v 0 ∧ !s.pwr.resetRun then srstBegin s (some (s.now + 10000)) else s)

/-- SYSTEM_RESET_HOLD_END (R66, R67): the straps are sampled and the ROM flow restarts at step 1. -/
def execSystemResetHoldEnd (straps : BitVec 4) (s : State) : Answer :=
  match s.pwr.holdEnd with
  | some t =>
    if s.pwr.resetRun ∧ t ≤ s.now then
      let s := { s with pwr := { s.pwr with resetRun := false, holdEnd := none, romStep := 1 } }
      .next (regSetFld (regSet s Reg.GLB_STRAP (straps.setWidth 32)) Reg.CUL_STAT 23 22 0)
    else .next s
  | none => .next s

/-- PCIE_HOT_RESET (R64, R422): the configuration space and the host queues of every function. -/
def execPcieHotReset (s : State) : Answer :=
  .next (if s.pwr.linkUp ∧ !s.pwr.deep then pauseSweep ([0, 1, 2, 3].foldl fnReset s) else s)

/-! ### The supervisor ROM (R69, R70, R512) -/

/-- The state with the ROM at a step; step 10 stands for its stop (R70). -/
def romTo (s : State) (n : Nat) : State := { s with pwr := { s.pwr with romStep := n } }

/-- The ROM powers a domain: its on-sequence starts (R79). -/
def romPower (s : State) (d : Nat) : State := if domState s d = 0 then startOn s d else s

/-- PCIe answers, or the device is absent for it (R70). -/
def linkSet (s : State) (up : Bool) : State := { s with pwr := { s.pwr with linkUp := up } }

/-- The ROM stops (R70): after a fault of step 1 or 2 it still powers D2; after one of step 5 the device does not answer PCIe. -/
def bootFault (s : State) : State :=
  let early := decide (s.pwr.romStep ≤ 2)
  let s := raise (regSetFld s Reg.GLB_STATUS 3 3 1) Reg.GLB_CAUSE 4
  romTo (if early then romPower s 2 else linkSet s false) 10

/-- Word `i` of a key coordinate, word 0 the most significant (Table 19-11). -/
def keyWord (x : BitVec 256) (i : Nat) : Word := word256 x (7 - i)

/-- Step 1 ends well: the fuse shadows (Tables 2-20, 3-14, 19-11, 20-17). -/
def fuseLoad (s : State) : State :=
  let s := regSet256 s Reg.GLB_DEVID s.fuses.identity
  let s := (List.range 8).foldl (fun s i =>
    regSet (regSet s (Reg.SEN_DEVKEY_X i) (keyWord s.fuses.keyX i)) (Reg.SEN_DEVKEY_Y i) (keyWord s.fuses.keyY i)) s
  let slots := (List.range 4).foldl (fun n i => n + b2n (decide (tabGet (fun _ => 0) s.fuses.slotHash i ≠ 0)) * 2 ^ i) 0
  let s := regSetFld (regSetFld s Reg.IMG_KEYSLOT 11 8 slots) Reg.IMG_KEYSLOT 19 16 s.fuses.revoked.toNat
  (List.range 17).foldl (fun s i => regSetFld s (Reg.PWR_AGE i) 27 16 (Config.ageRef i).toNat) s

/-- FUSE_SENSE_DONE (R69 step 1, R70). -/
def execFuseSenseDone (good : Bool) (s : State) : Answer :=
  event s (fun s => if s.pwr.romStep ≠ 1 then s else if good then romTo (fuseLoad s) 2 else bootFault s)

/-- The straps BOOT_SRC (Table 3-10). -/
def strapBoot (s : State) : Nat := regFld s Reg.GLB_STRAP 1 0

/-- A PLL has locked, or has failed to. -/
def pllLocked (s : State) (i : Nat) : Bool := regBit s Reg.PWR_CLK_STAT i
def pllOver (s : State) (i : Nat) : Bool := pllLocked s i || s.pwr.pllFailed.getLsbD i

/-- The boot sources in order (R51, R52). -/
def bootList (s : State) : List Nat :=
  if strapBoot s = 1 then [] else if strapBoot s = 3 then [3, 0, 1] else [0, 1]

/-- Step 8: the loader starts on its boot source. -/
def rom8 (s : State) : State := bootStart (romTo (regSetFld s Reg.GLB_STATUS 4 4 1) 8) (bootList s)

/-- Step 6, and step 8 at once without trickle service; a freeze that waited for ROM_DONE starts (R466). -/
def rom6 (s : State) : State :=
  let s := regSetFld (linkSet s true) Reg.GLB_STATUS 0 0 1
  freezePending (if strapTrickle s then romTo s 7 else rom8 s)

/-- Steps 3 and 4, and the start of step 5: the exchange with the sentinel (R69, R480, Table 19-10), and D2 is powered. -/
def rom3 (s : State) : State :=
  let s := romTo s 4
  let s :=
    if senUp s then
      let s := { s with sen := { s.sen with boot := if s.sen.boot = 0xFFFFFFFF then s.sen.boot else s.sen.boot + 1 } }
      let s := senShow (regSet s Reg.GLB_BOOT_COUNT s.sen.boot)
      if s.sen.vbatLost then raise s Reg.SEN_CAUSE 1 else s
    else s
  romTo (romPower s 2) 5

/-- Step 7 ends once D3 and D5 are on, or stay off for want of their PLL (R69, R512). -/
def rom7 (s : State) : State :=
  if pllOver s 2 && pllOver s 3 && [3, 5].all (fun d => domOn s d || !domClocked s d) then rom8 s else s

/-- What the ROM does next, now that a PLL has locked or failed or a domain has come on. -/
def romNext (s : State) : State :=
  match s.pwr.romStep with
  | 2 => if pllLocked s 0 && pllLocked s 1 then rom3 s else s
  | 5 => if pllLocked s 9 && domOn s 2 then rom6 s else s
  | 7 => rom7 s
  | 9 => commitWhenLocked s
  | 10 => if pllLocked s 9 && domOn s 2 then linkSet s true else s
  | _ => s

/-- What the ROM powers once a PLL has locked or failed: D3 and D5 at step 7, a request for a domain without its PLL being refused, and the
culvert at step 8 for the twin as boot source. -/
def romPll (s : State) : State :=
  match s.pwr.romStep with
  | 7 => if pllOver s 2 && pllOver s 3 then [3, 5].foldl (fun s d => if domClocked s d then romPower s d else pwrRefuse s d) s else s
  | 8 => if pllLocked s 8 then romPower s 16 else s
  | _ => s

/-- The ROM has come to the step at which a PLL locks (R512), HOST's once D2 is on, where it lies; the culvert's already at step 8 when the
boot source is the twin (R464). -/
def pllDue (s : State) (i : Nat) : Bool :=
  let n := s.pwr.romStep
  if i ≤ 1 then decide (2 ≤ n)
  else if i = 9 then decide (5 ≤ n) && domOn s 2
  else if i ≤ 3 then decide (n = 7) || decide (n = 9)
  else if i = 8 then decide (n = 9) || (decide (n = 8) && decide (strapBoot s = 3))
  else decide (n = 9)

/-- PLL_LOCKED (R512). -/
def execPllLocked (pll : Fin 10) (s : State) : Answer :=
  event s (fun s =>
    if pllDue s pll.val && !pllOver s pll.val then romNext (romPll (regSetFld s Reg.PWR_CLK_STAT pll.val pll.val 1)) else s)

/-- PLL_LOCK_TIMEOUT (R70, R512): the ROM stops for the SUP, TIME and HOST PLL, and goes on without any other. -/
def execPllLockTimeout (pll : Fin 10) (s : State) : Answer :=
  event s (fun s =>
    if pllDue s pll.val && !pllOver s pll.val then
      let early := decide (pll.val ≤ 1 ∧ s.pwr.romStep = 2) || decide (pll.val = 9 ∧ s.pwr.romStep = 5)
      let s := { s with pwr := { s.pwr with pllFailed := s.pwr.pllFailed ||| (1#10 <<< pll.val) } }
      let s := if pll.val = 9 then linkSet s false else s
      if early then bootFault s else romNext (romPll s)
    else s)

/-- POWER_SEQUENCE_DONE (R78 to R80): the sequence that runs for the domain ends, and the ROM goes on where it waited for it. `x.supply` says that
the supply check of an on-sequence passed: where that of D2 fails the ROM stops and the device does not answer (R70); of another domain the
spec says nothing, and the sequence ends as any other (log entry 96). -/
def execPowerSequenceDone (x : SeqEnd) (s : State) : Answer :=
  event s (fun s =>
    let d := x.domain.val
    if d = 0 then s
    else if d = 2 ∧ !x.supply ∧ domState s 2 = 1 then
      let s := linkSet (regSetFld (domPend s 2 none) (Reg.PWR_DOMAIN_STAT 2) 2 0 0) false
      if s.pwr.romStep = 5 then bootFault s else s
    else romNext (sequenceDone s d))

/-- The device drives the QSPI balls (R496): during the ROM boot, and while a load or swap with a QSPI source is in VERIFY or APPLY. -/
def qspiDriven (s : State) : Bool :=
  (active s && decide (1 ≤ s.pwr.romStep) && !regBit s Reg.GLB_STATUS 0)
    || (match s.img.cmd with
      | some c => decide (c.src ≤ 1) && [1, 2, 4, 5].contains (imgState s)
      | none => false)

/-! ### Trickle service (R71 to R76) -/

/-- TRICKLE_SERVICE_START (R68, R71): from 30 ms with TRICKLE_EN and no commit, on the defaults of Table 3-4. -/
def execTrickleServiceStart (s : State) : Answer :=
  event s (fun s =>
    if strapTrickle s && s.img.running.isNone && decide (s.pwr.romStep = 8) && domOn s 3 && domOn s 5
        && decide (30000000 ≤ s.now) && !trickleOn s then
      regSetFld { s with trk := TrickleState.reset } Reg.GLB_STATUS 1 1 1
    else s)

/-- TRICKLE_FRAME_RX (R73, R76): also in the gap of a handover, where every frame is dropped. -/
def execTrickleFrameRx (p : Fin 8) (bytes : List Byte) (good : Bool) (s : State) : Answer :=
  domEvent s 5 (fun s =>
    if (trickleOn s || (s.trk.draining && !fullService s)) && trkUp s p.val then trkReceive s p.val bytes good else s)

/-- TRICKLE_AGE_DROP (R75). -/
def execTrickleAgeDrop (s : State) : Answer := event s (fun s => (List.range 8).foldl trkAge s)

/-- TRICKLE_DRAIN_END (R76): what is still queued is discarded, and P000 to P007 go over to their full-service MACs. -/
def execTrickleDrainEnd (s : State) : Answer :=
  event s (fun s =>
    if trickleOn s && s.img.running.isSome then
      let s := lanesRetrain (trkEmpty { s with trk := { s.trk with draining := true } }) (runSection s 1)
      (List.range 8).foldl pcsEval (regSetFld s Reg.GLB_STATUS 1 1 0)
    else s)

/-- HANDOVER_COMPLETE (R76): full service starts on P000 to P007; the gap since the commit is recorded. -/
def execHandoverComplete (s : State) : Answer :=
  event s (fun s =>
    if s.trk.draining && !trickleOn s && !fullService s then
      let us := min 65535 ((s.now - s.trk.commitAt) / 1000)
      let s := regSet { s with trk := { s.trk with draining := false } } Reg.GLB_HANDOVER (BitVec.ofNat 32 (2 ^ 31 + us))
      culSettle (raise (regSetFld s Reg.GLB_STATUS 2 2 1) Reg.GLB_CAUSE 2)
    else s)

end Sys2Proof.Machine
end

