-- ==== Sys2Proof/Machine/Engines.lean ====
section
/-!
DEFINITION. The events of the engines that no instruction makes (chapter 12): watchdog, timers, READY's limit, halt and restart, the ends of
sends and of authentication jobs.
-/
namespace Sys2Proof.Machine

/-- EVENT_WATCHDOG (R308, R317): a thread's event has run for KRN_WDOG cycles, and was not ended in the last of them (R22). -/
def execEventWatchdog (e : Fin 32) (t : Fin 16) (s : State) : Answer :=
  domEvent s (engDomain e) (fun s =>
    let x := thrGet s e t
    let limit := (regGet s (Reg.KRN_WDOG e)).toNat
    if limit ≠ 0 ∧ x.event.isSome ∧ x.since + limit < clusterCyc s e then
      let s := thrExc s e t 0x10 x.pc
      krnRaise (krnCount s e 3) e t 4
    else s)

/-- TIMER_FIRE (R313): the target of the `i`-th entry of the wheel is reached by the cluster's replica. -/
def execTimerFire (e : Fin 32) (i : Nat) (s : State) : Answer :=
  domEvent s (engDomain e) (fun s =>
    let g := engGet s e
    match g.timers[i]? with
    | some t =>
      if engReplica s e && reached (nowNs32 s) t.target then timerFire (engSet s e { g with timers := g.timers.eraseIdx i }) e t else s
    | none => s)

/-- INIT_TIMEOUT (R322): READY has not come within INIT_MS. -/
def execInitTimeout (e : Fin 32) (s : State) : Answer :=
  domEvent s (engDomain e) (fun s =>
    match (engGet s e).initEnds with
    | some n => if engState s e = 1 ∧ n < s.run then krnRaise (engHalt s e false) e 0 5 else s
    | none => s)

/-- ENGINE_HALT (R319): the code with HALT and not RESTART halts an engine that runs. -/
def execEngineHalt (f : Fin 4) (e : Fin 32) (v : Word) (s : State) : Answer :=
  hostCmd s f (Reg.KRN_ENG_CTL e) (fun s =>
    if fld v 31 16 = 0x4B52 ∧ bitOf v 0 ∧ !bitOf v 1 ∧ (engState s e = 1 ∨ engState s e = 2) then engHalt s e false else s)

/-- ENGINE_RESTART (R319): a halted engine starts again, unless it halted on a memory error. -/
def execEngineRestart (f : Fin 4) (e : Fin 32) (v : Word) (s : State) : Answer :=
  hostCmd s f (Reg.KRN_ENG_CTL e) (fun s =>
    if fld v 31 16 = 0x4B52 ∧ bitOf v 1 ∧ !bitOf v 0 then
      if engState s e ≠ 3 ∨ (engGet s e).memHalt then krnRaise s e 0 9 else engStart (masterReset s e) e 3
    else s)

/-- SEND_COMPLETE (R312): the SEND_DONE event of the `i`-th completed send is posted; its two-step entry is free (R108). -/
def execSendComplete (i : Nat) (s : State) : Answer :=
  domEvent s 3 (fun s =>
    match s.krn.sends[i]? with
    | none => s
    | some d =>
      let s := { s with krn := { s.krn with sends := s.krn.sends.eraseIdx i } }
      let pay := if d.stamped then leBytes 4 d.ns32.toNat ++ leBytes 1 d.frac else []
      let s := postOwn s d.eng (eventOf s 4 d.ctx (BitVec.ofNat 32 (d.status * 65536 + d.tag)) 0 pay)
      ts2Free s (d.port.map (fun p => (p, d.tag))))

/-- AUTH_JOB_DONE (R315): the lane with the `i`-th job in progress finishes an engine's job, and takes the oldest waiting job. -/
def execAuthJobDone (i : Nat) (s : State) : Answer :=
  flowEvent s (fun s =>
    if !domOn s 3 then s
    else
      match s.krn.laneRun[i]? with
      | none => s
      | some r =>
        match r.job with
        | .frame _ _ _ _ _ _ => s
        | .engine e t ctx _ _ alg bytes tag place jobTag =>
          let s := { s with krn := { s.krn with laneRun := s.krn.laneRun.eraseIdx i } }
          laneKick (authEnd s e t ctx alg bytes tag place jobTag r.key))

end Sys2Proof.Machine
end

