-- ==== Sys2Proof/Machine/Far.lean ====
section
/-!
DEFINITION. The far accesses of an engine's threads (R302, R303, R346, R347, R349): what goes out to CORE, the requests that it raises at
the sluices, its grants, and what its completion does to the thread. The phase of a sluice (R208) stands here, since a grant to a cluster
serves such an access.
-/
namespace Sys2Proof.Machine

/-- From its issue an access takes 5 ns to reach CORE, and its answer 7 ns back (Tables 13-14 and 15-8, log entry 114). -/
def farReach : Nat := 5
def farBack : Nat := 7

/-! ### Going out -/

/-- An access of thread `t` goes out, at its PC; `late`: it waits for the thread's fence (R344). -/
def farSend (s : State) (e t : Nat) (op : FarOp) (late : Bool) : State :=
  let x := thrGet s e t
  let ctx := match x.event with
    | some v => v.ctx
    | none => none
  let f : Far := { eng := e, thr := t, op := op, pc := x.pc, ctx := ctx, ended := x.ended
                   arrive := if late then none else some (s.run + farReach) }
  { s with krn := { s.krn with far := s.krn.far ++ [f] } }

/-- The bank group that holds a byte of the frame of a thread's event; none beyond its bytes (R174, R309). -/
def frameGroup (s : State) (e t o : Nat) : Option Nat :=
  match (thrGet s e t).event with
  | some v => ((frameGet s v.frame).bind (fun f => f.cells[o / 256]?)).map (fun c => c % 16)
  | none => none

/-- The sluice instance that an address of the engine's address space passes (Table 8-1); mailbox channels pass none. -/
def farRoute (s : State) (e t a n : Nat) : Option Nat :=
  match kRegion a n with
  | some (.frame, o) => (frameGroup s e t o).map (fun g => 16 + g)
  | some (.tank, o) => some (32 + tankBank o)
  | some (.tankSet, o) => some (32 + tankBank o)
  | some (.tankClear, o) => some (32 + tankBank o)
  | some (.host, _) => some 112
  | _ => none

/-- The sluice instance of an access. -/
def farInst (s : State) (f : Far) : Option Nat :=
  match f.op with
  | .load a n _ _ _ _ => farRoute s f.eng f.thr a n
  | .store a b => farRoute s f.eng f.thr a b.length
  | .lockRead _ _ => some 114
  | .lockWrite _ => some 114

/-- The requester through which engine `e` reaches an instance: its cluster, and at the lock sluice its own (Table 8-2). -/
def farReq (i e : Nat) : Nat := if i = 114 then e else if 32 ≤ i ∧ i < 96 then e / 8 else 6 + e / 8

/-- An access has reached CORE. -/
def farHere (s : State) (f : Far) : Bool :=
  match f.arrive with
  | some n => decide (n ≤ s.run)
  | none => false

/-! ### Completion -/

/-- The answer is on its way back to the thread. -/
def thrBack (s : State) (e t : Nat) : State := thrCost s e t (engCost s e farBack ((farBack + 1) / 2))

/-- A posted store was refused (R349): the thread takes TANK_REFUSED at its next issue; once the store's event has ended, or while another
refusal waits, it is recorded only. -/
def storeRefused (s : State) (f : Far) : State :=
  let x := thrGet s f.eng f.thr
  if x.started && decide (x.ended = f.ended) && x.refused.isNone then thrSet s f.eng f.thr { x with refused := some f.pc }
  else
    let s := if x.started then
      thrSet s f.eng f.thr { x with lastExc := BitVec.ofNat 32 (7 * 2 ^ 24 + f.pc.toNat) } else s
    let q := match f.ctx with
      | some c => (c, s)
      | none => freePick s 65536
    let s := regSet (krnCount q.2 f.eng 2) (Reg.KRN_FAULT f.eng) (BitVec.ofNat 32 (7 * 2 ^ 24 + f.thr * 2 ^ 16 + q.1))
    regSet s (Reg.KRN_FAULT_PC f.eng) (f.pc.setWidth 32)

/-- A posted store has completed: a fence of its thread may be over. A release that waited for it leaves the engine then (R344); a fence of
host-window writes is told to the function's memory (R347). -/
def fenceBack (s : State) (e t : Nat) : State :=
  let l := farOf s e t
  let s := match (thrGet s e t).hold with
    | some (.fence a b) =>
      if l.any (fenceHolds a b) then s
      else
        let s := thrBack s e t
        if b then emit s (.hostFence e t) else s
    | _ => s
  if l.any (fenceHolds true false) then s
  else
    let go := fun (f : Far) =>
      if f.eng = e ∧ f.thr = t ∧ f.arrive.isNone then { f with arrive := some (s.run + farBack + farReach) } else f
    { s with krn := { s.krn with far := s.krn.far.map go } }

/-- The word that a load makes of its bytes (Table 13-6). -/
def loadWord (signed big : Bool) (l : List Byte) : Word :=
  let v := if big then beNat l else leNat l
  if signed && decide (2 ^ (8 * l.length - 1) ≤ v) then BitVec.ofNat 32 (v + 2 ^ 32 - 2 ^ (8 * l.length)) else BitVec.ofNat 32 v

/-- An access is performed at its memory, and its thread has the outcome. -/
def farDo (s : State) (f : Far) : State :=
  let e := f.eng
  let t := f.thr
  match f.op with
  | .load a n rd signed big host =>
    (match kLoad s e t a n false host with
      | (.ok l, s) => thrBack (thrWrite s e t rd (loadWord signed big l)) e t
      | (.exc c, s) => thrExc s e t c f.pc)
  | .store a b =>
    (match kStore s e t a b false with
      | (.refused, s) => fenceBack (storeRefused s f) e t
      | (_, s) => fenceBack s e t)
  | .lockRead i rd =>
    let r := lockRead s e i
    thrBack (thrWrite r.2 e t rd (BitVec.ofNat 32 r.1)) e t
  | .lockWrite i => thrBack (thrNext (lockWrite s e i) e t) e t

/-- Perform the first access that meets a condition, if there is one. -/
def farFirst (s : State) (p : Far → Bool) : State :=
  match s.krn.far.find? p with
  | some f => farDo { s with krn := { s.krn with far := s.krn.far.eraseP p } } f
  | none => s

/-- The earlier stores of a thread to the tank words of an operand that one of its accelerators is about to read are performed first
(R346); `n` bounds them. -/
def farFlush (e t a len : Nat) : Nat → State → State
  | 0, s => s
  | n + 1, s =>
    farFlush e t a len n (farFirst s (fun f => decide (f.eng = e) && decide (f.thr = t) && (match f.op with
      | .store b _ => decide (0x40000000 ≤ b) && decide (b < 0x43000000) && decide (a / 8 % 0x80000 ≤ b / 8 % 0x80000)
        && decide (b / 8 % 0x80000 ≤ (a + len - 1) / 8 % 0x80000)
      | _ => false)))

/-! ### Requests and grants (R303) -/

/-- An access that waits at instance `i` for requester `r`. -/
def farAt (s : State) (i r : Nat) (f : Far) : Bool :=
  farHere s f && decide (farInst s f = some i) && decide (farReq i f.eng = r)

/-- Mailbox accesses and reads that meet no bank are performed when they reach CORE: of one cycle in ascending master ID (R388). -/
def farDirect (s : State) : State :=
  (List.range 32).foldl (fun s e =>
    let n := (s.krn.far.filter (fun f => decide (f.eng = e))).length
    (List.range n).foldl (fun s _ =>
      farFirst s (fun f => decide (f.eng = e) && farHere s f && decide (farInst s f = none))) s) s

/-- Every access that has reached CORE has its engine's request raised. -/
def farAsk (s : State) : State :=
  s.krn.far.foldl (fun s f =>
    match farInst s f with
    | some i => if farHere s f then sluAsk s i (farReq i f.eng) else s
    | none => s) s

/-- What reaches CORE in a cycle. -/
def farTick (s : State) : State := if s.krn.far.isEmpty then s else farAsk (farDirect s)

/-- The engine of a cluster whose access a grant serves: the first with a request, ascending from the one after the engine served last,
wrapping (R303). -/
def farEngine (s : State) (i r : Nat) : Option Nat :=
  if i = 114 then some r
  else
    let c := if 32 ≤ i ∧ i < 96 then r else r - 6
    let last := tabGet (fun _ => 0) s.krn.served (4 * i + c)
    ((List.range 8).map (fun k => 8 * c + (last + k) % 8)).find? (fun e =>
      s.krn.far.any (fun f => farAt s i r f && decide (f.eng = e)))

/-- A grant to a requester serves the oldest access of the engine whose turn it is; others of the cluster keep the request raised. -/
def farServe (s : State) (i r : Nat) : State :=
  if s.krn.far.any (farAt s i r) then
    match farEngine s i r with
    | none => s
    | some e =>
      let s := { s with krn := { s.krn with served := tabSet (fun _ => 0) s.krn.served (4 * i + e / 8) (e % 8 + 1) } }
      let s := farFirst s (fun f => farAt s i r f && decide (f.eng = e))
      if s.krn.far.any (farAt s i r) then sluAsk s i r else s
  else s

/-- ARBITRATION_PHASE (R208, R212): `x.last` says that the owner drives LAST; a phase with no request leaves the resource idle. A grant to a
cluster or to an engine serves its access (R303). -/
def execArbitrationPhase (x : SluicePhase) (s : State) : Answer :=
  domEvent s 3 (fun s =>
    let i := x.sluice
    if sluOpen s i x.last then
      let s := { s with slu := { s.slu with phase := tabSet (fun _ => 0) s.slu.phase i (coreCycle s + 1) } }
      match sluChoose s i with
      | (some r, s) => farServe (sluGrant s i r) i r
      | (none, s) => regSetFld s (Reg.SLU_STAT i) 31 31 0
    else s)

end Sys2Proof.Machine
end

