-- ==== Sys2Proof/Machine/KuernAlu.lean ====
section
/-!
DEFINITION. The arithmetic, control transfers and control registers of a Kuern thread (chapter 13, Tables 13-1, 13-4, 13-5, 13-8), one
definition per instruction. A command names the engine, the thread and the fields of the word.
-/
namespace Sys2Proof.Machine

/-- A signed immediate. -/
def sext (imm : BitVec 16) : Word := imm.signExtend 32
/-- An unsigned immediate. -/
def zext (imm : BitVec 16) : Word := imm.setWidth 32
/-- The immediates of EXT and INS, of SHI, and of TCR (Table 13-4). -/
def kPosLen (pos len : BitVec 5) : BitVec 16 := BitVec.ofNat 16 (pos.toNat + 32 * len.toNat)
def kShift (sel : BitVec 2) (n : BitVec 5) : BitVec 16 := BitVec.ofNat 16 (n.toNat + 32 * sel.toNat)
def kTcrIdx (write : Bool) (idx : BitVec 5) : BitVec 16 := BitVec.ofNat 16 (idx.toNat + 32768 * b2n write)
/-- A truth value as a register word. -/
def wBool (b : Bool) : Word := if b then 1 else 0

/-! ### Immediate arithmetic (Table 13-4) -/

/-- ADDI (R330). -/
def execKAddi (e : Fin 32) (t : Fin 16) (rd rs1 : Fin 32) (imm : BitVec 16) (s : State) : Answer :=
  krnAlu s e t (kI 2 rd rs1 imm) 1 rd (fun w => wGet w rs1 + sext imm)

/-- ANDI (R330). -/
def execKAndi (e : Fin 32) (t : Fin 16) (rd rs1 : Fin 32) (imm : BitVec 16) (s : State) : Answer :=
  krnAlu s e t (kI 3 rd rs1 imm) 1 rd (fun w => wGet w rs1 &&& zext imm)

/-- ORI (R330). -/
def execKOri (e : Fin 32) (t : Fin 16) (rd rs1 : Fin 32) (imm : BitVec 16) (s : State) : Answer :=
  krnAlu s e t (kI 4 rd rs1 imm) 1 rd (fun w => wGet w rs1 ||| zext imm)

/-- XORI (R330). -/
def execKXori (e : Fin 32) (t : Fin 16) (rd rs1 : Fin 32) (imm : BitVec 16) (s : State) : Answer :=
  krnAlu s e t (kI 5 rd rs1 imm) 1 rd (fun w => wGet w rs1 ^^^ zext imm)

/-- SHI (R330): selector 0 SLL, 1 SRL, 2 SRA; 3 is ILLEGAL. -/
def execKShi (e : Fin 32) (t : Fin 16) (rd rs1 : Fin 32) (sel : BitVec 2) (n : BitVec 5) (s : State) : Answer :=
  krnIssue s e t (kI 6 rd rs1 (kShift sel n)) 1 (fun s x =>
    let v := wGet x.regs rs1
    if sel = 3 then krnExc s e t 1
    else thrWrite s e t rd (if sel = 0 then v <<< n.toNat else if sel = 1 then v >>> n.toNat else v.sshiftRight n.toNat))

/-- SLTI (R330). -/
def execKSlti (e : Fin 32) (t : Fin 16) (rd rs1 : Fin 32) (imm : BitVec 16) (s : State) : Answer :=
  krnAlu s e t (kI 7 rd rs1 imm) 1 rd (fun w => wBool ((wGet w rs1).slt (sext imm)))

/-- SLTIU (R330). -/
def execKSltiu (e : Fin 32) (t : Fin 16) (rd rs1 : Fin 32) (imm : BitVec 16) (s : State) : Answer :=
  krnAlu s e t (kI 8 rd rs1 imm) 1 rd (fun w => wBool ((wGet w rs1).ult (zext imm)))

/-- LUI (R330). -/
def execKLui (e : Fin 32) (t : Fin 16) (rd : Fin 32) (imm : BitVec 16) (s : State) : Answer :=
  krnAlu s e t (kI 9 rd 0 imm) 1 rd (fun _ => zext imm <<< 16)

/-- The mask of a field of `len + 1` bits. -/
def lenMask (len : BitVec 5) : Word := BitVec.ofNat 32 (2 ^ (len.toNat + 1) - 1)

/-- EXT (R330): `len` holds the length less 1; a field beyond bit 31 reads zeros. -/
def execKExt (e : Fin 32) (t : Fin 16) (rd rs1 : Fin 32) (pos len : BitVec 5) (s : State) : Answer :=
  krnAlu s e t (kI 10 rd rs1 (kPosLen pos len)) 1 rd (fun w => (wGet w rs1 >>> pos.toNat) &&& lenMask len)

/-- INS (R330): bits beyond 31 are dropped. -/
def execKIns (e : Fin 32) (t : Fin 16) (rd rs1 : Fin 32) (pos len : BitVec 5) (s : State) : Answer :=
  krnAlu s e t (kI 11 rd rs1 (kPosLen pos len)) 1 rd (fun w =>
    let m := lenMask len <<< pos.toNat
    (wGet w rd &&& ~~~m) ||| ((wGet w rs1 <<< pos.toNat) &&& m))

/-! ### Register arithmetic (Table 13-5) -/

/-- ADD (R330). -/
def execKAdd (e : Fin 32) (t : Fin 16) (rd rs1 rs2 : Fin 32) (s : State) : Answer :=
  krnAlu s e t (kR 1 rd rs1 rs2 0) 1 rd (fun w => wGet w rs1 + wGet w rs2)

/-- SUB (R330). -/
def execKSub (e : Fin 32) (t : Fin 16) (rd rs1 rs2 : Fin 32) (s : State) : Answer :=
  krnAlu s e t (kR 1 rd rs1 rs2 1) 1 rd (fun w => wGet w rs1 - wGet w rs2)

/-- AND (R330). -/
def execKAnd (e : Fin 32) (t : Fin 16) (rd rs1 rs2 : Fin 32) (s : State) : Answer :=
  krnAlu s e t (kR 1 rd rs1 rs2 2) 1 rd (fun w => wGet w rs1 &&& wGet w rs2)

/-- OR (R330). -/
def execKOr (e : Fin 32) (t : Fin 16) (rd rs1 rs2 : Fin 32) (s : State) : Answer :=
  krnAlu s e t (kR 1 rd rs1 rs2 3) 1 rd (fun w => wGet w rs1 ||| wGet w rs2)

/-- XOR (R330). -/
def execKXor (e : Fin 32) (t : Fin 16) (rd rs1 rs2 : Fin 32) (s : State) : Answer :=
  krnAlu s e t (kR 1 rd rs1 rs2 4) 1 rd (fun w => wGet w rs1 ^^^ wGet w rs2)

/-- The shift amount of a register: its bits [4:0]. -/
def shAmt (v : Word) : Nat := v.toNat % 32

/-- SLL (R330). -/
def execKSll (e : Fin 32) (t : Fin 16) (rd rs1 rs2 : Fin 32) (s : State) : Answer :=
  krnAlu s e t (kR 1 rd rs1 rs2 5) 1 rd (fun w => wGet w rs1 <<< shAmt (wGet w rs2))

/-- SRL (R330). -/
def execKSrl (e : Fin 32) (t : Fin 16) (rd rs1 rs2 : Fin 32) (s : State) : Answer :=
  krnAlu s e t (kR 1 rd rs1 rs2 6) 1 rd (fun w => wGet w rs1 >>> shAmt (wGet w rs2))

/-- SRA (R330). -/
def execKSra (e : Fin 32) (t : Fin 16) (rd rs1 rs2 : Fin 32) (s : State) : Answer :=
  krnAlu s e t (kR 1 rd rs1 rs2 7) 1 rd (fun w => (wGet w rs1).sshiftRight (shAmt (wGet w rs2)))

/-- SLT (R330). -/
def execKSlt (e : Fin 32) (t : Fin 16) (rd rs1 rs2 : Fin 32) (s : State) : Answer :=
  krnAlu s e t (kR 1 rd rs1 rs2 8) 1 rd (fun w => wBool ((wGet w rs1).slt (wGet w rs2)))

/-- SLTU (R330). -/
def execKSltu (e : Fin 32) (t : Fin 16) (rd rs1 rs2 : Fin 32) (s : State) : Answer :=
  krnAlu s e t (kR 1 rd rs1 rs2 9) 1 rd (fun w => wBool ((wGet w rs1).ult (wGet w rs2)))

/-- MUL (R330): the low 32 bits. -/
def execKMul (e : Fin 32) (t : Fin 16) (rd rs1 rs2 : Fin 32) (s : State) : Answer :=
  krnAlu s e t (kR 1 rd rs1 rs2 10) 3 rd (fun w => wGet w rs1 * wGet w rs2)

/-- MULH (R330): the high 32 bits of the signed product. -/
def execKMulh (e : Fin 32) (t : Fin 16) (rd rs1 rs2 : Fin 32) (s : State) : Answer :=
  krnAlu s e t (kR 1 rd rs1 rs2 11) 3 rd (fun w => BitVec.ofInt 32 ((wGet w rs1).toInt * (wGet w rs2).toInt / 2 ^ 32))

/-- MULHU (R330): the high 32 bits of the unsigned product. -/
def execKMulhu (e : Fin 32) (t : Fin 16) (rd rs1 rs2 : Fin 32) (s : State) : Answer :=
  krnAlu s e t (kR 1 rd rs1 rs2 12) 3 rd (fun w => BitVec.ofNat 32 ((wGet w rs1).toNat * (wGet w rs2).toNat / 2 ^ 32))

/-- The signed quotient, rounded toward zero; all ones for a divisor of 0 (R332). -/
def kDiv (a b : Word) : Word := if b = 0 then 0xFFFFFFFF else BitVec.ofInt 32 (a.toInt.tdiv b.toInt)
/-- The unsigned quotient (R332). -/
def kDivu (a b : Word) : Word := if b = 0 then 0xFFFFFFFF else BitVec.ofNat 32 (a.toNat / b.toNat)
/-- The signed remainder, with the sign of the dividend; the dividend for a divisor of 0 (R332). -/
def kRem (a b : Word) : Word := if b = 0 then a else BitVec.ofInt 32 (a.toInt.tmod b.toInt)
/-- The unsigned remainder (R332). -/
def kRemu (a b : Word) : Word := if b = 0 then a else BitVec.ofNat 32 (a.toNat % b.toNat)

/-- DIV (R332). -/
def execKDiv (e : Fin 32) (t : Fin 16) (rd rs1 rs2 : Fin 32) (s : State) : Answer :=
  krnAlu s e t (kR 1 rd rs1 rs2 13) 18 rd (fun w => kDiv (wGet w rs1) (wGet w rs2))

/-- DIVU (R332). -/
def execKDivu (e : Fin 32) (t : Fin 16) (rd rs1 rs2 : Fin 32) (s : State) : Answer :=
  krnAlu s e t (kR 1 rd rs1 rs2 14) 18 rd (fun w => kDivu (wGet w rs1) (wGet w rs2))

/-- REM (R332). -/
def execKRem (e : Fin 32) (t : Fin 16) (rd rs1 rs2 : Fin 32) (s : State) : Answer :=
  krnAlu s e t (kR 1 rd rs1 rs2 15) 18 rd (fun w => kRem (wGet w rs1) (wGet w rs2))

/-- REMU (R332). -/
def execKRemu (e : Fin 32) (t : Fin 16) (rd rs1 rs2 : Fin 32) (s : State) : Answer :=
  krnAlu s e t (kR 1 rd rs1 rs2 16) 18 rd (fun w => kRemu (wGet w rs1) (wGet w rs2))

/-- BSWAP (R330). -/
def execKBswap (e : Fin 32) (t : Fin 16) (rd rs1 : Fin 32) (s : State) : Answer :=
  krnAlu s e t (kR 1 rd rs1 0 17) 1 rd (fun w => BitVec.ofNat 32 (beNat (leBytes 4 (wGet w rs1).toNat)))

/-- Leading zero bits of a word, 0 to 32. -/
def clz (v : Word) : Nat := if v = 0 then 32 else 31 - v.toNat.log2

/-- CLZ (R330). -/
def execKClz (e : Fin 32) (t : Fin 16) (rd rs1 : Fin 32) (s : State) : Answer :=
  krnAlu s e t (kR 1 rd rs1 0 18) 1 rd (fun w => BitVec.ofNat 32 (clz (wGet w rs1)))

/-- MIN (R330). -/
def execKMin (e : Fin 32) (t : Fin 16) (rd rs1 rs2 : Fin 32) (s : State) : Answer :=
  krnAlu s e t (kR 1 rd rs1 rs2 19) 1 rd (fun w => if (wGet w rs1).slt (wGet w rs2) then wGet w rs1 else wGet w rs2)

/-- MAX (R330). -/
def execKMax (e : Fin 32) (t : Fin 16) (rd rs1 rs2 : Fin 32) (s : State) : Answer :=
  krnAlu s e t (kR 1 rd rs1 rs2 20) 1 rd (fun w => if (wGet w rs1).slt (wGet w rs2) then wGet w rs2 else wGet w rs1)

/-- MINU (R330). -/
def execKMinu (e : Fin 32) (t : Fin 16) (rd rs1 rs2 : Fin 32) (s : State) : Answer :=
  krnAlu s e t (kR 1 rd rs1 rs2 21) 1 rd (fun w => if (wGet w rs1).ult (wGet w rs2) then wGet w rs1 else wGet w rs2)

/-- MAXU (R330). -/
def execKMaxu (e : Fin 32) (t : Fin 16) (rd rs1 rs2 : Fin 32) (s : State) : Answer :=
  krnAlu s e t (kR 1 rd rs1 rs2 22) 1 rd (fun w => if (wGet w rs1).ult (wGet w rs2) then wGet w rs2 else wGet w rs1)

/-! ### Control transfer (Tables 13-4, 13-8) -/

/-- Continue at a target. -/
def thrJump (s : State) (e t : Nat) (pc : BitVec 15) : State :=
  let x := thrGet s e t
  thrSet s e t { x with pc := pc }

/-- JAL (R330): the offset counts words from the instruction itself. -/
def execKJal (e : Fin 32) (t : Fin 16) (rd : Fin 32) (off : BitVec 21) (s : State) : Answer :=
  krnIssue s e t (kJ 0x26 rd off) 2 (fun s x => thrJump (thrWrite s e t rd ((x.pc + 1).setWidth 32)) e t (x.pc + off.setWidth 15))

/-- JALR (R330): the target is computed before rd is written. -/
def execKJalr (e : Fin 32) (t : Fin 16) (rd rs1 : Fin 32) (imm : BitVec 16) (s : State) : Answer :=
  krnIssue s e t (kI 0x27 rd rs1 imm) 2 (fun s x =>
    thrJump (thrWrite s e t rd ((x.pc + 1).setWidth 32)) e t ((wGet x.regs rs1 + sext imm).setWidth 15))

/-- A branch: taken, in 2 cycles, when `c` holds of its two registers (R335). -/
def krnBranch (s : State) (e t op rs1 rs2 : Nat) (off : BitVec 16) (c : Word → Word → Bool) : Answer :=
  krnIssue s e t (kI op rs1 rs2 off) 1 (fun s x =>
    if c (wGet x.regs rs1) (wGet x.regs rs2) then thrCost (thrJump s e t (x.pc + off.setWidth 15)) e t 2 else thrNext s e t)

/-- BEQ (R335). -/
def execKBeq (e : Fin 32) (t : Fin 16) (rs1 rs2 : Fin 32) (off : BitVec 16) (s : State) : Answer :=
  krnBranch s e t 0x20 rs1 rs2 off (fun a b => decide (a = b))

/-- BNE (R335). -/
def execKBne (e : Fin 32) (t : Fin 16) (rs1 rs2 : Fin 32) (off : BitVec 16) (s : State) : Answer :=
  krnBranch s e t 0x21 rs1 rs2 off (fun a b => decide (a ≠ b))

/-- BLT (R335). -/
def execKBlt (e : Fin 32) (t : Fin 16) (rs1 rs2 : Fin 32) (off : BitVec 16) (s : State) : Answer :=
  krnBranch s e t 0x22 rs1 rs2 off (fun a b => a.slt b)

/-- BGE (R335). -/
def execKBge (e : Fin 32) (t : Fin 16) (rs1 rs2 : Fin 32) (off : BitVec 16) (s : State) : Answer :=
  krnBranch s e t 0x23 rs1 rs2 off (fun a b => !a.slt b)

/-- BLTU (R335). -/
def execKBltu (e : Fin 32) (t : Fin 16) (rs1 rs2 : Fin 32) (off : BitVec 16) (s : State) : Answer :=
  krnBranch s e t 0x24 rs1 rs2 off (fun a b => a.ult b)

/-- BGEU (R335). -/
def execKBgeu (e : Fin 32) (t : Fin 16) (rs1 rs2 : Fin 32) (off : BitVec 16) (s : State) : Answer :=
  krnBranch s e t 0x25 rs1 rs2 off (fun a b => !a.ult b)

/-! ### Thread control registers (R329) -/

/-- Cluster cycles since the engine's last start. -/
def engCycles (s : State) (e : Nat) : Nat := clusterCyc s e - (engGet s e).startCyc

/-- EVSTAT. -/
def evStat (x : KThread) : Word :=
  let failed := match x.build with
    | some b => b.failed
    | none => false
  BitVec.ofNat 32 (b2n x.event.isSome + 2 * b2n x.build.isSome + 4 * b2n failed)

/-- The value of a thread control register, and the thread after the read; none for an index that Table 13-1 does not list. -/
def tcrRead (s : State) (e t : Nat) (x : KThread) (i : Nat) : Option (Word × KThread) :=
  match i with
  | 0 => some (BitVec.ofNat 32 t, x)
  | 1 => some (BitVec.ofNat 32 e, x)
  | 2 => some (evStat x, x)
  | 3 => some (BitVec.ofNat 32 (engCycles s e), { x with cycHi := BitVec.ofNat 32 (engCycles s e / 2 ^ 32) })
  | 4 => some (x.cycHi, x)
  | 5 => some (x.resume.setWidth 32, x)
  | 6 => some (x.lastExc, x)
  | 7 => some (x.scratch, x)
  | _ => none

/-- TCR (R329): a write to a read-only register, an unlisted index, and a write form with an rd are ILLEGAL. -/
def execKTcr (e : Fin 32) (t : Fin 16) (rd rs1 : Fin 32) (write : Bool) (idx : BitVec 5) (s : State) : Answer :=
  krnIssue s e t (kI 0x28 rd rs1 (kTcrIdx write idx)) 1 (fun s x =>
    if write then
      let v := wGet x.regs rs1
      if rd ≠ 0 then krnExc s e t 1
      else if idx = 5 then thrNext (thrSet s e t { x with resume := v.setWidth 15 }) e t
      else if idx = 7 then thrNext (thrSet s e t { x with scratch := v }) e t
      else krnExc s e t 1
    else
      match tcrRead s e t x idx.toNat with
      | some (v, y) => thrWrite (thrSet s e t y) e t rd v
      | none => krnExc s e t 1)

end Sys2Proof.Machine
end

