-- ==== Sys2Proof/Machine/KuernMem.lean ====
section
/-!
DEFINITION. Loads, stores, accelerators, locks and fences of a Kuern thread (chapter 13, Tables 13-6, 13-9 to 13-11), one definition per
instruction. `host` of a load is what a read of the host window returns, none for an error.
-/
namespace Sys2Proof.Machine

/-- A load: address, alignment, region, then rd from the bytes (R333); a far one goes out, and stalls the thread until it completes
(R334, R346). `word`: the one that reaches the accelerator registers. -/
def krnLoad (s : State) (e t op rd rs1 : Nat) (imm : BitVec 16) (n : Nat) (word signed big : Bool) (host : Option Word) : Answer :=
  krnIssue s e t (kI op rd rs1 imm) 2 (fun s x =>
    let a := (wGet x.regs rs1 + sext imm).toNat
    if a % n ≠ 0 then krnExc s e t 2
    else if farLoad s e a n then farSend (thrCost s e t (loadCost s e a n)) e t (.load a n rd signed big host) false
    else
      match kLoad s e t a n word host with
      | (.ok l, s) => thrWrite s e t rd (loadWord signed big l)
      | (.exc c, s) => krnExc s e t c)

/-- LB (R333). -/
def execKLb (e : Fin 32) (t : Fin 16) (rd rs1 : Fin 32) (imm : BitVec 16) (host : Option Word) (s : State) : Answer :=
  krnLoad s e t 0x10 rd rs1 imm 1 false true false host

/-- LBU (R333). -/
def execKLbu (e : Fin 32) (t : Fin 16) (rd rs1 : Fin 32) (imm : BitVec 16) (host : Option Word) (s : State) : Answer :=
  krnLoad s e t 0x11 rd rs1 imm 1 false false false host

/-- LH (R333). -/
def execKLh (e : Fin 32) (t : Fin 16) (rd rs1 : Fin 32) (imm : BitVec 16) (host : Option Word) (s : State) : Answer :=
  krnLoad s e t 0x12 rd rs1 imm 2 false true false host

/-- LHU (R333). -/
def execKLhu (e : Fin 32) (t : Fin 16) (rd rs1 : Fin 32) (imm : BitVec 16) (host : Option Word) (s : State) : Answer :=
  krnLoad s e t 0x13 rd rs1 imm 2 false false false host

/-- LW (R333). -/
def execKLw (e : Fin 32) (t : Fin 16) (rd rs1 : Fin 32) (imm : BitVec 16) (host : Option Word) (s : State) : Answer :=
  krnLoad s e t 0x14 rd rs1 imm 4 true false false host

/-- LHBE (R333). -/
def execKLhbe (e : Fin 32) (t : Fin 16) (rd rs1 : Fin 32) (imm : BitVec 16) (host : Option Word) (s : State) : Answer :=
  krnLoad s e t 0x16 rd rs1 imm 2 false false true host

/-- LWBE (R333). Only LW and SW reach the accelerator registers (R340). -/
def execKLwbe (e : Fin 32) (t : Fin 16) (rd rs1 : Fin 32) (imm : BitVec 16) (host : Option Word) (s : State) : Answer :=
  krnLoad s e t 0x17 rd rs1 imm 4 false false true host

/-- A store: a far one is posted, and the thread goes on (R333, R334). -/
def krnStore (s : State) (e t op rs2 rs1 : Nat) (imm : BitVec 16) (n : Nat) (word be : Bool) : Answer :=
  krnIssue s e t (kI op rs2 rs1 imm) 1 (fun s x =>
    let a := (wGet x.regs rs1 + sext imm).toNat
    let v := (wGet x.regs rs2).toNat % 2 ^ (8 * n)
    let b := if be then beBytes n v else leBytes n v
    if a % n ≠ 0 then krnExc s e t 2
    else if farStore s e a n then thrNext (farSend s e t (.store a b) false) e t
    else
      match kStore s e t a b word with
      | (.exc c, s) => krnExc s e t c
      | (_, s) => thrNext s e t)

/-- SB (R333). -/
def execKSb (e : Fin 32) (t : Fin 16) (rs2 rs1 : Fin 32) (imm : BitVec 16) (s : State) : Answer :=
  krnStore s e t 0x18 rs2 rs1 imm 1 false false

/-- SH (R333). -/
def execKSh (e : Fin 32) (t : Fin 16) (rs2 rs1 : Fin 32) (imm : BitVec 16) (s : State) : Answer :=
  krnStore s e t 0x19 rs2 rs1 imm 2 false false

/-- SW (R333). -/
def execKSw (e : Fin 32) (t : Fin 16) (rs2 rs1 : Fin 32) (imm : BitVec 16) (s : State) : Answer :=
  krnStore s e t 0x1a rs2 rs1 imm 4 true false

/-- SHBE (R333). -/
def execKShbe (e : Fin 32) (t : Fin 16) (rs2 rs1 : Fin 32) (imm : BitVec 16) (s : State) : Answer :=
  krnStore s e t 0x1b rs2 rs1 imm 2 false true

/-- SWBE (R333). -/
def execKSwbe (e : Fin 32) (t : Fin 16) (rs2 rs1 : Fin 32) (imm : BitVec 16) (s : State) : Answer :=
  krnStore s e t 0x1c rs2 rs1 imm 4 false true

/-! ### Accelerators (R341 to R343) -/

/-- An accelerator's reads of tank memory come after the thread's earlier stores to the same words (R346). -/
def operandOrder (s : State) (e t a n : Nat) : State :=
  match kRegion a n with
  | some (.tank, _) => farFlush e t a n s.krn.far.length s
  | _ => s

/-- The operand of CRC or CSUM: a length of 0 is no bytes (R342); 8 bytes a cycle. -/
def accelOperand (s : State) (e t a n : Nat) : MemAns × State :=
  if n = 0 then (.ok [], s) else operandRead (thrCost (operandOrder s e t a n) e t (2 + (n + 7) / 8)) e t a n

/-- The path of a BERW descriptor: LIMIT and the tags; none for a COUNT outside 1 to 8. -/
def berPath (d : List Byte) : Option (List Nat) :=
  let n := leAt d 4 1
  if 1 ≤ n ∧ n ≤ 8 then some ((List.range n).map (fun i => leAt d (6 + 2 * i) 2)) else none

/-- The BER registers describe the last TLV matched, or read 0 (R341). -/
def berRegs (x : KThread) : Option (Nat × Nat × Nat) → KThread
  | some (g, v, len) => { x with
    berTag := BitVec.ofNat 32 g, berAddr := BitVec.ofNat 32 v, berLen := BitVec.ofNat 32 len, berNext := BitVec.ofNat 32 (v + len) }
  | none => { x with berTag := 0, berAddr := 0, berLen := 0, berNext := 0 }

/-- A walk ends with a status. -/
def berDone (s : State) (e t rd : Nat) (last : Option (Nat × Nat × Nat)) (status : Nat) : State :=
  let s := if status = 2 then krnCount s e 11 else s
  thrWrite (thrSet s e t (berRegs (thrGet s e t) last)) e t rd (BitVec.ofNat 32 status)

/-- BERW (R341). -/
def execKBerw (e : Fin 32) (t : Fin 16) (rd rs1 rs2 : Fin 32) (s : State) : Answer :=
  krnIssue s e t (kR 0x30 rd rs1 rs2 12) 4 (fun s x =>
    let a := (wGet x.regs rs1).toNat
    match localDesc s e (wGet x.regs rs2).toNat 22 4 with
    | .exc c => krnExc s e t c
    | .ok d =>
      let limit := leAt d 0 4
      if !operandRegion a limit then krnExc s e t 3
      else
        let s := operandOrder s e t a limit
        match berPath d with
        | none => berDone s e t rd none 2
        | some path =>
          match berWalk e t path s a (a + limit) none with
          | (.found _ _ _, last, s) => berDone s e t rd last 0
          | (.notFound, last, s) => berDone s e t rd last 1
          | (.form, last, s) => berDone s e t rd last 2
          | (.exc c, _, s) => krnExc s e t c)

/-- The running register after the bytes, by CRC_CFG (R342). -/
def crcRun (cfg st : Word) (l : List Byte) : Word :=
  let k := fld cfg 2 0
  if k = 1 then l.foldl (crcByte 0x82F63B78) st
  else if k = 2 then l.foldl (crcByte 0xA6BC) st
  else if k = 3 then l.foldl (crcByte 0xA001) st
  else if k = 4 then l.foldl (fun c b => BitVec.ofNat 32 ((c.toNat + b.toNat) % 256)) st
  else l.foldl (crcByte 0xEDB88320) st

/-- The finished value (R342). -/
def crcFinal (cfg st : Word) : Word :=
  let k := fld cfg 2 0
  if k = 2 then ~~~st &&& 0xFFFF else if k = 3 then st &&& 0xFFFF else if k = 4 then st &&& 0xFF else ~~~st

/-- CRC (R342). -/
def execKCrc (e : Fin 32) (t : Fin 16) (rd rs1 rs2 : Fin 32) (s : State) : Answer :=
  krnIssue s e t (kR 0x30 rd rs1 rs2 13) 2 (fun s x =>
    let n := (wGet x.regs rs2).toNat
    match accelOperand s e t (wGet x.regs rs1).toNat n with
    | (.exc c, s) => krnExc s e t c
    | (.ok l, s) =>
      let st := crcRun x.crcCfg x.crcState l
      thrWrite (thrSet s e t { thrGet s e t with crcState := st }) e t rd (crcFinal x.crcCfg st))

/-- The sum of a list as big-endian 16-bit words, an odd last byte high. -/
def sum16 : List Byte → Nat
  | [] => 0
  | [a] => a.toNat * 256
  | a :: b :: t => a.toNat * 256 + b.toNat + sum16 t

/-- The sum of 4-byte records, each the ones' complement of its old word and its new word. -/
def sumIncr : List Byte → Nat
  | a :: b :: c :: d :: t => (65535 - (a.toNat * 256 + b.toNat)) + (c.toNat * 256 + d.toNat) + sumIncr t
  | _ => 0

/-- Fold a 32-bit sum with end-around carry. -/
def fold16 (w : Word) : Nat :=
  let a := w.toNat / 65536 + w.toNat % 65536
  a / 65536 + a % 65536

/-- CSUM (R342): an incremental length that is no multiple of 4 takes ALIGN. -/
def execKCsum (e : Fin 32) (t : Fin 16) (rd rs1 rs2 : Fin 32) (s : State) : Answer :=
  krnIssue s e t (kR 0x30 rd rs1 rs2 14) 2 (fun s x =>
    let n := (wGet x.regs rs2).toNat
    let inc := bitOf x.csumCfg 0
    if inc && decide (n % 4 ≠ 0) then krnExc s e t 2
    else
      match accelOperand s e t (wGet x.regs rs1).toNat n with
      | (.exc c, s) => krnExc s e t c
      | (.ok l, s) =>
        let st := x.csumState + BitVec.ofNat 32 (if inc then sumIncr l else sum16 l)
        thrWrite (thrSet s e t { thrGet s e t with csumState := st }) e t rd (BitVec.ofNat 32 (fold16 st)))

/-- AUTH (R343): the covered bytes and a received tag are read as the job is submitted. -/
def execKAuth (e : Fin 32) (t : Fin 16) (rd rs1 : Fin 32) (s : State) : Answer :=
  krnIssue s e t (kR 0x30 rd rs1 0 15) 8 (fun s x =>
    match localDesc s e (wGet x.regs rs1).toNat 32 8 with
    | .exc c => krnExc s e t c
    | .ok d =>
      if authBad d then krnExc s e t 3
      else
        match operandRead s e t (leAt d 4 4) (leAt d 8 4) with
        | (.exc c, s) => krnExc s e t c
        | (.ok l, s) =>
          let r := if leAt d 3 1 = 1 then operandRead s e t (leAt d 12 4) (tagLen (leAt d 2 1)) else (MemAns.ok [], s)
          match r with
          | (.exc c, s) => krnExc s e t c
          | (.ok tag, s) =>
            let r := authSubmit s e t d l (if leAt d 3 1 = 1 then some tag else none)
            thrWrite r.2 e t rd (BitVec.ofNat 32 r.1))

/-! ### Locks and fences (R344, R347) -/

/-- LKACQ (R344): the read goes out to the lock sluice, and no later access issues before its answer. -/
def execKLkacq (e : Fin 32) (t : Fin 16) (rd rs1 : Fin 32) (s : State) : Answer :=
  krnIssue s e t (kR 0x30 rd rs1 0 16) 1 (fun s x =>
    farSend (thrCost s e t (engCost s e 12 9)) e t (.lockRead (fld (wGet x.regs rs1) 7 0) rd) false)

/-- LKREL (R344): the write goes out once the thread's earlier tank and mailbox stores have completed. -/
def execKLkrel (e : Fin 32) (t : Fin 16) (rs1 : Fin 32) (s : State) : Answer :=
  krnIssue s e t (kR 0x30 0 rs1 0 17) 1 (fun s x =>
    farSend (thrCost s e t (engCost s e 12 9)) e t (.lockWrite (fld (wGet x.regs rs1) 7 0)) ((farOf s e t).any (fenceHolds true false)))

/-- A fence (R347): the thread goes on once its earlier accesses have completed; one with nothing pending costs 1 cycle. -/
def krnFence (s : State) (e t fn : Nat) (tank host : Bool) : Answer :=
  krnIssue s e t (kR 0x30 0 0 0 fn) 1 (fun s _ =>
    let s := thrNext s e t
    if (farOf s e t).any (fenceHolds tank host) then thrSet s e t { thrGet s e t with hold := some (.fence tank host) }
    else if host then emit s (.hostFence e t) else s)

/-- FENCE.TANK (R347). -/
def execKFenceTank (e : Fin 32) (t : Fin 16) (s : State) : Answer := krnFence s e t 18 true false

/-- FENCE.HOST (R347). -/
def execKFenceHost (e : Fin 32) (t : Fin 16) (s : State) : Answer := krnFence s e t 19 false true

/-- FENCE.ALL (R347): SEND and AUTH are accepted when they issue. -/
def execKFenceAll (e : Fin 32) (t : Fin 16) (s : State) : Answer := krnFence s e t 20 true true

end Sys2Proof.Machine
end

