-- ==== Sys2Proof/Machine/KuernOps.lean ====
section
/-!
DEFINITION. The engine operations of a Kuern thread (chapter 13, Table 13-9): events, frames, builds, time, timers, TRAP, and words that
are no instruction (R331).
-/
namespace Sys2Proof.Machine

/-! ### Events (R307, R322, R336) -/

/-- EVWAIT (R336). -/
def execKEvwait (e : Fin 32) (t : Fin 16) (rd rs1 : Fin 32) (s : State) : Answer :=
  krnIssue s e t (kR 0x30 rd rs1 0 0) 1 (fun s x =>
    if x.event.isSome then krnExc s e t 4
    else
      let n := (wGet x.regs rs1).toNat
      eventAfter (thrWait (thrNext s e t) e t rd (if n = 0 then none else some (clusterCyc s e + n)) none) e)

/-- EVWAIT_TIMEOUT (R336): a waiting thread's timeout expires; an event it could take has been taken (R22). -/
def execKEvwaitTimeout (e : Fin 32) (t : Fin 16) (s : State) : Answer :=
  domEvent s (engDomain e) (fun s =>
    let x := thrGet s e t
    match x.wait with
    | some w =>
      (match w.ends with
        | some n => if n < clusterCyc s e then thrSet s e t { x with wait := none, regs := wSet x.regs w.rd 1 } else s
        | none => s)
    | none => s)

/-- EVDONE.COMMIT (R307). -/
def execKEvdoneCommit (e : Fin 32) (t : Fin 16) (s : State) : Answer :=
  krnIssue s e t (kR 0x30 0 0 0 1) (engCost s e 24 15) (fun s _ => evDone s e t true)

/-- EVDONE.DISCARD (R307). -/
def execKEvdoneDiscard (e : Fin 32) (t : Fin 16) (s : State) : Answer :=
  krnIssue s e t (kR 0x30 0 0 0 2) 2 (fun s _ => evDone s e t false)

/-- READY (R322). -/
def execKReady (e : Fin 32) (t : Fin 16) (s : State) : Answer := krnIssue s e t (kR 0x30 0 0 0 3) 1 (fun s _ => engReadyNow (thrNext s e t) e t)

/-! ### Frames (R309) -/

/-- KEEP (R309): the frame's reference outlives the event. -/
def execKKeep (e : Fin 32) (t : Fin 16) (rd : Fin 32) (s : State) : Answer :=
  krnIssue s e t (kR 0x30 rd 0 0 4) 2 (fun s x =>
    match x.event with
    | none => krnExc s e t 4
    | some v =>
      let g := engGet s e
      if v.frame = noFrame then thrWrite s e t rd 0x1FFFF
      else if 256 ≤ g.kept.length then krnExc s e t 9
      else
        thrWrite (refAdd (engSet s e { g with kept := g.kept ++ [v.frame] }) v.frame) e t rd (BitVec.ofNat 32 v.frame))

/-- RELEASE (R309, Table 13-12). -/
def execKRelease (e : Fin 32) (t : Fin 16) (rs1 : Fin 32) (s : State) : Answer :=
  krnIssue s e t (kR 0x30 0 rs1 0 5) 2 (fun s x =>
    let h := (wGet x.regs rs1).toNat
    let g := engGet s e
    if g.kept.contains h then pauseSweep (refDrop (thrNext (engSet s e { g with kept := g.kept.erase h }) e t) h)
    else krnExc s e t 0x0B)

/-! ### Builds (R310, R311) -/

/-- BOPEN (R310). -/
def execKBopen (e : Fin 32) (t : Fin 16) (rs1 : Fin 32) (s : State) : Answer :=
  krnIssue s e t (kR 0x30 0 rs1 0 6) 1 (fun s x =>
    let d := fld (wGet x.regs rs1) 2 0
    if x.build.isSome ∨ districtCount s ≤ d then krnExc s e t 5
    else thrNext (thrSet s e t { x with build := some { district := d, bytes := [], written := 0, cells := [], failed := false } }) e t)

/-- BABORT (R310). -/
def execKBabort (e : Fin 32) (t : Fin 16) (s : State) : Answer :=
  krnIssue s e t (kR 0x30 0 0 0 7) 2 (fun s x =>
    if x.build.isNone then krnExc s e t 5
    else pauseSweep (thrNext (thrSet s e t { x with build := none }) e t))

/-- SEND (R311, R312). -/
def execKSend (e : Fin 32) (t : Fin 16) (rs1 : Fin 32) (s : State) : Answer :=
  krnIssue s e t (kR 0x30 0 rs1 0 8) 8 (fun s x =>
    match localDesc s e (wGet x.regs rs1).toNat 32 8, x.build with
    | .exc c, _ => krnExc s e t c
    | .ok _, none => krnExc s e t 5
    | .ok d, some b => pauseSweep (buildSend (thrNext s e t) e t b d))

/-! ### Time and timers (R338, R339) -/

/-- TIME (R338): with selector 0 the thread stalls at it until the replica is valid; 5 to 31 are ILLEGAL. -/
def execKTime (e : Fin 32) (t : Fin 16) (rd : Fin 32) (sel : Fin 32) (s : State) : Answer :=
  krnIssue s e t (kR 0x30 rd 0 sel 9) 2 (fun s x =>
    if sel = 0 then
      if engReplica s e then
        thrWrite (thrSet s e t { x with latchNs := s.clk.ns, latchSec := s.clk.sec, latchFrac := s.clk.frac }) e t rd (nowNs32 s)
      else thrSet s e t { x with hold := some .replica }
    else if sel = 1 then thrWrite s e t rd x.latchFrac
    else if sel = 2 then thrWrite s e t rd (x.latchNs.setWidth 32)
    else if sel = 3 then thrWrite s e t rd (x.latchSec.setWidth 32)
    else if sel = 4 then thrWrite s e t rd ((x.latchSec >>> 32).setWidth 32)
    else krnExc s e t 1)

/-- A timer request: kept with the event, or applied at once outside one; the 17th of an event takes TIMER_REQ (R339). -/
def timerAsk (s : State) (e t : Nat) (x : KThread) (r : TimerReq) : State :=
  if x.event.isNone then timerCommit (thrNext s e t) e t none [r]
  else if 16 ≤ x.reqs.length then krnExc s e t 0x0A
  else thrNext (thrSet s e t { x with reqs := x.reqs ++ [r] }) e t

/-- TMRSET (R339). -/
def execKTmrset (e : Fin 32) (t : Fin 16) (rs1 rs2 : Fin 32) (s : State) : Answer :=
  krnIssue s e t (kR 0x30 0 rs1 rs2 10) 1 (fun s x => timerAsk s e t x { set := true, target := wGet x.regs rs1, cookie := wGet x.regs rs2 })

/-- TMRCAN (R339). -/
def execKTmrcan (e : Fin 32) (t : Fin 16) (rs1 : Fin 32) (s : State) : Answer :=
  krnIssue s e t (kR 0x30 0 rs1 0 11) 1 (fun s x => timerAsk s e t x { set := false, target := 0, cookie := wGet x.regs rs1 })

/-! ### TRAP and words that are no instruction (R331, R350) -/

/-- TRAP (R350): rs1 goes to SCRATCH first. -/
def execKTrap (e : Fin 32) (t : Fin 16) (rs1 : Fin 32) (s : State) : Answer :=
  krnIssue s e t (kR 0x30 0 rs1 0 21) 1 (fun s x => krnExc (thrSet s e t { x with scratch := wGet x.regs rs1 }) e t 0x0C)

/-- The register fields that an engine operation names as unused: rd, rs1, rs2 (Table 13-9). -/
def engOpUnused (fn : Nat) : Bool × Bool × Bool :=
  if fn = 0 then (false, false, true)
  else if fn ≤ 3 ∨ fn = 7 ∨ (18 ≤ fn ∧ fn ≤ 20) then (true, true, true)
  else if fn = 4 then (false, true, true)
  else if fn = 5 ∨ fn = 6 ∨ fn = 8 ∨ fn = 11 ∨ fn = 17 ∨ fn = 21 then (true, false, true)
  else if fn = 9 then (false, true, false)
  else if fn = 10 then (true, false, false)
  else if fn = 15 ∨ fn = 16 then (false, false, true)
  else (false, false, false)

/-- Whether an instruction word is an instruction (R331, Tables 13-3 to 13-9). -/
def krnLegal (w : Word) : Bool :=
  let op := fld w 31 26
  let rd := fld w 25 21
  let rs1 := fld w 20 16
  let rs2 := fld w 15 11
  let fn := fld w 10 0
  let imm := fld w 15 0
  if op = 0x01 then decide (fn ≤ 22) && ((decide (fn ≠ 17) && decide (fn ≠ 18)) || decide (rs2 = 0))
  else if op = 0x06 then decide (imm / 128 = 0) && decide (imm / 32 % 4 ≠ 3)
  else if op = 0x09 then decide (rs1 = 0)
  else if op = 0x0A ∨ op = 0x0B then decide (imm / 1024 = 0)
  else if 0x02 ≤ op ∧ op ≤ 0x08 then true
  else if (0x10 ≤ op ∧ op ≤ 0x14) ∨ op = 0x16 ∨ op = 0x17 then true
  else if (0x18 ≤ op ∧ op ≤ 0x1C) ∨ (0x20 ≤ op ∧ op ≤ 0x27) then true
  else if op = 0x28 then decide (imm / 32 % 1024 = 0) && (decide (imm / 32768 = 0) || decide (rd = 0))
  else if op = 0x30 then
    let u := engOpUnused fn
    decide (fn ≤ 21) && (!u.1 || decide (rd = 0)) && (!u.2.1 || decide (rs1 = 0)) && (!u.2.2 || decide (rs2 = 0))
  else false

/-- ILLEGAL_INSTRUCTION_WORD (R331): the word at a thread's PC is no instruction. -/
def execIllegalInstructionWord (e : Fin 32) (t : Fin 16) (w : Word) (s : State) : Answer :=
  if krnLegal w then .next s else krnIssue s e t w 1 (fun s _ => krnExc s e t 1)

end Sys2Proof.Machine
end

