-- ==== Sys2Proof/Machine/Physical.lean ====
section
/-!
DEFINITION. The temperature sensors and the ageing monitors (chapter 20).
-/
namespace Sys2Proof.Machine

/-- A temperature as a number of eighths of a degree. -/
def tempOf (w : Word) : Int := (w.setWidth 12).toInt

/-- Sensor `n` updates its reading (R506): the highest reading and the highest spread follow (Table 20-17). The first reading of all
starts PWR_TEMP_MAX. -/
def execTempSensorUpdate (n : Fin 8) (v : BitVec 12) (s : State) : Answer :=
  event s (fun s =>
    let first := (temps s).isEmpty
    let s := regSet s (Reg.PWR_TEMP n.val) (v.setWidth 32 ||| 0x80000000)
    let s := if first || decide (tempOf (regGet s Reg.PWR_TEMP_MAX) < v.toInt) then regSetFld s Reg.PWR_TEMP_MAX 11 0 v.toNat else s
    let now := tempSpread s
    if regFld s Reg.PWR_TEMP_SPREAD 15 8 < now then regSetFld s Reg.PWR_TEMP_SPREAD 15 8 now else s)

/-- Island `i` measures its slack (R508); a measurement that overlaps a change of the operating point, a freeze or an off-sequence is
discarded, as is one of an island whose clock does not run. -/
def execAgeingMeasurement (i : Fin 17) (v : BitVec 12) (s : State) : Answer :=
  domEvent s (islandDomain i.val) (fun s =>
    if 9 ≤ i.val ∧ i.val ≤ 12 ∧ regBit s Reg.PWR_OPPOINT_STAT (i.val - 9 + 4) then s
    else regSetFld (regSetFld s (Reg.PWR_AGE i.val) 11 0 v.toNat) (Reg.PWR_AGE i.val) 31 31 1)

end Sys2Proof.Machine
end

