-- ==== Sys2Proof/Machine/Dispatch.lean ====
section
/-!
DEFINITION. One arm per command: the call of its meaning, or its rejection by name.
-/
namespace Sys2Proof.Machine

/-- The effect of a command on everything but the queue. -/
def exec (i : Instr) (s : State) : Host.Outcome State Fault Refusal :=
  match i with
  | .registerWrite m a v => Sys2Proof.Machine.execRegisterWrite m a v s
  | .unalignedAccess f a write => Sys2Proof.Machine.execUnalignedAccess f a write s
  | .rcRead f a => Sys2Proof.Machine.execRcRead f a s
  | .domainOffAccess f a write => Sys2Proof.Machine.execDomainOffAccess f a write s
  | .crossingWordDelivery ch w => Sys2Proof.Machine.execCrossingWordDelivery ch w s
  | .correctableEccError m ix => Sys2Proof.Machine.execCorrectableEccError m ix s
  | .uncorrectableEccError m ix => Sys2Proof.Machine.execUncorrectableEccError m ix s
  | .scrubSlot mem bank => Sys2Proof.Machine.execScrubSlot mem bank s
  | .imgLoad f v => Sys2Proof.Machine.execImgLoad f v s
  | .imgSwap f v => Sys2Proof.Machine.execImgSwap f v s
  | .imgAbort f v => Sys2Proof.Machine.execImgAbort f v s
  | .imgKeyRevoke f v => Sys2Proof.Machine.execImgKeyRevoke f v s
  | .revokeDone => Sys2Proof.Machine.execRevokeDone s
  | .verifyComplete image => Sys2Proof.Machine.execVerifyComplete image s
  | .applySectionRead index payload => Sys2Proof.Machine.execApplySectionRead index payload s
  | .swapSafePointApply type unit => Sys2Proof.Machine.execSwapSafePointApply type unit s
  | .porstAssert => Sys2Proof.Machine.execPorstAssert s
  | .porstRelease straps => Sys2Proof.Machine.execPorstRelease straps s
  | .fuseSenseDone good => Sys2Proof.Machine.execFuseSenseDone good s
  | .pllLocked pll => Sys2Proof.Machine.execPllLocked pll s
  | .pllLockTimeout pll => Sys2Proof.Machine.execPllLockTimeout pll s
  | .srstAssert => Sys2Proof.Machine.execSrstAssert s
  | .srstRelease => Sys2Proof.Machine.execSrstRelease s
  | .glbResetSys f v => Sys2Proof.Machine.execGlbResetSys f v s
  | .systemResetHoldEnd straps => Sys2Proof.Machine.execSystemResetHoldEnd straps s
  | .pcieHotReset => Sys2Proof.Machine.execPcieHotReset s
  | .trickleServiceStart => Sys2Proof.Machine.execTrickleServiceStart s
  | .trickleFrameRx p bytes good => Sys2Proof.Machine.execTrickleFrameRx p bytes good s
  | .trickleAgeDrop => Sys2Proof.Machine.execTrickleAgeDrop s
  | .trickleDrainEnd => Sys2Proof.Machine.execTrickleDrainEnd s
  | .handoverComplete => Sys2Proof.Machine.execHandoverComplete s
  | .domainOnRequest d => Sys2Proof.Machine.execDomainOnRequest d s
  | .domainOffRequest d => Sys2Proof.Machine.execDomainOffRequest d s
  | .powerSequenceDone x => Sys2Proof.Machine.execPowerSequenceDone x s
  | .idleHoldExpiry c => Sys2Proof.Machine.execIdleHoldExpiry c s
  | .pwrReqOn f d v => Sys2Proof.Machine.execPwrReqOn f d v s
  | .pwrReqOff f d v => Sys2Proof.Machine.execPwrReqOff f d v s
  | .pwrReqPolicy f d v => Sys2Proof.Machine.execPwrReqPolicy f d v s
  | .pwrOppointWrite f v => Sys2Proof.Machine.execPwrOppointWrite f v s
  | .oppointChangeDone c => Sys2Proof.Machine.execOppointChangeDone c s
  | .deepStandbyEnter f v => Sys2Proof.Machine.execDeepStandbyEnter f v s
  | .vddLowIsolate => Sys2Proof.Machine.execVddLowIsolate s
  | .bootUsRead f => Sys2Proof.Machine.execBootUsRead f s
  | .timIncrFracWrite m v => Sys2Proof.Machine.execTimIncrFracWrite m v s
  | .timIncrIntWrite m v => Sys2Proof.Machine.execTimIncrIntWrite m v s
  | .adjStep m => Sys2Proof.Machine.execAdjStep m s
  | .adjSlew m rate => Sys2Proof.Machine.execAdjSlew m rate s
  | .adjCancel m => Sys2Proof.Machine.execAdjCancel m s
  | .timSetCmd m v => Sys2Proof.Machine.execTimSetCmd m v s
  | .stepApply => Sys2Proof.Machine.execStepApply s
  | .setApply => Sys2Proof.Machine.execSetApply s
  | .slewEnd => Sys2Proof.Machine.execSlewEnd s
  | .timNowRead f => Sys2Proof.Machine.execTimNowRead f s
  | .cmpArm f n => Sys2Proof.Machine.execCmpArm f n s
  | .cmpDisarm f n => Sys2Proof.Machine.execCmpDisarm f n s
  | .compareFire n => Sys2Proof.Machine.execCompareFire n s
  | .ppsInEdge rising => Sys2Proof.Machine.execPpsInEdge rising s
  | .captureSnap f c v => Sys2Proof.Machine.execCaptureSnap f c v s
  | .captureRead f c => Sys2Proof.Machine.execCaptureRead f c s
  | .ppsOutRise => Sys2Proof.Machine.execPpsOutRise s
  | .ppsOutFall => Sys2Proof.Machine.execPpsOutFall s
  | .replicaValid island => Sys2Proof.Machine.execReplicaValid island s
  | .laneSyncAcquired n => Sys2Proof.Machine.execLaneSyncAcquired n s
  | .laneSyncLost n => Sys2Proof.Machine.execLaneSyncLost n s
  | .inbandStatus p link full speed => Sys2Proof.Machine.execInbandStatus p link full speed s
  | .uplinkPcsUp u => Sys2Proof.Machine.execUplinkPcsUp u s
  | .uplinkPcsDown u lock => Sys2Proof.Machine.execUplinkPcsDown u lock s
  | .remoteFaultRx u on => Sys2Proof.Machine.execRemoteFaultRx u on s
  | .fecCodewordCorrected u => Sys2Proof.Machine.execFecCodewordCorrected u s
  | .fecCodewordUncorrectable u => Sys2Proof.Machine.execFecCodewordUncorrectable u s
  | .frameHeaderArrival p bytes => Sys2Proof.Machine.execFrameHeaderArrival p bytes s
  | .cellAdmission p => Sys2Proof.Machine.execCellAdmission p s
  | .frameEnd p fcs code sent => Sys2Proof.Machine.execFrameEnd p fcs code sent s
  | .pauseFrameRx p quanta group check len => Sys2Proof.Machine.execPauseFrameRx p quanta group check len s
  | .pfcFrameRx p classes quanta group check len => Sys2Proof.Machine.execPfcFrameRx p classes quanta group check len s
  | .macControlOtherRx p check len => Sys2Proof.Machine.execMacControlOtherRx p check len s
  | .pauseTimerExpiry p st => Sys2Proof.Machine.execPauseTimerExpiry p st s
  | .pauseWdTrip p st => Sys2Proof.Machine.execPauseWdTrip p st s
  | .pauseWdHoldEnd p st => Sys2Proof.Machine.execPauseWdHoldEnd p st s
  | .pauseFrameTx p => Sys2Proof.Machine.execPauseFrameTx p s
  | .pauseRefreshExpiry p => Sys2Proof.Machine.execPauseRefreshExpiry p s
  | .loopbackTakeEffect p => Sys2Proof.Machine.execLoopbackTakeEffect p s
  | .egressSelect p early => Sys2Proof.Machine.execEgressSelect p early s
  | .frameTxEnd p => Sys2Proof.Machine.execFrameTxEnd p s
  | .underrun p sent => Sys2Proof.Machine.execUnderrun p sent s
  | .launchDue p => Sys2Proof.Machine.execLaunchDue p s
  | .linkDown p sent => Sys2Proof.Machine.execLinkDown p sent s
  | .linkUp p => Sys2Proof.Machine.execLinkUp p s
  | .holdExpiry p => Sys2Proof.Machine.execHoldExpiry p s
  | .flushDone p => Sys2Proof.Machine.execFlushDone p s
  | .portDisable f p => Sys2Proof.Machine.execPortDisable f p s
  | .portEnable f p => Sys2Proof.Machine.execPortEnable f p s
  | .txstartWrite f p v => Sys2Proof.Machine.execTxstartWrite f p v s
  | .maxlenWrite f p v => Sys2Proof.Machine.execMaxlenWrite f p v s
  | .counterLoRead f p n => Sys2Proof.Machine.execCounterLoRead f p n s
  | .authVerifyDone h gmac => Sys2Proof.Machine.execAuthVerifyDone h gmac s
  | .nodeForgetExpiry ix => Sys2Proof.Machine.execNodeForgetExpiry ix s
  | .entryForgetExpiry ix => Sys2Proof.Machine.execEntryForgetExpiry ix s
  | .tblRead f table => Sys2Proof.Machine.execTblRead f table s
  | .tblWrite f table => Sys2Proof.Machine.execTblWrite f table s
  | .tblInsert f table => Sys2Proof.Machine.execTblInsert f table s
  | .tblDelete f table => Sys2Proof.Machine.execTblDelete f table s
  | .tblLookup f table => Sys2Proof.Machine.execTblLookup f table s
  | .tblCmdDone => Sys2Proof.Machine.execTblCmdDone s
  | .keyCommit f v => Sys2Proof.Machine.execKeyCommit f v s
  | .keyClear f v => Sys2Proof.Machine.execKeyClear f v s
  | .keyCommitDone => Sys2Proof.Machine.execKeyCommitDone s
  | .fdbAgeRemove ix => Sys2Proof.Machine.execFdbAgeRemove ix s
  | .fdbRead f => Sys2Proof.Machine.execFdbRead f s
  | .fdbWrite f => Sys2Proof.Machine.execFdbWrite f s
  | .fdbInsert f => Sys2Proof.Machine.execFdbInsert f s
  | .fdbDelete f => Sys2Proof.Machine.execFdbDelete f s
  | .fdbLookup f => Sys2Proof.Machine.execFdbLookup f s
  | .fdbFlush f => Sys2Proof.Machine.execFdbFlush f s
  | .fdbCmdDone => Sys2Proof.Machine.execFdbCmdDone s
  | .mcgRead f g => Sys2Proof.Machine.execMcgRead f g s
  | .mcgWrite f g => Sys2Proof.Machine.execMcgWrite f g s
  | .oqTransfer p => Sys2Proof.Machine.execOqTransfer p s
  | .staleScan => Sys2Proof.Machine.execStaleScan s
  | .quarantineTest f c => Sys2Proof.Machine.execQuarantineTest f c s
  | .quarantineTestDone good => Sys2Proof.Machine.execQuarantineTestDone good s
  | .siphEnable f x v => Sys2Proof.Machine.execSiphEnable f x v s
  | .pauseThWrite f p v => Sys2Proof.Machine.execPauseThWrite f p v s
  | .sluiceRequest ix x => Sys2Proof.Machine.execSluiceRequest ix x s
  | .sluiceWithdraw ix r => Sys2Proof.Machine.execSluiceWithdraw ix r s
  | .arbitrationPhase x => Sys2Proof.Machine.execArbitrationPhase x s
  | .sluSeedWrite f ix v => Sys2Proof.Machine.execSluSeedWrite f ix v s
  | .sluConfigWrite f a v => Sys2Proof.Machine.execSluConfigWrite f a v s
  | .furrowRunSet f d => Sys2Proof.Machine.execFurrowRunSet f d s
  | .furrowRunClear f d => Sys2Proof.Machine.execFurrowRunClear f d s
  | .cycleStart d => Sys2Proof.Machine.execCycleStart d s
  | .coldstartDecision d => Sys2Proof.Machine.execColdstartDecision d s
  | .furrowStartReport p ns32 frac cold => Sys2Proof.Machine.execFurrowStartReport p ns32 frac cold s
  | .starNullDeadline d furrow chanB => Sys2Proof.Machine.execStarNullDeadline d furrow chanB s
  | .minislotBoundary d chanB => Sys2Proof.Machine.execMinislotBoundary d chanB s
  | .modeEvaluation d => Sys2Proof.Machine.execModeEvaluation d s
  | .furModeCmd f d v => Sys2Proof.Machine.execFurModeCmd f d v s
  | .furPortContain f p => Sys2Proof.Machine.execFurPortContain f p s
  | .furPortReadmit f p => Sys2Proof.Machine.execFurPortReadmit f p s
  | .asduIngest => Sys2Proof.Machine.execAsduIngest s
  | .rowDeadline b => Sys2Proof.Machine.execRowDeadline b s
  | .rowSeal b => Sys2Proof.Machine.execRowSeal b s
  | .streamSilence ix => Sys2Proof.Machine.execStreamSilence ix s
  | .basinRunSet f b => Sys2Proof.Machine.execBasinRunSet f b s
  | .basinRunClear f b => Sys2Proof.Machine.execBasinRunClear f b s
  | .streamEnable f ix => Sys2Proof.Machine.execStreamEnable f ix s
  | .streamDisable f ix => Sys2Proof.Machine.execStreamDisable f ix s
  | .cnfRingCtlWrite f a v => Sys2Proof.Machine.execCnfRingCtlWrite f a v s
  | .pubUpdate src => Sys2Proof.Machine.execPubUpdate src s
  | .pubUpdateLaunch src => Sys2Proof.Machine.execPubUpdateLaunch src s
  | .pubTagDone ix => Sys2Proof.Machine.execPubTagDone ix s
  | .gooseRetransmit g => Sys2Proof.Machine.execGooseRetransmit g s
  | .subscriptionExpiry v => Sys2Proof.Machine.execSubscriptionExpiry v s
  | .subscriptionEnable f v => Sys2Proof.Machine.execSubscriptionEnable f v s
  | .subscriptionDisable f v => Sys2Proof.Machine.execSubscriptionDisable f v s
  | .publicationDisable f g => Sys2Proof.Machine.execPublicationDisable f g s
  | .eventWatchdog e t => Sys2Proof.Machine.execEventWatchdog e t s
  | .timerFire e ix => Sys2Proof.Machine.execTimerFire e ix s
  | .initTimeout e => Sys2Proof.Machine.execInitTimeout e s
  | .engineHalt f e v => Sys2Proof.Machine.execEngineHalt f e v s
  | .engineRestart f e v => Sys2Proof.Machine.execEngineRestart f e v s
  | .sendComplete ix => Sys2Proof.Machine.execSendComplete ix s
  | .authJobDone ix => Sys2Proof.Machine.execAuthJobDone ix s
  | .kAddi e t rd rs1 imm => Sys2Proof.Machine.execKAddi e t rd rs1 imm s
  | .kAndi e t rd rs1 imm => Sys2Proof.Machine.execKAndi e t rd rs1 imm s
  | .kOri e t rd rs1 imm => Sys2Proof.Machine.execKOri e t rd rs1 imm s
  | .kXori e t rd rs1 imm => Sys2Proof.Machine.execKXori e t rd rs1 imm s
  | .kShi e t rd rs1 sel n => Sys2Proof.Machine.execKShi e t rd rs1 sel n s
  | .kSlti e t rd rs1 imm => Sys2Proof.Machine.execKSlti e t rd rs1 imm s
  | .kSltiu e t rd rs1 imm => Sys2Proof.Machine.execKSltiu e t rd rs1 imm s
  | .kLui e t rd imm => Sys2Proof.Machine.execKLui e t rd imm s
  | .kExt e t rd rs1 pos len => Sys2Proof.Machine.execKExt e t rd rs1 pos len s
  | .kIns e t rd rs1 pos len => Sys2Proof.Machine.execKIns e t rd rs1 pos len s
  | .kJal e t rd off => Sys2Proof.Machine.execKJal e t rd off s
  | .kJalr e t rd rs1 imm => Sys2Proof.Machine.execKJalr e t rd rs1 imm s
  | .kTcr e t rd rs1 write idx => Sys2Proof.Machine.execKTcr e t rd rs1 write idx s
  | .kAdd e t rd rs1 rs2 => Sys2Proof.Machine.execKAdd e t rd rs1 rs2 s
  | .kSub e t rd rs1 rs2 => Sys2Proof.Machine.execKSub e t rd rs1 rs2 s
  | .kAnd e t rd rs1 rs2 => Sys2Proof.Machine.execKAnd e t rd rs1 rs2 s
  | .kOr e t rd rs1 rs2 => Sys2Proof.Machine.execKOr e t rd rs1 rs2 s
  | .kXor e t rd rs1 rs2 => Sys2Proof.Machine.execKXor e t rd rs1 rs2 s
  | .kSll e t rd rs1 rs2 => Sys2Proof.Machine.execKSll e t rd rs1 rs2 s
  | .kSrl e t rd rs1 rs2 => Sys2Proof.Machine.execKSrl e t rd rs1 rs2 s
  | .kSra e t rd rs1 rs2 => Sys2Proof.Machine.execKSra e t rd rs1 rs2 s
  | .kSlt e t rd rs1 rs2 => Sys2Proof.Machine.execKSlt e t rd rs1 rs2 s
  | .kSltu e t rd rs1 rs2 => Sys2Proof.Machine.execKSltu e t rd rs1 rs2 s
  | .kMul e t rd rs1 rs2 => Sys2Proof.Machine.execKMul e t rd rs1 rs2 s
  | .kMulh e t rd rs1 rs2 => Sys2Proof.Machine.execKMulh e t rd rs1 rs2 s
  | .kMulhu e t rd rs1 rs2 => Sys2Proof.Machine.execKMulhu e t rd rs1 rs2 s
  | .kDiv e t rd rs1 rs2 => Sys2Proof.Machine.execKDiv e t rd rs1 rs2 s
  | .kDivu e t rd rs1 rs2 => Sys2Proof.Machine.execKDivu e t rd rs1 rs2 s
  | .kRem e t rd rs1 rs2 => Sys2Proof.Machine.execKRem e t rd rs1 rs2 s
  | .kRemu e t rd rs1 rs2 => Sys2Proof.Machine.execKRemu e t rd rs1 rs2 s
  | .kBswap e t rd rs1 => Sys2Proof.Machine.execKBswap e t rd rs1 s
  | .kClz e t rd rs1 => Sys2Proof.Machine.execKClz e t rd rs1 s
  | .kMin e t rd rs1 rs2 => Sys2Proof.Machine.execKMin e t rd rs1 rs2 s
  | .kMax e t rd rs1 rs2 => Sys2Proof.Machine.execKMax e t rd rs1 rs2 s
  | .kMinu e t rd rs1 rs2 => Sys2Proof.Machine.execKMinu e t rd rs1 rs2 s
  | .kMaxu e t rd rs1 rs2 => Sys2Proof.Machine.execKMaxu e t rd rs1 rs2 s
  | .kLb e t rd rs1 imm host => Sys2Proof.Machine.execKLb e t rd rs1 imm host s
  | .kLbu e t rd rs1 imm host => Sys2Proof.Machine.execKLbu e t rd rs1 imm host s
  | .kLh e t rd rs1 imm host => Sys2Proof.Machine.execKLh e t rd rs1 imm host s
  | .kLhu e t rd rs1 imm host => Sys2Proof.Machine.execKLhu e t rd rs1 imm host s
  | .kLw e t rd rs1 imm host => Sys2Proof.Machine.execKLw e t rd rs1 imm host s
  | .kLhbe e t rd rs1 imm host => Sys2Proof.Machine.execKLhbe e t rd rs1 imm host s
  | .kLwbe e t rd rs1 imm host => Sys2Proof.Machine.execKLwbe e t rd rs1 imm host s
  | .kSb e t rs2 rs1 imm => Sys2Proof.Machine.execKSb e t rs2 rs1 imm s
  | .kSh e t rs2 rs1 imm => Sys2Proof.Machine.execKSh e t rs2 rs1 imm s
  | .kSw e t rs2 rs1 imm => Sys2Proof.Machine.execKSw e t rs2 rs1 imm s
  | .kShbe e t rs2 rs1 imm => Sys2Proof.Machine.execKShbe e t rs2 rs1 imm s
  | .kSwbe e t rs2 rs1 imm => Sys2Proof.Machine.execKSwbe e t rs2 rs1 imm s
  | .kBeq e t rs1 rs2 off => Sys2Proof.Machine.execKBeq e t rs1 rs2 off s
  | .kBne e t rs1 rs2 off => Sys2Proof.Machine.execKBne e t rs1 rs2 off s
  | .kBlt e t rs1 rs2 off => Sys2Proof.Machine.execKBlt e t rs1 rs2 off s
  | .kBge e t rs1 rs2 off => Sys2Proof.Machine.execKBge e t rs1 rs2 off s
  | .kBltu e t rs1 rs2 off => Sys2Proof.Machine.execKBltu e t rs1 rs2 off s
  | .kBgeu e t rs1 rs2 off => Sys2Proof.Machine.execKBgeu e t rs1 rs2 off s
  | .kEvwait e t rd rs1 => Sys2Proof.Machine.execKEvwait e t rd rs1 s
  | .kEvwaitTimeout e t => Sys2Proof.Machine.execKEvwaitTimeout e t s
  | .kEvdoneCommit e t => Sys2Proof.Machine.execKEvdoneCommit e t s
  | .kEvdoneDiscard e t => Sys2Proof.Machine.execKEvdoneDiscard e t s
  | .kReady e t => Sys2Proof.Machine.execKReady e t s
  | .kKeep e t rd => Sys2Proof.Machine.execKKeep e t rd s
  | .kRelease e t rs1 => Sys2Proof.Machine.execKRelease e t rs1 s
  | .kBopen e t rs1 => Sys2Proof.Machine.execKBopen e t rs1 s
  | .kBabort e t => Sys2Proof.Machine.execKBabort e t s
  | .kSend e t rs1 => Sys2Proof.Machine.execKSend e t rs1 s
  | .kTime e t rd sel => Sys2Proof.Machine.execKTime e t rd sel s
  | .kTmrset e t rs1 rs2 => Sys2Proof.Machine.execKTmrset e t rs1 rs2 s
  | .kTmrcan e t rs1 => Sys2Proof.Machine.execKTmrcan e t rs1 s
  | .kBerw e t rd rs1 rs2 => Sys2Proof.Machine.execKBerw e t rd rs1 rs2 s
  | .kCrc e t rd rs1 rs2 => Sys2Proof.Machine.execKCrc e t rd rs1 rs2 s
  | .kCsum e t rd rs1 rs2 => Sys2Proof.Machine.execKCsum e t rd rs1 rs2 s
  | .kAuth e t rd rs1 => Sys2Proof.Machine.execKAuth e t rd rs1 s
  | .kLkacq e t rd rs1 => Sys2Proof.Machine.execKLkacq e t rd rs1 s
  | .kLkrel e t rs1 => Sys2Proof.Machine.execKLkrel e t rs1 s
  | .kFenceTank e t => Sys2Proof.Machine.execKFenceTank e t s
  | .kFenceHost e t => Sys2Proof.Machine.execKFenceHost e t s
  | .kFenceAll e t => Sys2Proof.Machine.execKFenceAll e t s
  | .kTrap e t rs1 => Sys2Proof.Machine.execKTrap e t rs1 s
  | .riderIntervalEnd => Sys2Proof.Machine.execRiderIntervalEnd s
  | .pageInComplete c home => Sys2Proof.Machine.execPageInComplete c home s
  | .pageOutComplete c ecc => Sys2Proof.Machine.execPageOutComplete c ecc s
  | .migrationDrained c => Sys2Proof.Machine.execMigrationDrained c s
  | .migrateTimeout c => Sys2Proof.Machine.execMigrateTimeout c s
  | .riderCreate src => Sys2Proof.Machine.execRiderCreate src s
  | .riderRetire src => Sys2Proof.Machine.execRiderRetire src s
  | .riderMove src => Sys2Proof.Machine.execRiderMove src s
  | .riderPin src => Sys2Proof.Machine.execRiderPin src s
  | .riderUnpin src => Sys2Proof.Machine.execRiderUnpin src s
  | .riderResident src => Sys2Proof.Machine.execRiderResident src s
  | .riderEvict src => Sys2Proof.Machine.execRiderEvict src s
  | .riderRead src => Sys2Proof.Machine.execRiderRead src s
  | .riderWrite src data => Sys2Proof.Machine.execRiderWrite src data s
  | .riderClearPoison src data => Sys2Proof.Machine.execRiderClearPoison src data s
  | .riderMap src => Sys2Proof.Machine.execRiderMap src s
  | .riderRunPolicy src => Sys2Proof.Machine.execRiderRunPolicy src s
  | .tankAccess m x op bytes n => Sys2Proof.Machine.execTankAccess m x op bytes n s
  | .leaseWrite m v => Sys2Proof.Machine.execLeaseWrite m v s
  | .leaseApply b => Sys2Proof.Machine.execLeaseApply b s
  | .lockRead m ix => Sys2Proof.Machine.execLockRead m ix s
  | .lockWrite m ix => Sys2Proof.Machine.execLockWrite m ix s
  | .lockForce f v => Sys2Proof.Machine.execLockForce f v s
  | .mbxSend m c => Sys2Proof.Machine.execMbxSend m c s
  | .mbxAckWrite m c v => Sys2Proof.Machine.execMbxAckWrite m c v s
  | .mbxAckRead m c => Sys2Proof.Machine.execMbxAckRead m c s
  | .mbxWakeLimit c => Sys2Proof.Machine.execMbxWakeLimit c s
  | .bankSupplyCheck b millivolts => Sys2Proof.Machine.execBankSupplyCheck b millivolts s
  | .flumeStart f e v => Sys2Proof.Machine.execFlumeStart f e v s
  | .flumeResume f e v => Sys2Proof.Machine.execFlumeResume f e v s
  | .flumeStartMatch f e v => Sys2Proof.Machine.execFlumeStartMatch f e v s
  | .flumeStop f e v => Sys2Proof.Machine.execFlumeStop f e v s
  | .flumeMatchReached e => Sys2Proof.Machine.execFlumeMatchReached e s
  | .flumeStallResume e pins edgeAt => Sys2Proof.Machine.execFlumeStallResume e pins edgeAt s
  | .fIdle e n1 => Sys2Proof.Machine.execFIdle e n1 s
  | .fDrive e m v t => Sys2Proof.Machine.execFDrive e m v t s
  | .fDir e m d => Sys2Proof.Machine.execFDir e m d s
  | .fFlumeSend e n1 p inv => Sys2Proof.Machine.execFFlumeSend e n1 p inv s
  | .fRecv e n1 p inv pins => Sys2Proof.Machine.execFRecv e n1 p inv pins s
  | .fEmit e n1 t => Sys2Proof.Machine.execFEmit e n1 t s
  | .fGather e n1 pins => Sys2Proof.Machine.execFGather e n1 pins s
  | .fWaitLevel e pol p pins => Sys2Proof.Machine.execFWaitLevel e pol p pins s
  | .fWaitEdge e pol p edgeAt => Sys2Proof.Machine.execFWaitEdge e pol p edgeAt s
  | .fWaitFlag e pol clr rel flag => Sys2Proof.Machine.execFWaitFlag e pol clr rel flag s
  | .fWaitMark e => Sys2Proof.Machine.execFWaitMark e s
  | .fBr e c a pins => Sys2Proof.Machine.execFBr e c a pins s
  | .fLoop e k a => Sys2Proof.Machine.execFLoop e k a s
  | .fFlagSet e rel flag => Sys2Proof.Machine.execFFlagSet e rel flag s
  | .fFlagClear e rel flag => Sys2Proof.Machine.execFFlagClear e rel flag s
  | .fFlagSetWait e rel flag => Sys2Proof.Machine.execFFlagSetWait e rel flag s
  | .fSetk e k v => Sys2Proof.Machine.execFSetk e k v s
  | .fAddk e k v => Sys2Proof.Machine.execFAddk e k v s
  | .fLoadk e k => Sys2Proof.Machine.execFLoadk e k s
  | .fXferFetch e => Sys2Proof.Machine.execFXferFetch e s
  | .fXferTryFetch e => Sys2Proof.Machine.execFXferTryFetch e s
  | .fXferDeposit e => Sys2Proof.Machine.execFXferDeposit e s
  | .fXferTryDeposit e => Sys2Proof.Machine.execFXferTryDeposit e s
  | .fXferLoadm e => Sys2Proof.Machine.execFXferLoadm e s
  | .fXferStamp e => Sys2Proof.Machine.execFXferStamp e s
  | .fXferNow e => Sys2Proof.Machine.execFXferNow e s
  | .fXferBranchSl e => Sys2Proof.Machine.execFXferBranchSl e s
  | .fXferDirs e => Sys2Proof.Machine.execFXferDirs e s
  | .fXferClear e => Sys2Proof.Machine.execFXferClear e s
  | .flumeDmaTxPoll e => Sys2Proof.Machine.execFlumeDmaTxPoll e s
  | .flumeDmaRxWrite e => Sys2Proof.Machine.execFlumeDmaRxWrite e s
  | .flmDmaCtlWrite f e v => Sys2Proof.Machine.execFlmDmaCtlWrite f e v s
  | .flmTxqPush f e v => Sys2Proof.Machine.execFlmTxqPush f e v s
  | .flmRxqPop f e => Sys2Proof.Machine.execFlmRxqPop f e s
  | .flmFlagSetWrite f v => Sys2Proof.Machine.execFlmFlagSetWrite f v s
  | .flmFlagClrWrite f v => Sys2Proof.Machine.execFlmFlagClrWrite f v s
  | .flumeConfigWrite f a v => Sys2Proof.Machine.execFlumeConfigWrite f a v s
  | .submissionDoorbell f kind q v => Sys2Proof.Machine.execSubmissionDoorbell f kind q v s
  | .cqDoorbell f q v => Sys2Proof.Machine.execCqDoorbell f q v s
  | .queueEnable f kind q v => Sys2Proof.Machine.execQueueEnable f kind q v s
  | .queueDisable f kind q v => Sys2Proof.Machine.execQueueDisable f kind q v s
  | .queueFetch f kind q entries => Sys2Proof.Machine.execQueueFetch f kind q entries s
  | .cmdNop f q => Sys2Proof.Machine.execCmdNop f q s
  | .fenceOrder f q => Sys2Proof.Machine.execFenceOrder f q s
  | .fenceVisible f q => Sys2Proof.Machine.execFenceVisible f q s
  | .twinWitness f q => Sys2Proof.Machine.execTwinWitness f q s
  | .txDescriptor f t => Sys2Proof.Machine.execTxDescriptor f t s
  | .txHostReadDone f t bytes good => Sys2Proof.Machine.execTxHostReadDone f t bytes good s
  | .rxDelivery f => Sys2Proof.Machine.execRxDelivery f s
  | .functionLevelReset f => Sys2Proof.Machine.execFunctionLevelReset f s
  | .msixUnmask f v => Sys2Proof.Machine.execMsixUnmask f v s
  | .msixEnableSet f => Sys2Proof.Machine.execMsixEnableSet f s
  | .resyncRequest f v => Sys2Proof.Machine.execResyncRequest f v s
  | .resyncSnapshot => Sys2Proof.Machine.execResyncSnapshot s
  | .resyncSigned => Sys2Proof.Machine.execResyncSigned s
  | .resyncSummaryWritten good => Sys2Proof.Machine.execResyncSummaryWritten good s
  | .resyncResume f v => Sys2Proof.Machine.execResyncResume f v s
  | .culvertLaneUp n => Sys2Proof.Machine.execCulvertLaneUp n s
  | .culvertLaneDown n => Sys2Proof.Machine.execCulvertLaneDown n s
  | .identTimer => Sys2Proof.Machine.execIdentTimer s
  | .identRx bytes => Sys2Proof.Machine.execIdentRx bytes s
  | .heartbeatTimer => Sys2Proof.Machine.execHeartbeatTimer s
  | .heartbeatRx bytes => Sys2Proof.Machine.execHeartbeatRx bytes s
  | .heartbeatLoss => Sys2Proof.Machine.execHeartbeatLoss s
  | .mirrorRx bytes => Sys2Proof.Machine.execMirrorRx bytes s
  | .imageRx bytes => Sys2Proof.Machine.execImageRx bytes s
  | .mirrorTimeTimer => Sys2Proof.Machine.execMirrorTimeTimer s
  | .roleWireEdge => Sys2Proof.Machine.execRoleWireEdge s
  | .roleWireSilence => Sys2Proof.Machine.execRoleWireSilence s
  | .pairWaitExpiry => Sys2Proof.Machine.execPairWaitExpiry s
  | .takebackSettleExpiry => Sys2Proof.Machine.execTakebackSettleExpiry s
  | .handoverDone => Sys2Proof.Machine.execHandoverDone s
  | .culFence f v => Sys2Proof.Machine.execCulFence f v s
  | .culUnfence f v => Sys2Proof.Machine.execCulUnfence f v s
  | .culBind f v => Sys2Proof.Machine.execCulBind f v s
  | .culUnbind f v => Sys2Proof.Machine.execCulUnbind f v s
  | .sentinelWriteDone => Sys2Proof.Machine.execSentinelWriteDone s
  | .freezeNAssert ns => Sys2Proof.Machine.execFreezeNAssert ns s
  | .freezeNRelease => Sys2Proof.Machine.execFreezeNRelease s
  | .frzCtlFreeze f v => Sys2Proof.Machine.execFrzCtlFreeze f v s
  | .jtagFreeze v => Sys2Proof.Machine.execJtagFreeze v s
  | .jtagThaw v => Sys2Proof.Machine.execJtagThaw v s
  | .autothawExpiry => Sys2Proof.Machine.execAutothawExpiry s
  | .jtagIdcode => Sys2Proof.Machine.execJtagIdcode s
  | .jtagSamplePreload => Sys2Proof.Machine.execJtagSamplePreload s
  | .jtagExtest => Sys2Proof.Machine.execJtagExtest s
  | .jtagClamp => Sys2Proof.Machine.execJtagClamp s
  | .jtagHighz => Sys2Proof.Machine.execJtagHighz s
  | .jtagBypass code => Sys2Proof.Machine.execJtagBypass code s
  | .jtagFrzAddr v => Sys2Proof.Machine.execJtagFrzAddr v s
  | .jtagFrzData words => Sys2Proof.Machine.execJtagFrzData words s
  | .tapReset => Sys2Proof.Machine.execTapReset s
  | .writeToken f v => Sys2Proof.Machine.execWriteToken f v s
  | .clearToken f v => Sys2Proof.Machine.execClearToken f v s
  | .logAck f v => Sys2Proof.Machine.execLogAck f v s
  | .ackVbat f v => Sys2Proof.Machine.execAckVbat f v s
  | .tamperCfg f v => Sys2Proof.Machine.execTamperCfg f v s
  | .tamperDetect n => Sys2Proof.Machine.execTamperDetect n s
  | .vbatLoss => Sys2Proof.Machine.execVbatLoss s
  | .vbatRestore => Sys2Proof.Machine.execVbatRestore s
  | .senRtcRead f => Sys2Proof.Machine.execSenRtcRead f s
  | .tempSensorUpdate n v => Sys2Proof.Machine.execTempSensorUpdate n v s
  | .ageingMeasurement ix v => Sys2Proof.Machine.execAgeingMeasurement ix v s
  | .illegalInstructionWord e t w => Sys2Proof.Machine.execIllegalInstructionWord e t w s
  | .flumeIllegalInstruction e w => Sys2Proof.Machine.execFlumeIllegalInstruction e w s
  | .busMasterEnableClear f => Sys2Proof.Machine.execBusMasterEnableClear f s
  | .eventBoundaryTimeout => Sys2Proof.Machine.execEventBoundaryTimeout s

end Sys2Proof.Machine
end

