-- ==== Sys2Proof/Machine/Tick.lean ====
section
/-!
DEFINITION. What one TIME cycle, which is one ns, does when no command waits (R89, log entry 2).
-/
namespace Sys2Proof.Machine

/-- The PTP clock runs: its PLL has locked (R512), and the islands execute; in a freeze only with TIME_RUN (R467). -/
def clockRuns (s : State) : Bool := regBit s Reg.PWR_CLK_STAT 1 && (active s || (s.frz.frozen && s.frz.timeRun))

/-- What the slew in progress adds in this cycle, in units of 2⁻³² ns (R92). -/
def slewDelta (c : Clock) : Int :=
  match c.slew with
  | none => 0
  | some w => if w.negative then -((slewPart w * 256 : Nat) : Int) else ((slewPart w * 256 : Nat) : Int)

/-- The clock's cycle: increment and slew, which FREE domains take off their offset (R219); in a freeze the increment alone (R467). -/
def tickClock (s : State) : State :=
  if !clockRuns s then s
  else
    let s := { s with clk := { s.clk with wait := s.clk.wait - 1 } }
    if s.frz.frozen then
      { s with clk := clkAdd s.clk ((s.clk.incInt.toNat * 2 ^ 32 + s.clk.incFrac.toNat : Nat) : Int) }
    else
      let t := { s with clk := clkTick s.clk }
      if s.clk.slew.isSome then furShift t (slewDelta s.clk) else t

/-- The sentinel's ticks of 32.768 kHz, while VBAT holds (R479). -/
def tickSen (s : State) : State :=
  if s.sen.vbat then
    { s with sen := { s.sen with ticks := s.sen.ticks + BitVec.ofNat 48 (s.now * 32768 / 1000000000 - (s.now - 1) * 32768 / 1000000000) } }
  else s

/-- The half cycles of the clusters that are on (Table 1-7, R84). -/
def tickClusters (s : State) : State :=
  [0, 1, 2, 3].foldl (fun s c =>
    if domOn s (10 + c) then
      let n := tabGet (fun _ => 0) s.krn.half c + (if regBit s Reg.PWR_OPPOINT_STAT c then 1 else 2)
      { s with krn := { s.krn with half := tabSet (fun _ => 0) s.krn.half c n } }
    else s) s

/-- The role-wire generator (R449): at its next edge it takes up the pattern of WIRE_OUT; CLAIM toggles every 5 µs, YIELD every 20 µs, and
SILENT is steady high. It is clocked from REFCLK_SYS, so that it also runs in a freeze and a system reset. -/
def tickWire (s : State) : State :=
  let p := regFld s Reg.CUL_STAT 23 22
  if s.now < s.cul.wireNext then s
  else if p = 0 then
    if s.cul.wireHigh then s else emit { s with cul := { s.cul with wireHigh := true } } (.roleWire true)
  else
    let up := !s.cul.wireHigh
    emit { s with cul := { s.cul with wireHigh := up, wireNext := s.now + (if p = 1 then 5000 else 20000) } } (.roleWire up)

/-- What follows from the passing of running time: a launch target that is past, the settling of the twin, the WAIT and conflict counters,
the far accesses of the engines that reach CORE, and the events of timers that have fired (R215, R288, R313, R382, R455). -/
def tickSettle (s : State) : State :=
  let s := farTick (tickConflict (sluTick (pubSettle s)))
  let s := ((s.krn.eng.filter (fun x => !x.2.fired.isEmpty)).map (fun x => x.1)).foldl firedPost s
  if s.cul.started && domOn s 16 then culSettle s else s

/-- The flume engines that are stalled pass the ticks at which nothing found their condition (R401). -/
def tickStalls (s : State) : State := if domOn s 15 then (flmUnfinished s).foldl flmPass s else s

/-- The flume engines whose instructions occupy several ticks or cells go on (R401). -/
def tickFlume (s : State) : State := if domOn s 15 then (flmUnfinished s).foldl flmAct s else s

/-- The idle timers of the clusters (R81). -/
def tickIdle (s : State) : State := [0, 1, 2, 3].foldl idleTick s

/-- One TIME cycle, but for the reset pins. -/
def tickRun (s : State) : State :=
  let r := if active s then tickStalls (tickIdle s) else s
  let t := tickWire (tickSen { ppsBack (tickClock r) with now := s.now + 1, run := if active s then s.run + 1 else s.run })
  if active s then tickSettle (tickFlume (tickClusters t)) else t

/-- One TIME cycle. -/
def tick (s : State) : State := tickPins (tickRun s)

end Sys2Proof.Machine
end

