-- ==== Sys2Proof/Safety.lean ====
section
/-!
DEFINITION. What counts as a sound state: the invariant that every step keeps, and when a command of the host or of a unit
takes its effect.
-/
namespace Sys2Proof.Machine

/-- A set that waits for its instant holds a NS that R93 admits. -/
def HeldOk : HeldClk → Prop
  | .set _ ns => ns ≤ 999999999
  | .step _ => True
  | .slew _ _ => True

/-- The clock is consistent (R89, R93, R97): NS counts below one second, ns32 is (SEC × 10⁹ + NS) mod 2³², and every set that waits
will load such a NS. -/
structure ClockOk (c : Clock) : Prop where
  ns : c.ns.toNat < 1000000000
  ns32 : c.ns32 = BitVec.ofNat 32 (c.sec.toNat * 1000000000 + c.ns.toNat)
  held : ∀ h ∈ c.held, HeldOk h

/-- The invariant of the machine: the register file and tank memory are in canonical form, and the clock is consistent. -/
structure Inv (s : State) : Prop where
  regs : tabWf regReset 0 s.regs = true
  mem : tabWf (fun _ => 0) 0 s.tnk.mem = true
  clock : ClockOk s.clk

/-- The host reaches the block that an address belongs to: the device answers, and the block's domain is on (R28, R67, R469). -/
abbrev HostSees (s : State) (a : Nat) : Prop := hostReach s a = true ∧ domOn s (addrDomain a) = true

/-- A unit of domain `d` executes: the islands run, and the domain is on (R64, R468). -/
abbrev UnitRuns (s : State) (d : Nat) : Prop := active s = true ∧ domOn s d = true

/-- A write of master `m` to a discipline register at `a` takes effect: it reaches the time block, and `m` is the discipliner (R90). -/
abbrev Disciplines (s : State) (m a : Nat) : Prop :=
  regFld s Reg.TIM_DISC_OWNER 5 0 = m ∧ (36 ≤ m → m < 40 → HostSees s a) ∧ (m < 36 ∨ 40 ≤ m → active s = true)

/-- TIME executes: the islands run, or a freeze with TIME_RUN leaves it running (R467). -/
abbrev TimeRuns (s : State) : Prop := active s = true ∨ (s.frz.frozen = true ∧ s.frz.timeRun = true)

/-- A port receives from its wire: its island runs, it is enabled, linked and in full service, and it is not looped back (R128, R142). -/
abbrev PortReceives (s : State) (p : Nat) : Prop :=
  UnitRuns s (portDomain p) ∧ portServed s p = true ∧ portEn s p = true ∧ portLink s p = true ∧ (portGet s p).loop = false

/-- Thread `t` of engine `e` issues the instruction word `w`: the islands run, it is the thread's turn, no refused store of it is still to be
taken, and the word stands at its PC (R300, R328, R349). -/
abbrev ThreadIssues (s : State) (e t : Nat) (w : Word) : Prop :=
  active s = true ∧ krnMay s e t = true ∧ (thrGet s e t).refused = none ∧ krnWord s e t = w

/-- An access of master `m` to a block of CORE at `a` reaches it: a host function's passes the host's reach, any other's comes about while D3
runs. -/
abbrev MasterReaches (s : State) (m a : Nat) : Prop :=
  (36 ≤ m → m < 40 → HostSees s a) ∧ (m < 36 ∨ 40 ≤ m → UnitRuns s 3)

/-- Flume engine `e` starts the instruction word `w`: D15 runs, the engine is RUNNING at a tick of its own with no instruction unfinished, and
the word stands at its PC (R401). -/
abbrev FlumeIssues (s : State) (e : Nat) (w : BitVec 16) : Prop :=
  UnitRuns s 15 ∧ (fluGet s e).mode = .running ∧ (fluGet s e).rest = none ∧ atTick s e = true ∧ flmWord s e = w

/-- The queue unit and the frame rings of the host block act: the islands run, and D2 is on. -/
abbrev HostUnitRuns (s : State) : Prop := UnitRuns s 2

/-- The TAP answers: R473. -/
abbrev TapAnswers (s : State) : Prop := tapUp s = true

end Sys2Proof.Machine
end

