-- ==== Sys2Proof/Certificates/Slice0/Obligations.lean ====
section
/-!
DEFINITION. The statements about the model, for the provers: what each command does, the invariants of a step, and what the rules of the spec
say of the machine as a whole.
-/
open Sys2Proof Sys2Proof.Machine

/-- A step on a queue with a command at its front is that command's effect on the state with the queue's rest. -/
def Obligations.StepRunsTheFrontCommand : Prop :=
  ∀ (c : Instr) (q : List Instr) (s : State), step { s with pending := c :: q } = exec c { s with pending := q }

/-- On an empty queue the block idles for one TIME cycle (log entry 2, a choice of the model). With the islands running, the idle timers and
the stalled flume engines are taken first; then the clock, the PPS generators, the sentinel, the role wire, the clusters, the flume engines and
what follows from running time pass one cycle, and `now` and `run` each count it. With the islands stopped by a reset, a freeze or deep
standby, `run` stands and only the clock, the PPS generators, the sentinel and the role wire pass it; the clock itself stands then, unless a
freeze has TIME_RUN set. A reset pin that has been low for 100 ns is taken last (R65). -/
def Obligations.EmptyQueueLetsTimePass : Prop :=
  (∀ s r : State, s.pending = [] → active s = true → r = tickStalls (tickIdle s) →
    step s = .next (tickPins (tickSettle (tickFlume (tickClusters
      (tickWire (tickSen { ppsBack (tickClock r) with now := s.now + 1, run := s.run + 1 })))))))
  ∧ (∀ s : State, s.pending = [] → active s = false →
    step s = .next (tickPins (tickWire (tickSen { ppsBack (tickClock s) with now := s.now + 1, run := s.run }))))
  ∧ (∀ s : State, active s = false → s.frz.frozen = false → tickClock s = s)
  ∧ (∀ s : State, s.frz.frozen = true → s.frz.timeRun = false → tickClock s = s)

/-- No command faults or is refused, in any state, and none takes a command from the queue or puts one in: `step` alone does. -/
def Obligations.EveryCommandAnswersANextState : Prop :=
  ∀ (c : Instr) (s : State), ∃ t, exec c s = .next t ∧ t.pending = s.pending

/-- The invariant that every step keeps: the register file and tank memory stay in canonical form, NS stays below one second, ns32 stays
(SEC × 10⁹ + NS) mod 2³² (R97), and no set that R93 refuses waits. -/
def Obligations.EveryStepKeepsTheInvariant : Prop :=
  ∀ s t : State, Inv s → step s = .next t → Inv t

/-- The state after reset meets the invariant, with an empty queue, nothing listed in the register file or in tank memory, and the clock at
zero with an increment of 1.0 (R96). -/
def Obligations.ResetMeetsTheInvariant : Prop :=
  Inv State.reset ∧ State.reset.pending = [] ∧ State.reset.regs = [] ∧ State.reset.tnk.mem = []
  ∧ State.reset.clk.sec = 0 ∧ State.reset.clk.ns = 0 ∧ State.reset.clk.frac = 0 ∧ State.reset.clk.incInt = 1
  ∧ State.reset.clk.incFrac = 0 ∧ State.reset.pwr.porstLow = true

/-- What a write leaves in a register, field type by field type (R7, Table 0-2): a bit of a RW field, and of a RWL field whose block is not
locked, takes the written value; writing 1 clears a W1C bit and sets a W1S bit; every other bit stays. -/
def Obligations.RegisterFieldTypes : Prop :=
  ∀ (r : RegRow) (old v : Word) (i : Nat), i < 32 →
    r.rw &&& r.rwl = 0 → (r.rw ||| r.rwl) &&& r.w1c = 0 → (r.rw ||| r.rwl) &&& r.w1s = 0 → r.w1c &&& r.w1s = 0 →
    (r.rw.testBit i = true → ∀ l, (writeByType r l old v).getLsbD i = v.getLsbD i)
    ∧ (r.rwl.testBit i = true → (writeByType r false old v).getLsbD i = v.getLsbD i
        ∧ (writeByType r true old v).getLsbD i = old.getLsbD i)
    ∧ (r.w1c.testBit i = true → ∀ l, (writeByType r l old v).getLsbD i = (old.getLsbD i && !v.getLsbD i))
    ∧ (r.w1s.testBit i = true → ∀ l, (writeByType r l old v).getLsbD i = (old.getLsbD i || v.getLsbD i))
    ∧ (r.rw.testBit i = false → r.rwl.testBit i = false → r.w1c.testBit i = false → r.w1s.testBit i = false →
        ∀ l, (writeByType r l old v).getLsbD i = old.getLsbD i)

/-- Register accesses of the host (R5, R6, R7, R8, R28): a write that reaches a plain window acts by the field types and on that register
alone; an access that is not an aligned word, or to a block whose domain is off, has no effect but its cause and reads 0; a read of RC
fields outside the SLUICE and the port counters returns the value and clears them, or sets a highest value to what it measures now; a read of
the low word of a port counter is that counter's read (R147). -/
def Obligations.RegisterAccessEffects : Prop :=
  (∀ (f : Fin 4) (m : Fin 42) (a : Nat) (v : Word) (s : State) (r : RegRow), m.val = 36 + f.val → HostSees s a → s.pwr.resetRun = false →
    a % 4 = 0 → a / 0x100000 ∈ [0, 2, 8, 9, 12, 14] → findReg a = some r →
    exec (.registerWrite m a v) s
      = .next (blockIrq (irqStatus s) (regSet s (regKey f a) (writeByType r (locked s a) (regGet s (regKey f a)) v))))
  ∧ (∀ (f : Fin 4) (m : Fin 42) (a : Nat) (v : Word) (s : State), m.val = 36 + f.val → HostSees s a →
    a / 0x100000 ∈ [0, 2, 8, 9, 12, 14] → findReg a = none → exec (.registerWrite m a v) s = .next s)
  ∧ (∀ (f : Fin 4) (a : Nat) (w : Bool) (s : State), hostReach s a = true → inMailbox a = false →
    exec (.unalignedAccess f a w) s
      = .next (raise { regSet s Reg.GLB_ERR_ADDR (BitVec.ofNat 32 (f.val * 0x2000000 + a)) with rdata := 0 } Reg.GLB_CAUSE 0))
  ∧ (∀ (f : Fin 4) (a : Nat) (w : Bool) (s : State), hostReach s a = true → domOn s (addrDomain a) = false →
    exec (.domainOffAccess f a w) s
      = .next (raise { regSet s Reg.GLB_ERR_ADDR (BitVec.ofNat 32 (f.val * 0x2000000 + a)) with rdata := 0 } Reg.GLB_CAUSE 1))
  ∧ (∀ (f : Fin 4) (a : Nat) (s : State) (r : RegRow), HostSees s a → a % 4 = 0 → inMailbox a = false → a / 0x100000 ≠ 8 →
    counterAt a = none → findReg a = some r →
    exec (.rcRead f a) s
      = .next { regSet s (regKey f a) ((regGet s (regKey f a) &&& ~~~BitVec.ofNat 32 r.rc) ||| (highNow s a &&& BitVec.ofNat 32 r.rc)) with
          rdata := (regRead s f a).setWidth 64 })
  ∧ (∀ (f : Fin 4) (a p n : Nat) (s : State), HostSees s a → a % 4 = 0 → inMailbox a = false → counterAt a = some (p, n) →
    exec (.rcRead f a) s = .next (counterRead s p n))

/-- Crossings, ECC and scrubbing (R18, R19, R25, R26, R27): a word offered between two running islands is delivered once and counted; a
corrected error is counted by its memory's block; an uncorrectable one invalidates the entry and is reported as Table 1-12 states; a
scrub slot moves the position of its bank round. -/
def Obligations.CrossingEccAndScrubEffects : Prop :=
  (∀ (ch : Fin 90) (w : BitVec 512) (s : State), active s = true →
    crossOn s (crossEnds ch).1 = true → crossOn s (crossEnds ch).2 = true →
    ∃ l, l = tabSet (fun _ => (0, 0)) s.arch.crossing ch.val
          ((tabGet (fun _ => (0, 0)) s.arch.crossing ch.val).1 + 1, BitVec.ofNat 512 (w.toNat % 2 ^ crossWidth (ch.val / 2)))
      ∧ exec (.crossingWordDelivery ch w) s = .next { s with arch := { s.arch with crossing := l } })
  ∧ (∀ (m : EccMem) (i : Nat) (s : State) (cnt th cause bit : Nat), UnitRuns s (eccDomain m i) →
    eccCounter m = some (cnt, th, cause, bit) →
    ∃ t, t = count { s with arch := { s.arch with corrected := eccNote s.arch.corrected m i } } cnt cause
      ∧ exec (.correctableEccError m i) s = .next (if regGet t th ≤ regGet t cnt then raise t cause bit else t))
  ∧ (∀ (i : Nat) (s : State), UnitRuns s 3 →
    exec (.uncorrectableEccError .forwarding i) s
      = .next (raise (fdbSet { s with arch := { s.arch with uncorrectable := eccNote s.arch.uncorrectable .forwarding i } } i none) Reg.CIS_CAUSE 1))
  ∧ (∀ (i : Nat) (s : State), UnitRuns s 3 →
    exec (.uncorrectableEccError .stream i) s
      = .next (raise (regSet
          (hdgDrop (streamSet { s with arch := { s.arch with uncorrectable := eccNote s.arch.uncorrectable .stream i } } i (zeros 32)) 16)
          Reg.HDG_ECC_TABLE (BitVec.ofNat 32 (i % 2 ^ 17))) Reg.HDG_CAUSE 3))
  ∧ (∀ (i : Nat) (s : State), UnitRuns s 3 → i < 0x400000 →
    exec (.uncorrectableEccError .tank i) s
      = .next (tankPoison { s with arch := { s.arch with uncorrectable := eccNote s.arch.uncorrectable .tank i } } i))
  ∧ (∀ (i : Nat) (s : State), UnitRuns s 1 →
    exec (.uncorrectableEccError .supervisor i) s
      = .next (supervisorFatal { s with arch := { s.arch with uncorrectable := eccNote s.arch.uncorrectable .supervisor i } } 1))
  ∧ (∀ (bank : Fin 64) (s : State), UnitRuns s 4 →
    ∃ n, n = (tabGet (fun _ => 0) s.arch.scrub bank.val + 1) % 49152
      ∧ exec (.scrubSlot 0 bank) s = .next { s with arch := { s.arch with scrub := tabSet (fun _ => 0) s.arch.scrub bank.val n } })

/-- Commands of the image loader (R50, R58, R59). A load, or a swap over a running image, is accepted once the loader has started, is idle
and is not locked: STATE becomes VERIFY or SWAP_VERIFY. Before it has started, or while LOAD_LOCK is set, it is refused. An abort ends a
command before commit with ABORTED. A revocation within the rules of R50 programs its fuse. -/
def Obligations.LoaderCommands : Prop :=
  (∀ (f : Fin 4) (v : Word) (s : State), HostSees s Reg.IMG_LOAD → regBit s Reg.GLB_STATUS 4 = true → regBit s Reg.IMG_LOCK 1 = false →
    imgState s ∉ [1, 2, 4, 5, 8] →
    ∃ c i, c = ({ swap := false, src := fld v 1 0, func := f.val, boot := false } : LoadCmd)
      ∧ i = ({ s.img with bootNext := [], cmd := some c, held := none, applied := [] } : ImgState)
      ∧ exec (.imgLoad f v) s = .next { imgProgress (imgTo s 1) 0 0 with img := i })
  ∧ (∀ (f : Fin 4) (v : Word) (s : State), HostSees s Reg.IMG_SWAP → regBit s Reg.GLB_STATUS 4 = true → regBit s Reg.IMG_LOCK 1 = false →
    imgState s = 3 →
    ∃ c i, c = ({ swap := true, src := fld v 1 0, func := f.val, boot := false } : LoadCmd)
      ∧ i = ({ s.img with bootNext := [], cmd := some c, held := none, applied := [] } : ImgState)
      ∧ exec (.imgSwap f v) s = .next { imgProgress (imgTo s 4) 0 0 with img := i })
  ∧ (∀ (f : Fin 4) (v : Word) (s : State), HostSees s Reg.IMG_SWAP → regBit s Reg.GLB_STATUS 4 = true → regBit s Reg.IMG_LOCK 1 = false →
    imgState s ≠ 3 → exec (.imgSwap f v) s = .next (raise s Reg.IMG_CAUSE 2))
  ∧ (∀ (f : Fin 4) (v : Word) (s : State), HostSees s Reg.IMG_LOAD → regBit s Reg.GLB_STATUS 4 = false →
    exec (.imgLoad f v) s = .next (raise s Reg.IMG_CAUSE 2) ∧ exec (.imgSwap f v) s = .next (raise s Reg.IMG_CAUSE 2))
  ∧ (∀ (f : Fin 4) (v : Word) (s : State), HostSees s Reg.IMG_LOAD → regBit s Reg.GLB_STATUS 4 = true → regBit s Reg.IMG_LOCK 1 = true →
    ∃ t, t = regSetFld (regSetFld s Reg.IMG_STATUS 15 8 0x14) Reg.IMG_STATUS 23 16 0xFF
      ∧ exec (.imgLoad f v) s = .next (raise t Reg.IMG_CAUSE 2) ∧ exec (.imgSwap f v) s = .next (raise t Reg.IMG_CAUSE 2))
  ∧ (∀ (f : Fin 4) (v : Word) (s : State) (c : LoadCmd), HostSees s Reg.IMG_ABORT → s.img.cmd = some c → bitOf v 0 = true →
    imgState s ∈ [1, 2, 4, 5] → s.img.running.isSome = true →
    ∃ t i, t = regSet (regSetFld (regSetFld s Reg.IMG_STATUS 15 8 0x15) Reg.IMG_STATUS 23 16 0xFF) Reg.IMG_ERR_OFFSET 0
      ∧ i = ({ s.img with bootNext := [], cmd := none, held := none, applied := [] } : ImgState)
      ∧ exec (.imgAbort f v) s = .next (raise { imgTo t 3 with img := i } Reg.IMG_CAUSE 1))
  ∧ (∀ (f : Fin 4) (v : Word) (s : State), HostSees s Reg.IMG_KEY_REVOKE → fld v 31 16 = 0xA5C3 → regBit s Reg.IMG_LOCK 0 = false →
    s.img.running.isNone = true → slotsLeft s (fld v 1 0) = true → imgState s ∉ [1, 2, 4, 5] →
    exec (.imgKeyRevoke f v) s = .next { s with img := { s.img with revoking := s.img.revoking ++ [fld v 1 0] } })
  ∧ (∀ (f : Fin 4) (v : Word) (s : State), HostSees s Reg.IMG_KEY_REVOKE → (fld v 31 16 ≠ 0xA5C3 ∨ regBit s Reg.IMG_LOCK 0 = true) →
    exec (.imgKeyRevoke f v) s = .next (raise s Reg.IMG_CAUSE 5))
  ∧ (∀ (k : Nat) (l : List Nat) (s : State), active s = true → s.img.revoking = k :: l →
    ∃ t, t = { s with img := { s.img with revoking := l }, fuses := { s.fuses with revoked := s.fuses.revoked ||| (1#4 <<< k) } }
      ∧ exec .revokeDone s = .next (raise (regSetFld t Reg.IMG_KEYSLOT (16 + k) (16 + k) 1) Reg.IMG_CAUSE 4))

/-- The passes of the loader and the units of a swap (R54, R55, R62): a read that fails ends the verify pass with SOURCE, the first check
that fails ends it with its code, and with none failing the apply pass starts on the image as checked. A section that matches its digest is
marked applied, and the last one commits; one that differs ends with CHANGED. A unit applies at its safe point. -/
def Obligations.LoaderPassesAndSwapUnits : Prop :=
  (∀ (r : ImageRead) (s : State) (c : LoadCmd), active s = true → s.img.cmd = some c → imgState s ∈ [1, 4] → r.answered = false →
    exec (.verifyComplete r) s = .next (imgFail s c (0x12, 0xFF, 0)))
  ∧ (∀ (r : ImageRead) (s : State) (c : LoadCmd), active s = true → s.img.cmd = some c → imgState s ∈ [1, 4] →
    r.answered = true → 64 ≤ r.bytes.length → sourceUp s c = true → sourceServes c r.bytes = true →
    ∀ p v w t, p = imgProgress s 0 (min r.bytes.length (leAt r.bytes 8 4)) → v = verify p r.bytes c.swap →
    w = v.2.1.elim p (bindShow p) → t = imgProgress (imgTo w (if c.swap then 5 else 2)) 1 0 →
    exec (.verifyComplete r) s
      = .next (v.1.elim (v.2.2.elim w (fun i => { t with img := { t.img with held := some i, applied := [] } })) (imgFail w c)))
  ∧ (∀ (r : ImageRead) (s : State) (c : LoadCmd) (e : ImgError), active s = true → s.img.cmd = some c → imgState s ∈ [1, 4] →
    r.answered = true → 64 ≤ r.bytes.length → sourceUp s c = true → sourceServes c r.bytes = true → headerBad r.bytes = some e →
    exec (.verifyComplete r) s = .next (imgFail (imgProgress s 0 (min r.bytes.length (leAt r.bytes 8 4))) c e))
  ∧ (∀ (n : Nat) (b : List Byte) (s : State) (c : LoadCmd) (i : Image) (x : ImgSection) (rest : List Nat), active s = true →
    s.img.cmd = some c → s.img.held = some i → i.sections[n]? = some x → sourceUp s c = true →
    (applyReads s c i).filter (fun j => !s.img.applied.contains j) = n :: rest →
    ∀ t u, t = imgProgress s 1 (regFld s Reg.IMG_PROGRESS 26 0 + x.payload.length) →
    u = { t with img := { t.img with applied := t.img.applied ++ [n] } } →
    exec (.applySectionRead n b) s
      = .next (if Config.sha256 b = Config.sha256 x.payload then (if rest = [] then imgCommit u c i else u)
          else imgFail s c (0x11, n, x.offset)))
  ∧ (∀ (t u : Nat) (s : State), active s = true → t ≠ 9 → unitPends s t u = true → safePoint s t u = true →
    exec (.swapSafePointApply t u) s = .next (swapSettle (unitApply s t u)))
  ∧ (∀ (t u : Nat) (s : State), active s = true → unitPends s t u = false → exec (.swapSafePointApply t u) s = .next s)

/-- Resets (R64 to R67). A reset pin that falls is taken once it has been low for 100 ns, in the cycle in which that is so, and a pin that rises
before has no effect. PORST_N taken puts the machine at its reset values but for the fuses and the sentinel, the balls of the flume and the level
of FREEZE_N; its rise latches the straps and starts the ROM at step 1. A system reset keeps the link, the fuses and the sentinel; it starts with
SRST_N taken, or with GLB_RESET and its code; another code, and SRST_N while PORST_N is low, do nothing. It ends, once its hold is over, with the
straps latched again and the ROM at step 1. A hot reset while the link is up resets the four functions. -/
def Obligations.ResetEffects : Prop :=
  (∀ s : State, s.pwr.porstLow = false → s.pwr.porstFrom = none →
    exec .porstAssert s = .next { s with pwr := { s.pwr with porstFrom := some s.now } })
  ∧ (∀ (k : BitVec 4) (s : State), s.pwr.porstLow = false →
    exec (.porstRelease k) s = .next { s with pwr := { s.pwr with porstFrom := none } })
  ∧ (∀ (n : Nat) (s u : State), s.pending = [] → u = tickRun s → u.pwr.porstFrom = some n →
    (100 + n ≤ u.now → ∃ t, step s = .next t ∧ t.regs = [] ∧ t.tnk = State.reset.tnk
      ∧ t.img = State.reset.img ∧ t.krn = State.reset.krn ∧ t.clk = State.reset.clk ∧ t.pwr = State.reset.pwr ∧ t.hst = State.reset.hst
      ∧ t.fuses = u.fuses ∧ t.flm.ball = u.flm.ball ∧ t.frz.pinLow = u.frz.pinLow ∧ t.sen = senKeep u.sen)
    ∧ (u.now < 100 + n → u.pwr.srstFrom = none → step s = .next u))
  ∧ (∀ (k : BitVec 4) (s : State), s.pwr.porstLow = true →
    exec (.porstRelease k) s = .next { regSet s Reg.GLB_STRAP (k.setWidth 32) with
      now := 0, run := 0, pwr := { s.pwr with porstLow := false, romStep := 1 }, sen := { s.sen with isolated := false }
      frz := freezeHeld s.frz })
  ∧ (∀ s : State, s.pwr.porstLow = false → s.pwr.deep = false → s.pwr.srstLow = false → s.pwr.srstFrom = none →
    exec .srstAssert s = .next { s with pwr := { s.pwr with srstFrom := some s.now } })
  ∧ (∀ s : State, s.pwr.srstLow = false → exec .srstRelease s = .next { s with pwr := { s.pwr with srstFrom := none } })
  ∧ (∀ (n : Nat) (s u : State), s.pending = [] → u = tickRun s → u.pwr.porstFrom = none → u.pwr.srstFrom = some n →
    (100 + n ≤ u.now → u.pwr.porstLow = false → u.pwr.deep = false →
      ∃ t, step s = .next t ∧ t.pwr.resetRun = true ∧ t.pwr.srstLow = true ∧ t.pwr.holdEnd = none ∧ t.pwr.linkUp = u.pwr.linkUp
        ∧ t.tnk = State.reset.tnk ∧ t.img = State.reset.img ∧ t.krn = State.reset.krn ∧ t.fuses = u.fuses
        ∧ t.sen = senKeep u.sen ∧ t.frz.frozen = false)
    ∧ (u.now < 100 + n → step s = .next u))
  ∧ (∀ s : State, s.pwr.porstLow = false → s.pwr.deep = false → s.pwr.srstLow = true →
    exec .srstRelease s = .next { s with pwr := { s.pwr with srstLow := false, holdEnd := some (s.now + 10000) } })
  ∧ (∀ s : State, s.pwr.porstLow = true → exec .porstAssert s = .next s ∧ exec .srstAssert s = .next s)
  ∧ (∀ (f : Fin 4) (v : Word) (s : State), HostSees s Reg.GLB_RESET → s.pwr.resetRun = false → fld v 31 16 = 0x5A3C → bitOf v 0 = true →
    exec (.glbResetSys f v) s = .next (srstBegin s (some (s.now + 10000))))
  ∧ (∀ (f : Fin 4) (v : Word) (s : State), HostSees s Reg.GLB_RESET → fld v 31 16 ≠ 0x5A3C → exec (.glbResetSys f v) s = .next s)
  ∧ (∀ (k : BitVec 4) (s : State) (t : Nat), s.pwr.resetRun = true → s.pwr.holdEnd = some t → t ≤ s.now →
    ∃ u, u = { s with pwr := { s.pwr with resetRun := false, holdEnd := none, romStep := 1 } }
      ∧ exec (.systemResetHoldEnd k) s = .next (regSetFld (regSet u Reg.GLB_STRAP (k.setWidth 32)) Reg.CUL_STAT 23 22 0))
  ∧ (∀ (k : BitVec 4) (s : State) (t : Nat), s.pwr.holdEnd = some t → s.now < t → exec (.systemResetHoldEnd k) s = .next s)
  ∧ (∀ s : State, s.pwr.linkUp = true → s.pwr.deep = false →
    exec .pcieHotReset s = .next (pauseSweep ([0, 1, 2, 3].foldl fnReset s)))

/-- Bring-up and trickle service (R69 to R76): a good fuse sense goes on to step 2 and a bad one stops the ROM; a PLL that is due locks, or
fails, which stops the ROM where the early steps need it; trickle service starts 30 ms after PORST_N at the earliest, with D3 and D5 on and no image
running; it receives the frames of a port that is up and ages what it holds; it hands over to full service once an image runs, and the first frame
of full service records the gap. -/
def Obligations.BringUpAndTrickleEffects : Prop :=
  (∀ s : State, active s = true → s.pwr.romStep = 1 →
    exec (.fuseSenseDone true) s = .next (romTo (fuseLoad s) 2) ∧ exec (.fuseSenseDone false) s = .next (bootFault s))
  ∧ (∀ (p : Fin 10) (s : State), active s = true → pllDue s p.val = true → pllOver s p.val = false →
    exec (.pllLocked p) s = .next (romNext (romPll (regSetFld s Reg.PWR_CLK_STAT p.val p.val 1))))
  ∧ (∀ (p : Fin 10) (s t u : State), active s = true → pllDue s p.val = true → pllOver s p.val = false →
    t = { s with pwr := { s.pwr with pllFailed := s.pwr.pllFailed ||| (1#10 <<< p.val) } } → u = (if p.val = 9 then linkSet t false else t) →
    exec (.pllLockTimeout p) s
      = .next (if (p.val ≤ 1 ∧ s.pwr.romStep = 2) ∨ (p.val = 9 ∧ s.pwr.romStep = 5) then bootFault u else romNext (romPll u)))
  ∧ (∀ s : State, active s = true → domOn s 3 = true → domOn s 5 = true → strapTrickle s = true → s.img.running.isNone = true →
    s.pwr.romStep = 8 → 30000000 ≤ s.now → trickleOn s = false →
    exec .trickleServiceStart s = .next (regSetFld { s with trk := TrickleState.reset } Reg.GLB_STATUS 1 1 1))
  ∧ (∀ (p : Fin 8) (b : List Byte) (g : Bool) (s : State), UnitRuns s 5 → trickleOn s = true → trkUp s p.val = true →
    exec (.trickleFrameRx p b g) s = .next (trkReceive s p.val b g))
  ∧ (∀ s : State, active s = true → exec .trickleAgeDrop s = .next ((List.range 8).foldl trkAge s))
  ∧ (∀ s : State, active s = true → trickleOn s = true → s.img.running.isSome = true →
    ∃ t, t = lanesRetrain (trkEmpty { s with trk := { s.trk with draining := true } })
        (runSection s 1)
      ∧ exec .trickleDrainEnd s = .next ((List.range 8).foldl pcsEval (regSetFld t Reg.GLB_STATUS 1 1 0)))
  ∧ (∀ s : State, active s = true → s.trk.draining = true → trickleOn s = false → fullService s = false →
    ∃ u t, u = min 65535 ((s.now - s.trk.commitAt) / 1000)
      ∧ t = regSet { s with trk := { s.trk with draining := false } } Reg.GLB_HANDOVER (BitVec.ofNat 32 (2 ^ 31 + u))
      ∧ exec .handoverComplete s = .next (culSettle (raise (regSetFld t Reg.GLB_STATUS 2 2 1) Reg.GLB_CAUSE 2)))

/-- Requests and sequences of a power domain, and the operating point of a cluster, in the cases listed here; `noted` is the state with
the SUP cycle of the request noted (R80).
A request of the policy or of a wake source, or of the host through PWR_DOMAIN_CTL, which also stores REQ and RETAIN: ON in OFF starts the
on-sequence and counts WAKES; ON in ON changes no more; ON or OFF while a sequence runs is held as the pending request, where the other request has
not come in this SUP cycle; OFF in ON starts the off-sequence, and OFF in OFF changes no more, where no ON request came in this SUP cycle, in which
the policy's OFF restarts the idle timer alone; OFF of the policy for D0 to D4 does nothing, and of the host is refused;
ON from the host is refused while the domain's PLL has not locked; REQ = POLICY hands the domain back to its policy.
The end of a sequence: with no pending request of the other direction (log entry 94), ON_SEQ becomes ON and OFF_SEQ becomes OFF, and SEQ_DONE is
raised; with OFF pending, ON_SEQ becomes OFF_SEQ and ON_THEN_OFF is raised; with ON pending, OFF_SEQ becomes ON_SEQ, OFF_THEN_ON is raised and
WAKES counts; where D2's supply check fails its on-sequence ends in OFF without the link, which stops the ROM at step 5. An expired idle
timer of an ON_DEMAND cluster starts its off-sequence.
A write of PWR_OPPOINT starts the changes it asks for, of which a change to LOW switches the clock at once, and the end of a change switches the
clock to FULL where it was going there, raises the cause and starts what was asked meanwhile. -/
def Obligations.PowerDomainEffects : Prop :=
  (∀ (d : Fin 17) (s noted : State), active s = true → 2 ≤ d.val → domReqField s d.val ≠ 2 → domClocked s d.val = true →
    noted = { s with pwr := { s.pwr with onAt := tabSet (fun _ => 0) s.pwr.onAt d.val (supCycle s) } } →
    (domState s d.val = 0 → exec (.domainOnRequest d) s
      = .next (satInc (regSetFld noted (Reg.PWR_DOMAIN_STAT d.val) 2 0 1) (Reg.PWR_DOMAIN_STAT d.val) 31 16))
    ∧ (domState s d.val = 1 → exec (.domainOnRequest d) s = .next (domPend noted d.val (some true)))
    ∧ (domState s d.val = 2 → exec (.domainOnRequest d) s = .next noted)
    ∧ (domState s d.val = 3 → tabGet (fun _ => 0) s.pwr.offAt d.val ≠ supCycle s →
      exec (.domainOnRequest d) s = .next (domPend noted d.val (some true))))
  ∧ (∀ (d : Fin 17) (s noted : State), active s = true → 5 ≤ d.val → domReqField s d.val ≠ 1 →
    tabGet (fun _ => 0) s.pwr.onAt d.val ≠ supCycle s →
    noted = { s with pwr := { s.pwr with offAt := tabSet (fun _ => 0) s.pwr.offAt d.val (supCycle s) } } →
    (domState s d.val = 0 → exec (.domainOffRequest d) s = .next s)
    ∧ (domState s d.val = 1 ∨ domState s d.val = 3 → exec (.domainOffRequest d) s = .next (domPend s d.val (some false)))
    ∧ (domState s d.val = 2 → exec (.domainOffRequest d) s = .next (regSetFld noted (Reg.PWR_DOMAIN_STAT d.val) 2 0 3)))
  ∧ (∀ (d : Fin 17) (s : State), active s = true → 5 ≤ d.val → domReqField s d.val ≠ 1 → tabGet (fun _ => 0) s.pwr.onAt d.val = supCycle s →
    exec (.domainOffRequest d) s = .next (idleRestart s d.val))
  ∧ (∀ (d : Fin 17) (s : State), active s = true → d.val < 5 → exec (.domainOffRequest d) s = .next s)
  ∧ (∀ (d : Fin 17) (s k : State), active s = true → 1 ≤ d.val → domState s d.val = 1 → k = domPend s d.val none →
    (regBit s (Reg.PWR_DOMAIN_STAT d.val) 3 = true → tabGet (fun _ => false) s.pwr.pendingOn d.val = false →
      exec (.powerSequenceDone ⟨d, true⟩) s = .next (romNext (raise
        (regSetFld (regSetFld k (Reg.PWR_DOMAIN_STAT d.val) 5 4 2) (Reg.PWR_DOMAIN_STAT d.val) 2 0 3) Reg.PWR_CAUSE 2)))
    ∧ (regBit s (Reg.PWR_DOMAIN_STAT d.val) 3 = false ∨ tabGet (fun _ => false) s.pwr.pendingOn d.val = true →
      exec (.powerSequenceDone ⟨d, true⟩) s = .next (romNext (raise (domainUp (regSetFld (regSetFld (regSetFld k (Reg.PWR_DOMAIN_STAT d.val) 5 4 0)
          (Reg.PWR_DOMAIN_STAT d.val) 2 0 2) (Reg.PWR_DOMAIN_STAT d.val) 8 8 0) d.val (regBit s (Reg.PWR_DOMAIN_STAT d.val) 8))
          Reg.PWR_CAUSE 0))))
  ∧ (∀ s k : State, active s = true → domState s 2 = 1 →
    k = linkSet (regSetFld (domPend s 2 none) (Reg.PWR_DOMAIN_STAT 2) 2 0 0) false →
    exec (.powerSequenceDone ⟨2, false⟩) s = .next (if k.pwr.romStep = 5 then bootFault k else k))
  ∧ (∀ (d : Fin 17) (s k : State) (keeps : Bool), active s = true → 1 ≤ d.val → domState s d.val = 3 → k = domPend (domainDown s d.val) d.val none →
    keeps = (domRetain s d.val && decide (10 ≤ d.val) && decide (d.val ≤ 15)) →
    (regBit s (Reg.PWR_DOMAIN_STAT d.val) 3 = true → tabGet (fun _ => false) s.pwr.pendingOn d.val = true →
      exec (.powerSequenceDone ⟨d, true⟩) s = .next (romNext (raise (satInc (regSetFld (regSetFld (regSetFld k (Reg.PWR_DOMAIN_STAT d.val) 5 4 1)
          (Reg.PWR_DOMAIN_STAT d.val) 8 8 (b2n keeps)) (Reg.PWR_DOMAIN_STAT d.val) 2 0 1) (Reg.PWR_DOMAIN_STAT d.val) 31 16) Reg.PWR_CAUSE 1)))
    ∧ (regBit s (Reg.PWR_DOMAIN_STAT d.val) 3 = false ∨ tabGet (fun _ => false) s.pwr.pendingOn d.val = false →
      exec (.powerSequenceDone ⟨d, true⟩) s = .next (romNext (raise (regSetFld (regSetFld (regSetFld k (Reg.PWR_DOMAIN_STAT d.val) 5 4 0)
          (Reg.PWR_DOMAIN_STAT d.val) 2 0 0) (Reg.PWR_DOMAIN_STAT d.val) 8 8 (b2n keeps)) Reg.PWR_CAUSE 0))))
  ∧ (∀ (c : Fin 4) (s k : State) (t : Nat), active s = true → k = idleRestart (idleTick s c.val) (10 + c.val) →
    tabGet (fun _ => none) (idleTick s c.val).pwr.idleFrom c.val = some t → t + (domPolicy s (10 + c.val)).idleHold * 1000 ≤ s.run →
    domState s (10 + c.val) = 2 → domReqField s (10 + c.val) ≠ 1 → tabGet (fun _ => 0) s.pwr.onAt (10 + c.val) ≠ supCycle s →
    exec (.idleHoldExpiry c) s = .next (regSetFld
      { k with pwr := { k.pwr with offAt := tabSet (fun _ => 0) s.pwr.offAt (10 + c.val) (supCycle s) } } (Reg.PWR_DOMAIN_STAT (10 + c.val)) 2 0 3))
  ∧ (∀ (f : Fin 4) (d : Fin 17) (v : Word) (s : State) (ctl noted : Nat → State), HostSees s (Reg.PWR_DOMAIN_CTL d.val) → 1 ≤ d.val →
    locked s (Reg.PWR_DOMAIN_CTL d.val) = false →
    ctl = (fun r => regSetFld (regSetFld s (Reg.PWR_DOMAIN_CTL d.val) 4 4 (fld v 4 4)) (Reg.PWR_DOMAIN_CTL d.val) 1 0 r) →
    noted = (fun r => { ctl r with pwr := { s.pwr with onAt := tabSet (fun _ => 0) s.pwr.onAt d.val (supCycle s) } }) →
    (domClocked s d.val = true → domState s d.val = 0 → exec (.pwrReqOn f d v) s
      = .next (satInc (regSetFld (noted 1) (Reg.PWR_DOMAIN_STAT d.val) 2 0 1) (Reg.PWR_DOMAIN_STAT d.val) 31 16))
    ∧ (domClocked s d.val = true → domState s d.val = 1 → exec (.pwrReqOn f d v) s = .next (domPend (noted 1) d.val (some true)))
    ∧ (domClocked s d.val = true → domState s d.val = 2 → exec (.pwrReqOn f d v) s = .next (noted 1))
    ∧ (domClocked s d.val = true → domState s d.val = 3 → tabGet (fun _ => 0) s.pwr.offAt d.val ≠ supCycle s →
      exec (.pwrReqOn f d v) s = .next (domPend (noted 1) d.val (some true)))
    ∧ (domClocked s d.val = false → exec (.pwrReqOn f d v) s = .next (pwrRefuse s d.val))
    ∧ (5 ≤ d.val → domState s d.val = 0 → tabGet (fun _ => 0) s.pwr.onAt d.val ≠ supCycle s → exec (.pwrReqOff f d v) s = .next (ctl 2))
    ∧ (5 ≤ d.val → domState s d.val = 2 → tabGet (fun _ => 0) s.pwr.onAt d.val ≠ supCycle s → exec (.pwrReqOff f d v) s
      = .next (regSetFld { ctl 2 with pwr := { s.pwr with offAt := tabSet (fun _ => 0) s.pwr.offAt d.val (supCycle s) } }
          (Reg.PWR_DOMAIN_STAT d.val) 2 0 3))
    ∧ (5 ≤ d.val → domState s d.val = 1 ∨ domState s d.val = 3 → tabGet (fun _ => 0) s.pwr.onAt d.val ≠ supCycle s →
      exec (.pwrReqOff f d v) s = .next (domPend (ctl 2) d.val (some false)))
    ∧ (d.val < 5 → exec (.pwrReqOff f d v) s = .next (pwrRefuse s d.val))
    ∧ exec (.pwrReqPolicy f d v) s = .next (policyRequest (ctl 0) d.val))
  ∧ (∀ (f : Fin 4) (v : Word) (s : State), HostSees s Reg.PWR_OPPOINT → locked s Reg.PWR_OPPOINT = false →
    exec (.pwrOppointWrite f v) s
      = .next (pointStart (pointStart (pointStart (pointStart (regSetFld s Reg.PWR_OPPOINT 3 0 (fld v 3 0)) 0) 1) 2) 3))
  ∧ (∀ (c : Nat) (s : State), domOn s (10 + c) = true → regBit s Reg.PWR_OPPOINT_STAT (4 + c) = false → regFld s Reg.PWR_OPPOINT_STAT c c = 0 →
    regFld s Reg.PWR_OPPOINT c c = 1 → ∃ t, t = regSetFld s Reg.PWR_OPPOINT_STAT (4 + c) (4 + c) 1
      ∧ pointStart s c
        = regSetFld { t with pwr := { s.pwr with toFull := s.pwr.toFull &&& ~~~(1#4 <<< c) } } Reg.PWR_OPPOINT_STAT c c 1)
  ∧ (∀ (c : Fin 4) (s t u : State), active s = true → regBit s Reg.PWR_OPPOINT_STAT (4 + c.val) = true →
    t = regSetFld s Reg.PWR_OPPOINT_STAT (4 + c.val) (4 + c.val) 0 →
    u = (if s.pwr.toFull.getLsbD c.val then regSetFld t Reg.PWR_OPPOINT_STAT c.val c.val 0 else t) →
    exec (.oppointChangeDone c) s = .next (raise (pointStart u c.val) Reg.PWR_CAUSE 4))

/-- Deep standby, rail loss, and the monitors (R85 to R87, R506, R508): PWR_DEEP with its code takes the device down and with another is
refused; a low VDD isolates the sentinel and drops its write; GLB_BOOT_US_LO latches its high half; a sensor and an ageing monitor show
their last reading. -/
def Obligations.StandbyAndMonitorEffects : Prop :=
  (∀ (f : Fin 4) (v : Word) (s : State), HostSees s Reg.PWR_DEEP → fld v 31 16 = 0xD5E7 → bitOf v 0 = true →
    ∃ t, exec (.deepStandbyEnter f v) s = .next t ∧ t.pwr.deep = true ∧ active t = false)
  ∧ (∀ (f : Fin 4) (v : Word) (s : State), HostSees s Reg.PWR_DEEP → fld v 31 16 ≠ 0xD5E7 →
    exec (.deepStandbyEnter f v) s = .next (raise s Reg.PWR_CAUSE 3))
  ∧ (∀ s : State, exec .vddLowIsolate s = .next { s with sen := { s.sen with isolated := true, busy := none } })
  ∧ (∀ (f : Fin 4) (s : State), HostSees s Reg.GLB_BOOT_US_LO →
    exec (.bootUsRead f) s = .next { regSet s Reg.GLB_BOOT_US_HI (BitVec.ofNat 32 (s.now / 1000 / 2 ^ 32)) with
      rdata := (BitVec.ofNat 32 (s.now / 1000)).setWidth 64 })
  ∧ (∀ (n : Fin 8) (v : BitVec 12) (s : State), active s = true → (temps s).isEmpty = false →
    ∀ t, t = regSet s (Reg.PWR_TEMP n.val) (v.setWidth 32 ||| 0x80000000) → v.toInt ≤ tempOf (regGet t Reg.PWR_TEMP_MAX) → tempSpread t ≤ regFld t Reg.PWR_TEMP_SPREAD 15 8 →
    exec (.tempSensorUpdate n v) s = .next t)
  ∧ (∀ (i : Fin 17) (v : BitVec 12) (s : State), UnitRuns s (islandDomain i.val) → (i.val < 9 ∨ 12 < i.val) →
    exec (.ageingMeasurement i v) s
      = .next (regSetFld (regSetFld s (Reg.PWR_AGE i.val) 11 0 v.toNat) (Reg.PWR_AGE i.val) 31 31 1))

/-- One TIME cycle (R89, R97): without a slew the clock gains exactly the increment. The time in 2⁻³² ns grows by TIM_INCR, NS stays below
one second, SEC wraps at 2⁴⁸, and ns32 stays (SEC × 10⁹ + NS) mod 2³²; an increment of 0.0 stops the clock (R91). -/
def Obligations.ClockTickAddsTheIncrement : Prop :=
  ∀ c : Clock, ClockOk c → c.slew = none →
    ((((clkTick c).sec.toNat * 1000000000 + (clkTick c).ns.toNat) * 2 ^ 32 + (clkTick c).frac.toNat) % (2 ^ 48 * 1000000000 * 2 ^ 32)
      = ((c.sec.toNat * 1000000000 + c.ns.toNat) * 2 ^ 32 + c.frac.toNat + (c.incInt.toNat * 2 ^ 32 + c.incFrac.toNat))
          % (2 ^ 48 * 1000000000 * 2 ^ 32))
    ∧ ClockOk (clkTick c)
    ∧ (c.incInt = 0 → c.incFrac = 0 → clkTick c = c)

/-- Writes of the discipliner (R91 to R94): the fraction is staged and the integer takes it along; a step, or a set with its code and a NS in
range, waits 32 TIME cycles if it is the first that waits, and a slew that runs ends; a slew of a nonzero TIM_ADJ_NS starts at once, and one of
zero is done at once, unless a command waits, behind which it then waits; a rate of 0 is a CANCEL; a set with a NS out of range raises
DISC_REFUSED; a discipline register of the time block that an engine or a unit writes as the discipliner takes the value by its field types. A
write of an engine or a unit that TIM_DISC_OWNER does not name has no effect but TIM_REFUSED and DISC_REFUSED (R90). -/
def Obligations.DisciplinerWrites : Prop :=
  (∀ (m : Fin 42) (v : Word) (s : State), Disciplines s m.val Reg.TIM_INCR_FRAC →
    exec (.timIncrFracWrite m v) s = .next { s with clk := { s.clk with staged := v } })
  ∧ (∀ (m : Fin 42) (v : Word) (s : State), Disciplines s m.val Reg.TIM_INCR_INT →
    exec (.timIncrIntWrite m v) s = .next (culTime { s with clk := { s.clk with incInt := v.setWidth 8, incFrac := s.clk.staged } }))
  ∧ (∀ (m : Fin 42) (s : State), Disciplines s m.val Reg.TIM_ADJ_CTL →
    ∃ h w, h = s.clk.held ++ [.step (regGet s Reg.TIM_ADJ_NS)] ∧ w = (if s.clk.held.isEmpty then 32 else s.clk.wait)
      ∧ exec (.adjStep m) s = .next { s with clk := { slewStop s.clk with held := h, wait := w } })
  ∧ (∀ (m : Fin 42) (r : BitVec 16) (s : State), Disciplines s m.val Reg.TIM_ADJ_CTL → r ≠ 0 → s.clk.held = [] →
    regGet s Reg.TIM_ADJ_NS ≠ 0 →
    exec (.adjSlew m r) s = .next { s with clk := slewStart s.clk (regGet s Reg.TIM_ADJ_NS) r.toNat })
  ∧ (∀ (m : Fin 42) (r : BitVec 16) (s : State), Disciplines s m.val Reg.TIM_ADJ_CTL → r ≠ 0 → s.clk.held = [] →
    regGet s Reg.TIM_ADJ_NS = 0 →
    exec (.adjSlew m r) s = .next (raise { s with clk := { slewStop s.clk with lost := 0 } } Reg.TIM_CAUSE 1))
  ∧ (∀ (m : Fin 42) (r : BitVec 16) (s : State), Disciplines s m.val Reg.TIM_ADJ_CTL → r ≠ 0 → s.clk.held ≠ [] →
    ∃ h, h = s.clk.held ++ [.slew (regGet s Reg.TIM_ADJ_NS) r.toNat]
      ∧ exec (.adjSlew m r) s = .next { s with clk := { slewStop s.clk with held := h, wait := s.clk.wait } })
  ∧ (∀ (m : Fin 42) (s : State), Disciplines s m.val Reg.TIM_ADJ_CTL →
    exec (.adjCancel m) s = .next (adjCancel s) ∧ exec (.adjSlew m 0) s = .next (adjCancel s))
  ∧ (∀ (m : Fin 42) (v : Word) (s : State), Disciplines s m.val Reg.TIM_SET_CMD → fld v 31 16 = 0x5E7C →
    regFld s Reg.TIM_SET_NS 29 0 ≤ 999999999 →
    ∃ sec h w, sec = BitVec.ofNat 48 (regFld s Reg.TIM_SET_SEC_HI 15 0 * 2 ^ 32 + (regGet s Reg.TIM_SET_SEC_LO).toNat)
      ∧ h = s.clk.held ++ [.set sec (regFld s Reg.TIM_SET_NS 29 0)]
      ∧ w = (if s.clk.held.isEmpty then 32 else s.clk.wait)
      ∧ exec (.timSetCmd m v) s = .next { s with clk := { slewStop s.clk with held := h, wait := w } })
  ∧ (∀ (m : Fin 42) (v : Word) (s : State), Disciplines s m.val Reg.TIM_SET_CMD → fld v 31 16 = 0x5E7C →
    999999999 < regFld s Reg.TIM_SET_NS 29 0 → exec (.timSetCmd m v) s = .next (raise s Reg.TIM_CAUSE 3))
  ∧ (∀ (m : Fin 42) (a : Nat) (v : Word) (s : State) (r : RegRow), (m.val < 36 ∨ 40 ≤ m.val) → active s = true →
    regFld s Reg.TIM_DISC_OWNER 5 0 = m.val → isDiscipline a = true → a ≠ Reg.TIM_SYNC_STATE → findReg a = some r →
    exec (.registerWrite m a v) s
      = .next (blockIrq (irqStatus s) (regSet s (regKey 0 a) (writeByType r (locked s a) (regGet s (regKey 0 a)) v))))
  ∧ (∀ (m : Fin 42) (v : Word) (r : BitVec 16) (s : State), (m.val < 36 ∨ 40 ≤ m.val) → active s = true →
    regFld s Reg.TIM_DISC_OWNER 5 0 ≠ m.val →
    ∀ c ∈ [Instr.timIncrFracWrite m v, .timIncrIntWrite m v, .adjStep m, .adjSlew m r, .adjCancel m, .timSetCmd m v],
      exec c s = .next (raise (regSet s Reg.TIM_REFUSED (BitVec.ofNat 32 m.val)) Reg.TIM_CAUSE 3))

/-- What takes effect in TIME once its 32 cycles have passed (R92 to R94): a step adds its nanoseconds and leaves FRAC; a set loads SEC and NS
and clears FRAC; each raises its cause and lets what was held behind it go on, and before that neither has an effect. A slew ends once nothing
of it remains, which raises its cause, and not before. -/
def Obligations.ClockAdjustmentEffects : Prop :=
  (∀ (adj : Word) (l : List HeldClk) (s : State), TimeRuns s → s.clk.held = .step adj :: l → s.clk.wait = 0 →
    ∃ t, t = { s with clk := { clkStep s.clk adj with lost := 0 } }
      ∧ exec .stepApply s = .next (heldTake (clockChanged (raiseTim t 0) (adj.toInt * 2 ^ 32)) l)
      ∧ t.clk.frac = s.clk.frac)
  ∧ (∀ (sec : BitVec 48) (ns : Nat) (l : List HeldClk) (s : State), TimeRuns s → s.clk.held = .set sec ns :: l → s.clk.wait = 0 →
    ∃ t, t = { s with clk := { clkSet s.clk sec ns with lost := 0 } }
      ∧ exec .setApply s = .next (heldTake (clockChanged (raiseTim t 2) (clkTime t.clk - clkTime s.clk)) l)
      ∧ t.clk.sec = sec ∧ t.clk.ns = BitVec.ofNat 30 ns ∧ t.clk.frac = 0)
  ∧ (∀ s : State, TimeRuns s → s.clk.wait ≠ 0 → exec .stepApply s = .next s ∧ exec .setApply s = .next s)
  ∧ (∀ (w : Slew) (s : State), active s = true → s.clk.slew = some w → w.remaining = 0 →
    exec .slewEnd s = .next (raise { s with clk := { s.clk with slew := none, lost := 0 } } Reg.TIM_CAUSE 1))
  ∧ (∀ (w : Slew) (s : State), active s = true → s.clk.slew = some w → w.remaining ≠ 0 → exec .slewEnd s = .next s)

/-- Reads, compares, captures, PPS_OUT and replicas (R95, R100, R114 to R116), in the cases listed here: a read of TIM_NOW_NS latches the rest
for its function; ARM and DISARM set and clear a channel's arming; an armed channel, not channel 0, with PERIOD 0 whose target is reached sets
FIRED, raises its cause and is disarmed, and a channel that is not armed does not fire; a rising edge of PPS_IN is captured by a channel of that
source; SNAP captures and a read of the captured NS clears VALID; in SECOND mode PPS_OUT rises for WIDTH_US when a second boundary of the clock is
due, and falls when that has passed; an island's replica, other than the confluence's, becomes valid while its domain is on. -/
def Obligations.TimeReadCompareAndCaptureEffects : Prop :=
  (∀ (f : Fin 4) (s : State), HostSees s Reg.TIM_NOW_NS →
    ∃ t, t = regSet (regSet (regSet (regSet s (regKey f Reg.TIM_NOW_SEC_LO) (s.clk.sec.setWidth 32))
        (regKey f Reg.TIM_NOW_SEC_HI) ((s.clk.sec >>> 32).setWidth 32)) (regKey f Reg.TIM_NOW_FRAC) s.clk.frac)
        (regKey f Reg.TIM_NOW_NS32) s.clk.ns32
      ∧ exec (.timNowRead f) s = .next { t with rdata := s.clk.ns.setWidth 64 })
  ∧ (∀ (f : Fin 4) (n : Fin 8) (s : State), HostSees s (Reg.TIM_CMP_CTL n) →
    exec (.cmpArm f n) s = .next { s with clk := { s.clk with cmpArmed := s.clk.cmpArmed ||| (1#8 <<< n.val) } }
    ∧ exec (.cmpDisarm f n) s = .next { s with clk := { s.clk with cmpArmed := s.clk.cmpArmed &&& ~~~(1#8 <<< n.val) } })
  ∧ (∀ (n : Fin 8) (s : State), TimeRuns s → 1 ≤ n.val → s.clk.cmpArmed.getLsbD n = true →
    reached s.clk.ns32 (regGet s (Reg.TIM_CMP_TARGET n)) = true → regGet s (Reg.TIM_CMP_PERIOD n) = 0 →
    ∃ t, t = raiseTim (regSetFld s (Reg.TIM_CMP_STAT n) 0 0 1) (16 + n)
      ∧ exec (.compareFire n) s = .next { t with clk := { t.clk with cmpArmed := t.clk.cmpArmed &&& ~~~(1#8 <<< n.val) } })
  ∧ (∀ (n : Fin 8) (s : State), TimeRuns s → s.clk.cmpArmed.getLsbD n = false → exec (.compareFire n) s = .next s)
  ∧ (∀ s : State, TimeRuns s → regFld s (Reg.TIM_CAP_CTL 0) 1 0 = 0 → regFld (capture s 0) (Reg.TIM_CAP_CTL 1) 1 0 = 1 →
    exec (.ppsInEdge true) s = .next (capture s 0))
  ∧ (∀ (f : Fin 4) (c : Fin 2) (v : Word) (s : State), HostSees s (Reg.TIM_CAP_CTL c) → fld v 1 0 = 2 → bitOf v 2 = true → bitOf v 4 = false →
    exec (.captureSnap f c v) s = .next (capture (regSetFld s (Reg.TIM_CAP_CTL c) 1 0 2) c))
  ∧ (∀ (f : Fin 4) (c : Fin 2) (s : State), HostSees s (Reg.TIM_CAP_NS c) →
    exec (.captureRead f c) s
      = .next { regSetFld s (Reg.TIM_CAP_CTL c) 3 3 0 with rdata := (regGet s (Reg.TIM_CAP_NS c)).setWidth 64 })
  ∧ (∀ s : State, TimeRuns s → regFld s Reg.TIM_PPS_CTL 1 0 = 1 → s.clk.ppsSec < ppsIndex s → (ppsAlign s).clk.ppsHigh = false →
    ∃ e t, t = ppsAlign s ∧ e = t.now + regFld t Reg.TIM_PPS_CTL 31 12 * 1000
      ∧ exec .ppsOutRise s = .next { t with clk := { t.clk with ppsHigh := true, ppsFall := some e }, out := .pps true :: t.out })
  ∧ (∀ s : State, TimeRuns s → ppsIndex s ≤ s.clk.ppsSec → exec .ppsOutRise s = .next s)
  ∧ (∀ (e : Nat) (s : State), TimeRuns s → s.clk.ppsFall = some e → e ≤ s.now →
    exec .ppsOutFall s = .next { s with clk := { s.clk with ppsHigh := false, ppsFall := none }, out := .pps false :: s.out })
  ∧ (∀ (i : Fin 17) (d : Nat) (s : State), active s = true → replicaDomain i.val = some d → i.val ≠ 13 → domOn s d = true →
    ∃ r, r = tabSet (fun _ => false) s.clk.replicaOk i.val true
      ∧ exec (.replicaValid i) s = .next { s with clk := { s.clk with replicaOk := r } })

/-- Lanes, PHYs and uplinks (R120 to R124), while the port's island runs: an enabled lane acquires synchronisation, a synchronised lane loses it
and the loss is counted, and the four ports of the lane are evaluated; the status word of a PHY is stored and acknowledged, and its port is
evaluated; an uplink whose mode is not off takes up block lock, any uplink loses it, and either stores a remote fault, and the port is evaluated;
under RS-FEC a corrected codeword is counted, and an uncorrectable one is counted and raises FEC_UNCORR, and without RS-FEC neither has an effect. -/
def Obligations.LaneAndPcsEffects : Prop :=
  (∀ (n : Fin 48) (s : State), UnitRuns s (portDomain (4 * n)) → laneEnabled s n = true →
    exec (.laneSyncAcquired n) s = .next (laneEval (regSetFld s (Reg.PRT_LANE_STAT n) 0 0 1) n))
  ∧ (∀ (n : Fin 48) (s : State), UnitRuns s (portDomain (4 * n)) → regBit s (Reg.PRT_LANE_STAT n) 0 = true →
    exec (.laneSyncLost n) s
      = .next (laneEval (satInc (regSetFld s (Reg.PRT_LANE_STAT n) 0 0 0) (Reg.PRT_LANE_STAT n) 31 16) n))
  ∧ (∀ (p : Fin 192) (link full : Bool) (v : Fin 4) (s : State), UnitRuns s (portDomain p) →
    ∃ x, x = { portGet s p with phyLink := link, phyFull := full, phySpeed := v }
      ∧ exec (.inbandStatus p link full v) s = .next (emit (pcsEval (portSet s p x) p) (.ack p)))
  ∧ (∀ (u : Fin 8) (s : State), UnitRuns s 9 → uplinkMode s u ≠ 0 →
    exec (.uplinkPcsUp u) s
      = .next (pcsEval (regSetFld (regSetFld s (Reg.PRT_STAT (192 + u)) 1 1 1) (Reg.PRT_STAT (192 + u)) 2 2 0) (192 + u)))
  ∧ (∀ (u : Fin 8) (lock : Bool) (s : State), UnitRuns s 9 →
    exec (.uplinkPcsDown u lock) s
      = .next (pcsEval (regSetFld (regSetFld s (Reg.PRT_STAT (192 + u)) 1 1 (b2n lock)) (Reg.PRT_STAT (192 + u)) 2 2 1) (192 + u)))
  ∧ (∀ (u : Fin 8) (on : Bool) (s : State), UnitRuns s 9 →
    exec (.remoteFaultRx u on) s = .next (pcsEval (regSetFld s (Reg.PRT_STAT (192 + u)) 3 3 (b2n on)) (192 + u)))
  ∧ (∀ (u : Fin 8) (s : State), UnitRuns s 9 → uplinkMode s u = 3 →
    exec (.fecCodewordCorrected u) s = .next (countBy s (Reg.PRT_FEC_CORR (192 + u)) (Reg.PRT_CAUSE (192 + u)) 8 1)
    ∧ exec (.fecCodewordUncorrectable u) s
      = .next (portRaise (countBy s (Reg.PRT_FEC_UNCORR (192 + u)) (Reg.PRT_CAUSE (192 + u)) 8 1) (192 + u) 9))
  ∧ (∀ (u : Fin 8) (s : State), UnitRuns s 9 → uplinkMode s u ≠ 3 →
    exec (.fecCodewordCorrected u) s = .next s ∧ exec (.fecCodewordUncorrectable u) s = .next s)

/-- Reception at a port that is enabled, linked, in full service and not looped back (R125, R126, R129, R149): the header of a frame that is no
MAC control frame starts its reception; a cell offered by the frame in reception is admitted to it; the end of a frame ends the reception with
the class that its length, its check and a code error give it; a MAC control frame other than PAUSE and PFC breaks a reception that has not ended
and is counted. A port without a link takes no header. The waiting pause of every port is looked at after each. -/
def Obligations.FrameReceptionEffects : Prop :=
  (∀ (p : Fin 200) (b : List Byte) (s : State), PortReceives s p → isMacControl b = false →
    exec (.frameHeaderArrival p b) s = .next (pauseSweep (receiveStart s p b none)))
  ∧ (∀ (p : Fin 200) (b : List Byte) (s : State), active s = true → portLink s p = false →
    exec (.frameHeaderArrival p b) s = .next (pauseSweep s))
  ∧ (∀ (p : Fin 200) (h : Nat) (b : List Byte) (f : Frame) (s : State), UnitRuns s (portDomain p) → (portGet s p).rx = some (h, b) →
    frameGet s h = some f → cellOver s p f = false → f.offered ≠ 0 →
    exec (.cellAdmission p) s = .next (pauseSweep (cellAdmit s p h)))
  ∧ (∀ (p : Fin 200) (h : Nat) (b : List Byte) (f : Frame) (s : State), UnitRuns s (portDomain p) → (portGet s p).rx = some (h, b) →
    frameGet s h = some f → cellOver s p f = false → f.offered = 0 →
    exec (.cellAdmission p) s = .next (pauseSweep (cutStart (cellAdmit s p h) p h)))
  ∧ (∀ (p : Fin 200) (fcs code : Bool) (n h : Nat) (b : List Byte) (s t : State) (cls : Option Nat), PortReceives s p →
    (portGet s p).rx = some (h, b) → cls = rxClass s p (frameLen b) fcs code → t = portSet s p { portGet s p with rx := none } →
    exec (.frameEnd p fcs code n) s = .next (pauseSweep (receiveRest (rxCounted t p b cls) p h cls.isNone n)))
  ∧ (∀ (p : Fin 200) (good code : Bool) (n : Nat) (s : State), PortReceives s p →
    exec (.macControlOtherRx p ⟨good, code⟩ n) s = .next (pauseSweep (controlCounted (receiveBroken s p) p 7 n good code)))

/-- Received pause (R129 to R132), at a port that receives from its wire: a good PAUSE or PFC frame for the group address is counted, and where
the port's mode honours it, it loads the state it names, or the one class it names; a PAUSE in another mode is counted only. A state whose time has
passed ends; one that holds for longer than LIMIT_US is ended by the watchdog, which is counted and raises its cause, here with HOLD_MS 0; the
watchdog's hold ends once it is over. A pause frame that waits at an idle port that may send it is sent, counted, and repeated later if it is a
stop; a repeat that is due is put among the waiting ones. -/
def Obligations.ReceivedPauseEffects : Prop :=
  (∀ (p : Fin 200) (q : BitVec 16) (n : Nat) (s u : State), PortReceives s p →
    u = controlCounted (receiveBroken s p) p 5 n true false → (rxClass u p n true false).isNone = true → pauseMode u p = 1 →
    regBit u (Reg.PRT_FC p) 2 = true → pauseTakes u p 8 = true →
    exec (.pauseFrameRx p q true ⟨true, false⟩ n) s = .next (pauseSweep (pauseLoad u p 8 q.toNat)))
  ∧ (∀ (p : Fin 200) (q : BitVec 16) (n : Nat) (s u : State), PortReceives s p →
    u = controlCounted (receiveBroken s p) p 5 n true false → pauseMode u p ≠ 1 →
    exec (.pauseFrameRx p q true ⟨true, false⟩ n) s = .next (pauseSweep u))
  ∧ (∀ (p : Fin 200) (c : Fin 8) (qs : List (BitVec 16)) (q : BitVec 16) (n : Nat) (s u : State), PortReceives s p →
    qs[c.val]? = some q → u = controlCounted (receiveBroken s p) p 6 n true false → (rxClass u p n true false).isNone = true →
    pauseMode u p = 2 → regBit u (Reg.PRT_FC p) 2 = true → pauseTakes u p c = true →
    exec (.pfcFrameRx p (1#8 <<< c.val) qs true ⟨true, false⟩ n) s = .next (pauseSweep (pauseLoad u p c q.toNat)))
  ∧ (∀ (p : Fin 200) (st : Fin 9) (h : PauseHold) (s : State), UnitRuns s (portDomain p) →
    tabGet (fun _ => none) (portGet s p).pause st = some h → h.ends < runUnits s →
    exec (.pauseTimerExpiry p st) s = .next (pauseSet s p st none))
  ∧ (∀ (p : Fin 200) (st : Fin 9) (h : PauseHold) (s u : State), UnitRuns s (portDomain p) →
    tabGet (fun _ => none) (portGet s p).pause st = some h → regFld s (Reg.PRT_PAUSEWD p) 15 0 ≠ 0 → pauseHolds s p st = true →
    h.since + regFld s (Reg.PRT_PAUSEWD p) 15 0 * 1000 < s.run → u = portRaise (portCount (pauseSet s p st none) p 45) p 7 →
    regFld u (Reg.PRT_PAUSEWD p) 25 16 = 0 → exec (.pauseWdTrip p st) s = .next u)
  ∧ (∀ (p : Fin 200) (st : Fin 9) (s : State), UnitRuns s (portDomain p) → wdHolding s p st = false →
    ∃ x, x = { portGet s p with wdHold := tabSet (fun _ => none) (portGet s p).wdHold st none }
      ∧ exec (.pauseWdHoldEnd p st) s = .next (portSet s p x))
  ∧ (∀ (p : Fin 200) (bits : BitVec 9) (stop : Bool) (rest : List (BitVec 9 × Bool)) (s t : State) (x : PortX) (names : List Nat)
      (time : Nat) (b : List Byte), UnitRuns s (portDomain p) → (portGet s p).pauseOut = (bits, stop) :: rest → portIdle s p = true →
    pauseMaySend s p = true → pauseMode s p = 1 ∨ pauseMode s p = 2 → launchClear s p 64 = true → names = pauseNames s p bits stop →
    names ≠ [] → (stop = true → regFld s (Reg.PRT_FC_TX p) 15 0 ≠ 0) → (portGet s p).loop = false →
    time = (if stop then regFld s (Reg.PRT_FC_TX p) 15 0 else 0) → b = pauseBytes s p names time →
    x = { portGet s p with
      pauseOut := rest
      refreshAt := if stop then some (runUnits s + pauseRefresh s p * quantumTime (portSpeed s p)) else (portGet s p).refreshAt } →
    t = emit (loopPut (portSet s p x) p b (clk256 s + preamble256 s p) (some none)) (.pause p (names.map (fun n => (n, time))) b) →
    exec (.pauseFrameTx p) s = .next (portCount (portOctets (portOctets t p 23 64) p 24 64) p (if pauseMode t p = 1 then 28 else 29)))
  ∧ (∀ (p : Fin 200) (d : Nat) (s : State) (x : PortX), UnitRuns s (portDomain p) → (portGet s p).refreshAt = some d → d ≤ runUnits s →
    (portGet s p).stop ≠ 0 → stopMaySend s p = true →
    x = { portGet s p with refreshAt := none, pauseOut := (portGet s p).pauseOut ++ [((portGet s p).stop, true)] } →
    exec (.pauseRefreshExpiry p) s = .next (portSet s p x))

/-- Transmission (R111, R113, R127, R135, R136), in the cases listed here: a selection with nothing arriving early sends from trickle service
while that runs; else, at an idle port that owes no pause frame and no launch, it selects among the port's queues. The end of a transmission of a
whole frame counts it, puts it on the line, completes it where its sender asked for that, and lets it go. An underrun of a frame that is not whole
and did not come from a host ring completes it with status 9, breaks it on the line, raises UNDERRUN and raises the start threshold by 256 bytes
up to 9216. A launch that is due in time at an idle port that owes no pause frame starts, when the frame is not too long. -/
def Obligations.TransmissionEffects : Prop :=
  (∀ (p : Fin 200) (s : State), active s = true → trickleHas s p = false → portIdle s p = true → pauseReady s p = false → launchDue s p = none →
    exec (.egressSelect p none) s = .next (pauseSweep (egressLoop p (portBacklog s p + 1) s)))
  ∧ (∀ (p : Fin 200) (s : State), active s = true → trickleHas s p = true →
    exec (.egressSelect p none) s = .next (pauseSweep (trkSend s p)))
  ∧ (∀ (p : Fin 200) (t : TxFrame) (f : Frame) (s u : State), UnitRuns s (portDomain p) → (portGet s p).tx = some t →
    frameGet s t.handle = some f → f.whole = true → (f.cut = some p.val → f.passed = true) →
    u = loopEnd (lineFrame (txCounted s p t.bytes) p t.bytes false) p none →
    exec (.frameTxEnd p) s = .next (pauseSweep (txRelease (if t.siphon = false ∧ completesAtEnd f = true then
        frameComplete u t.handle (txStatus t) (if t.twoStep = 1 then some (p.val, some (t.ns32, t.frac)) else none) else u) p t)))
  ∧ (∀ (p : Fin 200) (n th : Nat) (t : TxFrame) (f : Frame) (s u v : State), UnitRuns s (portDomain p) → (portGet s p).tx = some t →
    frameGet s t.handle = some f → f.whole = false → (∀ fn r i, f.origin ≠ .host fn r i) →
    u = portRaise (txBreak (frameComplete s t.handle 9 (txUnstamped p t)) p n 38) p 5 →
    th = min 9216 (regFld u (Reg.PRT_TXSTART p) 13 0 + 256) → v = regSetFld u (Reg.PRT_TXSTART p) 13 0 th →
    exec (.underrun p n) s
      = .next (pauseSweep (if maxLen v p ≤ th then portRaise (regSetFld v (Reg.PRT_TXSTART p) 16 16 1) p 6 else v)))
  ∧ (∀ (p : Fin 200) (e : CalEntry) (q : QEntry) (s : State), active s = true → portIdle s p = true → pauseReady s p = false →
    launchDue s p = some e →
    preamble256 s p + s.clk.frac.toNat / 2 ^ 24 ≤ (calPolicy s (portGroup p)).tol * 256 + targetIn s e.target * 256 →
    q = { handle := e.handle, since := s.run, siphon := none } → tooLong s p q = false →
    exec (.launchDue p) s = .next (pauseSweep (txStart (calRemove s e) p q (entryBytes s p q) false)))

/-- Links, flushes and loopback (R128, R137 to R142), in the cases listed here: a link of a port that is not looped back is lost when the PCS no
longer reports it; a link of an enabled port comes up once its debounce has passed; a hold that runs out at a port that has not come back flushes
it; the end of a flush raises its cause, and an enable that waits for it then takes effect; with no flush it does nothing. Loopback that is no longer
asked for ends at a port that neither receives nor sends. -/
def Obligations.LinkAndFlushEffects : Prop :=
  (∀ (p : Fin 200) (n : Nat) (s : State), UnitRuns s (portDomain p) → portLink s p = true → (portGet s p).loop = false →
    pcsReport s p = false → exec (.linkDown p n) s = .next (pauseSweep (linkDown s p n)))
  ∧ (∀ (p : Fin 200) (s : State), UnitRuns s (portDomain p) → portEn s p = true → portLink s p = false → debounced s p = true →
    exec (.linkUp p) s = .next (pauseSweep (linkUp s p)))
  ∧ (∀ (p : Fin 200) (t : Nat) (s : State), UnitRuns s (portDomain p) → (portGet s p).hold = some t → t ≤ s.run → debounced s p = false →
    exec (.holdExpiry p) s = .next (pauseSweep (portRaise (portFlush s p) p 3)))
  ∧ (∀ (p : Fin 200) (t : Nat) (s : State), UnitRuns s (portDomain p) → (portGet s p).hold = some t → t ≤ s.run → portEn s p = true →
    debounced s p = true → exec (.holdExpiry p) s = .next (pauseSweep (linkUp s p)))
  ∧ (∀ (p : Fin 200) (s u : State), active s = true → portFlushing s p = true → u = portRaise (regSetFld s (Reg.PRT_STAT p) 14 14 0) p 4 →
    exec (.flushDone p) s = .next (if portPending u p then portTurnOn u p else u))
  ∧ (∀ (p : Fin 200) (s : State), active s = true → portFlushing s p = false → exec (.flushDone p) s = .next s)
  ∧ (∀ (p : Fin 200) (s u : State), UnitRuns s (portDomain p) → regFld s (Reg.PRT_CTL p) 3 2 ≠ 1 → (portGet s p).loop = true →
    (portGet s p).rx = none → (portGet s p).tx = none → (portGet s p).looped = [] →
    u = pcsEval (portSet s p { portGet s p with loop := false }) p →
    exec (.loopbackTakeEffect p) s = .next (if portLink u p = true ∧ pcsReport u p = false then linkDown u p 0 else u))

/-- Host commands of a port (R136, R142, R147, R148): a disable of an enabled port clears EN, the waiting enable and the link and flushes it; an
enable takes effect, or waits for the end of a flush; THRESH is rounded down to 256 bytes within 256 to 9216, and stored with the
mode of bit 31, and DEGRADED is cleared when it is below MAX_LEN; a MAX_LEN out of 1518 to 9216 raises its cause, and one within
is stored while the register is not locked; the read of the low word of a counter answers it and clears it, and of an octet counter latches
and clears the high part too. -/
def Obligations.PortCommandEffects : Prop :=
  (∀ (f : Fin 4) (p : Fin 200) (s u t : State), HostSees s (Reg.PRT_CTL p) → u = regSetFld s (Reg.PRT_STAT p) 15 15 0 → portEn u p = true →
    t = regSetFld (regSetFld u (Reg.PRT_CTL p) 0 0 0) (Reg.PRT_STAT p) 0 0 0 →
    exec (.portDisable f p) s = .next (pauseSweep (lineEval (furLinkDown (portFlush t p) p) p)))
  ∧ (∀ (f : Fin 4) (p : Fin 200) (s : State), HostSees s (Reg.PRT_CTL p) → portEn s p = false →
    (portFlushing s p = false → exec (.portEnable f p) s = .next (portTurnOn s p))
    ∧ (portFlushing s p = true → exec (.portEnable f p) s = .next (regSetFld s (Reg.PRT_STAT p) 15 15 1)))
  ∧ (∀ (f : Fin 4) (p : Fin 200) (v : Word) (s u : State) (th : Nat), HostSees s (Reg.PRT_TXSTART p) →
    th = min 9216 (max 256 (fld v 13 0 / 256 * 256)) →
    u = regSetFld (regSetFld s (Reg.PRT_TXSTART p) 13 0 th) (Reg.PRT_TXSTART p) 31 31 (fld v 31 31) →
    exec (.txstartWrite f p v) s = .next (if th < maxLen u p then regSetFld u (Reg.PRT_TXSTART p) 16 16 0 else u))
  ∧ (∀ (f : Fin 4) (p : Fin 200) (v : Word) (s : State), HostSees s (Reg.PRT_MAXLEN p) →
    (fld v 13 0 < 1518 ∨ 9216 < fld v 13 0 → exec (.maxlenWrite f p v) s = .next (raise s (Reg.PRT_CAUSE p) 10))
    ∧ (1518 ≤ fld v 13 0 → fld v 13 0 ≤ 9216 → locked s (Reg.PRT_MAXLEN p) = false →
      exec (.maxlenWrite f p v) s = .next (regSetFld s (Reg.PRT_MAXLEN p) 13 0 (fld v 13 0))))
  ∧ (∀ (f : Fin 4) (p : Fin 200) (n : Fin 48) (s : State), HostSees s (Reg.PRT_CNT_LO p n) →
    (isOctets n = false → exec (.counterLoRead f p n) s
      = .next { regSet s (Reg.PRT_CNT_LO p n) 0 with rdata := (regGet s (Reg.PRT_CNT_LO p n)).setWidth 64 })
    ∧ (isOctets n = true → ∃ t, t = regSet s (Reg.PRT_CNT_HI p n) (BitVec.ofNat 32 (cntHiGet s (Reg.PRT_CNT_LO p n)))
      ∧ exec (.counterLoRead f p n) s = .next { regSet (cntHiSet t (Reg.PRT_CNT_LO p n) 0) (Reg.PRT_CNT_LO p n) 0 with
          rdata := (regGet s (Reg.PRT_CNT_LO p n)).setWidth 64 }))

/-- Headgate commands (R160, R164, R170, R171), in the cases listed here: a table command is taken with its operation, table, index and data,
and refused while one runs; when it is done it acts as a whole, shows its RESULT and clears BUSY; a COMMIT with an algorithm of 1 to 5, or a
CLEAR, of a key slot is taken in the same way and refused while one runs, and the slot is written or cleared when it is done; a node that has been
silent for its time is removed, and not before, and its entry is forgotten after its own time; the end of a verification takes its job off the
lane, decides the frame as R170 says, and starts what waits. -/
def Obligations.HeadgateCommandEffects : Prop :=
  (∀ (f : Fin 4) (table : Fin 8) (s : State), HostSees s Reg.HDG_TBL_CMD →
    ∀ x ∈ [(Instr.tblRead f table, 1), (Instr.tblWrite f table, 2), (Instr.tblInsert f table, 3), (Instr.tblDelete f table, 4),
        (Instr.tblLookup f table, 5)],
    (regBit s Reg.HDG_TBL_STAT 8 = false →
      ∃ c, c = (x.2, table.val, regFld s Reg.HDG_TBL_INDEX 16 0, tblData s)
        ∧ exec x.1 s = .next (regSetFld { s with hdg := { s.hdg with tblCmd := some c } } Reg.HDG_TBL_STAT 8 8 1))
    ∧ (regBit s Reg.HDG_TBL_STAT 8 = true → exec x.1 s = .next (raise s Reg.HDG_CAUSE 5)))
  ∧ (∀ (op table i : Nat) (d : List Byte) (s : State), UnitRuns s 3 → s.hdg.tblCmd = some (op, table, i, d) →
    ∃ r, r = tblRun { s with hdg := { s.hdg with tblCmd := none } } op table i d
      ∧ exec .tblCmdDone s = .next (regSetFld (regSetFld r.2 Reg.HDG_TBL_STAT 2 0 r.1) Reg.HDG_TBL_STAT 8 8 0))
  ∧ (∀ (f : Fin 4) (v : Word) (s : State), HostSees s Reg.HDG_KEY_CTL → regBit s Reg.HDG_KEY_STAT 8 = false → bitOf v 7 = true →
    bitOf v 6 = false → 1 ≤ fld v 2 0 → fld v 2 0 ≤ 5 →
    ∃ k c, k = (List.range 8).flatMap (fun i => leBytes 4 (regGet s (Reg.HDG_KEY_DATA i)).toNat)
      ∧ c = (2 * fld v 15 8 + fld v 5 5, some ({ id := regGet s Reg.HDG_KEY_ID, alg := fld v 2 0, key := k } : Key))
      ∧ exec (.keyCommit f v) s = .next (regSetFld { s with hdg := { s.hdg with keyCmd := some c } } Reg.HDG_KEY_STAT 8 8 1))
  ∧ (∀ (f : Fin 4) (v : Word) (s : State), HostSees s Reg.HDG_KEY_CTL → regBit s Reg.HDG_KEY_STAT 8 = false → bitOf v 7 = false →
    bitOf v 6 = true →
    ∃ c, c = (2 * fld v 15 8 + fld v 5 5, none)
      ∧ exec (.keyClear f v) s = .next (regSetFld { s with hdg := { s.hdg with keyCmd := some c } } Reg.HDG_KEY_STAT 8 8 1))
  ∧ (∀ (f : Fin 4) (v : Word) (s : State), HostSees s Reg.HDG_KEY_CTL → regBit s Reg.HDG_KEY_STAT 8 = true →
    (bitOf v 7 = true → exec (.keyCommit f v) s = .next (raise s Reg.HDG_CAUSE 5))
    ∧ (bitOf v 6 = true → exec (.keyClear f v) s = .next (raise s Reg.HDG_CAUSE 5)))
  ∧ (∀ (i : Nat) (k : Option Key) (s : State), UnitRuns s 3 → s.hdg.keyCmd = some (i, k) →
    ∃ t, t = tabSet (fun _ => none) s.hdg.keys i k
      ∧ exec .keyCommitDone s = .next (regSetFld { s with hdg := { s.hdg with keyCmd := none, keys := t } } Reg.HDG_KEY_STAT 8 8 0))
  ∧ (∀ (i : Fin 8192) (n : Node) (s : State), UnitRuns s 3 → tabGet (fun _ => none) s.hdg.nodes i.val = some n →
    (n.last + regFld s Reg.HDG_NODE_CFG 15 0 * 1000000000 ≤ s.run → exec (.nodeForgetExpiry i) s = .next (nodeSet s i none))
    ∧ (s.run < n.last + regFld s Reg.HDG_NODE_CFG 15 0 * 1000000000 → exec (.nodeForgetExpiry i) s = .next s)
    ∧ (n.last + regFld s Reg.HDG_NODE_CFG 31 16 * 1000000 ≤ s.run →
      exec (.entryForgetExpiry i) s = .next (nodeSet s i (some { n with forgotten := true }))))
  ∧ (∀ (i : Fin 8192) (n : Node) (s : State), UnitRuns s 3 → tabGet (fun _ => none) s.hdg.nodes i.val = some n →
    s.run < n.last + regFld s Reg.HDG_NODE_CFG 31 16 * 1000000 → exec (.entryForgetExpiry i) s = .next s)
  ∧ (∀ (h : Nat) (j : AuthJob) (fr : Frame) (s : State), active s = true →
    s.hdg.authRun.find? (fun i => decide (i.handle = h) && jobIsGmac i.key i.next == jobIsGmac j.key j.next) = some j → frameGet s h = some fr →
    ∃ l t, l = s.hdg.authRun.filter (fun j => decide (j.handle ≠ h))
      ∧ t = authDecide { s with hdg := { s.hdg with authRun := l } } h fr.authMode (authCheck j fr.authAlg (Config.secExt fr.bytes))
      ∧ exec (.authVerifyDone h (jobIsGmac j.key j.next)) s = .next (pauseSweep (authStart t t.hdg.authQ)))

/-- Commands of the cistern (R179, R184 to R186, R194, R198, R199, R203), in the cases listed here: an FDB command is taken with its index and data,
and refused while one runs; when it is done it acts as a whole, shows its RESULT and clears BUSY; an entry that has aged out is removed; MCG
commands move a whole bitmap; a transfer of an output-queued district takes the oldest frame that waits for the port; the scan ages the queues of
every port that no hold keeps; a test of a quarantined cell is taken unless one runs, any other cell is refused, and its end frees a good cell and
keeps a bad one; a siphon is disabled, refused a destination that no copy can go to or that is one of its own sources, or enabled with its count
from 0 when it was off; a pause threshold pair is refused where RESUME does not lie below PAUSE, and stored where it does. -/
def Obligations.CisternCommandEffects : Prop :=
  (∀ (f : Fin 4) (s : State), HostSees s Reg.CIS_FDB_CMD →
    ∀ x ∈ [(Instr.fdbRead f, 1), (Instr.fdbWrite f, 2), (Instr.fdbInsert f, 3), (Instr.fdbDelete f, 4), (Instr.fdbLookup f, 5),
        (Instr.fdbFlush f, 6)],
    (regBit s Reg.CIS_FDB_STAT 8 = false →
      ∃ c, c = (x.2, regFld s Reg.CIS_FDB_INDEX 15 0, fdbData s)
        ∧ exec x.1 s = .next (regSetFld { s with cis := { s.cis with fdbCmd := some c } } Reg.CIS_FDB_STAT 8 8 1))
    ∧ (regBit s Reg.CIS_FDB_STAT 8 = true → exec x.1 s = .next (raise s Reg.CIS_CAUSE 5)))
  ∧ (∀ (op i : Nat) (d : List Byte) (s : State), UnitRuns s 3 → s.cis.fdbCmd = some (op, i, d) →
    ∃ r, r = fdbRun { s with cis := { s.cis with fdbCmd := none } } op i d
      ∧ exec .fdbCmdDone s = .next (regSetFld (regSetFld r.2 Reg.CIS_FDB_STAT 2 0 r.1) Reg.CIS_FDB_STAT 8 8 0))
  ∧ (∀ (i : Nat) (e : FdbEntry) (s : State), UnitRuns s 3 → fdbGet s i = some e →
    (fdbExpired s e = true → exec (.fdbAgeRemove i) s = .next (fdbSet s i none))
    ∧ (fdbExpired s e = false → exec (.fdbAgeRemove i) s = .next s))
  ∧ (∀ (f : Fin 4) (g : Fin 1024) (s : State), HostSees s Reg.CIS_MCG_CMD →
    ∃ t, t = (List.range 8).foldl (fun s' k => regSet s' (Reg.CIS_MCG_DATA k) (BitVec.ofNat 32 ((mcgGet s g).toNat / 2 ^ (32 * k)))) s
      ∧ exec (.mcgRead f g) s = .next t)
  ∧ (∀ (f : Fin 4) (g : Fin 1024) (s : State), HostSees s Reg.CIS_MCG_CMD →
    ∃ m, m = (List.range 8).foldl (fun a k => a + (regGet s (Reg.CIS_MCG_DATA k)).toNat * 2 ^ (32 * k)) 0
      ∧ exec (.mcgWrite f g) s = .next (mcgSet s g m))
  ∧ (∀ (p : Fin 200) (h : Nat) (rest : List Nat) (s : State), UnitRuns s 3 → tabGet (fun _ => []) s.cis.xfer p = h :: rest →
    exec (.oqTransfer p) s = .next (pauseSweep (oqTransfer s p)))
  ∧ (∀ (p : Fin 200) (s : State), UnitRuns s 3 → tabGet (fun _ => []) s.cis.xfer p = [] → exec (.oqTransfer p) s = .next (pauseSweep s))
  ∧ (∀ s : State, UnitRuns s 3 →
    ∃ t, t = (s.cis.queues.map (fun e => e.1)).foldl (fun s' q =>
        if q / 64 < 200 ∧ portHolding s' (q / 64) then s' else queueAge s' (q / 64) q false) s
      ∧ exec .staleScan s = .next (pauseSweep t))
  ∧ (∀ (f : Fin 4) (c : Nat) (s : State), HostSees s Reg.CIS_QUAR_CTL → regBit s Reg.CIS_QUAR_CTL 29 = false →
    (s.cis.quarantined.any (fun q => decide (q.1 = c)) = true →
      exec (.quarantineTest f c) s = .next (regSetFld { s with cis := { s.cis with quarTest := some c } } Reg.CIS_QUAR_CTL 29 29 1))
    ∧ (s.cis.quarantined.any (fun q => decide (q.1 = c)) = false →
      exec (.quarantineTest f c) s = .next (regSetFld s Reg.CIS_QUAR_CTL 31 30 3)))
  ∧ (∀ (c : Nat) (s : State), UnitRuns s 3 → s.cis.quarTest = some c →
    ∃ l t, l = s.cis.quarantined.filter (fun q => decide (q.1 ≠ c))
      ∧ t = ({ s with cis := { s.cis with quarTest := none, quarantined := l } } : State)
      ∧ exec (.quarantineTestDone true) s = .next (raise (regSetFld t Reg.CIS_QUAR_CTL 31 29 2) Reg.CIS_CAUSE 7)
      ∧ exec (.quarantineTestDone false) s
        = .next (raise (regSetFld { s with cis := { s.cis with quarTest := none } } Reg.CIS_QUAR_CTL 31 29 4) Reg.CIS_CAUSE 7))
  ∧ (∀ (f : Fin 4) (x : Fin 8) (v : Word) (s : State), HostSees s (Reg.CIS_SIPH_CTL x) →
    (bitOf v 31 = false → exec (.siphEnable f x v) s = .next (regSet s (Reg.CIS_SIPH_CTL x) (v &&& 0xFFF70000#32)))
    ∧ (bitOf v 31 = true → 204 ≤ fld v 27 20 ∨ siphonOut s x (fld v 27 20) = true →
      exec (.siphEnable f x v) s = .next (raise s Reg.CIS_CAUSE 5))
    ∧ (bitOf v 31 = true → fld v 27 20 < 204 → siphonOut s x (fld v 27 20) = false → siphonOn s x = false →
      ∃ t, t = { s with cis := { s.cis with siphCount := tabSet (fun _ => 0) s.cis.siphCount x 0 } }
        ∧ exec (.siphEnable f x v) s = .next (regSet t (Reg.CIS_SIPH_CTL x) (v &&& 0xFFF70000#32))))
  ∧ (∀ (f : Fin 4) (p : Fin 200) (v : Word) (s : State), HostSees s (Reg.CIS_PAUSE_TH p) →
    (fld v 31 16 ≠ 0 → fld v 31 16 ≤ fld v 15 0 → exec (.pauseThWrite f p v) s = .next (raise s Reg.CIS_CAUSE 5))
    ∧ (fld v 31 16 = 0 ∨ fld v 15 0 < fld v 31 16 → exec (.pauseThWrite f p v) s = .next (pauseEval (regSet s (Reg.CIS_PAUSE_TH p) v) p)))

/-- Sluices (R208, R209, R210, R213, R214), in the cases listed here: a request of a requester that exists and whose domain is on is raised with
its instant, and a request of a host function through the tank remembers the function; a withdrawal counts its wait and loses its age; a phase
that may be held grants the winner, or leaves the resource idle where there is none, and no phase is held while the owner does not drive LAST or twice
in one CORE cycle; a nonzero seed, a pool's tickets and a slot that names a requester of its own are stored, to be used from the next CORE cycle on,
and a seed of 0 and a slot that names none or one that another enabled slot names are refused. -/
def Obligations.SluiceCommandEffects : Prop :=
  (∀ (i r : Nat) (f : Fin 4) (s : State), UnitRuns s 3 → i < 115 → r < sluRequesters i → domOn s (sluReqDomain i r) = true → sluGet s i r = none →
    (¬ (32 ≤ i ∧ i < 96 ∧ r = 7) → exec (.sluiceRequest i ⟨r, f⟩) s = .next (sluSet s i r (some (coreCycle s, coreCycle s))))
    ∧ (32 ≤ i ∧ i < 96 ∧ r = 7 → ∃ t, t = { s with slu := { s.slu with fn := tabSet (fun _ => 0) s.slu.fn i f } }
      ∧ exec (.sluiceRequest i ⟨r, f⟩) s = .next (sluSet t i r (some (coreCycle s, coreCycle s)))))
  ∧ (∀ (i r : Nat) (s : State), UnitRuns s 3 → r < 64 → (sluGet s i r).isSome = true →
    exec (.sluiceWithdraw i r) s = .next (sluSet (sluWait s i r) i r none))
  ∧ (∀ (i : Nat) (last : Bool) (s held : State), UnitRuns s 3 → sluOpen s i last = true →
    held = { s with slu := { s.slu with phase := tabSet (fun _ => 0) s.slu.phase i (coreCycle s + 1) } } →
    (∀ r t, sluChoose held i = (some r, t) → exec (.arbitrationPhase ⟨i, last⟩) s = .next (farServe (sluGrant t i r) i r))
    ∧ (∀ t, sluChoose held i = (none, t) → exec (.arbitrationPhase ⟨i, last⟩) s = .next (regSetFld t (Reg.SLU_STAT i) 31 31 0)))
  ∧ (∀ (i : Nat) (last : Bool) (s : State), UnitRuns s 3 →
    (regBit s (Reg.SLU_STAT i) 31 = true ∧ last = false) ∨ coreCycle s < tabGet (fun _ => 0) s.slu.phase i →
    exec (.arbitrationPhase ⟨i, last⟩) s = .next s)
  ∧ (∀ (f : Fin 4) (i : Nat) (v : Word) (s : State), HostSees s (Reg.SLU_SEED i) → i < 115 → locked s (Reg.SLU_SEED i) = false →
    (fld v 15 0 ≠ 0 → exec (.sluSeedWrite f i v) s
      = .next (sluPut s i (Reg.SLU_SEED i) (setFld (regGet s (Reg.SLU_SEED i)) 15 0 (fld v 15 0))))
    ∧ (fld v 15 0 = 0 →
      exec (.sluSeedWrite f i v) s = .next (raise (regSet s Reg.SLU_REFUSED_INST (BitVec.ofNat 32 i)) Reg.SLU_CAUSE 1)))
  ∧ (∀ (f : Fin 4) (i : Nat) (v : Word) (s : State), HostSees s (Reg.SLU_POOL i) → i < 115 → locked s (Reg.SLU_POOL i) = false →
    exec (.sluConfigWrite f (Reg.SLU_POOL i) v) s = .next (sluPut s i (Reg.SLU_POOL i) (setFld (regGet s (Reg.SLU_POOL i)) 7 0 (fld v 7 0))))
  ∧ (∀ (f : Fin 4) (i k : Nat) (v : Word) (s : State), HostSees s (Reg.SLU_PRIV i k) → i < 115 → k < 4 → locked s (Reg.SLU_PRIV i k) = false →
    (sluRequesters i ≤ fld v 21 16 → exec (.sluConfigWrite f (Reg.SLU_PRIV i k) v) s
      = .next (raise (regSet s Reg.SLU_REFUSED_INST (BitVec.ofNat 32 i)) Reg.SLU_CAUSE 1))
    ∧ (fld v 21 16 < sluRequesters i → (∀ j < 4, j ≠ k → (sluSlot s i j).1 = true → (sluSlot s i j).2.1 ≠ fld v 21 16) →
      exec (.sluConfigWrite f (Reg.SLU_PRIV i k) v) s = .next (sluPut s i (Reg.SLU_PRIV i k) (v &&& 0x803F00FF#32))))

/-- Where some request was raised before this CORE cycle, the choice of a phase has a winner, and the winner is one of them (R208, R212); without
a privileged slot the winner is the oldest, of equal ages the lowest index (R210); the step of the LFSR of a draw never makes it 0 (R213). -/
def Obligations.ArbitrationPicksARaisedRequest : Prop :=
  (∀ (i : Nat) (s : State), sluStarted s i ≠ [] →
    ∃ r t, sluWinner s i = (some r, t) ∧ r ∈ sluStarted s i ∧ (t = s ∨ ∃ v, t = regSetFld s (Reg.SLU_SEED i) 15 0 v))
  ∧ (∀ (i r : Nat) (s t : State), (∀ k < 4, (sluSlot s i k).1 = false) → sluWinner s i = (some r, t) →
    ∀ q ∈ sluStarted s i, sluAge s i q < sluAge s i r ∨ (sluAge s i q = sluAge s i r ∧ r ≤ q))
  ∧ (∀ l : BitVec 16, l ≠ 0 → lfsrStep l ≠ 0)

/-- Furrow domains (R225 to R241), in the cases listed here: RUN takes an OFF domain with a section to LISTEN or to its anchor, and does no more in
another state; a clear of RUN stops a domain that is not RUNNING, and waits for the end of the cycle of one that is. At an instant that starts a
cycle the domain enters or turns its cycle and its members' CYCLE_START frames go; at no such instant nothing happens. The decision on coldstarts
takes the winner and lets the others go; the evaluation of a mode schedules the mode that is forced or agreed; a minislot in which no frame was
admitted moves its channel's pointer on; the star sends its NULL in a furrow that no frame has started by its deadline. The report of a frame's
start is stored for a member port, and in LISTEN a coldstart of a permitted port is noted, and a port that is no member reports nothing. A mode is forced in a
running domain, and refused in another; a port command is refused for a port that is no member, and else contains an ACTIVE one or readmits one
that is ACTIVE or CONTAINED. -/
def Obligations.FurrowCommandEffects : Prop :=
  (∀ (f d : Fin 4) (s : State), HostSees s (Reg.FUR_CTL d) →
    ∀ u, u = regSetFld s (Reg.FUR_CTL d) 0 0 1 →
    (furState u d = 0 → (furSection u d).isSome = true →
      ∃ t x, t = furTo u d (if furFree u d then 1 else 2) ∧ x = { furGet u d with kept := false, cold := [], coldWin := none }
        ∧ exec (.furrowRunSet f d) s = .next (furSet t d x))
    ∧ (furState u d ≠ 0 → exec (.furrowRunSet f d) s = .next u))
  ∧ (∀ (f d : Fin 4) (s : State), HostSees s (Reg.FUR_CTL d) →
    ∀ u, u = regSetFld s (Reg.FUR_CTL d) 0 0 0 →
    exec (.furrowRunClear f d) s = .next (if furState u d = 3 then u else furStop u d))
  ∧ (∀ (d : Fin 4) (start number : Word) (s : State), UnitRuns s 3 → furNext s d = some (start, number) →
    (furState s d = 2 → exec (.cycleStart d) s = .next (pauseSweep (cycleSend (furBegin (furEnter s d) d start number) d)))
    ∧ (furState s d ≠ 2 → exec (.cycleStart d) s = .next (pauseSweep (cycleSend (furTurn s d start number) d))))
  ∧ (∀ (d : Fin 4) (s : State), UnitRuns s 3 → furNext s d = none → exec (.cycleStart d) s = .next (pauseSweep s))
  ∧ (∀ (d : Fin 4) (win : ColdStart) (due : Int) (s t : State) (x : FurDom), UnitRuns s 3 → furState s d = 1 → (furGet s d).coldWin = none →
    coldWinner ((furGet s d).cold.filter (fun c => !c.lost)) = some win →
    due = (BitVec.ofNat 40 ((nowNs32 s + regGet s (Reg.FUR_OFFSET d)).toNat * 256 + s.clk.frac.toNat / 2 ^ 24) - BitVec.ofNat 40 win.stamp).toInt →
    40 * 256 ≤ due → win.done = none →
    x = { furGet s d with
      coldWin := some win, cold := (furGet s d).cold.map (fun c => if c.port = win.port then c else { c with lost := true }) } →
    t = furSet s d x →
    exec (.coldstartDecision d) s
      = .next (pauseSweep (((furGet s d).cold.filter (fun c => decide (c.port ≠ win.port) && !c.lost)).foldl (coldOut d) t)))
  ∧ (∀ (d : Fin 4) (m : Nat) (s t : State), UnitRuns s 3 → furState s d = 3 → (furGet s d).evaluated = false → (furGet s d).coldWin = none →
    ((furSeg s d 12 * 256 : Nat) : Int) ≤ furNow s d →
    ((furGet s d).forced = some m ∨ ((furGet s d).forced = none ∧ furAgreed s d = some m)) →
    t = furSet s d { furGet s d with evaluated := true, forced := none } → regBit t (Reg.FUR_STAT d) 11 = false →
    ∃ u, u = regSetFld (regSetFld t (Reg.FUR_STAT d) 10 8 m) (Reg.FUR_STAT d) 11 11 1
      ∧ exec (.modeEvaluation d) s
        = .next (raise (regSet u (Reg.FUR_EFFECTIVE d) (regGet u (Reg.FUR_CYCLE d) + 2)) Reg.FUR_CAUSE 3))
  ∧ (∀ (d : Fin 4) (chanB : Bool) (s : State) (y : FurDyn) (now b : Nat), UnitRuns s 3 → furState s d = 3 → y = furDyn s d chanB →
    y.admitted = false → furSlotField s d 4 ≠ 0 → (furPointed s d chanB).isSome = true → now = (furNow s d / 256).toNat → furSeg s d 8 ≤ now →
    b = furSeg s d 8 + (now - furSeg s d 8) / furSlotField s d 4 * furSlotField s d 4 →
    y.at_ + furSlotField s d 6 + (furGet s d).guard + 40 ≤ b →
    exec (.minislotBoundary d chanB) s = .next (furDynSet s d chanB { y with index := y.index + 1, at_ := b }))
  ∧ (∀ (d : Fin 4) (chanB : Bool) (s : State), UnitRuns s 3 → furState s d ≠ 3 → exec (.minislotBoundary d chanB) s = .next s)
  ∧ (∀ (d : Fin 4) (w : Fin 256) (chanB : Bool) (x : FurSlot) (r : List Byte) (s : State), UnitRuns s 3 → slotGet s d w chanB = some x →
    (furEntries s d).find? (fun r => decide (entryKind r = 0) && decide (leAt r 2 1 = w)) = some r → furState s d = 3 → x.started = false →
    (((leAt r 8 4 + entryGuard s d r + 40) * 256 : Nat) : Int) ≤ furNow s d →
    exec (.starNullDeadline d w chanB) s = .next (pauseSweep (starNull s d w chanB)))
  ∧ (∀ (p : Fin 200) (n : Word) (x : BitVec 8) (cold : Bool) (s : State), UnitRuns s (portDomain p) → furMember s p = none →
    exec (.furrowStartReport p n x cold) s = .next (pauseSweep s))
  ∧ (∀ (p : Fin 200) (n : Word) (x : BitVec 8) (cold : Bool) (d : Nat) (chanB : Bool) (s t : State), UnitRuns s (portDomain p) →
    furMember s p = some (d, chanB) → t = portSet s p { portGet s p with furStart := some (n.toNat * 256 + x.toNat) } →
    (regBit t (Reg.FUR_PORT_STAT p) 3 = true ∨ (furState t d ≠ 1 ∧ furState t d ≠ 3) →
      exec (.furrowStartReport p n x cold) s = .next (pauseSweep t))
    ∧ (regBit t (Reg.FUR_PORT_STAT p) 3 = false → furState t d = 1 → cold = true → (furGet s d).coldWin = none →
      furColdPort t d p chanB = true → (∀ c ∈ (furGet s d).cold, c.port ≠ p.val) →
      ∃ c, c = ({ port := p.val, chanB := chanB, node := furNode t p, stamp := (n + regGet t (Reg.FUR_OFFSET d)).toNat * 256 + x.toNat,
                  handle := noFrame, lost := false, done := none } : ColdStart)
        ∧ exec (.furrowStartReport p n x cold) s = .next (pauseSweep (furSet t d { furGet s d with cold := (furGet s d).cold ++ [c] }))))
  ∧ (∀ (f d : Fin 4) (v : Word) (s : State), HostSees s (Reg.FUR_MODE_CMD d) → bitOf v 31 = true →
    (furState s d ≠ 3 → exec (.furModeCmd f d v) s = .next (raise s Reg.FUR_CAUSE 7))
    ∧ (furState s d = 3 → (furModeRec s d (fld v 2 0)).isSome = true → fld v 2 0 ≠ furMode s d → regBit s (Reg.FUR_STAT d) 11 = false →
      ∃ x, x = { furGet s d with forced := some (fld v 2 0) } ∧ exec (.furModeCmd f d v) s = .next (furSet s d x)))
  ∧ (∀ (f : Fin 4) (p : Fin 200) (s : State), HostSees s (Reg.FUR_PORT_CMD p) →
    (furMember s p = none →
      exec (.furPortContain f p) s = .next (raise s Reg.FUR_CAUSE 7) ∧ exec (.furPortReadmit f p) s = .next (raise s Reg.FUR_CAUSE 7))
    ∧ (∀ d chanB, furMember s p = some (d, chanB) →
      (furPortState s p = 3 → exec (.furPortContain f p) s = .next (furContain s d p))
      ∧ (3 ≤ furPortState s p → exec (.furPortReadmit f p) s = .next (furPortTo s p 2))))

/-- Confluence (R246, R262, R263, R268, R269, R271, R272), in the cases listed here: the oldest waiting ASDU is taken up; the first row that is due, of
those of all basins, is computed while the unit is ready, and nothing else is; the row that was computed first is sealed, and its republications
follow; a stream that runs and has been silent for longer than its limit is reported and counted, and before that nothing happens; RUN applies
an idle basin afresh, and its clear stops the basin; EN starts an idle stream that has a record with an empty store, and its clear empties it, while
their registers are not locked; a ring's base is stored while the ring is off, and refused while it is on. -/
def Obligations.ConfluenceCommandEffects : Prop :=
  (∀ (a : Asdu) (l : List Asdu) (s : State), UnitRuns s 14 → s.cnf.ingest = a :: l →
    exec .asduIngest s = .next (asduIngest { s with cnf := { s.cnf with ingest := l } } a))
  ∧ (∀ (b : Fin 16) (s : State), UnitRuns s 14 →
    (cnfReady s = true → rowFirst s (List.range 16) = some b.val → exec (.rowDeadline b) s = .next (rowCompute s b))
    ∧ (cnfReady s = false ∨ rowFirst s (List.range 16) ≠ some b.val → exec (.rowDeadline b) s = .next s))
  ∧ (∀ (b : Fin 16) (r : CnfRow) (s t : State), UnitRuns s 14 → s.cnf.order.head? = some b.val → rowSeal s b = (some r, t) →
    exec (.rowSeal b) s = .next (pauseSweep (svRow t b r)))
  ∧ (∀ (i : Fin 1024) (s : State), UnitRuns s 14 → strState s i = 2 → (cnfStr s i).lastAt + strField s i 18 2 * 1000000 < s.run →
    exec (.streamSilence i) s = .next (cnfRaise (strCount (strTo s i 3) i 13) 0 i 3))
  ∧ (∀ (i : Fin 1024) (s : State), UnitRuns s 14 → s.run ≤ (cnfStr s i).lastAt + strField s i 18 2 * 1000000 →
    exec (.streamSilence i) s = .next s)
  ∧ (∀ (f : Fin 4) (b : Fin 16) (s : State), HostSees s (Reg.CNF_BASIN_CTL b) → locked s (Reg.CNF_BASIN_CTL b) = false →
    ∀ u, u = regSetFld s (Reg.CNF_BASIN_CTL b) 0 0 1 →
    exec (.basinRunSet f b) s = .next (if basState u b = 0 then basApply (basFresh u b) b else u)
    ∧ exec (.basinRunClear f b) s = .next (basStop (regSetFld s (Reg.CNF_BASIN_CTL b) 0 0 0) b))
  ∧ (∀ (f : Fin 4) (i : Fin 1024) (s : State), HostSees s (Reg.CNF_STR_CTL i) → locked s (Reg.CNF_STR_CTL i) = false →
    ∀ u, u = regSetFld s (Reg.CNF_STR_CTL i) 0 0 1 → strState u i = 0 → (strRec u i).isSome = true →
    exec (.streamEnable f i) s = .next (strTo (cnfStrSet u i { cnfStr0 with marks := (cnfStr u i).marks }) i 1))
  ∧ (∀ (f : Fin 4) (i : Fin 1024) (s : State), HostSees s (Reg.CNF_STR_CTL i) → locked s (Reg.CNF_STR_CTL i) = false →
    ∃ t, t = cnfStrSet (regSetFld s (Reg.CNF_STR_CTL i) 0 0 0) i { cnfStr0 with marks := (cnfStr s i).marks }
      ∧ exec (.streamDisable f i) s = .next (strTo t i 0))
  ∧ (∀ (f : Fin 4) (v : Word) (s : State), HostSees s (Reg.CNF_RING_BASE_LO 0) →
    (bitOf (regGet s (Reg.CNF_RING_CTL 0)) 31 = false →
      exec (.cnfRingCtlWrite f (Reg.CNF_RING_BASE_LO 0) v) s = .next (regSet s (Reg.CNF_RING_BASE_LO 0) (v &&& 0xFFFFFFC0)))
    ∧ (bitOf (regGet s (Reg.CNF_RING_CTL 0)) 31 = true →
      exec (.cnfRingCtlWrite f (Reg.CNF_RING_BASE_LO 0) v) s = .next (cnfRaise s 0 0 8)))

/-- The publisher (R284 to R294), in the cases listed here: a register update with none ahead of it, and a mailbox update that is the oldest message
to the publisher, is executed, or its launch is, and its result shown where it came from; the end of a tag sends the extended frame where the lane's
key is of its algorithm, and else counts KEY_MISSING and raises its cause; a publication with no launch pending whose time is due repeats its
content; a running subscription expires once the clock has passed its deadline and settling time, and not before; enabling an idle subscription
takes it to waiting, disabling one takes it to idle; disabling a publication stops it. -/
def Obligations.PublisherCommandEffects : Prop :=
  (∀ (f : Fin 4) (w : Word) (u : PubUpdate) (s t : State), HostSees s Reg.PUB_UPD_W0 → u = updateOfRegs s f w → s.pub.waits = [] →
    t = regSetFld { s with pub := { s.pub with waits := [] } } (regKey f Reg.PUB_UPD_STAT) 31 31 1 → mailFirst t s.run = false →
    (u.op ≠ 2 → exec (.pubUpdate (.register f w)) s = .next (pauseSweep (regUpdate t f u)))
    ∧ (u.op = 2 → exec (.pubUpdateLaunch (.register f w)) s = .next (pauseSweep (regUpdate t f u))))
  ∧ (∀ (c : Fin 64) (s : State) (u : PubUpdate), UnitRuns s 3 → u = updateOfMsg (mbxGet s c).msg → mbxOldest s 35 = some c.val →
    ∃ t, t = mbxAck (pubUpdate s u).2 c (BitVec.ofNat 32 (pubUpdate s u).1)
      ∧ (u.op ≠ 2 → exec (.pubUpdate (.mailbox c)) s = .next (pauseSweep (regDrain t.pub.waits.length t)))
      ∧ (u.op = 2 → exec (.pubUpdateLaunch (.mailbox c)) s = .next (pauseSweep (regDrain t.pub.waits.length t))))
  ∧ (∀ (i n alg v : Nat) (b : List Byte) (sv : Bool) (w : Option Word) (k : Key) (s t : State), active s = true →
    s.krn.laneRun[i]? = some { job := .frame b n sv w v alg, key := some k } →
    t = { s with krn := { s.krn with laneRun := s.krn.laneRun.eraseIdx i } } →
    (k.alg = alg → exec (.pubTagDone i) s = .next (pauseSweep (laneKick (pubInject t
      (Config.secExtend b alg k.id (tagOf alg k.key (Config.secIv b) (Config.secCovered b))) n sv w))))
    ∧ (k.alg ≠ alg → exec (.pubTagDone i) s
      = .next (pauseSweep (laneKick (raise (regSet (pubCount t 5) Reg.PUB_EVENT (BitVec.ofNat 32 n)) Reg.PUB_CAUSE 5)))))
  ∧ (∀ (g : Fin 512) (due : Nat) (s : State), UnitRuns s 3 → (gpGet s g).launch = none → (gpGet s g).due = some due → due ≤ pubNow s →
    gpEn s g = true → pubGated s = false → exec (.gooseRetransmit g) s = .next (pauseSweep (gpRepeat s g due)))
  ∧ (∀ (v : Fin 8192) (s : State), UnitRuns s 3 → subState s v = 2 →
    (subGet s v).deadline + (((subField s v 2 2 * 1000 : Nat) : Int) + 1) * tNano ≤ clkTime s.clk →
    exec (.subscriptionExpiry v) s = .next (subExpire s v))
  ∧ (∀ (v : Fin 8192) (s : State), UnitRuns s 3 →
    subState s v ≠ 2 ∨ clkTime s.clk < (subGet s v).deadline + (((subField s v 2 2 * 1000 : Nat) : Int) + 1) * tNano →
    exec (.subscriptionExpiry v) s = .next s)
  ∧ (∀ (f : Fin 4) (v : Fin 8192) (s u : State), HostSees s (Reg.PUB_SUB_STAT v) →
    u = regSetFld s (Reg.PUB_SUB_STAT v) 31 31 1 → subState u v = 0 →
    ∃ t, t = regSetFld (subSet u v { subGet u v with seen := false }) (Reg.PUB_SUB_STAT v) 15 0 0
      ∧ exec (.subscriptionEnable f v) s = .next (subMirror (subTo t v 1) v))
  ∧ (∀ (f : Fin 4) (v : Fin 8192) (s u : State), HostSees s (Reg.PUB_SUB_STAT v) → u = regSetFld s (Reg.PUB_SUB_STAT v) 31 31 0 →
    exec (.subscriptionDisable f v) s = .next (if subState u v = 0 then u else subMirror (subTo u v 0) v))
  ∧ (∀ (f : Fin 4) (g : Fin 512) (s t u : State), HostSees s (Reg.PUB_GP_STAT g) → t = gpSettle s g →
    u = regSetFld t (Reg.PUB_GP_STAT g) 31 31 0 →
    exec (.publicationDisable f g) s = .next (gpSet u g { gpGet t g with due := none, old := none }))

/-- Register arithmetic of a Kuern thread (R330, R332): each instruction of Table 13-5 but the divisions, whose word of format R with major opcode 1
and the function number of the table stands at the thread's PC, takes its cycles, writes its result to rd and advances PC. Shifts take the low 5 bits
of rs2, and a product is computed whole before it is cut. -/
def Obligations.KuernRegisterArithmetic : Prop :=
  (∀ (e : Fin 32) (t : Fin 16) (rd r1 r2 : Fin 32) (s : State),
    ∀ x ∈ [(Instr.kAdd e t rd r1 r2, 0, 1, fun a b : Word => a + b), (Instr.kSub e t rd r1 r2, 1, 1, fun a b => a - b),
      (Instr.kAnd e t rd r1 r2, 2, 1, fun a b => a &&& b), (Instr.kOr e t rd r1 r2, 3, 1, fun a b => a ||| b),
      (Instr.kXor e t rd r1 r2, 4, 1, fun a b => a ^^^ b), (Instr.kSll e t rd r1 r2, 5, 1, fun a b => a <<< (b.toNat % 32)),
      (Instr.kSrl e t rd r1 r2, 6, 1, fun a b => a >>> (b.toNat % 32)),
      (Instr.kSra e t rd r1 r2, 7, 1, fun a b => a.sshiftRight (b.toNat % 32)),
      (Instr.kSlt e t rd r1 r2, 8, 1, fun a b => if a.toInt < b.toInt then 1#32 else 0#32),
      (Instr.kSltu e t rd r1 r2, 9, 1, fun a b => if a.toNat < b.toNat then 1#32 else 0#32),
      (Instr.kMul e t rd r1 r2, 10, 3, fun a b => a * b),
      (Instr.kMulh e t rd r1 r2, 11, 3, fun a b => BitVec.ofInt 32 (a.toInt * b.toInt / 2 ^ 32)),
      (Instr.kMulhu e t rd r1 r2, 12, 3, fun a b => BitVec.ofNat 32 (a.toNat * b.toNat / 2 ^ 32)),
      (Instr.kMin e t rd r1 r2, 19, 1, fun a b => if a.toInt < b.toInt then a else b),
      (Instr.kMax e t rd r1 r2, 20, 1, fun a b => if a.toInt < b.toInt then b else a),
      (Instr.kMinu e t rd r1 r2, 21, 1, fun a b => if a.toNat < b.toNat then a else b),
      (Instr.kMaxu e t rd r1 r2, 22, 1, fun a b => if a.toNat < b.toNat then b else a)],
    ThreadIssues s e t (kR 1 rd r1 r2 x.2.1) →
    ∀ u w, u = issueStart s e t x.2.2.1 → w = (thrGet u e t).regs →
    exec x.1 s = .next (thrWrite u e t rd (x.2.2.2 (wGet w r1) (wGet w r2))))
  ∧ (∀ (e : Fin 32) (t : Fin 16) (rd r1 : Fin 32) (s u : State) (a : Word), u = issueStart s e t 1 → a = wGet (thrGet u e t).regs r1 →
    (ThreadIssues s e t (kR 1 rd r1 0 17) → exec (.kBswap e t rd r1) s = .next (thrWrite u e t rd
      (BitVec.ofNat 32 (a.toNat % 256 * 16777216 + a.toNat / 256 % 256 * 65536 + a.toNat / 65536 % 256 * 256 + a.toNat / 16777216))))
    ∧ (ThreadIssues s e t (kR 1 rd r1 0 18) → exec (.kClz e t rd r1) s = .next (thrWrite u e t rd
      (BitVec.ofNat 32 (if a = 0 then 32 else 31 - a.toNat.log2)))))

/-- Division never raises an exception: DIV, DIVU, REM and REMU write rd for every pair of operands. A divisor of 0 gives 0xFFFF_FFFF and a
remainder equal to rs1; 0x8000_0000 by 0xFFFF_FFFF gives 0x8000_0000 and 0; else the quotient rounds toward zero and the remainder has the
dividend's sign. Arithmetic (ADD, SUB, MUL and ADDI) wraps modulo 2³². -/
def Obligations.DivisionNeverRaisesAnException : Prop :=
  (∀ (e : Fin 32) (t : Fin 16) (rd r1 r2 : Fin 32) (s u : State) (w : Tab Word) (a b : Word), u = issueStart s e t 18 →
    w = (thrGet u e t).regs → a = wGet w r1 → b = wGet w r2 →
    ∃ q qu r ru : Word,
      (ThreadIssues s e t (kR 1 rd r1 r2 13) → exec (.kDiv e t rd r1 r2) s = .next (thrWrite u e t rd q))
      ∧ (ThreadIssues s e t (kR 1 rd r1 r2 14) → exec (.kDivu e t rd r1 r2) s = .next (thrWrite u e t rd qu))
      ∧ (ThreadIssues s e t (kR 1 rd r1 r2 15) → exec (.kRem e t rd r1 r2) s = .next (thrWrite u e t rd r))
      ∧ (ThreadIssues s e t (kR 1 rd r1 r2 16) → exec (.kRemu e t rd r1 r2) s = .next (thrWrite u e t rd ru))
      ∧ (b = 0 → q = 0xFFFFFFFF ∧ qu = 0xFFFFFFFF ∧ r = a ∧ ru = a)
      ∧ (a = 0x80000000 → b = 0xFFFFFFFF → q = 0x80000000 ∧ r = 0)
      ∧ (b ≠ 0 → qu.toNat = a.toNat / b.toNat ∧ ru.toNat = a.toNat % b.toNat)
      ∧ (b ≠ 0 → (a ≠ 0x80000000 ∨ b ≠ 0xFFFFFFFF) → q.toInt = a.toInt.tdiv b.toInt ∧ r.toInt = a.toInt.tmod b.toInt))
  ∧ (∀ (e : Fin 32) (t : Fin 16) (rd r1 r2 : Fin 32) (k : BitVec 16) (s u v : State) (a b c d : Word), u = issueStart s e t 1 →
    v = issueStart s e t 3 → a = wGet (thrGet u e t).regs r1 → b = wGet (thrGet u e t).regs r2 → c = wGet (thrGet v e t).regs r1 →
    d = wGet (thrGet v e t).regs r2 →
    (ThreadIssues s e t (kR 1 rd r1 r2 0) →
      exec (.kAdd e t rd r1 r2) s = .next (thrWrite u e t rd (BitVec.ofNat 32 ((a.toNat + b.toNat) % 2 ^ 32))))
    ∧ (ThreadIssues s e t (kR 1 rd r1 r2 1) →
      exec (.kSub e t rd r1 r2) s = .next (thrWrite u e t rd (BitVec.ofNat 32 ((2 ^ 32 + a.toNat - b.toNat) % 2 ^ 32))))
    ∧ (ThreadIssues s e t (kR 1 rd r1 r2 10) →
      exec (.kMul e t rd r1 r2) s = .next (thrWrite v e t rd (BitVec.ofNat 32 (c.toNat * d.toNat % 2 ^ 32))))
    ∧ (ThreadIssues s e t (kI 2 rd r1 k) →
      exec (.kAddi e t rd r1 k) s = .next (thrWrite u e t rd (BitVec.ofInt 32 (((a.toNat : Int) + k.toInt) % 2 ^ 32)))))

/-- Immediate arithmetic, bit fields, jumps and branches (R330, R331, R335), with the instruction's word at the thread's PC: ADDI, SLTI and JALR extend
the sign, and the logic forms and SLTIU extend with zeros; a shift selector of 3 is ILLEGAL; a field of len + 1 bits is taken from, or put at, bit pos,
and what would lie above bit 31 is zeros, or lost; a jump links PC + 1, and a taken branch adds its offset to PC and takes 2 cycles. -/
def Obligations.KuernImmediatesJumpsAndBranches : Prop :=
  (∀ (e : Fin 32) (t : Fin 16) (rd r1 : Fin 32) (k : BitVec 16) (n pos len : BitVec 5) (s u : State) (w : Tab Word) (a m : Word),
    u = issueStart s e t 1 → w = (thrGet u e t).regs → a = wGet w r1 → m = BitVec.ofNat 32 (2 ^ (len.toNat + 1) - 1) →
    ∀ x ∈ [(Instr.kAddi e t rd r1 k, kI 2 rd r1 k, a + k.signExtend 32), (Instr.kAndi e t rd r1 k, kI 3 rd r1 k, a &&& k.setWidth 32),
        (Instr.kOri e t rd r1 k, kI 4 rd r1 k, a ||| k.setWidth 32), (Instr.kXori e t rd r1 k, kI 5 rd r1 k, a ^^^ k.setWidth 32),
        (Instr.kShi e t rd r1 0 n, kI 6 rd r1 (kShift 0 n), a <<< n.toNat), (Instr.kShi e t rd r1 1 n, kI 6 rd r1 (kShift 1 n), a >>> n.toNat),
        (Instr.kShi e t rd r1 2 n, kI 6 rd r1 (kShift 2 n), a.sshiftRight n.toNat),
        (Instr.kSlti e t rd r1 k, kI 7 rd r1 k, if a.toInt < k.toInt then 1#32 else 0#32),
        (Instr.kSltiu e t rd r1 k, kI 8 rd r1 k, if a.toNat < k.toNat then 1#32 else 0#32),
        (Instr.kLui e t rd k, kI 9 rd 0 k, k.setWidth 32 <<< 16),
        (Instr.kExt e t rd r1 pos len, kI 10 rd r1 (kPosLen pos len), (a >>> pos.toNat) &&& m),
        (Instr.kIns e t rd r1 pos len, kI 11 rd r1 (kPosLen pos len),
          (wGet w rd &&& ~~~(m <<< pos.toNat)) ||| ((a <<< pos.toNat) &&& (m <<< pos.toNat)))],
      ThreadIssues s e t x.2.1 → exec x.1 s = .next (thrWrite u e t rd x.2.2))
  ∧ (∀ (e : Fin 32) (t : Fin 16) (rd r1 : Fin 32) (n : BitVec 5) (s : State), ThreadIssues s e t (kI 6 rd r1 (kShift 3 n)) →
    exec (.kShi e t rd r1 3 n) s = .next (krnExc (issueStart s e t 1) e t 1))
  ∧ (∀ (e : Fin 32) (t : Fin 16) (rd r1 : Fin 32) (k : BitVec 16) (off : BitVec 21) (s u v : State) (x : KThread), u = issueStart s e t 2 →
    x = thrGet u e t → v = thrWrite u e t rd ((x.pc + 1).setWidth 32) →
    (ThreadIssues s e t (kJ 0x26 rd off) → exec (.kJal e t rd off) s = .next (thrJump v e t (x.pc + off.setWidth 15)))
    ∧ (ThreadIssues s e t (kI 0x27 rd r1 k) →
      exec (.kJalr e t rd r1 k) s = .next (thrJump v e t ((wGet x.regs r1 + k.signExtend 32).setWidth 15))))
  ∧ (∀ (e : Fin 32) (t : Fin 16) (r1 r2 : Fin 32) (off : BitVec 16) (s u : State) (x : KThread) (a b : Word), u = issueStart s e t 1 →
    x = thrGet u e t → a = wGet x.regs r1 → b = wGet x.regs r2 →
    ∀ y ∈ [(Instr.kBeq e t r1 r2 off, 0x20, decide (a = b)), (Instr.kBne e t r1 r2 off, 0x21, decide (a ≠ b)),
        (Instr.kBlt e t r1 r2 off, 0x22, decide (a.toInt < b.toInt)), (Instr.kBge e t r1 r2 off, 0x23, decide (b.toInt ≤ a.toInt)),
        (Instr.kBltu e t r1 r2 off, 0x24, decide (a.toNat < b.toNat)), (Instr.kBgeu e t r1 r2 off, 0x25, decide (b.toNat ≤ a.toNat))],
      ThreadIssues s e t (kI y.2.1 r1 r2 off) →
      exec y.1 s = .next (if y.2.2 then thrCost (thrJump u e t (x.pc + off.setWidth 15)) e t 2 else thrNext u e t))

/-- What a register write of a thread changes (R328): its rd, but w0, which reads as 0, and its PC, which advances by 1 modulo 2¹⁵. No other
register and no other thread changes, and nothing outside the engines does. -/
def Obligations.KuernRegisterWritesAndTheirFrame : Prop :=
  ∀ (u : State) (e t rd : Nat) (v : Word), u.krn.eng.Pairwise (fun a b => a.1 < b.1) →
    (engGet u e).threads.Pairwise (fun a b => a.1 < b.1) → (thrGet u e t).regs.Pairwise (fun a b => a.1 < b.1) →
    ∀ w, w = thrWrite u e t rd v →
    (thrGet w e t).pc.toNat = ((thrGet u e t).pc.toNat + 1) % 32768
    ∧ (rd ≠ 0 → wGet (thrGet w e t).regs rd = v)
    ∧ wGet (thrGet w e t).regs 0 = 0
    ∧ (∀ r, r ≠ rd → wGet (thrGet w e t).regs r = wGet (thrGet u e t).regs r)
    ∧ (∀ e' t', (e' ≠ e ∨ t' ≠ t) → thrGet w e' t' = thrGet u e' t')
    ∧ w = { u with krn := { u.krn with eng := w.krn.eng } }

/-- Loads and stores (R333), with the instruction's word at the thread's PC: a misaligned one takes ALIGN; one of a window that lies beyond the cluster
is sent there, and a store then goes on; another load writes rd with the bytes extended or in network order, or takes its exception; another store
puts the low bytes of rs2 at the address and goes on, or takes its exception. -/
def Obligations.KuernLoadsAndStores : Prop :=
  (∀ (e : Fin 32) (t : Fin 16) (rd r1 : Fin 32) (k : BitVec 16) (h : Option Word) (s u : State) (a : Nat), u = issueStart s e t 2 →
    a = (wGet (thrGet u e t).regs r1 + k.signExtend 32).toNat →
    ∀ y ∈ [(Instr.kLb e t rd r1 k h, 0x10, 1, true, false), (Instr.kLbu e t rd r1 k h, 0x11, 1, false, false),
        (Instr.kLh e t rd r1 k h, 0x12, 2, true, false), (Instr.kLhu e t rd r1 k h, 0x13, 2, false, false),
        (Instr.kLw e t rd r1 k h, 0x14, 4, false, false), (Instr.kLhbe e t rd r1 k h, 0x16, 2, false, true),
        (Instr.kLwbe e t rd r1 k h, 0x17, 4, false, true)],
      ThreadIssues s e t (kI y.2.1 rd r1 k) →
      (a % y.2.2.1 ≠ 0 → exec y.1 s = .next (krnExc u e t 2))
      ∧ (a % y.2.2.1 = 0 → farLoad u e a y.2.2.1 = true → exec y.1 s
        = .next (farSend (thrCost u e t (loadCost u e a y.2.2.1)) e t (.load a y.2.2.1 rd y.2.2.2.1 y.2.2.2.2 h) false))
      ∧ (∀ l v, a % y.2.2.1 = 0 → farLoad u e a y.2.2.1 = false → kLoad u e t a y.2.2.1 (decide (y.2.1 = 0x14)) h = (.ok l, v) →
        exec y.1 s = .next (thrWrite v e t rd (loadWord y.2.2.2.1 y.2.2.2.2 l)))
      ∧ (∀ c v, a % y.2.2.1 = 0 → farLoad u e a y.2.2.1 = false → kLoad u e t a y.2.2.1 (decide (y.2.1 = 0x14)) h = (.exc c, v) →
        exec y.1 s = .next (krnExc v e t c)))
  ∧ (∀ (e : Fin 32) (t : Fin 16) (r2 r1 : Fin 32) (k : BitVec 16) (s u : State) (x : KThread) (a n : Nat), u = issueStart s e t 1 →
    x = thrGet u e t → a = (wGet x.regs r1 + k.signExtend 32).toNat → n = (wGet x.regs r2).toNat →
    ∀ y ∈ [(Instr.kSb e t r2 r1 k, 0x18, leBytes 1 (n % 2 ^ 8)), (Instr.kSh e t r2 r1 k, 0x19, leBytes 2 (n % 2 ^ 16)),
        (Instr.kSw e t r2 r1 k, 0x1A, leBytes 4 (n % 2 ^ 32)), (Instr.kShbe e t r2 r1 k, 0x1B, beBytes 2 (n % 2 ^ 16)),
        (Instr.kSwbe e t r2 r1 k, 0x1C, beBytes 4 (n % 2 ^ 32))],
      ThreadIssues s e t (kI y.2.1 r2 r1 k) →
      (a % y.2.2.length ≠ 0 → exec y.1 s = .next (krnExc u e t 2))
      ∧ (a % y.2.2.length = 0 → farStore u e a y.2.2.length = true →
        exec y.1 s = .next (thrNext (farSend u e t (.store a y.2.2) false) e t))
      ∧ (∀ v, a % y.2.2.length = 0 → farStore u e a y.2.2.length = false → kStore u e t a y.2.2 (decide (y.2.1 = 0x1A)) = (.done, v) →
        exec y.1 s = .next (thrNext v e t))
      ∧ (∀ c v, a % y.2.2.length = 0 → farStore u e a y.2.2.length = false → kStore u e t a y.2.2 (decide (y.2.1 = 0x1A)) = (.exc c, v) →
        exec y.1 s = .next (krnExc v e t c)))

/-- A load or store of the engine's data memory goes straight to it, in little-endian order of the bytes (R301, R333): it has no other effect,
and a store followed by a load of the same bytes gives them back. -/
def Obligations.KuernDataMemory : Prop :=
  (∀ (u : State) (e t a n : Nat) (word : Bool) (h : Option Word), a + n ≤ 0x10000 →
    kLoad u e t a n word h = (.ok (dmemRead u e a n), u))
  ∧ (∀ (u : State) (e t a : Nat) (l : List Byte) (word : Bool), a + l.length ≤ 0x10000 →
    kStore u e t a l word = (.done, dmemWrite u e a l))
  ∧ (∀ (u : State) (e a : Nat) (l : List Byte), u.krn.eng.Pairwise (fun x y => x.1 < y.1) →
    (engGet u e).dmem.Pairwise (fun x y => x.1 < y.1) → dmemRead (dmemWrite u e a l) e a l.length = l)
  ∧ (∀ (u : State) (e a b : Nat) (l : List Byte), u.krn.eng.Pairwise (fun x y => x.1 < y.1) → (b < a ∨ a + l.length ≤ b) →
    dmemRead (dmemWrite u e a l) e b 1 = dmemRead u e b 1)

/-- Events of a thread (R307, R309, R310, R322, R336), with the instruction's word at the thread's PC: EVWAIT waits for an event, with a limit when rs1 is
not 0, and a limit that has passed ends it with 1 in rd; EVDONE ends the event, with its window and timer requests committed or dropped; READY opens the
engine; KEEP keeps the event's frame, 256 at most, or answers 0x1FFFF when there is none, and RELEASE lets a kept one go; a build opens on a district
that exists, is aborted, or is sent with its descriptor. -/
def Obligations.KuernEventInstructions : Prop :=
  (∀ (e : Fin 32) (t : Fin 16) (rd r1 : Fin 32) (s : State), ThreadIssues s e t (kR 0x30 rd r1 0 0) →
    ∀ u x n, u = issueStart s e t 1 → x = thrGet u e t → n = (wGet x.regs r1).toNat → x.event = none →
    ∃ m, m = (if n = 0 then none else some (clusterCyc u e + n))
      ∧ exec (.kEvwait e t rd r1) s = .next (eventAfter (thrWait (thrNext u e t) e t rd m none) e))
  ∧ (∀ (e : Fin 32) (t : Fin 16) (w : KWait) (n : Nat) (s : State), UnitRuns s (engDomain e) → (thrGet s e t).wait = some w →
    w.ends = some n →
    (n < clusterCyc s e → ∃ x, x = { thrGet s e t with wait := none, regs := wSet (thrGet s e t).regs w.rd 1 }
      ∧ exec (.kEvwaitTimeout e t) s = .next (thrSet s e t x))
    ∧ (clusterCyc s e ≤ n → exec (.kEvwaitTimeout e t) s = .next s))
  ∧ (∀ (e : Fin 32) (t : Fin 16) (v : KEvent) (s u : State) (x : KThread), u = issueStart s e t (engCost s e 24 15) → x = thrGet u e t →
    ThreadIssues s e t (kR 0x30 0 0 0 1) → x.event = some v →
    (v.ctx = none →
      exec (.kEvdoneCommit e t) s = .next (eventAfter (thrNext (eventEnd (timerCommit u e t none x.reqs) e t) e t) e))
    ∧ (∀ c w, v.ctx = some c → w = timerCommit (ctxCommit u c x.window) e t (some c) x.reqs →
      exec (.kEvdoneCommit e t) s = .next (eventAfter (thrNext (eventEnd w e t) e t) e)))
  ∧ (∀ (e : Fin 32) (t : Fin 16) (s u : State), u = issueStart s e t 2 → ThreadIssues s e t (kR 0x30 0 0 0 2) →
    (thrGet u e t).event.isSome = true → exec (.kEvdoneDiscard e t) s = .next (eventAfter (thrNext (eventEnd u e t) e t) e))
  ∧ (∀ (e : Fin 32) (t : Fin 16) (s : State), ThreadIssues s e t (kR 0x30 0 0 0 3) →
    exec (.kReady e t) s = .next (engReadyNow (thrNext (issueStart s e t 1) e t) e t))
  ∧ (∀ (e : Fin 32) (t : Fin 16) (rd : Fin 32) (v : KEvent) (s u : State) (g : KrnEng), u = issueStart s e t 2 → g = engGet u e →
    ThreadIssues s e t (kR 0x30 rd 0 0 4) → (thrGet u e t).event = some v →
    (v.frame = noFrame → exec (.kKeep e t rd) s = .next (thrWrite u e t rd 0x1FFFF))
    ∧ (v.frame ≠ noFrame → g.kept.length < 256 →
      ∃ w, w = refAdd (engSet u e { g with kept := g.kept ++ [v.frame] }) v.frame
        ∧ exec (.kKeep e t rd) s = .next (thrWrite w e t rd (BitVec.ofNat 32 v.frame)))
    ∧ (v.frame ≠ noFrame → 256 ≤ g.kept.length → exec (.kKeep e t rd) s = .next (krnExc u e t 9)))
  ∧ (∀ (e : Fin 32) (t : Fin 16) (r1 : Fin 32) (s u : State) (h : Nat) (g : KrnEng), u = issueStart s e t 2 →
    h = (wGet (thrGet u e t).regs r1).toNat → g = engGet u e → ThreadIssues s e t (kR 0x30 0 r1 0 5) →
    (g.kept.contains h = true →
      ∃ w, w = thrNext (engSet u e { g with kept := g.kept.erase h }) e t ∧ exec (.kRelease e t r1) s = .next (pauseSweep (refDrop w h)))
    ∧ (g.kept.contains h = false → exec (.kRelease e t r1) s = .next (krnExc u e t 0x0B)))
  ∧ (∀ (e : Fin 32) (t : Fin 16) (r1 : Fin 32) (s u : State) (x : KThread) (d : Nat), u = issueStart s e t 1 → x = thrGet u e t →
    d = fld (wGet x.regs r1) 2 0 → ThreadIssues s e t (kR 0x30 0 r1 0 6) → x.build = none →
    (d < districtCount u →
      ∃ y, y = { x with build := some { district := d, bytes := [], written := 0, cells := [], failed := false } }
        ∧ exec (.kBopen e t r1) s = .next (thrNext (thrSet u e t y) e t))
    ∧ (districtCount u ≤ d → exec (.kBopen e t r1) s = .next (krnExc u e t 5)))
  ∧ (∀ (e : Fin 32) (t : Fin 16) (s u : State), u = issueStart s e t 2 → ThreadIssues s e t (kR 0x30 0 0 0 7) →
    (thrGet u e t).build.isSome = true →
    ∃ y, y = { thrGet u e t with build := none } ∧ exec (.kBabort e t) s = .next (pauseSweep (thrNext (thrSet u e t y) e t)))
  ∧ (∀ (e : Fin 32) (t : Fin 16) (r1 : Fin 32) (b : Build) (s u : State) (x : KThread), u = issueStart s e t 8 → x = thrGet u e t →
    ThreadIssues s e t (kR 0x30 0 r1 0 8) → x.build = some b →
    (∀ l, localDesc u e (wGet x.regs r1).toNat 32 8 = .ok l → exec (.kSend e t r1) s = .next (pauseSweep (buildSend (thrNext u e t) e t b l)))
    ∧ (∀ c, localDesc u e (wGet x.regs r1).toNat 32 8 = .exc c → exec (.kSend e t r1) s = .next (krnExc u e t c)))

/-- An instruction outside the state it needs takes its exception (R307, R309, R310, R331, R336): EVWAIT with an event, KEEP and EVDONE without one,
a build opened twice, or aborted or sent (with a readable descriptor) without one, and an instruction word that is not in the tables. A word of the
tables is no illegal one: the command then has no effect. -/
def Obligations.KuernStateExceptions : Prop :=
  ∀ (e : Fin 32) (t : Fin 16) (rd r1 : Fin 32) (w : Word) (s : State),
    (∀ u, u = issueStart s e t 1 →
      (ThreadIssues s e t (kR 0x30 rd r1 0 0) → (thrGet u e t).event.isSome = true →
        exec (.kEvwait e t rd r1) s = .next (krnExc u e t 4))
      ∧ (ThreadIssues s e t (kR 0x30 0 r1 0 6) → (thrGet u e t).build.isSome = true →
        exec (.kBopen e t r1) s = .next (krnExc u e t 5))
      ∧ (ThreadIssues s e t w → krnLegal w = false → exec (.illegalInstructionWord e t w) s = .next (krnExc u e t 1)))
    ∧ (∀ u, u = issueStart s e t 2 →
      (ThreadIssues s e t (kR 0x30 rd 0 0 4) → (thrGet u e t).event = none → exec (.kKeep e t rd) s = .next (krnExc u e t 4))
      ∧ (ThreadIssues s e t (kR 0x30 0 0 0 2) → (thrGet u e t).event = none → exec (.kEvdoneDiscard e t) s = .next (krnExc u e t 4))
      ∧ (ThreadIssues s e t (kR 0x30 0 0 0 7) → (thrGet u e t).build = none → exec (.kBabort e t) s = .next (krnExc u e t 5)))
    ∧ (∀ u, u = issueStart s e t (engCost s e 24 15) → ThreadIssues s e t (kR 0x30 0 0 0 1) → (thrGet u e t).event = none →
      exec (.kEvdoneCommit e t) s = .next (krnExc u e t 4))
    ∧ (∀ u l, u = issueStart s e t 8 → ThreadIssues s e t (kR 0x30 0 r1 0 8) → (thrGet u e t).build = none →
      localDesc u e (wGet (thrGet u e t).regs r1).toNat 32 8 = .ok l → exec (.kSend e t r1) s = .next (krnExc u e t 5))
    ∧ (krnLegal w = true → exec (.illegalInstructionWord e t w) s = .next s)

/-- TRAP copies rs1 into TCR SCRATCH before it is taken as exception 0x0C, and an exception withdraws the thread's accesses that are under way, is
counted in KRN_CNT[2] and recorded in LAST_EXC (R317): with ABORT_HALTS the engine then halts; else an event with a context is counted in KRN_CNT[1]
and aborted, the fault is recorded with the context and its PC, and the thread waits for an event again, to go on at RESUME. -/
def Obligations.TrapAndExceptions : Prop :=
  (∀ (e : Fin 32) (t : Fin 16) (r1 : Fin 32) (s : State), ThreadIssues s e t (kR 0x30 0 r1 0 21) →
    ∀ u x, u = issueStart s e t 1 → x = thrGet u e t →
    exec (.kTrap e t r1) s = .next (krnExc (thrSet u e t { x with scratch := wGet x.regs r1 }) e t 0x0C))
  ∧ (∀ (e t code : Nat) (pc : BitVec 15) (u : State),
    ∀ w, w = farDrop (krnCount u e 2) e t →
    ∀ v, v = thrSet w e t { thrGet w e t with lastExc := BitVec.ofNat 32 (code * 2 ^ 24 + pc.toNat) } →
    ((engGet v e).abortHalts = true → thrExc u e t code pc = engHalt v e false)
    ∧ (∀ y c, (engGet v e).abortHalts = false → (thrGet v e t).event = some y → y.ctx = some c →
      ∃ a, a = regSet (eventEnd (krnCount v e 1) e t) (Reg.KRN_FAULT e) (BitVec.ofNat 32 (code * 2 ^ 24 + t * 2 ^ 16 + c))
        ∧ thrExc u e t code pc
          = eventAfter (thrWait (krnRaise (regSet a (Reg.KRN_FAULT_PC e) (pc.setWidth 32)) e t 3) e t 0 none (some code)) e))

/-- Time, timers and thread control registers (R329, R338, R339), with the instruction's word at the thread's PC: TIME 0 returns ns32 and latches NS, SEC
and FRAC, which 1 to 4 return, and stalls the thread without a valid replica; a timer request made in an event waits in it, 16 at most, and one made
outside an event is committed at once; the TCR reads shown return their register, RESUME and SCRATCH are written, and a write to another TCR, a read of
one past 7, or a write with rd not 0 is ILLEGAL. -/
def Obligations.KuernTimeTimersAndControlRegisters : Prop :=
  (∀ (e : Fin 32) (t : Fin 16) (rd : Fin 32) (s u : State) (x : KThread), u = issueStart s e t 2 → x = thrGet u e t →
    ThreadIssues s e t (kR 0x30 rd 0 0 9) →
    (engReplica u e = true →
      ∃ y, y = { x with latchNs := u.clk.ns, latchSec := u.clk.sec, latchFrac := u.clk.frac }
        ∧ exec (.kTime e t rd 0) s = .next (thrWrite (thrSet u e t y) e t rd u.clk.ns32))
    ∧ (engReplica u e = false → exec (.kTime e t rd 0) s = .next (thrSet u e t { x with hold := some .replica })))
  ∧ (∀ (e : Fin 32) (t : Fin 16) (rd : Fin 32) (s u : State) (x : KThread), u = issueStart s e t 2 → x = thrGet u e t →
    (ThreadIssues s e t (kR 0x30 rd 0 1 9) → exec (.kTime e t rd 1) s = .next (thrWrite u e t rd x.latchFrac))
    ∧ (ThreadIssues s e t (kR 0x30 rd 0 2 9) → exec (.kTime e t rd 2) s = .next (thrWrite u e t rd (x.latchNs.setWidth 32)))
    ∧ (ThreadIssues s e t (kR 0x30 rd 0 3 9) → exec (.kTime e t rd 3) s = .next (thrWrite u e t rd (x.latchSec.setWidth 32)))
    ∧ (ThreadIssues s e t (kR 0x30 rd 0 4 9) → exec (.kTime e t rd 4) s = .next (thrWrite u e t rd ((x.latchSec >>> 32).setWidth 32)))
    ∧ (∀ k : Fin 32, 5 ≤ k.val → ThreadIssues s e t (kR 0x30 rd 0 k 9) → exec (.kTime e t rd k) s = .next (krnExc u e t 1)))
  ∧ (∀ (e : Fin 32) (t : Fin 16) (r1 r2 : Fin 32) (s u : State) (x : KThread) (a : Word) (p q : TimerReq), u = issueStart s e t 1 →
    x = thrGet u e t → a = wGet x.regs r1 → p = { set := true, target := a, cookie := wGet x.regs r2 } →
    q = { set := false, target := 0, cookie := a } →
    ∀ y ∈ [(Instr.kTmrset e t r1 r2, kR 0x30 0 r1 r2 10, p), (Instr.kTmrcan e t r1, kR 0x30 0 r1 0 11, q)],
      ThreadIssues s e t y.2.1 →
      (x.event = none → exec y.1 s = .next (timerCommit (thrNext u e t) e t none [y.2.2]))
      ∧ (x.event.isSome = true → x.reqs.length < 16 → exec y.1 s = .next (thrNext (thrSet u e t { x with reqs := x.reqs ++ [y.2.2] }) e t))
      ∧ (x.event.isSome = true → 16 ≤ x.reqs.length → exec y.1 s = .next (krnExc u e t 0x0A)))
  ∧ (∀ (e : Fin 32) (t : Fin 16) (rd r1 : Fin 32) (s u : State) (x : KThread) (v : Word), u = issueStart s e t 1 → x = thrGet u e t →
    v = wGet x.regs r1 →
    (∀ y ∈ [(0#5, BitVec.ofNat 32 t.val), (1#5, BitVec.ofNat 32 e.val), (4#5, x.cycHi), (5#5, x.resume.setWidth 32), (6#5, x.lastExc), (7#5, x.scratch)],
      ThreadIssues s e t (kI 0x28 rd r1 (kTcrIdx false y.1)) →
      exec (.kTcr e t rd r1 false y.1) s = .next (thrWrite (thrSet u e t x) e t rd y.2))
    ∧ (ThreadIssues s e t (kI 0x28 0 r1 (kTcrIdx true 5)) →
      exec (.kTcr e t 0 r1 true 5) s = .next (thrNext (thrSet u e t { x with resume := v.setWidth 15 }) e t))
    ∧ (ThreadIssues s e t (kI 0x28 0 r1 (kTcrIdx true 7)) →
      exec (.kTcr e t 0 r1 true 7) s = .next (thrNext (thrSet u e t { x with scratch := v }) e t))
    ∧ (∀ i : BitVec 5, (i ≠ 5 ∧ i ≠ 7 ∨ rd ≠ 0) → ThreadIssues s e t (kI 0x28 rd r1 (kTcrIdx true i)) →
      exec (.kTcr e t rd r1 true i) s = .next (krnExc u e t 1))
    ∧ (∀ i : BitVec 5, 8 ≤ i.toNat → ThreadIssues s e t (kI 0x28 rd r1 (kTcrIdx false i)) →
      exec (.kTcr e t rd r1 false i) s = .next (krnExc u e t 1)))

/-- Accelerators, locks and fences (R341 to R344, R347), with the instruction's word at the thread's PC: CRC and CSUM read their operand and leave the
running value, or take the operand's exception, and an incremental CSUM of a length not a multiple of 4 takes ALIGN; BERW puts the status of its walk in
rd, or takes its exception; AUTH without a tag to compare submits its job; LKACQ and LKREL send their access to the lock; a fence goes on at once, and
holds the thread while one of its earlier stores that it waits for is under way. -/
def Obligations.KuernAcceleratorsLocksAndFences : Prop :=
  (∀ (e : Fin 32) (t : Fin 16) (rd r1 r2 : Fin 32) (s u v : State) (x : KThread) (n : Nat), u = issueStart s e t 2 → x = thrGet u e t →
    n = (wGet x.regs r2).toNat →
    (ThreadIssues s e t (kR 0x30 rd r1 r2 13) → ∀ l st, accelOperand u e t (wGet x.regs r1).toNat n = (.ok l, v) →
      st = crcRun x.crcCfg x.crcState l →
      exec (.kCrc e t rd r1 r2) s = .next (thrWrite (thrSet v e t { thrGet v e t with crcState := st }) e t rd (crcFinal x.crcCfg st)))
    ∧ (ThreadIssues s e t (kR 0x30 rd r1 r2 13) → ∀ c, accelOperand u e t (wGet x.regs r1).toNat n = (.exc c, v) →
      exec (.kCrc e t rd r1 r2) s = .next (krnExc v e t c))
    ∧ (ThreadIssues s e t (kR 0x30 rd r1 r2 14) → bitOf x.csumCfg 0 = true → n % 4 ≠ 0 →
      exec (.kCsum e t rd r1 r2) s = .next (krnExc u e t 2))
    ∧ (ThreadIssues s e t (kR 0x30 rd r1 r2 14) → (bitOf x.csumCfg 0 = false ∨ n % 4 = 0) →
      ∀ l st, accelOperand u e t (wGet x.regs r1).toNat n = (.ok l, v) →
      st = x.csumState + BitVec.ofNat 32 (if bitOf x.csumCfg 0 then sumIncr l else sum16 l) →
      exec (.kCsum e t rd r1 r2) s
        = .next (thrWrite (thrSet v e t { thrGet v e t with csumState := st }) e t rd (BitVec.ofNat 32 (fold16 st))))
    ∧ (ThreadIssues s e t (kR 0x30 rd r1 r2 14) → (bitOf x.csumCfg 0 = false ∨ n % 4 = 0) →
      ∀ c, accelOperand u e t (wGet x.regs r1).toNat n = (.exc c, v) → exec (.kCsum e t rd r1 r2) s = .next (krnExc v e t c)))
  ∧ (∀ (e : Fin 32) (t : Fin 16) (rd r1 r2 : Fin 32) (d : List Byte) (s u v : State) (x : KThread) (a n : Nat), u = issueStart s e t 4 →
    x = thrGet u e t → a = (wGet x.regs r1).toNat → n = leAt d 0 4 → ThreadIssues s e t (kR 0x30 rd r1 r2 12) →
    localDesc u e (wGet x.regs r2).toNat 22 4 = .ok d → operandRegion a n = true → v = operandOrder u e t a n →
    (berPath d = none → exec (.kBerw e t rd r1 r2) s = .next (berDone v e t rd none 2))
    ∧ (∀ p last w, berPath d = some p →
      (berWalk e t p v a (a + n) none = (.notFound, last, w) → exec (.kBerw e t rd r1 r2) s = .next (berDone w e t rd last 1))
      ∧ (berWalk e t p v a (a + n) none = (.form, last, w) → exec (.kBerw e t rd r1 r2) s = .next (berDone w e t rd last 2))
      ∧ (∀ b c l, berWalk e t p v a (a + n) none = (.found b c l, last, w) →
        exec (.kBerw e t rd r1 r2) s = .next (berDone w e t rd last 0))
      ∧ (∀ c, berWalk e t p v a (a + n) none = (.exc c, last, w) → exec (.kBerw e t rd r1 r2) s = .next (krnExc w e t c))))
  ∧ (∀ (e : Fin 32) (t : Fin 16) (rd r1 : Fin 32) (d l : List Byte) (s u v : State), u = issueStart s e t 8 →
    ThreadIssues s e t (kR 0x30 rd r1 0 15) → localDesc u e (wGet (thrGet u e t).regs r1).toNat 32 8 = .ok d →
    (authBad d = true → exec (.kAuth e t rd r1) s = .next (krnExc u e t 3))
    ∧ (authBad d = false → operandRead u e t (leAt d 4 4) (leAt d 8 4) = (.ok l, v) → leAt d 3 1 ≠ 1 →
      exec (.kAuth e t rd r1) s
        = .next (thrWrite (authSubmit v e t d l none).2 e t rd (BitVec.ofNat 32 (authSubmit v e t d l none).1))))
  ∧ (∀ (e : Fin 32) (t : Fin 16) (rd r1 : Fin 32) (s u v : State) (k : Nat), u = issueStart s e t 1 →
    v = thrCost u e t (engCost u e 12 9) → k = (wGet (thrGet u e t).regs r1).toNat % 256 →
    (ThreadIssues s e t (kR 0x30 rd r1 0 16) → exec (.kLkacq e t rd r1) s = .next (farSend v e t (.lockRead k rd) false))
    ∧ (ThreadIssues s e t (kR 0x30 0 r1 0 17) →
      exec (.kLkrel e t r1) s = .next (farSend v e t (.lockWrite k) ((farOf u e t).any (fenceHolds true false)))))
  ∧ (∀ (e : Fin 32) (t : Fin 16) (s u : State), u = thrNext (issueStart s e t 1) e t →
    ∀ y ∈ [(Instr.kFenceTank e t, kR 0x30 0 0 0 18, true, false), (Instr.kFenceHost e t, kR 0x30 0 0 0 19, false, true),
        (Instr.kFenceAll e t, kR 0x30 0 0 0 20, true, true)],
      ThreadIssues s e t y.2.1 →
      ((farOf u e t).any (fenceHolds y.2.2.1 y.2.2.2) = true →
        exec y.1 s = .next (thrSet u e t { thrGet u e t with hold := some (.fence y.2.2.1 y.2.2.2) }))
      ∧ ((farOf u e t).any (fenceHolds y.2.2.1 y.2.2.2) = false →
        exec y.1 s = .next (if y.2.2.2 then emit u (.hostFence e t) else u)))

/-- Engines (R312, R313, R315, R317, R319, R322): the watchdog aborts an event that has run longer than its cycles; a due timer fires and leaves the wheel,
while the engine's clock replica is valid; an engine without READY in time halts; HALT and RESTART need their code, HALT stops a running engine, and a
restart is refused of an engine that is not halted or halted on a memory error; a completed send posts its event and gives its stamp entry back, and a
finished job of an engine is reported. -/
def Obligations.EngineEffects : Prop :=
  (∀ (e : Fin 32) (t : Fin 16) (s : State), UnitRuns s (engDomain e) →
    ∀ x n, x = thrGet s e t → n = (regGet s (Reg.KRN_WDOG e)).toNat →
    (n ≠ 0 → x.event.isSome = true → x.since + n < clusterCyc s e →
      exec (.eventWatchdog e t) s = .next (krnRaise (krnCount (thrExc s e t 0x10 x.pc) e 3) e t 4))
    ∧ (n = 0 ∨ x.event = none ∨ clusterCyc s e ≤ x.since + n → exec (.eventWatchdog e t) s = .next s))
  ∧ (∀ (e : Fin 32) (i : Nat) (w : KTimer) (s : State), UnitRuns s (engDomain e) → (engGet s e).timers[i]? = some w →
    (engReplica s e = true → reached s.clk.ns32 w.target = true →
      ∃ g, g = { engGet s e with timers := (engGet s e).timers.eraseIdx i } ∧ exec (.timerFire e i) s = .next (timerFire (engSet s e g) e w))
    ∧ (engReplica s e = false ∨ reached s.clk.ns32 w.target = false → exec (.timerFire e i) s = .next s))
  ∧ (∀ (e : Fin 32) (n : Nat) (s : State), UnitRuns s (engDomain e) → (engGet s e).initEnds = some n → engState s e = 1 →
    (n < s.run → exec (.initTimeout e) s = .next (krnRaise (engHalt s e false) e 0 5))
    ∧ (s.run ≤ n → exec (.initTimeout e) s = .next s))
  ∧ (∀ (f : Fin 4) (e : Fin 32) (v : Word) (s : State), HostSees s (Reg.KRN_ENG_CTL e) → fld v 31 16 = 0x4B52 →
    (bitOf v 0 = true → bitOf v 1 = false → engState s e = 1 ∨ engState s e = 2 → exec (.engineHalt f e v) s = .next (engHalt s e false))
    ∧ (bitOf v 0 = false → bitOf v 1 = true → engState s e = 3 → (engGet s e).memHalt = false →
      exec (.engineRestart f e v) s = .next (engStart (masterReset s e) e 3))
    ∧ (bitOf v 0 = false → bitOf v 1 = true → (engState s e ≠ 3 ∨ (engGet s e).memHalt = true) →
      exec (.engineRestart f e v) s = .next (krnRaise s e 0 9)))
  ∧ (∀ (f : Fin 4) (e : Fin 32) (v : Word) (s : State), HostSees s (Reg.KRN_ENG_CTL e) → fld v 31 16 ≠ 0x4B52 →
    exec (.engineHalt f e v) s = .next s ∧ exec (.engineRestart f e v) s = .next s)
  ∧ (∀ (i : Nat) (d : SendDone) (s : State), UnitRuns s 3 → s.krn.sends[i]? = some d →
    ∃ a v, a = { s with krn := { s.krn with sends := s.krn.sends.eraseIdx i } }
      ∧ v = eventOf a 4 d.ctx (BitVec.ofNat 32 (d.status * 65536 + d.tag)) 0 (if d.stamped then leBytes 4 d.ns32.toNat ++ leBytes 1 d.frac else [])
      ∧ exec (.sendComplete i) s = .next (ts2Free (postOwn a d.eng v) (d.port.map (fun p => (p, d.tag)))))
  ∧ (∀ (i e t k sl alg : Nat) (c : Option Nat) (b : List Byte) (tag : Option (List Byte)) (pl jt : Word) (q : Option Key) (s : State),
    UnitRuns s 3 → s.krn.laneRun[i]? = some { job := .engine e t c k sl alg b tag pl jt, key := q } →
    ∃ a, a = { s with krn := { s.krn with laneRun := s.krn.laneRun.eraseIdx i } }
      ∧ exec (.authJobDone i) s = .next (pauseSweep (laneKick (authEnd a e t c alg b tag pl jt q))))

/-- The rider (R355 to R365): a command is run when the rider is idle and its turn has come, from a function's registers, a mailbox channel bound to the
rider, or the head of a submission queue; it answers its code and result at once, or waits for an event boundary; a register command that finds another
waiting waits behind it, and one written while BUSY is refused. An interval end, a page operation, a drained migration and the time limits have their
effects when they fall due, and none before. -/
def Obligations.RiderCommandEffects : Prop :=
  (∀ (src : RiderFrom) (data : List Byte) (s : State),
    ∀ y ∈ [(Instr.riderCreate src, 1, []), (Instr.riderRetire src, 2, []), (Instr.riderMove src, 3, []), (Instr.riderPin src, 4, []),
        (Instr.riderUnpin src, 5, []), (Instr.riderResident src, 6, []), (Instr.riderEvict src, 7, []), (Instr.riderRead src, 8, []),
        (Instr.riderWrite src data, 9, data), (Instr.riderClearPoison src data, 10, data), (Instr.riderMap src, 11, []),
        (Instr.riderRunPolicy src, 12, [])],
      (∀ f u w, src = .register f → HostSees s Reg.RDR_CMD → regBit s Reg.RDR_CMD_STAT 31 = false →
        u = regSet s Reg.RDR_CMD_STAT 0x80000000 → w = riderOfRegs s f y.2.1 y.2.2 →
        (s.rdr.waits = [] → exec y.1 s = .next (pauseSweep (riderStart u w)))
        ∧ (s.rdr.waits ≠ [] → exec y.1 s = .next { u with rdr := { s.rdr with waits := s.rdr.waits ++ [w] } }))
      ∧ (∀ f, src = .register f → HostSees s Reg.RDR_CMD → regBit s Reg.RDR_CMD_STAT 31 = true →
        exec y.1 s = .next (rdrRaise s (regFld s (Reg.RDR_CMD_ARG 0) 15 0) 5))
      ∧ (∀ c w, src = .mailbox c → UnitRuns s 3 → mbxState s c = 1 → mbxReceiver s c = 33 → mbxWakeWait s c = false → s.rdr.waits = [] →
        w = riderOfMsg c (mbxGet s c).msg → w.op = y.2.1 → exec y.1 s = .next (pauseSweep (riderStart s w)))
      ∧ (∀ f q h w, src = .queue f q → UnitRuns s 3 → sqNext s f q = some h → leAt h.bytes 0 1 = 2 → sqStatus h.bytes = 0 → s.rdr.waits = [] →
        w = riderOfSq f q h y.2.2 → w.op = y.2.1 → exec y.1 s = .next (pauseSweep (riderStart (sqStart s f q h.index) w))))
  ∧ (∀ (u t : State) (w : RiderWait),
    (∀ code v, riderRun u w = (some (code, v), t) → riderStart u w = riderAnswer t w code v)
    ∧ (riderRun u w = (none, t) → ∃ l, l = t.rdr.waits ++ [{ w with since := t.run }] ∧ riderStart u w = { t with rdr := { t.rdr with waits := l } }))
  ∧ (∀ (s : State) (n : Nat), UnitRuns s 3 → n = riderPolicy s 4 4 * 1000 →
    (n = 0 ∨ s.run < s.rdr.intervalFrom + n → exec .riderIntervalEnd s = .next s)
    ∧ (n ≠ 0 → s.rdr.intervalFrom + n ≤ s.run →
      ∃ t, t = (ctxLive s).foldl (fun s' x => ctxMod s' x.1 (fun y => { y with
            weight := if y.wasHot then weightNext s' y.weight y.cycles else y.weight, cycles := 0, wasHot := decide (y.mode = .hot) })) s
        ∧ exec .riderIntervalEnd s
          = .next (polInterval { t with rdr := { t.rdr with interval := t.rdr.interval + 1, intervalFrom := t.rdr.intervalFrom + n } })))
  ∧ (∀ (c : Fin 65536) (b : Option (List Byte)) (k : Bool) (s : State), UnitRuns s 3 →
    exec (.pageInComplete c b) s = .next (pauseSweep (pageInEnd s c b)) ∧ exec (.pageOutComplete c k) s = .next (pauseSweep (pageOutEnd s c k)))
  ∧ (∀ (c : Fin 65536) (s : State), UnitRuns s 3 →
    ((ctxGet s c).moving.isSome = true → engHolds s (ctxGet s c).owner c = false →
      exec (.migrationDrained c) s = .next (riderMoved (migrateDone s c) c))
    ∧ ((ctxGet s c).moving = none ∨ engHolds s (ctxGet s c).owner c = true → exec (.migrationDrained c) s = .next s))
  ∧ (∀ (c : Fin 65536) (b t n : Nat) (s : State), UnitRuns s 3 → (ctxGet s c).moving = some (b, t, n) →
    (t + riderPolicy s 16 4 * 1000 < s.run → exec (.migrateTimeout c) s = .next (riderMoved (migrateAbort s c 7) c))
    ∧ (s.run ≤ t + riderPolicy s 16 4 * 1000 → exec (.migrateTimeout c) s = .next s))
  ∧ (∀ (s : State) (w : RiderWait) (l : List RiderWait), UnitRuns s 3 → s.rdr.waits = w :: l →
    (w.since + riderPolicy s 16 4 * 1000 < s.run → w.op = 3 ∨ w.op = 4 →
      exec .eventBoundaryTimeout s = .next (riderFinish (migrateAbort s w.ctx 7) w l 5 0))
    ∧ (w.since + riderPolicy s 16 4 * 1000 < s.run → w.op ≠ 3 → w.op ≠ 4 → exec .eventBoundaryTimeout s = .next (riderFinish s w l 5 0))
    ∧ (s.run ≤ w.since + riderPolicy s 16 4 * 1000 → exec .eventBoundaryTimeout s = .next s))

/-- What the rider refuses (Tables 14-5 and 14-6): CREATE of a context that is not DORMANT, RETIRE and READ of a DORMANT one, UNPIN of one that
is not pinned and CLEAR_POISON of one that is not POISONED answer STATE; MOVE and EVICT of a pinned one answer REFUSED. Nothing but the answer
is left behind. -/
def Obligations.RiderRefusals : Prop :=
  ∀ (u : State) (w : RiderWait), ∀ x, x = ctxGet u w.ctx →
    (w.op = 1 → x.mode ≠ .dormant → riderRun u w = (some (2, 0), u))
    ∧ (w.op = 2 → x.mode = .dormant → riderRun u w = (some (2, 0), u))
    ∧ (w.op = 3 → x.pinned = true → riderRun u w = (some (8, 0), u))
    ∧ (w.op = 4 → x.mode ≠ .hot → x.mode ≠ .cold → riderRun u w = (some (2, 0), u))
    ∧ (w.op = 5 → x.pinned = false → riderRun u w = (some (2, 0), u))
    ∧ (w.op = 7 → x.pinned = true → riderRun u w = (some (8, 0), u))
    ∧ (w.op = 8 → x.mode = .dormant → riderRun u w = (some (2, 0), u))
    ∧ (w.op = 10 → x.mode ≠ .poisoned → riderRun u w = (some (2, 0), u))

/-- A lock read returns a value and changes the lock as follows: of a free lock it returns 0 and the reader becomes the owner; of a lock held
by the reader it returns 0 and the lock stays held; of one held by another master it returns the owner's ID plus 1 and changes nothing. -/
def Obligations.LockReads : Prop :=
  ∀ (m : Fin 42) (i : Fin 256) (s : State), MasterReaches s m (Reg.TNK_LK i) →
    ∀ w, w = regGet s (Reg.TNK_LK_OWNER i) →
    (bitOf w 6 = false →
      exec (.lockRead m i) s = .next { regSet s (Reg.TNK_LK_OWNER i) (BitVec.ofNat 32 (0x40 + m.val)) with rdata := 0 })
    ∧ (bitOf w 6 = true → fld w 5 0 = m.val → exec (.lockRead m i) s = .next { s with rdata := 0 })
    ∧ (bitOf w 6 = true → fld w 5 0 ≠ m.val → exec (.lockRead m i) s = .next { s with rdata := BitVec.ofNat 64 (fld w 5 0 + 1) })

/-- A write of any value to a lock by its owner frees the lock. A write by any other master, also to a free lock, leaves every lock as it was:
it increments TNK_LK_FOREIGN, records the master and lock in TNK_LK_EVENT and raises LOCK_FOREIGN. A read granted after a release finds the
lock free. -/
def Obligations.LockWrites : Prop :=
  (∀ (m : Fin 42) (i : Fin 256) (s : State), MasterReaches s m (Reg.TNK_LK i) →
    ∀ w, w = regGet s (Reg.TNK_LK_OWNER i) →
    (bitOf w 6 = true → fld w 5 0 = m.val → exec (.lockWrite m i) s = .next (regSet s (Reg.TNK_LK_OWNER i) 0))
    ∧ ((bitOf w 6 = false ∨ fld w 5 0 ≠ m.val) →
      ∃ t, t = count s Reg.TNK_LK_FOREIGN Reg.TNK_CAUSE
        ∧ exec (.lockWrite m i) s
          = .next (raise (regSet t Reg.TNK_LK_EVENT (BitVec.ofNat 32 (m.val * 256 + i.val))) Reg.TNK_CAUSE 6)))
  ∧ (∀ (m n : Fin 42) (i : Fin 256) (s t : State), Inv s → MasterReaches s m (Reg.TNK_LK i) →
    bitOf (regGet s (Reg.TNK_LK_OWNER i)) 6 = true → fld (regGet s (Reg.TNK_LK_OWNER i)) 5 0 = m.val →
    exec (.lockWrite m i) s = .next t → (lockRead t n i).1 = 0)

/-- Tank memory, leases and mailboxes (R375 to R392): a permitted load of a word that no other master has written in the last cycle reads its bytes, or
ones if the word is poisoned; a permitted store writes its bytes; a refused access is recorded, and a refused load reads 0; a lease is taken and then
applied; only the sender sends and only the receiver acknowledges, any other master is refused; a message whose receiver's domain does not come on in
time is discarded, and one whose does is delivered. -/
def Obligations.TankLeaseAndMailboxEffects : Prop :=
  (∀ (m : Fin 42) (a n : Nat) (s : State), UnitRuns s 3 → (m.val < 36 ∨ 40 ≤ m.val) → tankAllowed s m a n false = true → tankOld s m a = none →
    (poisonOf s a = none → exec (.tankAccess m a 0 [] n) s = .next { s with rdata := BitVec.ofNat 64 (leNat (tankRead s a n)) })
    ∧ (poisonOf s a ≠ none → exec (.tankAccess m a 0 [] n) s = .next { s with rdata := BitVec.ofNat 64 (2 ^ (8 * n) - 1) }))
  ∧ (∀ (m : Fin 42) (a n : Nat) (b : List Byte) (s : State), UnitRuns s 3 → (m.val < 36 ∨ 40 ≤ m.val) →
    (tankAllowed s m a n true = true → exec (.tankAccess m a 1 b n) s = .next (tankWrite (tankNote s m a) a (b.take n)))
    ∧ (tankAllowed s m a n true = false → exec (.tankAccess m a 1 b n) s = .next (tankRefuse s m a)))
  ∧ (∀ (m : Fin 42) (a n : Nat) (s : State), UnitRuns s 3 → (m.val < 36 ∨ 40 ≤ m.val) → tankAllowed s m a n false = false →
    exec (.tankAccess m a 0 [] n) s = .next { tankRefuse s m a with rdata := 0 })
  ∧ (∀ (m : Fin 42) (v : Word) (s : State), MasterReaches s m Reg.TNK_LEASE → m.val ≠ 33 → m.val ≠ 35 →
    exec (.leaseWrite m v) s = .next (leaseWrite s m v))
  ∧ (∀ (b : Fin 64) (p : LeasePend) (s : State), UnitRuns s 3 → tabGet (fun _ => none) s.tnk.pend b.val = some p →
    ∃ t u, t = { s with tnk := { s.tnk with pend := tabSet (fun _ => none) s.tnk.pend b.val none } }
      ∧ u = regSet t (Reg.TNK_BANK b) (BitVec.ofNat 32 (b2n p.leased * 65536 + p.owner * 256))
      ∧ (fld (regGet u Reg.TNK_LEASE_STAT) 17 12 = b.val → fld (regGet u Reg.TNK_LEASE_STAT) 1 0 = 3 →
        fld (regGet u Reg.TNK_LEASE_STAT) 23 18 = p.master →
        exec (.leaseApply b) s = .next (raise (leaseStat u p.master b 0) Reg.TNK_CAUSE 5)))
  ∧ (∀ (f : Fin 4) (v : Word) (s : State), HostSees s Reg.TNK_LK_FORCE →
    (fld v 31 16 = 0x4C4B → regBit s Reg.TNK_HOST_RIGHTS f = true →
      exec (.lockForce f v) s = .next (regSet s (Reg.TNK_LK_OWNER (fld v 7 0)) 0))
    ∧ (fld v 31 16 ≠ 0x4C4B → exec (.lockForce f v) s = .next s))
  ∧ (∀ (m : Fin 42) (c : Fin 64) (v : Word) (s : State), MasterReaches s m (0xF00040 + 0x80 * c.val) →
    MasterReaches s m (0xF00044 + 0x80 * c.val) →
    (mbxSender s c = m.val →
      exec (.mbxSend m c) s = .next { (mbxSend s c).2 with rdata := BitVec.ofNat 64 (mbxSend s c).1 }
      ∧ exec (.mbxAckRead m c) s = .next { (mbxAckRead s c).2 with rdata := (mbxAckRead s c).1.setWidth 64 })
    ∧ (mbxReceiver s c = m.val → exec (.mbxAckWrite m c v) s = .next (mbxAck s c v))
    ∧ (mbxSender s c ≠ m.val → exec (.mbxSend m c) s = .next { tankRefuse s m (0x80 * c.val + 0x40) with rdata := 0 }
      ∧ exec (.mbxAckRead m c) s = .next { tankRefuse s m (0x80 * c.val + 0x44) with rdata := 0 })
    ∧ (mbxReceiver s c ≠ m.val → exec (.mbxAckWrite m c v) s = .next (tankRefuse s m (0x80 * c.val + 0x44))))
  ∧ (∀ (c : Fin 64) (t : Nat) (s : State), UnitRuns s 3 → (mbxGet s c).wakeLimit = some t → mbxState s c = 1 → t ≤ s.run →
    (domOn s (masterDomain (mbxReceiver s c)) = true → exec (.mbxWakeLimit c) s = .next (mbxWake s c))
    ∧ (domOn s (masterDomain (mbxReceiver s c)) = false → mbxOrphan s c = true → exec (.mbxWakeLimit c) s = .next (mbxEmpty s c))
    ∧ (domOn s (masterDomain (mbxReceiver s c)) = false → mbxOrphan s c = false →
      exec (.mbxWakeLimit c) s = .next (mbxOutcome (mbxRaise (mbxCount s 3) c 2) c 3 0 0)))
  ∧ (∀ (c : Fin 64) (t : Nat) (s : State), UnitRuns s 3 → (mbxGet s c).wakeLimit = some t → s.run < t → exec (.mbxWakeLimit c) s = .next s)

/-- Flume engines under control (R397, R408, R409, R413 to R415): START begins at START_ADDR with empty latches, and RESUME where the engine stands, both with
the first tick in the next FLUME cycle; a start of a busy engine is refused; MATCH arms, starts at once when its target has passed, or is refused when it
lies too far off; STOP keeps everything but the mode; a supply is sensed, and a mismatch raised where it begins; queues are pushed and popped, and refused
when full, empty or with a ring; the host sets and clears flags; a setting of a busy engine is refused. -/
def Obligations.FlumeControlEffects : Prop :=
  (∀ (f : Fin 4) (e : Fin 48) (v : Word) (s : State) (x : FlumeEng), HostSees s (Reg.FLM_ENG_CTL e) → bitOf v 1 = false → x = fluGet s e →
    (flmBusy s e = true → exec (.flumeStart f e v) s = .next (flmRaise s e 5) ∧ exec (.flumeResume f e v) s = .next (flmRaise s e 5))
    ∧ (flmBusy s e = false →
      (∃ y, y = { x with acc := 0, due := nextCycle s, pc := BitVec.ofNat 6 (regFld s (Reg.FLM_ENG_SHIFT e) 13 8), sc := 0, rc := 0, rest := none, stall := 0 }
        ∧ exec (.flumeStart f e v) s = .next (flmMode (fluSet s e y) e .running))
      ∧ exec (.flumeResume f e v) s = .next (flmMode (flmPrepare s e true (nextCycle s)) e .running)))
  ∧ (∀ (f : Fin 4) (e : Fin 48) (v m : Word) (s t : State), HostSees s (Reg.FLM_ENG_CTL e) → bitOf v 1 = false → m = regGet s (Reg.FLM_ENG_MATCH e) →
    t = fluSet s e { fluGet s e with mode := .armed, stall := 0, target := m, resume := bitOf v 2 } →
    (flmBusy s e = true → exec (.flumeStartMatch f e v) s = .next (flmRaise s e 5))
    ∧ (flmBusy s e = false → replicaReady s 14 = false → exec (.flumeStartMatch f e v) s = .next t)
    ∧ (flmBusy s e = false → replicaReady s 14 = true → 2000000000 < (m - s.clk.ns32).toInt →
      exec (.flumeStartMatch f e v) s = .next (flmRaise s e 5))
    ∧ (flmBusy s e = false → replicaReady s 14 = true → (m - s.clk.ns32).toInt ≤ 2000000000 → reached s.clk.ns32 m = false →
      exec (.flumeStartMatch f e v) s = .next t)
    ∧ (flmBusy s e = false → replicaReady s 14 = true → (m - s.clk.ns32).toInt ≤ 2000000000 → reached s.clk.ns32 m = true →
      exec (.flumeStartMatch f e v) s
        = .next (flmRaise (flmCount (flmMode (flmPrepare s e (bitOf v 2) (nextCycle s)) e .running) e 5 1) e 6)))
  ∧ (∀ (f : Fin 4) (e : Fin 48) (v : Word) (s : State), HostSees s (Reg.FLM_ENG_CTL e) → bitOf v 0 = false →
    (flmBusy s e = true → exec (.flumeStop f e v) s = .next (fluSet s e { fluGet s e with mode := .stopped, stall := 0 }))
    ∧ (flmBusy s e = false → exec (.flumeStop f e v) s = .next s))
  ∧ (∀ (e : Fin 48) (s : State) (x : FlumeEng), UnitRuns s 15 → x = fluGet s e → x.mode = .armed →
    (replicaReady s 14 = true → reached s.clk.ns32 x.target = true →
      exec (.flumeMatchReached e) s = .next (flmMode (flmPrepare s e x.resume (4 * (s.run / 4))) e .running))
    ∧ (replicaReady s 14 = false ∨ reached s.clk.ns32 x.target = false → exec (.flumeMatchReached e) s = .next s))
  ∧ (∀ (b : Fin 2) (n l : Nat) (s t : State), UnitRuns s 15 →
    l = (if 1620 ≤ n ∧ n ≤ 1980 then 1 else if 2970 ≤ n ∧ n ≤ 3630 then 2 else 0) →
    t = regSetFld s Reg.FLM_BANK_STAT (1 + 3 * b.val) (3 * b.val) l →
    exec (.bankSupplyCheck b n) s = .next (bankShow s (bankCheck t b) b))
  ∧ (∀ (b v l : Nat) (t : State), tabGet (fun _ => none) t.flm.decl b = some v → l = regFld t Reg.FLM_BANK_STAT (1 + 3 * b) (3 * b) →
    (l = v + 1 → bankCheck t b = regSetFld t Reg.FLM_BANK_STAT (2 + 3 * b) (2 + 3 * b) 0)
    ∧ (l ≠ v + 1 → regBit t Reg.FLM_BANK_STAT (2 + 3 * b) = false →
      bankCheck t b = raise (regSetFld t Reg.FLM_BANK_STAT (2 + 3 * b) (2 + 3 * b) 1) Reg.FLM_CAUSE 8))
  ∧ (∀ (f : Fin 4) (e : Fin 48) (v : Word) (s : State), HostSees s (Reg.FLM_TXQ e) →
    (ringLog2 s e true = 0 → (fluGet s e).txq.length < txCap s e →
      ∃ t, exec (.flmTxqPush f e v) s = .next t ∧ t = txqPut s e v)
    ∧ ((ringLog2 s e true ≠ 0 ∨ txCap s e ≤ (fluGet s e).txq.length) → exec (.flmTxqPush f e v) s = .next (flmRaise s e 5)))
  ∧ (∀ (f : Fin 4) (e : Fin 48) (w : Word) (l : List Word) (s : State), HostSees s (Reg.FLM_RXQ e) →
    ((fluGet s e).rxq = [] → exec (.flmRxqPop f e) s = .next { flmRaise s e 5 with rdata := 0 })
    ∧ ((fluGet s e).rxq = w :: l → ringLog2 s e false = 0 → exec (.flmRxqPop f e) s = .next { rxqTake s e with rdata := w.setWidth 64 })
    ∧ (ringLog2 s e false ≠ 0 → exec (.flmRxqPop f e) s = .next { flmRaise s e 5 with rdata := 0 }))
  ∧ (∀ (f : Fin 4) (v : Word) (s : State),
    (HostSees s Reg.FLM_FLAG_SET → exec (.flmFlagSetWrite f v) s = .next (flagsSet s 0 v) ∧ (flagsSet s 0 v).flm.flags = s.flm.flags ||| v)
    ∧ (HostSees s Reg.FLM_FLAG_CLR → exec (.flmFlagClrWrite f v) s = .next (flagsClear s v)
      ∧ (s.flm.cycle ≠ s.run / 4 → (flagsClear s v).flm.flags = s.flm.flags &&& ~~~v)))
  ∧ (∀ (f : Fin 4) (a : Nat) (v : Word) (e m : Nat) (k : Bool) (s : State), HostSees s a → flmConfig s a = some (some e, m, k) →
    (flmBusy s e = true → exec (.flumeConfigWrite f a v) s = .next (flmProgRefused s e))
    ∧ (flmBusy s e = false → (k && locked s a) = true → exec (.flumeConfigWrite f a v) s = .next s)
    ∧ (flmBusy s e = false → (k && locked s a) = false → 0xF04200 ≤ a → exec (.flumeConfigWrite f a v) s = .next (regMask s a m v))
    ∧ (flmBusy s e = false → (k && locked s a) = false → 0xF04100 ≤ a → a < 0xF04200 →
      exec (.flumeConfigWrite f a v) s = .next (pinConfigured (regMask s a m v) ((a - 0xF04100) / 4))))
  ∧ (∀ (f : Fin 4) (e : Fin 48) (v : Word) (s t : State), HostSees s (Reg.FLM_DMA_CTL e) →
    t = (if locked s (Reg.FLM_DMA_CTL e) then s else regMask s (Reg.FLM_DMA_CTL e) 0xFF v) →
    (flmBusy s e = true → exec (.flmDmaCtlWrite f e v) s = .next (flmProgRefused s e))
    ∧ (flmBusy s e = false →
      exec (.flmDmaCtlWrite f e v) s = .next (ringsTake (fluSet t e { fluGet t e with txStopped := false, rxStopped := false }) e)))

/-- Flume instructions that always end (R402, R404, R409, R416, Table 16-1), at a tick of the engine with the instruction's word at its PC: each has its
effect, and occupies its ticks or transfers control; the two TRY transfers end also where the queue is empty or full, and fault where it is removed; an
ILLEGAL word faults the engine with code 1. -/
def Obligations.FlumeInstructionsThatEnd : Prop :=
  ∀ (e : Fin 48) (s : State) (x : FlumeEng), x = fluGet s e →
    (∀ n : BitVec 12, FlumeIssues s e (BitVec.ofNat 16 n.toNat) → exec (.fIdle e n) s = .next (flmEnd s e (n.toNat + 1)))
    ∧ (∀ m v t : BitVec 4, FlumeIssues s e (fWord 1 m v t) →
      exec (.fDrive e m v t) s = .next (flmEnd (maskedPins s m v (fun u i b => pinWrite u e i b)) e (1 + t.toNat)))
    ∧ (∀ m d : BitVec 4, FlumeIssues s e (fWord 2 m d 0) →
      exec (.fDir e m d) s = .next (flmEnd (maskedPins s m d (fun u i b => pinDir u e i b)) e 1))
    ∧ (∀ (c : Fin 12) (a : BitVec 6) (pins : BitVec 64) (u : State), u = { s with flm := { s.flm with ball := pins } } →
      FlumeIssues s e (fWord2 8 (c.val / 4) (BitVec.ofNat 10 (c.val % 4 * 256 + a.toNat))) →
      (brHolds u e c = true → exec (.fBr e c a pins) s = .next (flmJump u e a))
      ∧ (brHolds u e c = false → exec (.fBr e c a pins) s = .next (flmEnd u e 1)))
    ∧ (∀ (k : Fin 4) (a : BitVec 6) (v : BitVec 16) (u : State), v = flmK x k - 1 → u = fluSet s e (flmSetK x k v) →
      FlumeIssues s e (fWord2 9 k (a.setWidth 10)) →
      (v ≠ 0 → exec (.fLoop e k a) s = .next (flmJump u e a)) ∧ (v = 0 → exec (.fLoop e k a) s = .next (flmEnd u e 1)))
    ∧ (∀ (r : Bool) (f : BitVec 5) (m : Word), m = 1#32 <<< (if r then (f.toNat + e.val) % 32 else f.toNat) →
      (FlumeIssues s e (fWord2 10 0 (fFlag 0 r f)) → exec (.fFlagSet e r f) s = .next (flmEnd (flagsSet s e m) e 1))
      ∧ (FlumeIssues s e (fWord2 10 1 (fFlag 0 r f)) → exec (.fFlagClear e r f) s = .next (flmEnd (flagsClear s m) e 1)))
    ∧ (∀ (k : Fin 4) (v : BitVec 10),
      (FlumeIssues s e (fWord2 11 k v) → exec (.fSetk e k v) s = .next (flmEnd (fluSet s e (flmSetK x k (v.setWidth 16))) e 1))
      ∧ (FlumeIssues s e (fWord2 12 k v) →
        exec (.fAddk e k v) s = .next (flmEnd (fluSet s e (flmSetK x k (flmK x k + v.signExtend 16))) e 1)))
    ∧ (FlumeIssues s e (fWord 13 9 0 0) → exec (.fXferClear e) s = .next (flmEnd (fluSet s e { x with sl := 0, sc := 0, rl := 0, rc := 0 }) e 1))
    ∧ (FlumeIssues s e (fWord 13 1 0 0) →
      (txCap s e = 0 → exec (.fXferTryFetch e) s = .next (flmFault s e 2))
      ∧ (txCap s e ≠ 0 → txqSeen s e = [] → exec (.fXferTryFetch e) s = .next (flmEnd s e 1))
      ∧ (∀ (w : Word) (l : List Word), txCap s e ≠ 0 → txqSeen s e = w :: l →
        ∃ y, y = { x with txq := x.txq.tail, sl := BitVec.ofNat 32 (w.toNat % 2 ^ fetchBits s e), sc := fetchBits s e }
          ∧ exec (.fXferTryFetch e) s = .next (flmEnd (flmCount (fluSet s e y) e 0 1) e 1)))
    ∧ (FlumeIssues s e (fWord 13 3 0 0) →
      (rxCap s e = 0 → exec (.fXferTryDeposit e) s = .next (flmFault s e 2))
      ∧ (rxCap s e ≠ 0 → rxqRoom s e = false →
        ∃ u, u = flmCount (fluSet s e { x with rl := 0, rc := 0 }) e 2 1
          ∧ exec (.fXferTryDeposit e) s = .next (flmEnd (flmRaise u e 10) e 1))
      ∧ (rxCap s e ≠ 0 → rxqRoom s e = true →
        ∃ u, u = flmCount (fluSet s e { x with rxq := x.rxq ++ [x.rl] }) e 1 1
          ∧ exec (.fXferTryDeposit e) s = .next (flmEnd (fluSet u e { fluGet u e with rl := 0, rc := 0 }) e 1)))
    ∧ (∀ w : BitVec 16, FlumeIssues s e w →
      (flumeIllegal (outCount s e) w = true → exec (.flumeIllegalInstruction e w) s = .next (flmFault s e 1))
      ∧ (flumeIllegal (outCount s e) w = false → exec (.flumeIllegalInstruction e w) s = .next s))

/-- Flume instructions that may stall (R401 to R407, R409, R416), at a tick of the engine with the instruction's word at its PC: where what they wait for
holds they have their effect and end, or begin their cells; where it does not, the engine stalls with its reason and keeps what is left; a removed queue
is a fault with code 2, and a SEND to a pin at or above OUT_COUNT one with code 1. A stalled engine tries again at its next tick. -/
def Obligations.FlumeInstructionsThatMayStall : Prop :=
  (∀ (e : Fin 48) (s : State) (x : FlumeEng), x = fluGet s e →
    ∀ z, z = (fun op => { rest0 op 0 [] with start := s.clk.ns32 }) →
    (FlumeIssues s e (fWord 13 0 0 0) →
      (∀ (w : Word) (l : List Word), txCap s e ≠ 0 → txqSeen s e = w :: l →
        ∃ y, y = { x with txq := x.txq.tail, sl := BitVec.ofNat 32 (w.toNat % 2 ^ fetchBits s e), sc := fetchBits s e }
          ∧ exec (.fXferFetch e) s = .next (flmEnd (flmCount (fluSet s e y) e 0 1) e 1))
      ∧ (txCap s e ≠ 0 → txqSeen s e = [] → exec (.fXferFetch e) s = .next (flmStall s e 1 (z .fetch)))
      ∧ (txCap s e = 0 → exec (.fXferFetch e) s = .next (flmFault s e 2)))
    ∧ (FlumeIssues s e (fWord 13 4 0 0) →
      (∀ (w : Word) (l : List Word), txCap s e ≠ 0 → txqSeen s e = w :: l →
        exec (.fXferLoadm e) s = .next (flmEnd (flmCount (fluSet s e { x with txq := x.txq.tail, mark := w }) e 0 1) e 1))
      ∧ (txCap s e ≠ 0 → txqSeen s e = [] → exec (.fXferLoadm e) s = .next (flmStall s e 1 (z .loadm)))
      ∧ (txCap s e = 0 → exec (.fXferLoadm e) s = .next (flmFault s e 2)))
    ∧ (FlumeIssues s e (fWord 13 2 0 0) →
      (rxCap s e ≠ 0 → rxqRoom s e = true →
        ∃ u, u = flmCount (fluSet s e { x with rxq := x.rxq ++ [x.rl] }) e 1 1
          ∧ exec (.fXferDeposit e) s = .next (flmEnd (fluSet u e { fluGet u e with rl := 0, rc := 0 }) e 1))
      ∧ (rxCap s e ≠ 0 → rxqRoom s e = false → exec (.fXferDeposit e) s = .next (flmStall s e 2 (z .deposit)))
      ∧ (rxCap s e = 0 → exec (.fXferDeposit e) s = .next (flmFault s e 2)))
    ∧ (FlumeIssues s e (fWord 13 5 0 0) →
      (rxCap s e ≠ 0 → rxqRoom s e = true →
        exec (.fXferStamp e) s = .next (flmEnd (flmCount (fluSet s e { x with rxq := x.rxq ++ [x.edge] }) e 1 1) e 1))
      ∧ (rxCap s e ≠ 0 → rxqRoom s e = false → exec (.fXferStamp e) s = .next (flmStall s e 2 (z .stamp)))
      ∧ (rxCap s e = 0 → exec (.fXferStamp e) s = .next (flmFault s e 2)))
    ∧ (FlumeIssues s e (fWord 13 6 0 0) →
      (rxCap s e ≠ 0 → rxqRoom s e = true →
        exec (.fXferNow e) s = .next (flmEnd (flmCount (fluSet s e { x with rxq := x.rxq ++ [s.clk.ns32] }) e 1 1) e 1))
      ∧ (rxCap s e ≠ 0 → rxqRoom s e = false → exec (.fXferNow e) s = .next (flmStall s e 2 (z .now)))
      ∧ (rxCap s e = 0 → exec (.fXferNow e) s = .next (flmFault s e 2))))
  ∧ (∀ (e : Fin 48) (n p : BitVec 4) (i : Bool) (s : State), FlumeIssues s e (fWord 3 n p (invBits i)) →
    ∀ r, r = { rest0 (.send p.toNat i) (n.toNat + 1) [] with start := s.clk.ns32 } →
    (outCount s e ≤ p.toNat → exec (.fFlumeSend e n p i) s = .next (flmFault s e 1))
    ∧ (∀ b t, p.toNat < outCount s e → flmTake1 s e = .ok b t →
      ∃ u, u = flmTicks (pinWrite t e p.toNat (b != i)) e ((fluGet s e).k3.toNat + 1)
        ∧ exec (.fFlumeSend e n p i) s = .next (if n = 0 then flmDone u e else flmHold u e { r with left := n.toNat }))
    ∧ (∀ c t, p.toNat < outCount s e → flmTake1 s e = .stall c t → exec (.fFlumeSend e n p i) s = .next (flmStall t e c r)))
  ∧ (∀ (e : Fin 48) (s : State),
    (∀ (n t : BitVec 4) (r : FlumeRest), FlumeIssues s e (fWord 5 n t 0) →
      r = { rest0 (.emit (n.toNat + 1) t.toNat) (n.toNat + 1) [] with start := s.clk.ns32 } →
      exec (.fEmit e n t) s = .next (flmTakeAll s e r (fun u l => flmEnd (pinWriteAll u e 0 l) e (1 + t.toNat)) s (n.toNat + 1) []))
    ∧ (∀ (n : Nat) (r : FlumeRest), FlumeIssues s e (fWord 13 8 0 0) → n = outCount s e →
      r = { rest0 (.dirs n) n [] with start := s.clk.ns32 } →
      exec (.fXferDirs e) s = .next (flmTakeAll s e r (fun u l => flmEnd (pinDirAll u e 0 l) e 1) s n [])))
  ∧ (∀ (e : Fin 48) (s : State), (fluGet s e).sc = 0 → regBit s (Reg.FLM_ENG_SHIFT e) 3 = true → txCap s e ≠ 0 → txqSeen s e = [] →
    (∀ k : Fin 4, FlumeIssues s e (fWord2 14 k 0) →
      exec (.fLoadk e k) s = .next (flmStall s e 1 { rest0 (.loadk k) 16 [] with start := s.clk.ns32 }))
    ∧ (FlumeIssues s e (fWord 13 7 0 0) →
      exec (.fXferBranchSl e) s = .next (flmStall s e 1 { rest0 .branchSl 6 [] with start := s.clk.ns32 })))
  ∧ (∀ (e : Fin 48) (s : State), (fluGet s e).sc = 0 → regBit s (Reg.FLM_ENG_SHIFT e) 3 = false →
    (∀ k : Fin 4, FlumeIssues s e (fWord2 14 k 0) → exec (.fLoadk e k) s = .next (flmEnd (fluSet s e (flmSetK (fluGet s e) k 0)) e 1))
    ∧ (FlumeIssues s e (fWord 13 7 0 0) → exec (.fXferBranchSl e) s = .next (flmJump s e 0)))
  ∧ (∀ (e : Fin 48) (n : BitVec 4) (pins : BitVec 64) (s u : State) (l : List Bool), FlumeIssues s e (fWord 6 n 0 0) →
    u = { s with flm := { s.flm with ball := pins } } → l = (List.range (n.toNat + 1)).map (fun i => pinRead u (inPin u e i)) →
    exec (.fGather e n pins) s = .next (flmAppendAll u e { rest0 (.gather (n.toNat + 1)) 0 l with start := s.clk.ns32 } u false l))
  ∧ (∀ (e : Fin 48) (n p : BitVec 4) (i : Bool) (pins : List (BitVec 64)) (s : State) (r : FlumeRest), FlumeIssues s e (fWord 4 n p (invBits i)) →
    r = { rest0 (.recv p.toNat i) (n.toNat + 1) [] with pins := pins } →
    ((fluGet s e).k3.toNat / 2 = 0 → exec (.fRecv e n p i pins) s = .next (flmRecvCell s e p.toNat i r))
    ∧ ((fluGet s e).k3.toNat / 2 ≠ 0 → exec (.fRecv e n p i pins) s = .next (flmHold (flmTicks s e ((fluGet s e).k3.toNat / 2)) e r)))
  ∧ (∀ (e : Fin 48) (pol : Bool) (p : BitVec 4) (pins : BitVec 64) (s u : State), FlumeIssues s e (fWord 7 (waitBits 0 pol false) 0 p) →
    u = { s with flm := { s.flm with ball := pins } } →
    (pinRead u (inPin u e p.toNat) = pol → exec (.fWaitLevel e pol p pins) s = .next (flmEnd u e 1))
    ∧ (pinRead u (inPin u e p.toNat) ≠ pol →
      exec (.fWaitLevel e pol p pins) s = .next (flmStall u e 3 { rest0 (.waitLevel pol p.toNat) 0 [] with start := s.clk.ns32 })))
  ∧ (∀ (e : Fin 48) (pol : Bool) (p : BitVec 4) (w : Word) (s : State), FlumeIssues s e (fWord 7 (waitBits 1 pol false) 0 p) →
    (-4 ≤ (w - s.clk.ns32).toInt → (w - s.clk.ns32).toInt ≤ 4 →
      exec (.fWaitEdge e pol p (some w)) s = .next (flmEnd (fluSet s e { fluGet s e with edge := w }) e 1))
    ∧ exec (.fWaitEdge e pol p none) s = .next (flmStall s e 3 { rest0 .waitEdge 0 [] with start := s.clk.ns32 }))
  ∧ (∀ (e : Fin 48) (pol c r : Bool) (f : BitVec 5) (s : State) (g : Nat), g = (if r then (f.toNat + e.val) % 32 else f.toNat) →
    FlumeIssues s e (fWord2 7 2 (fFlag (8 * b2n pol + 4 * b2n c) r f)) →
    (flagReady s e pol c g = true → exec (.fWaitFlag e pol c r f) s = .next (flmEnd (if c then flagTake s g else s) e 1))
    ∧ (flagReady s e pol c g = false →
      exec (.fWaitFlag e pol c r f) s = .next (flmStall s e 4 { rest0 (.waitFlag pol c g) 0 [] with start := s.clk.ns32 })))
  ∧ (∀ (e : Fin 48) (s : State), FlumeIssues s e (fWord2 7 3 0) →
    (markReached s e = true → exec (.fWaitMark e) s = .next (flmEnd (fluSet s e { fluGet s e with acc := 0 }) e 1))
    ∧ (markReached s e = false → exec (.fWaitMark e) s = .next (flmStall s e 5 { rest0 .waitMark 0 [] with start := s.clk.ns32 })))
  ∧ (∀ (e : Fin 48) (r : Bool) (f : BitVec 5) (s : State) (g : Nat), FlumeIssues s e (fWord2 10 2 (fFlag 0 r f)) →
    g = (if r then (f.toNat + e.val) % 32 else f.toNat) →
    exec (.fFlagSetWait e r f) s = .next (flmStall (flagsSet s e (1#32 <<< g)) e 6 (rest0 (.setWait g) 0 [])))
  ∧ (∀ (e : Fin 48) (pins : BitVec 64) (at' : Option Word) (r : FlumeRest) (s : State), UnitRuns s 15 → (fluGet s e).rest = some r →
    (fluGet s e).mode = .stalled →
    ((atTick s e = true ∨ (r.op = .waitMark ∧ markReached s e = true)) →
      exec (.flumeStallResume e pins at') s = .next (flmTry { s with flm := { s.flm with ball := pins } } e r at'))
    ∧ (atTick s e = false → r.op ≠ .waitMark → exec (.flumeStallResume e pins at') s = .next s))

/-- Flume DMA (R411, R412): a poll of a TX ring moves the words between GET and PUT into TXQ, and one of an RX ring moves RXQ into it, in order and as far
as there is room; without a ring, once it has stopped, or with the queue full or empty, nothing happens; a refused access stops the ring, sets DMA_ERR and
raises it. -/
def Obligations.FlumeDmaEffects : Prop :=
  ∀ (e : Fin 48) (s : State), UnitRuns s 15 →
    (ringLog2 s e true = 0 ∨ (fluGet s e).txStopped = true ∨ txCap s e ≤ (fluGet s e).txq.length → exec (.flumeDmaTxPoll e) s = .next s)
    ∧ (ringLog2 s e false = 0 ∨ (fluGet s e).rxStopped = true ∨ (fluGet s e).rxq = [] → exec (.flumeDmaRxWrite e) s = .next s)
    ∧ (∀ t, ringLog2 s e true ≠ 0 → (fluGet s e).txStopped = false → (fluGet s e).txq.length < txCap s e →
      dmaRead s (ringBase s e true) = (none, t) →
      ∃ u, u = fluSet t e { fluGet t e with txStopped := true }
        ∧ exec (.flumeDmaTxPoll e) s = .next (flmRaise (regSetFld u (Reg.FLM_ENG_STAT e) 25 25 1) e 7))
    ∧ (∀ put t, ringLog2 s e true ≠ 0 → (fluGet s e).txStopped = false → (fluGet s e).txq.length < txCap s e →
      dmaRead s (ringBase s e true) = (some put, t) → exec (.flumeDmaTxPoll e) s = .next (dmaTx e (2 ^ ringLog2 s e true) put 16 false t))
    ∧ (∀ t, ringLog2 s e false ≠ 0 → (fluGet s e).rxStopped = false → (fluGet s e).rxq ≠ [] →
      dmaRead s (ringBase s e false + 8) = (none, t) →
      ∃ u, u = fluSet t e { fluGet t e with rxStopped := true }
        ∧ exec (.flumeDmaRxWrite e) s = .next (flmRaise (regSetFld u (Reg.FLM_ENG_STAT e) 25 25 1) e 7))
    ∧ (∀ get t, ringLog2 s e false ≠ 0 → (fluGet s e).rxStopped = false → (fluGet s e).rxq ≠ [] →
      dmaRead s (ringBase s e false + 8) = (some get, t) → exec (.flumeDmaRxWrite e) s = .next (dmaRx e (2 ^ ringLog2 s e false) get 16 false t))
    ∧ (∀ (put w : Word) (k : Nat) (b : Bool) (n : Nat) (t u : State), (fluGet t e).txGet ≠ put → (fluGet t e).txq.length < txCap t e →
      dmaRead t (ringBase t e true + 16 + 4 * ((fluGet t e).txGet.toNat % n)) = (some w, u) →
      ∃ v, v = txqPut u e w
        ∧ dmaTx e n put (k + 1) b t = dmaTx e n put k true (fluSet v e { fluGet v e with txGet := (fluGet t e).txGet + 1 }))

/-- A write of TIM_INCR_FRAC is held in a staging register and has no effect by itself. A write of TIM_INCR_INT takes the staged fraction and
the written integer together: the first TIME cycle after it adds the pair. Written first with a fraction and then with an unchanged integer,
only the fraction changes; an increment of 0.0 is accepted and stops the clock. -/
def Obligations.IncrementWritesTakeEffectTogether : Prop :=
  ∀ (m : Fin 42) (v w : Word) (s : State), Disciplines s m.val Reg.TIM_INCR_FRAC → Disciplines s m.val Reg.TIM_INCR_INT →
    ClockOk s.clk → s.clk.slew = none →
    ∃ t, exec (.timIncrFracWrite m v) s = .next t ∧ t = { s with clk := { s.clk with staged := v } }
      ∧ (clkTick t.clk).sec = (clkTick s.clk).sec ∧ (clkTick t.clk).ns = (clkTick s.clk).ns ∧ (clkTick t.clk).frac = (clkTick s.clk).frac
      ∧ ∃ u, exec (.timIncrIntWrite m w) t = .next u ∧ u.clk = { s.clk with staged := v, incInt := w.setWidth 8, incFrac := v }
        ∧ ((((clkTick u.clk).sec.toNat * 1000000000 + (clkTick u.clk).ns.toNat) * 2 ^ 32 + (clkTick u.clk).frac.toNat) % (2 ^ 48 * 1000000000 * 2 ^ 32)
          = ((s.clk.sec.toNat * 1000000000 + s.clk.ns.toNat) * 2 ^ 32 + s.clk.frac.toNat + ((w.setWidth 8).toNat * 2 ^ 32 + v.toNat))
              % (2 ^ 48 * 1000000000 * 2 ^ 32))
        ∧ (w.setWidth 8 = s.clk.incInt → u.clk.incInt = s.clk.incInt)
        ∧ (w.setWidth 8 = 0#8 → v = 0 → clkTick u.clk = u.clk)

/-- Queues (R425 to R429, R433, R457): a doorbell past N entries or backwards is counted and refused, any other is taken; enabling a queue that is not
locked takes the fields, and a LOG2 below 4 or a CQ without its interval is refused; disabling an unlocked one takes the fields and clears EN; a fetch
takes the entries of the queue whose turn it is, and none of another; the next NOP of an SQ completes with OK, the next TWIN_WITNESS with its outcome, and a
FENCE at the head of its SQ whose earlier completions are all written completes when its own can be. -/
def Obligations.HostQueueEffects : Prop :=
  (∀ (f : Fin 4) (k : Fin 3) (q : Fin 8) (v : Word) (s : State), HostSees s (hostQ 0 (subKind k) q 12) → queueExists (subKind k) q = true →
    ∀ c p, c = regGet s (qCount f (subKind k) q) → p = regGet s (qDoorbell f (subKind k) q) →
    (qDiff v c ≤ qSize s f (subKind k) q → qDiff p c ≤ qDiff v c →
      exec (.submissionDoorbell f k q v) s = .next (regSet s (qDoorbell f (subKind k) q) v))
    ∧ (qSize s f (subKind k) q < qDiff v c ∨ qDiff v c < qDiff p c →
      exec (.submissionDoorbell f k q v) s = .next (hstRaise (fcnt s f 6) f (subKind k) q 1)))
  ∧ (∀ (f : Fin 4) (q : Fin 4) (v : Word) (s : State), HostSees s (hostQ 0 1 q 12) →
    ∀ c p, c = regGet s (qCount f 1 q) → p = regGet s (qDoorbell f 1 q) →
    (qDiff c v ≤ qSize s f 1 q → qDiff c v ≤ qDiff c p →
      exec (.cqDoorbell f q v) s = .next (pauseSweep (cqDrain (regSet s (qDoorbell f 1 q) v) f q)))
    ∧ (qSize s f 1 q < qDiff c v ∨ qDiff c p < qDiff c v →
      exec (.cqDoorbell f q v) s = .next (pauseSweep (cqDrain (hstRaise (fcnt s f 6) f 1 q 1) f q))))
  ∧ (∀ (f : Fin 4) (k : Fin 4) (q : Fin 8) (v : Word) (s : State), HostSees s (hostQ 0 k q 8) → queueExists k q = true →
    (fld v 27 24 < 4 ∨ (k = 1 ∧ fld v 23 16 = 0) → exec (.queueEnable f k q v) s = .next (hstRaise s f k q 2))
    ∧ (4 ≤ fld v 27 24 → (k ≠ 1 ∨ fld v 23 16 ≠ 0) → qLocked s f k q = false → exec (.queueEnable f k q v) s = .next (qEnable s f k q v)))
  ∧ (∀ (f : Fin 4) (k : Fin 4) (q : Fin 8) (v : Word) (s : State), HostSees s (hostQ 0 k q 8) → queueExists k q = true →
    qLocked s f k q = false → (k = 1 → bitOf (regGet s (qCtl f k q)) 31 = false) →
    ∃ w, w = ctlMerge (regGet s (qCtl f k q)) v (ctlFields k) &&& 0x7FFFFFFF
      ∧ exec (.queueDisable f k q v) s = .next (pauseSweep (regSet s (qCtl f k q) w)))
  ∧ (∀ (f : Fin 4) (k : Fin 3) (q : Fin 8) (l : List (List Byte)) (s : State), HostUnitRuns s →
    (fetchTurn s = some (f.val, subKind k, q.val) → l ≠ [] →
      ∃ t u, t = fnSet s f { fnGet s f with turn := (fetchPlace (subKind k) q + 1) % 20 }
        ∧ u = { t with hst := { t.hst with turn := (f.val + 1) % 4 } }
        ∧ exec (.queueFetch f k q l) s = .next (pauseSweep (fetchTake u f (subKind k) q (l.take (fetchMost s f (subKind k) q)))))
    ∧ (fetchTurn s ≠ some (f.val, subKind k, q.val) → exec (.queueFetch f k q l) s = .next (pauseSweep s)))
  ∧ (∀ (f : Fin 4) (q : Fin 4) (c : HostCmd) (s : State), HostUnitRuns s → sqNext s f q = some c → sqStatus c.bytes = 0 →
    (leAt c.bytes 0 1 = 0 → exec (.cmdNop f q) s = .next (pauseSweep (sqDone s f q c.index (leAt c.bytes 2 2) 0 0 0)))
    ∧ (leAt c.bytes 0 1 = 3 →
      ∃ r, r = witness s (BitVec.ofNat 32 (leAt c.bytes 12 4))
        ∧ exec (.twinWitness f q) s = .next (pauseSweep (culSettle (sqDone r.2.2 f q c.index (leAt c.bytes 2 2) 0 r.1 r.2.1)))))
  ∧ (∀ (f : Fin 4) (q : Fin 4) (c : HostCmd) (l : List HostCmd) (s : State), HostUnitRuns s → sqList s f q = c :: l →
    leAt c.bytes 0 1 = 1 → sqStatus c.bytes = 0 → c.started = false → cqHeld s f (qCq s f 0 q) = [] →
    (qOn s f 1 (qCq s f 0 q) = false ∨ cqRoom s f (qCq s f 0 q) = true) →
    (leAt c.bytes 8 1 = 0 → exec (.fenceOrder f q) s = .next (pauseSweep (sqDone s f q c.index (leAt c.bytes 2 2) 0 0 0)))
    ∧ (leAt c.bytes 8 1 = 1 → exec (.fenceVisible f q) s = .next (pauseSweep (sqDone s f q c.index (leAt c.bytes 2 2) 0 0 0))))
  ∧ (∀ (f : Fin 4) (q : Fin 4) (s : State), HostUnitRuns s → sqNext s f q = none →
    exec (.cmdNop f q) s = .next (pauseSweep s) ∧ exec (.twinWitness f q) s = .next (pauseSweep s))

/-- Frames and functions (R422, R430 to R436): the first descriptor that waits starts its read while the function is a bus master, and a bad one at the
head of its ring completes BAD_DESC; the end of its read takes the frame; an RX ring is delivered to in its turn; a function-level reset acts on its function; unmasking sends what is pending, setting MSI-X Enable clears HST_IRQ_PEND
and clearing Bus Master Enable stops the function's traffic and fails its RESYNC. -/
def Obligations.HostFunctionEffects : Prop :=
  (∀ (f : Fin 4) (t : Fin 8) (d : TxDesc) (l : List TxDesc) (s : State), HostUnitRuns s → txRing s f t = d :: l → d.reading = false →
    (txDescBad s d.bytes = false → (fnGet s f).busMaster = true →
      exec (.txDescriptor f t) s = .next (pauseSweep (txRingSet s f t ({ d with reading := true } :: l))))
    ∧ (txDescBad s d.bytes = false → (fnGet s f).busMaster = false → exec (.txDescriptor f t) s = .next (pauseSweep s))
    ∧ (∀ u v, u = txRingSet s f t l → v = (if d.old then u else regSet u (qCount f 2 t) (regGet u (qCount f 2 t) + 1)) →
      txDescBad s d.bytes = true →
      exec (.txDescriptor f t) s = .next (pauseSweep (txComplete v f t d.index (leAt d.bytes 11 1) (leAt d.bytes 26 2) 1 none))))
  ∧ (∀ (f : Fin 4) (t : Fin 8) (d : TxDesc) (l : List TxDesc) (b : List Byte) (s : State), HostUnitRuns s → txRing s f t = d :: l → d.reading = true →
    exec (.txHostReadDone f t b true) s = .next (pauseSweep (txReadDone s f t b true))
    ∧ exec (.txHostReadDone f t b false) s = .next (pauseSweep (hstRaise (txReadDone s f t b false) f 2 t 3)))
  ∧ (∀ (f : Fin 4) (d c : Nat) (e : QEntry) (l : List Nat) (s t : State), HostUnitRuns s →
    l = (List.range 8).map (fun i => (tabGet (fun _ => 0) s.cis.turn (200 + f.val) + i) % 8) → rxPick f l s = (some (d, c, e), t) →
    ∃ u, u = { t with cis := { t.cis with turn := tabSet (fun _ => 0) t.cis.turn (200 + f.val) ((d + 1) % 8) } }
      ∧ exec (.rxDelivery f) s = .next (pauseSweep (rxDeliver u f d c e)))
  ∧ (∀ (f : Fin 4) (s : State), hostReach s 0 = true →
    exec (.functionLevelReset f) s = .next (pauseSweep (fnReset s f))
    ∧ (∃ t, t = (List.range 8).foldl (fun u i => regSet u (regKey f (Reg.HST_IRQ_PEND i)) 0) s
      ∧ exec (.msixEnableSet f) s = .next (fnSet t f { fnGet s f with msixEnable := true }))
    ∧ (∀ t, t = fnSet s f { fnGet s f with busMaster := false } →
      (resyncOf t f = false → exec (.busMasterEnableClear f) s = .next t)
      ∧ (resyncOf t f = true → exec (.busMasterEnableClear f) s = .next (resyncFail t 2))))
  ∧ (∀ (f : Fin 4) (v : Fin 256) (s : State), HostSees s (Reg.MSIX_CTL v) →
    ∀ t, t = regSetFld s (msixCtl f v) 0 0 0 →
    ((fnGet t f).msixEnable = true → regBit t (msixPba f v) (v.val % 32) = true →
      exec (.msixUnmask f v) s = .next (msix (regSetFld t (msixPba f v) (v.val % 32) (v.val % 32) 0) f v))
    ∧ ((fnGet t f).msixEnable = false ∨ regBit t (msixPba f v) (v.val % 32) = false → exec (.msixUnmask f v) s = .next t))

/-- RESYNC (R437 to R439): the request key starts it and the resume key, once its summary is written or has failed, ends it, any other has no effect; a
request while one drains or writes is refused, but of two of one cycle the lower function's is taken; the snapshot is taken when nothing is in flight, the
signature follows, and the summary written sets DONE, a failed write FAILED. -/
def Obligations.ResyncEffects : Prop :=
  (∀ (f : Fin 4) (v : Word) (s : State), HostSees s Reg.HST_RESYNC →
    ∀ g : State → State, g = (fun u => dropUnbegun (pauseQueues (regSet { u with hst := { u.hst with
          resyncFunc := f.val
          resyncAddr := hostAddr u (regKey f Reg.HST_RESYNC_ADDR_LO) (regKey f Reg.HST_RESYNC_ADDR_HI)
          resyncNonce := BitVec.ofNat 64 ((regGet u (regKey f Reg.HST_RESYNC_NONCE_HI)).toNat * 2 ^ 32 + (regGet u (regKey f Reg.HST_RESYNC_NONCE_LO)).toNat)
          resyncCount := u.hst.resyncCount + 1
          resyncAt := u.run / 2
          paused := true
          summary := [] } } Reg.HST_RESYNC_STATUS (wordN (f.val * 2 ^ 26 + 1))) true)) →
    (v = 0x5253594E → (resyncState s = 2 ∨ resyncState s = 1 ∧ (s.hst.resyncAt ≠ s.run / 2 ∨ s.hst.resyncFunc ≤ f.val)) →
      exec (.resyncRequest f v) s = .next (pauseSweep (hstRaise s f 4 0 5)))
    ∧ (v = 0x5253594E → resyncState s = 1 → s.hst.resyncAt = s.run / 2 → f.val < s.hst.resyncFunc →
      ∃ t u, t = hstRaise s s.hst.resyncFunc 4 0 5 ∧ u = { t with hst := { t.hst with resyncCount := t.hst.resyncCount - 1 } }
        ∧ exec (.resyncRequest f v) s = .next (pauseSweep (g u)))
    ∧ (v = 0x5253594E → resyncState s ≠ 1 → resyncState s ≠ 2 → exec (.resyncRequest f v) s = .next (pauseSweep (g s)))
    ∧ (v = 0x5245534D → resyncState s < 3 → exec (.resyncResume f v) s = .next (pauseSweep s))
    ∧ (v = 0x5245534D → 3 ≤ resyncState s →
      ∃ t, t = pauseQueues s false
        ∧ exec (.resyncResume f v) s = .next (pauseSweep (drainAll { t with hst := { s.hst with paused := false } })))
    ∧ (v ≠ 0x5253594E → v ≠ 0x5245534D →
      exec (.resyncRequest f v) s = .next (pauseSweep s) ∧ exec (.resyncResume f v) s = .next (pauseSweep s)))
  ∧ (∀ s : State, UnitRuns s 2 →
    (resyncState s = 1 → resyncQuiet s = true →
      ∃ t, t = regSetFld (summaryBytes s).2 Reg.HST_RESYNC_STATUS 2 0 2
        ∧ exec .resyncSnapshot s = .next { t with hst := { (summaryBytes s).2.hst with summary := (summaryBytes s).1 } })
    ∧ (resyncState s = 1 → resyncQuiet s = false → exec .resyncSnapshot s = .next s)
    ∧ (resyncState s = 2 → s.hst.summary.length = 16320 →
      ∃ g l, g = Config.ecdsaSign s.hst.summary ∧ l = s.hst.summary ++ beBytes 32 g.1.toNat ++ beBytes 32 g.2.toNat
        ∧ exec .resyncSigned s = .next { s with hst := { s.hst with summary := l } }))
  ∧ (∀ s : State, HostUnitRuns s → resyncState s = 2 → s.hst.summary.length = 16384 →
    (∃ t u, t = hostOrdered s s.hst.resyncFunc s.hst.resyncAddr s.hst.summary
      ∧ u = hstRaise (regSetFld t Reg.HST_RESYNC_STATUS 2 0 3) s.hst.resyncFunc 4 0 4
      ∧ exec (.resyncSummaryWritten true) s
        = .next (pauseSweep (msix (drainAll { u with hst := { u.hst with paused := false, summary := [] } }) s.hst.resyncFunc 0)))
    ∧ exec (.resyncSummaryWritten false) s = .next (pauseSweep (resyncFail (hstRaise s s.hst.resyncFunc 4 0 3) 1)))

/-- The culvert link (R442 to R445, R447, R448): enabled lanes come up and go, a loss is counted, and an IDENT goes out when the link comes up and every
10 ms until the chips are paired; a message that fails its check is counted and discarded, and a good one of its type taken while the chip is in the state
for it; heartbeats go out each period while paired, and their loss is decided once more than 300 µs have passed. -/
def Obligations.CulvertLinkEffects : Prop :=
  (∀ (n : Fin 4) (s : State), UnitRuns s 16 →
    (culRuns s = true → nbit (culLanes s) n = true → culBit s (24 + n.val) = false →
      ∀ t, t = culRaise (culBitSet s (24 + n.val) true) 10 →
      (culLinkUp s = true → exec (.culvertLaneUp n) s = .next (culSettle t))
      ∧ (culLinkUp s = false → exec (.culvertLaneUp n) s = .next (culSettle (identSend t))))
    ∧ (culBit s (24 + n.val) = true →
      exec (.culvertLaneDown n) s = .next (culSettle (culRaise (culCount (culBitSet s (24 + n.val) false) 13) 10))))
  ∧ (∀ s : State, UnitRuns s 16 →
    (culRuns s = true → culLinkUp s = true → culPaired s = false → s.cul.identFrom + 10000000 ≤ s.run → exec .identTimer s = .next (culSettle (identSend s)))
    ∧ (culPaired s = true → exec .identTimer s = .next (culSettle s))
    ∧ (culPaired s = true → s.cul.hbFrom + 99900 ≤ s.run → exec .heartbeatTimer s = .next (culSettle (hbSend s)))
    ∧ (culPaired s = false → exec .heartbeatTimer s = .next (culSettle s)))
  ∧ (∀ (m : List Byte) (s : State), UnitRuns s 16 → culLinkUp s = true → culRuns s = true → (m.length < 5 ∨ m ≠ culSeal (m.take (m.length - 4))) →
    ∀ c ∈ [Instr.identRx m, .heartbeatRx m, .mirrorRx m, .imageRx m], exec c s = .next (culSettle (culCount s 2)))
  ∧ (∀ (m : List Byte) (s : State), UnitRuns s 16 → culLinkUp s = true → culRuns s = true → 5 ≤ m.length → m = culSeal (m.take (m.length - 4)) →
    (leAt m 0 1 = 1 → m.length = 128 → exec (.identRx m) s = .next (culSettle (identTake s m)))
    ∧ (leAt m 0 1 = 2 → m.length = 64 → culPaired s = true → exec (.heartbeatRx m) s = .next (culSettle (heartbeatTake s m)))
    ∧ (leAt m 0 1 = 2 → culPaired s = false → exec (.heartbeatRx m) s = .next (culSettle s))
    ∧ (leAt m 0 1 = 3 → culPaired s = true → leAt m 4 4 ≠ (s.cul.lseqIn + 1) % 2 ^ 32 → exec (.mirrorRx m) s = .next (culSettle s))
    ∧ (leAt m 0 1 = 3 → culPaired s = true → exec (.mirrorRx m) s = .next (culSettle (mirrorTake s m)))
    ∧ (leAt m 0 1 = 4 → leAt m 4 4 = (s.cul.lseqIn + 1) % 2 ^ 32 →
      exec (.imageRx m) s = .next (culSettle (imageServe { s with cul := { s.cul with lseqIn := leAt m 4 4 } })))
    ∧ (leAt m 0 1 = 4 → leAt m 4 4 ≠ (s.cul.lseqIn + 1) % 2 ^ 32 → exec (.imageRx m) s = .next (culSettle s)))
  ∧ (∀ s : State, UnitRuns s 16 → culPaired s = true →
    (s.cul.lossFrom + 300000 < s.run → exec .heartbeatLoss s = .next (culSettle (heartbeatLost s)))
    ∧ (s.run ≤ s.cul.lossFrom + 300000 → exec .heartbeatLoss s = .next (culSettle s)))

/-- Roles of the twin (R450, R454 to R456, R459, Table 18-5): an edge of the role wire is classed by its interval, and silence once more than 60 µs have
passed; a wait to pair, a settled takeback and a handover end in their roles; an acting chip mirrors its time at least every 10 ms; CUL_CMD fences, unfences, binds and unbinds with its code, and is refused without
it, or outside the state it needs. -/
def Obligations.TwinRoleEffects : Prop :=
  (∀ (t : Nat) (s : State), UnitRuns s 16 → s.cul.wireEdge = some t →
    ∀ k u, k = (if 3000 ≤ s.run - t ∧ s.run - t ≤ 8000 then 1 else if 14000 ≤ s.run - t ∧ s.run - t ≤ 28000 then 2 else 3) →
    u = { s with cul := { s.cul with wireEdge := some s.run, wireLast := k } } →
    (k = 3 → exec .roleWireEdge s = .next (culSettle (wireSet (culCount u 11) 3)))
    ∧ (k ≠ 3 → k = s.cul.wireLast → exec .roleWireEdge s = .next (culSettle (wireSet u k)))
    ∧ (k ≠ 3 → k ≠ s.cul.wireLast → exec .roleWireEdge s = .next (culSettle u))
    ∧ (t + 60000 < s.run →
      exec .roleWireSilence s = .next (culSettle (wireSet { s with cul := { s.cul with wireLast := 0 } } 0)))
    ∧ (s.run ≤ t + 60000 → exec .roleWireSilence s = .next (culSettle s)))
  ∧ (∀ s : State, UnitRuns s 16 → culRole s = 1 → culPaired s = false →
    (∀ t, s.cul.wireClaim = some t → max t s.cul.pairFrom + pairWait s ≤ s.run → exec .pairWaitExpiry s = .next (culSettle (culTo s 3)))
    ∧ (s.cul.wireClaim = none → s.cul.pairRaised = false → s.cul.pairFrom + pairWait s ≤ s.run →
      ∃ u, u = { s with cul := { s.cul with pairRaised := true } }
        ∧ exec .pairWaitExpiry s = .next (culSettle (culRaise (culBitSet u 8 true) 4))))
  ∧ (∀ (t : Nat) (s : State), UnitRuns s 16 → s.cul.settleFrom = some t → culRole s = 3 → culBit s 11 = true → healthy s = true →
    flatByte s 14 1 ≠ 0 → regBit s Reg.CUL_CTL 1 = false →
    (t + flatField s 14 4 4 * 1000000 ≤ s.run → exec .takebackSettleExpiry s = .next (culSettle (culTo s 4)))
    ∧ (s.run < t + flatField s 14 4 4 * 1000000 → exec .takebackSettleExpiry s = .next (culSettle s)))
  ∧ (∀ (t : Nat) (s : State), UnitRuns s 16 → s.cul.handover = some t →
    (s.cul.replay = [] ∨ t + 1000000 ≤ s.run →
      ∃ u, u = culTo s 3 ∧ exec .handoverDone s = .next (culSettle { u with cul := { u.cul with handed := true } }))
    ∧ (s.cul.replay ≠ [] → s.run < t + 1000000 → exec .handoverDone s = .next (culSettle s)))
  ∧ (∀ s : State, UnitRuns s 16 →
    (culRole s = 2 → culPaired s = true → s.cul.timeFrom + 10000000 ≤ s.run → exec .mirrorTimeTimer s = .next (culSettle (culTime s)))
    ∧ (culRole s ≠ 2 → exec .mirrorTimeTimer s = .next (culSettle s)))
  ∧ (∀ (f : Fin 4) (v : Word) (s : State), HostSees s Reg.CUL_CMD → fld v 31 16 = 0x4355 →
    ∀ t : Nat → State, (∀ op, t op = regSetFld s Reg.CUL_CMD_STAT 2 0 op) →
    (culRole (t 1) ≠ 0 → exec (.culFence f v) s = .next (culSettle (culTo (t 1) 5)))
    ∧ (culRole (t 1) = 0 → exec (.culFence f v) s = .next (culSettle (t 1)))
    ∧ (culRole s = 5 → exec (.culUnfence f v) s = .next (culSettle (culTo (t 2) 1)))
    ∧ (culRole s ≠ 5 → exec (.culUnfence f v) s = .next (raise s Reg.CUL_CAUSE 11))
    ∧ (s.cul.identSeen = true → s.sen.busy = none →
      ∀ u, u = senStart (t 3) (.bind (partnerId (t 3))) →
      (culRole u = 5 → exec (.culBind f v) s = .next (culSettle (culTo u 1)))
      ∧ (culRole u ≠ 5 → exec (.culBind f v) s = .next (culSettle u)))
    ∧ (s.cul.identSeen = false ∨ s.sen.busy ≠ none → exec (.culBind f v) s = .next (raise s Reg.CUL_CAUSE 11))
    ∧ (s.sen.busy = none → exec (.culUnbind f v) s = .next (culSettle (senStart (t 4) .unbind)))
    ∧ (s.sen.busy ≠ none → exec (.culUnbind f v) s = .next (raise s Reg.CUL_CAUSE 11)))
  ∧ (∀ (f : Fin 4) (v : Word) (s : State), HostSees s Reg.CUL_CMD → fld v 31 16 ≠ 0x4355 →
    ∀ c ∈ [Instr.culFence f v, .culUnfence f v, .culBind f v, .culUnbind f v], exec c s = .next (raise s Reg.CUL_CAUSE 11))

/-- Freeze and JTAG (R466, R468, R472 to R475): FREEZE_N of 50 ns, the host's code and the JTAG command freeze a running device, and a trigger before ROM_DONE
is held; a pulse below 20 ns and a trigger while frozen have no effect; THAW needs FREEZE_N high; an automatic thaw comes at its time or at the release; each
JTAG instruction selects its register, and any other code the bypass; the readout of n words puts n words out and changes nothing but the instruction,
its word count and its note of what was read. -/
def Obligations.FreezeAndJtagEffects : Prop :=
  (∀ s : State, s.frz.frozen = false → s.pwr.porstLow = false → s.pwr.deep = false → regBit s Reg.GLB_STATUS 0 = true →
    (∀ n, 50 ≤ n →
      ∃ u, u = { s with frz := { s.frz with pinLow := true } }
        ∧ exec (.freezeNAssert n) s = .next (freezeStart u 1 (regBit s Reg.FRZ_CTL 1)))
    ∧ (∀ (f : Fin 4) (v : Word), HostSees s Reg.FRZ_CTL → locked s Reg.FRZ_CTL = false → fld v 31 16 = 0x465A →
      ∀ u, u = regSetFld s Reg.FRZ_CTL 1 1 (fld v 1 1) →
      exec (.frzCtlFreeze f v) s = .next (freezeStart u 2 (regBit u Reg.FRZ_CTL 1))))
  ∧ (∀ (n : Nat) (s : State), n < 20 → exec (.freezeNAssert n) s = .next s)
  ∧ (∀ (n : Nat) (s : State), 50 ≤ n → s.frz.frozen = true →
    exec (.freezeNAssert n) s = .next { s with frz := { s.frz with pinLow := true } })
  ∧ (∀ (n : Nat) (s : State), 50 ≤ n → s.frz.frozen = false → s.pwr.porstLow = false → s.pwr.deep = false → regBit s Reg.GLB_STATUS 0 = false →
    s.frz.trigger = none → exec (.freezeNAssert n) s = .next { s with frz := { s.frz with pinLow := true, trigger := some (1, none) } })
  ∧ (∀ s : State, ∀ u, u = { s with frz := { s.frz with pinLow := false } } →
    (s.frz.frozen = true → s.frz.autoDue = true → exec .freezeNRelease s = .next (thaw u 2))
    ∧ (s.frz.autoDue = false → exec .freezeNRelease s = .next u))
  ∧ (∀ s : State, s.frz.frozen = true → regFld s Reg.FRZ_AUTOTHAW 15 0 ≠ 0 →
    (s.frz.startAt + regFld s Reg.FRZ_AUTOTHAW 15 0 * 1000000 ≤ s.now →
      (s.frz.pinLow = false → exec .autothawExpiry s = .next (thaw s 2))
      ∧ (s.frz.pinLow = true → exec .autothawExpiry s = .next { s with frz := { s.frz with autoDue := true } }))
    ∧ (s.now < s.frz.startAt + regFld s Reg.FRZ_AUTOTHAW 15 0 * 1000000 → exec .autothawExpiry s = .next s))
  ∧ (∀ (v : Word) (s : State), TapAnswers s →
    ∀ u, u = tapSelect (emit s (.jtag 32 (frzCapture s))) .frzCtrl →
    fld (setFld v 3 0 1) 3 0 = 1 ∧ fld (setFld v 3 0 2) 3 0 = 2
    ∧ exec (.jtagFreeze v) s = .next (freezeTrigger u 3 (some (bitOf (setFld v 3 0 1) 4)))
    ∧ (u.frz.frozen = true → u.frz.pinLow = false → exec (.jtagThaw v) s = .next (thaw u 1))
    ∧ (u.frz.frozen = true → u.frz.pinLow = true → exec (.jtagThaw v) s = .next { u with frz := { u.frz with thawBlocked := true } })
    ∧ (u.frz.frozen = false → exec (.jtagThaw v) s = .next u))
  ∧ (∀ s : State, TapAnswers s → s.frz.ir ≠ .highz →
    exec .jtagIdcode s = .next { s with out := .jtag 32 0x19192E6B :: s.out, frz := { s.frz with ir := .idcode } }
    ∧ exec .jtagSamplePreload s = .next { s with frz := { s.frz with ir := .sample } }
    ∧ exec .jtagExtest s = .next { s with frz := { s.frz with ir := .extest } }
    ∧ exec .jtagClamp s = .next { s with out := .jtag 1 0 :: s.out, frz := { s.frz with ir := .clamp } }
    ∧ exec .jtagHighz s = .next ((List.range 64).foldl (fun u n => emit u (.pin n none)) { s with out := .jtag 1 0 :: s.out, frz := { s.frz with ir := .highz } })
    ∧ (∀ c : BitVec 8, c.toNat ∉ [1, 2, 3, 4, 5, 0x20, 0x21, 0x22] →
      exec (.jtagBypass c) s = .next { s with out := .jtag 1 0 :: s.out, frz := { s.frz with ir := .bypass } })
    ∧ exec .tapReset s = .next { s with frz := { s.frz with ir := .idcode, addr := 0, word := 0 } }
    ∧ (frzReads s = true → ∀ v : BitVec 64,
      exec (.jtagFrzAddr v) s = .next { s with frz := { s.frz with ir := .frzAddr, addr := v, word := ((v >>> 16).setWidth 32).toNat } })
    ∧ (frzReads s = false → ∀ v : BitVec 64, exec (.jtagFrzAddr v) s = .next { s with frz := { s.frz with ir := .frzAddr } })
    ∧ (∀ n, ∃ t, exec (.jtagFrzData n) s = .next t ∧ t.out.length = s.out.length + n
      ∧ t = { s with out := t.out, frz := { s.frz with ir := .frzData, word := s.frz.word + (if frzReads s then n else 0), read := t.frz.read } }))

/-- The sentinel (R478 to R483, Table 19-6): each SEN_CMD with its code starts its write, and is refused while one runs, under SEN_LOCK for OP 1, 2 and 5,
and with another code; the write's end carries it out and clears BUSY, outside a freeze with its result; an enabled tamper input that may detect logs and
carries out its actions, of which the clearing of the token is the one shown; VBAT lost leaves nothing, and restored logs it; a read of the counter latches
its high bits. -/
def Obligations.SentinelEffects : Prop :=
  (∀ (f : Fin 4) (v : Word) (s : State), HostSees s Reg.SEN_CMD → fld v 31 16 = 0x534E → s.sen.busy = none →
    (regBit s Reg.SEN_LOCK 0 = false →
      exec (.writeToken f v) s = .next (senStart s (.token (leBytes 32 (regGet256 s Reg.SEN_TOKEN).toNat)))
      ∧ exec (.clearToken f v) s = .next (senStart s .clearToken)
      ∧ exec (.tamperCfg f v) s = .next (senStart s (.tamperCfg (regGet s Reg.SEN_TAMPER_CFG))))
    ∧ exec (.logAck f v) s = .next (senStart s .logAck) ∧ exec (.ackVbat f v) s = .next (senStart s .ackVbat)
    ∧ (regBit s Reg.SEN_LOCK 0 = true → ∀ c ∈ [Instr.writeToken f v, .clearToken f v, .tamperCfg f v],
      exec c s = .next (raise (regSetFld s Reg.SEN_CMD_STAT 1 0 1) Reg.SEN_CAUSE 4)))
  ∧ (∀ (f : Fin 4) (v : Word) (s : State), HostSees s Reg.SEN_CMD → fld v 31 16 ≠ 0x534E → s.sen.busy = none →
    ∀ c ∈ [Instr.writeToken f v, .clearToken f v, .logAck f v, .ackVbat f v, .tamperCfg f v],
      exec c s = .next (raise (regSetFld s Reg.SEN_CMD_STAT 1 0 1) Reg.SEN_CAUSE 4))
  ∧ (∀ (f : Fin 4) (v : Word) (w : SenWrite) (s : State), HostSees s Reg.SEN_CMD → s.sen.busy = some w →
    ∀ c ∈ [Instr.writeToken f v, .clearToken f v, .logAck f v, .ackVbat f v, .tamperCfg f v],
      exec c s = .next (raise (if senOfCul w then regSetFld s Reg.SEN_CMD_STAT 1 0 1 else s) Reg.SEN_CAUSE 4))
  ∧ (∀ (w : SenWrite) (s u : State), senUp s = true → s.pwr.porstLow = false → s.pwr.deep = false → s.sen.busy = some w →
    u = senApply { s with sen := { s.sen with busy := none } } w →
    (u.frz.frozen = false → exec .sentinelWriteDone s = .next (senEnd u (senOfCul w)))
    ∧ (u.frz.frozen = true → ∃ h, h = u.frz.heldSen ||| (if senOfCul w then 0x80000000 else 0x8)
      ∧ exec .sentinelWriteDone s = .next { u with frz := { u.frz with heldSen := h } }))
  ∧ (∀ s : State, s.sen.busy = none → exec .sentinelWriteDone s = .next s)
  ∧ (∀ (n : Fin 2) (s : State), (s.sen.vbat = false ∨ bitOf s.sen.cfg (4 * (2 * n.val)) = false ∨ tamperMay s n = false) →
    exec (.tamperDetect n) s = .next s)
  ∧ (∀ (n : Fin 2) (s : State), s.sen.vbat = true → bitOf s.sen.cfg (4 * (2 * n.val)) = true → tamperMay s n = true →
    bitOf s.sen.cfg (4 * (2 * n.val) + 1) = true → bitOf s.sen.cfg (4 * (2 * n.val) + 2) = false →
    bitOf s.sen.cfg (4 * (2 * n.val) + 3) = false →
    ∃ u v, u = senLog s (1 + n.val) 1
      ∧ v = { u.sen with
          token := zeros 32, detAt := tabSet (fun _ => 0) u.sen.detAt n (u.sen.ticks.toNat + 1), wiped := some (u.sen.ticks.toNat, true, false) }
      ∧ exec (.tamperDetect n) s = .next (senRaise (senShow { u with sen := v }) 0))
  ∧ (∀ s : State,
    exec .vbatLoss s = .next { s with sen := { SenState.fresh with vbat := false, isolated := s.sen.isolated, busy := s.sen.busy } }
    ∧ (s.sen.vbat = true → exec .vbatRestore s = .next s)
    ∧ (s.sen.vbat = false →
      ∃ u, u = { SenState.fresh with isolated := s.sen.isolated, busy := s.sen.busy, vbatLost := true }
        ∧ exec .vbatRestore s = .next (senLog { s with sen := u } 3 0)))
  ∧ (∀ (f : Fin 4) (s : State), HostSees s Reg.SEN_RTC_LO →
    ∃ t, t = { s with rdata := s.sen.ticks.setWidth 64 &&& 0xFFFFFFFF }
      ∧ exec (.senRtcRead f) s = .next (regSet t Reg.SEN_RTC_HI ((s.sen.ticks >>> 32).setWidth 32)))
end

