-- ==== Sys2Proof/Laws/Clock.lean ====
section
/-!
SUPPORT. The clock: what an addition of natural 2⁻³² ns does field by field, the arithmetic of seconds and nanoseconds apart from the machine,
and that telling the twin leaves the clock alone.
-/
namespace Sys2Proof.Machine

/-- An addition of `n` 2⁻³² ns, field by field: `t` is the sum below the second and `w` its whole nanoseconds. -/
theorem clkAdd_nat (c : Clock) (n t w : Nat) (ht : c.ns.toNat * 2 ^ 32 + c.frac.toNat + n = t) (hw : w = t / 2 ^ 32) :
    clkAdd c (n : Int) = { c with
      sec := c.sec + BitVec.ofNat 48 (w / 1000000000), ns := BitVec.ofNat 30 (w % 1000000000), frac := BitVec.ofNat 32 t
      ns32 := c.ns32 + BitVec.ofNat 32 (w - c.ns.toNat) } := by
  subst hw
  have e : ((c.ns.toNat * 2 ^ 32 + c.frac.toNat : Nat) : Int) + (n : Int) = ((t : Nat) : Int) := by rw [← ht]; push_cast; ring
  have hle : c.ns.toNat ≤ t / 2 ^ 32 := by have := c.frac.isLt; omega
  have e1 : ((t : Nat) : Int) / 2 ^ 32 = ((t / 2 ^ 32 : Nat) : Int) := by norm_cast
  have e2 : (((t / 2 ^ 32 : Nat) : Int)) / 1000000000 = ((t / 2 ^ 32 / 1000000000 : Nat) : Int) := by norm_cast
  have e3 : ((((t / 2 ^ 32 : Nat) : Int)) % 1000000000).toNat = t / 2 ^ 32 % 1000000000 := by norm_cast
  have e4 : (((t : Nat) : Int) % 2 ^ 32).toNat = t % 2 ^ 32 := by norm_cast
  have e5 : (((t / 2 ^ 32 : Nat) : Int)) - (c.ns.toNat : Int) = ((t / 2 ^ 32 - c.ns.toNat : Nat) : Int) := by omega
  simp only [clkAdd, e, e1, e2, e3, e4, e5, BitVec.ofInt_natCast]
  congr 1
  apply BitVec.eq_of_toNat_eq; simp

/-- The time in 2⁻³² ns after such an addition, modulo the range of SEC. -/
theorem time_after_add (sec ns frac n t w : Nat) (_ : sec < 2 ^ 48) (_ : ns < 1000000000) (_ : frac < 2 ^ 32)
    (d : ns * 2 ^ 32 + frac + n = t) (e : w = t / 2 ^ 32) :
    ((((sec + w / 1000000000 % 2 ^ 48) % 2 ^ 48) * 1000000000 + w % 1000000000 % 2 ^ 30) * 2 ^ 32 + t % 2 ^ 32) % (2 ^ 48 * 1000000000 * 2 ^ 32)
     = ((sec * 1000000000 + ns) * 2 ^ 32 + frac + n) % (2 ^ 48 * 1000000000 * 2 ^ 32) := by omega

/-- ns32 after such an addition, on naturals. -/
theorem ns32_after_add (sec ns w : Nat) (_ : sec < 2 ^ 48) (_ : ns < 1000000000) (_ : ns ≤ w) :
    ((sec * 1000000000 + ns) % 2 ^ 32 + (w - ns) % 2 ^ 32) % 2 ^ 32
    = ((sec + w / 1000000000 % 2 ^ 48) % 2 ^ 48 * 1000000000 + w % 1000000000 % 2 ^ 30) % 2 ^ 32 := by omega

/-- ns32 stays (SEC × 10⁹ + NS) mod 2³² through such an addition. -/
theorem ns32_kept (sec : BitVec 48) (ns : BitVec 30) (x : Word) (w : Nat) (h : x = BitVec.ofNat 32 (sec.toNat * 1000000000 + ns.toNat))
    (b : ns.toNat < 1000000000) (c : ns.toNat ≤ w) : x + BitVec.ofNat 32 (w - ns.toNat)
     = BitVec.ofNat 32 ((sec + BitVec.ofNat 48 (w / 1000000000)).toNat * 1000000000 + (BitVec.ofNat 30 (w % 1000000000)).toNat) := by
  have hs := sec.isLt
  apply BitVec.eq_of_toNat_eq
  rw [h, BitVec.toNat_add, BitVec.toNat_ofNat, BitVec.toNat_ofNat, BitVec.toNat_ofNat, BitVec.toNat_add, BitVec.toNat_ofNat, BitVec.toNat_ofNat]
  exact ns32_after_add _ _ _ hs b c

/-- The staged fraction has no part in a TIME cycle. -/
theorem clkTick_staged (c : Clock) (v : Word) : clkTick { c with staged := v } = { clkTick c with staged := v } := by
  unfold clkTick; simp only; split <;> rfl

/-- A vector, a cause and a count leave the clock alone. -/
@[simp] theorem msix_clk (s : State) (f v : Nat) : (msix s f v).clk = s.clk := by
  unfold msix
  split
  · split <;> rfl
  · rfl
@[simp] theorem raise_clk (s : State) (c b : Nat) : (raise s c b).clk = s.clk := by
  unfold raise blockIrq
  split
  · rw [msix_clk]; rfl
  · rfl
@[simp] theorem countBy_clk (s : State) (a c b n : Nat) : (countBy s a c b n).clk = s.clk := by
  simp only [countBy]
  split
  · rw [raise_clk]; rfl
  · rfl
@[simp] theorem count_clk (s : State) (a c : Nat) : (count s a c).clk = s.clk := by
  unfold count; rw [countBy_clk]

/-- Sending records to the twin leaves the clock alone. -/
theorem culFlush_clk (s : State) (l : List (Nat × Nat × List Byte)) : (culFlush s l).clk = s.clk := by
  induction l generalizing s with
  | nil => rfl
  | cons r t ih =>
    rw [culFlush]
    split
    · rw [ih]
      split
      · exact count_clk s _ _
      · rfl
    · rfl

/-- The time record leaves the clock alone. -/
@[simp] theorem culTime_clk (s : State) : (culTime s).clk = s.clk := by
  simp only [culTime, culPend]
  split
  · rw [culFlush_clk]
  · rfl

end Sys2Proof.Machine
end

