-- ==== Sys2Proof/Laws/Keeps/Base.lean ====
section
/-!
SUPPORT. The frame of a transformation of the state: it leaves the queue of commands as it was and keeps the invariant. The laws that build
frames: of tables, of the clock, of record updates, conditionals, folds and pairs. The files beside this one apply them to
every operation and meaning of the model.
-/
namespace Sys2Proof.Machine

/-- The state `s` has the queue of the state `o`, and meets the invariant if `o` does. -/
structure Keeps (o s : State) : Prop where
  pending : s.pending = o.pending
  inv : Inv o → Inv s

/-- The same of the state that an option holds. -/
structure KeepsOpt (o : State) (x : Option State) : Prop where
  some : ∀ t, x = some t → Keeps o t

/-- The same of the state that an option holds beside a number. -/
structure KeepsPick (o : State) (x : Option (Nat × State)) : Prop where
  some : ∀ n t, x = some (n, t) → Keeps o t

/-- The same of the state in the answer of a flume operation. -/
inductive KeepsFlume (o : State) {α : Type} : FlumeRes α → Prop where
  | ok (a : α) {s : State} (h : Keeps o s) : KeepsFlume o (.ok a s)
  | stall (code : Nat) {s : State} (h : Keeps o s) : KeepsFlume o (.stall code s)
  | bad (code : Nat) : KeepsFlume o (.bad code)

/-- The answer is a next state, neither a fault nor a refusal, of which the same holds. -/
structure KeepsNext (o : State) (a : Answer) : Prop where
  next : ∃ t, a = .next t ∧ Keeps o t

/-! ### Tables -/

theorem tabWf_lower {α : Type} [DecidableEq α] {d : Nat → α} {t : Tab α} {lo lo' : Nat} (h : tabWf d lo t = true) (hl : lo' ≤ lo) :
    tabWf d lo' t = true := by
  cases t with
  | nil => rfl
  | cons e t =>
    obtain ⟨k, v⟩ := e
    simp only [tabWf, Bool.and_eq_true, decide_eq_true_eq] at h ⊢
    exact ⟨⟨by omega, h.1.2⟩, h.2⟩

/-- Setting an entry keeps the canonical form. -/
theorem tabSet_wf {α : Type} [DecidableEq α] {d : Nat → α} {t : Tab α} {lo i : Nat} {v : α} (h : tabWf d lo t = true) (hi : lo ≤ i) :
    tabWf d lo (tabSet d t i v) = true := by
  induction t generalizing lo with
  | nil =>
    unfold tabSet
    split
    · rfl
    · simp [tabWf, *]
  | cons e t ih =>
    obtain ⟨k, w⟩ := e
    have h' := h
    simp only [tabWf, Bool.and_eq_true, decide_eq_true_eq] at h
    unfold tabSet
    split
    · split
      · exact h'
      · simp only [tabWf, Bool.and_eq_true, decide_eq_true_eq]
        exact ⟨⟨hi, ‹_›⟩, ⟨by omega, h.1.2⟩, h.2⟩
    · split
      · split
        · exact tabWf_lower h.2 (by omega)
        · simp only [tabWf, Bool.and_eq_true, decide_eq_true_eq]
          subst_vars
          exact ⟨⟨hi, ‹_›⟩, h.2⟩
      · simp only [tabWf, Bool.and_eq_true, decide_eq_true_eq]
        exact ⟨⟨h.1.1, h.1.2⟩, ih h.2 (by omega)⟩

/-- Removing entries keeps the canonical form. -/
theorem filter_wf {α : Type} [DecidableEq α] {d : Nat → α} {t : Tab α} {lo : Nat} {p : Nat × α → Bool} (h : tabWf d lo t = true) :
    tabWf d lo (t.filter p) = true := by
  induction t generalizing lo with
  | nil => rfl
  | cons e t ih =>
    obtain ⟨k, w⟩ := e
    simp only [tabWf, Bool.and_eq_true, decide_eq_true_eq] at h
    rw [List.filter_cons]
    split
    · simp only [tabWf, Bool.and_eq_true, decide_eq_true_eq]
      exact ⟨h.1, ih h.2⟩
    · exact ih (tabWf_lower h.2 (by omega))

/-! ### The clock -/

/-- The fields of the clock that ClockOk reads. -/
structure ClockEq (c d : Clock) : Prop where
  sec : c.sec = d.sec
  ns : c.ns = d.ns
  ns32 : c.ns32 = d.ns32
  held : c.held = d.held

theorem ClockEq.ok {c d : Clock} (e : ClockEq c d) (h : ClockOk d) : ClockOk c :=
  ⟨e.ns ▸ h.ns, by rw [e.ns32, e.sec, e.ns]; exact h.ns32, by rw [e.held]; exact h.held⟩

theorem ofInt_congr {x y k : Int} (h : x = y + 4294967296 * k) : BitVec.ofInt 32 x = BitVec.ofInt 32 y := by
  apply BitVec.eq_of_toInt_eq
  rw [BitVec.toInt_ofInt, BitVec.toInt_ofInt, h]
  simp [Int.bmod_def]

/-- The seconds that a sum carries leave the count of nanoseconds as it is modulo 2³², also where SEC wraps at 2⁴⁸ (R97). -/
theorem ns32_carry (S N : Nat) (w : Int) :
    BitVec.ofNat 32 (S * 1000000000 + N) + BitVec.ofInt 32 (w - N)
      = BitVec.ofNat 32 ((S + (w / 1000000000 % 281474976710656).toNat) % 281474976710656 * 1000000000 + (w % 1000000000).toNat) := by
  have hb : ((w % 1000000000).toNat : Int) = w % 1000000000 := by omega
  have hw := Int.mul_ediv_add_emod w 1000000000
  generalize w / 1000000000 = a at *
  have ha : ((a % 281474976710656).toNat : Int) = a % 281474976710656 := by omega
  obtain ⟨k, hk⟩ : ∃ k : Int, (((S + (a % 281474976710656).toNat) % 281474976710656 : Nat) : Int) = S + a - 281474976710656 * k :=
    ⟨(S + a) / 281474976710656, by push_cast; rw [ha]; omega⟩
  rw [← BitVec.ofInt_natCast, ← BitVec.ofInt_natCast, ← BitVec.ofInt_add]
  apply ofInt_congr (k := 65536 * 1000000000 * k)
  push_cast at hk ⊢
  rw [hk, hb]
  omega

theorem clkAdd_ok {c : Clock} (h : ClockOk c) (delta : Int) : ClockOk (clkAdd c delta) := by
  refine ⟨?_, ?_, h.held⟩
  · simp only [clkAdd, BitVec.toNat_ofNat]
    omega
  · simp only [clkAdd, BitVec.toNat_ofNat, BitVec.toNat_add, BitVec.toNat_ofInt]
    rw [h.ns32]
    generalize ((c.ns.toNat * 2 ^ 32 + c.frac.toNat : Nat) + delta) / (2 ^ 32 : Int) = w
    rw [Nat.mod_eq_of_lt (a := (w % 1000000000).toNat) (by omega)]
    exact ns32_carry c.sec.toNat c.ns.toNat w

theorem clkSet_ok {c : Clock} (h : ClockOk c) (sec : BitVec 48) {ns : Nat} (hn : ns ≤ 999999999) : ClockOk (clkSet c sec ns) := by
  refine ⟨?_, ?_, h.held⟩
  · simp only [clkSet, BitVec.toNat_ofNat]
    omega
  · simp only [clkSet, BitVec.toNat_ofNat]
    rw [Nat.mod_eq_of_lt (by omega)]

theorem slewStop_eq (c : Clock) : ClockEq (slewStop c) c := by
  unfold slewStop
  split
  · exact ⟨rfl, rfl, rfl, rfl⟩
  · split <;> exact ⟨rfl, rfl, rfl, rfl⟩

theorem slewStop_ok {c : Clock} (h : ClockOk c) : ClockOk (slewStop c) := (slewStop_eq c).ok h

/-- A stopped slew with another slew, loss, wait or list of held commands put in. -/
theorem slewStop_with_ok {c : Clock} (h : ClockOk c) {w : Option Slew} {x : Word} {n : Nat} {l : List HeldClk} (hl : ∀ x ∈ l, HeldOk x) :
    ClockOk { slewStop c with slew := w, lost := x, held := l, wait := n } :=
  ⟨(slewStop_ok h).ns, (slewStop_ok h).ns32, hl⟩

theorem clkTick_ok {c : Clock} (h : ClockOk c) : ClockOk (clkTick c) := by
  unfold clkTick
  split
  · exact clkAdd_ok h _
  · apply clkAdd_ok
    exact ClockEq.ok (d := c) ⟨rfl, rfl, rfl, rfl⟩ h

variable {o s t : State}

/-! ### Record updates -/

/-- A state keeps itself. -/
theorem Keeps.refl (s : State) : Keeps s s := ⟨rfl, id⟩

theorem keeps_of_eq (h : Keeps o s) (hp : t.pending = s.pending) (hr : t.regs = s.regs) (hm : t.tnk.mem = s.tnk.mem)
    (hc : ClockEq t.clk s.clk) : Keeps o t :=
  ⟨hp.trans h.pending, fun i => ⟨by rw [hr]; exact (h.inv i).regs, by rw [hm]; exact (h.inv i).mem, hc.ok (h.inv i).clock⟩⟩

/-- A state built field by field keeps what the state keeps from which it takes the queue, the registers, tank memory and the clock. -/
theorem keeps_mk
    {x_pending : List Instr} {x_regs : Tab Word} {x_now : Nat} {x_run : Nat} {x_freeCtr : Nat} {x_rdata : BitVec 64}
    {x_out : List Out} {x_arch : ArchState} {x_fuses : Fuses} {x_img : ImgState} {x_pwr : PwrState} {x_trk : TrickleState}
    {x_clk : Clock} {x_cntHi : Tab Nat} {x_prt : Tab PortX} {x_cis : CisState} {x_slu : SluState} {x_fur : FurState}
    {x_cnf : CnfState} {x_pub : PubState} {x_hdg : HdgState} {x_krn : KrnState} {x_rdr : RdrState} {x_tnk : TankState}
    {x_mbx : Tab MbxChan} {x_flm : FlmState} {x_hst : HstState} {x_cul : CulState} {x_frz : FrzState} {x_sen : SenState}
    (h : Keeps o s) (hp : x_pending = s.pending) (hr : x_regs = s.regs) (hm : x_tnk.mem = s.tnk.mem) (hc : ClockEq x_clk s.clk) :
    Keeps o (State.mk
      x_pending x_regs x_now x_run x_freeCtr x_rdata x_out x_arch x_fuses x_img x_pwr x_trk x_clk x_cntHi x_prt x_cis x_slu x_fur
      x_cnf x_pub x_hdg x_krn x_rdr x_tnk x_mbx x_flm x_hst x_cul x_frz x_sen) :=
  keeps_of_eq h hp hr hm hc

/-- The state with a clock that stays consistent. -/
theorem keeps_clk (h : Keeps o s) {c : Clock} (hc : Inv o → ClockOk c) : Keeps o { s with clk := c } :=
  ⟨h.pending, fun i => ⟨(h.inv i).regs, (h.inv i).mem, hc i⟩⟩

/-- A byte stored in tank memory. -/
theorem keeps_mem (h : Keeps o s) (x : Nat) (b : Byte) :
    Keeps o { s with tnk := { s.tnk with mem := tabSet (fun _ => 0) s.tnk.mem x b } } :=
  ⟨h.pending, fun i => ⟨(h.inv i).regs, tabSet_wf (h.inv i).mem (Nat.zero_le _), (h.inv i).clock⟩⟩

theorem regSet_keeps (s : State) (a : Nat) (w : Word) (h : Keeps o s) : Keeps o (regSet s a w) :=
  ⟨h.pending, fun i => ⟨tabSet_wf (h.inv i).regs (Nat.zero_le _), (h.inv i).mem, (h.inv i).clock⟩⟩

theorem regClear_keeps (s : State) (keep : Nat → Bool) (h : Keeps o s) : Keeps o (regClear s keep) :=
  ⟨h.pending, fun i => ⟨filter_wf (h.inv i).regs, (h.inv i).mem, (h.inv i).clock⟩⟩

/-! ### Conditionals -/

theorem keeps_ite {c : Prop} [Decidable c] {a b : State} (ha : Keeps o a) (hb : Keeps o b) : Keeps o (if c then a else b) := by
  split <;> assumption

theorem keeps_ite_snd {α : Type} {c : Prop} [Decidable c] {a b : α × State} (ha : Keeps o a.2) (hb : Keeps o b.2) :
    Keeps o (ite c a b).2 := by
  split <;> assumption

theorem keeps_ite_snd_snd {α β : Type} {c : Prop} [Decidable c] {a b : α × β × State} (ha : Keeps o a.2.2) (hb : Keeps o b.2.2) :
    Keeps o (ite c a b).2.2 := by
  split <;> assumption

theorem keepsOpt_ite {c : Prop} [Decidable c] {a b : Option State} (ha : KeepsOpt o a) (hb : KeepsOpt o b) :
    KeepsOpt o (if c then a else b) := by
  split <;> assumption

theorem keepsPick_ite {c : Prop} [Decidable c] {a b : Option (Nat × State)} (ha : KeepsPick o a) (hb : KeepsPick o b) :
    KeepsPick o (if c then a else b) := by
  split <;> assumption

theorem keepsFlume_ite {α : Type} {c : Prop} [Decidable c] {a b : FlumeRes α} (ha : KeepsFlume o a) (hb : KeepsFlume o b) :
    KeepsFlume o (if c then a else b) := by
  split <;> assumption

theorem keepsNext_ite {c : Prop} [Decidable c] {a b : Answer} (ha : KeepsNext o a) (hb : KeepsNext o b) :
    KeepsNext o (if c then a else b) := by
  split <;> assumption

/-! ### Options, flume answers and answers -/

theorem keepsOpt_none : KeepsOpt o none := ⟨fun _ h => nomatch h⟩

theorem keepsOpt_some (h : Keeps o s) : KeepsOpt o (some s) := ⟨fun _ e => Option.some.inj e ▸ h⟩

theorem keepsOpt_findSome {α : Type} {f : α → Option State} {l : List α} (h : ∀ a, KeepsOpt o (f a)) : KeepsOpt o (l.findSome? f) := by
  induction l with
  | nil => exact keepsOpt_none
  | cons a l ih =>
    rw [List.findSome?_cons]
    split
    · rename_i b hb
      exact hb ▸ h a
    · exact ih

theorem keepsPick_none : KeepsPick o none := ⟨fun _ _ h => nomatch h⟩

theorem keepsPick_some {n : Nat} (h : Keeps o s) : KeepsPick o (some (n, s)) :=
  ⟨fun _ _ e => (Prod.mk.inj (Option.some.inj e)).2 ▸ h⟩

theorem keepsNext_next (h : Keeps o s) : KeepsNext o (.next s) := ⟨s, rfl, h⟩

/-! ### What a match binds -/

theorem keeps_of_pair {α : Type} {e : α × State} {a : α} (he : e = (a, t)) (h : Keeps o e.2) : Keeps o t := by
  subst he
  exact h

theorem keeps_of_triple {α β : Type} {e : α × β × State} {a : α} {b : β} (he : e = (a, b, t)) (h : Keeps o e.2.2) : Keeps o t := by
  subst he
  exact h

theorem keeps_of_some {e : Option State} (he : e = some t) (h : KeepsOpt o e) : Keeps o t := h.some t he

theorem keeps_of_pick {e : Option (Nat × State)} {n : Nat} (he : e = some (n, t)) (h : KeepsPick o e) : Keeps o t := h.some n t he

theorem keeps_of_ok {α : Type} {e : FlumeRes α} {a : α} (he : e = .ok a t) (h : KeepsFlume o e) : Keeps o t := by
  subst he
  cases h
  assumption

theorem keeps_of_stall {α : Type} {e : FlumeRes α} {c : Nat} (he : e = .stall c t) (h : KeepsFlume o e) : Keeps o t := by
  subst he
  cases h
  assumption

/-! ### Folds -/

theorem keeps_fold {α : Type} {f : State → α → State} (hf : ∀ s a, Keeps o s → Keeps o (f s a)) {l : List α} {s : State}
    (h : Keeps o s) : Keeps o (l.foldl f s) := by
  induction l generalizing s with
  | nil => exact h
  | cons a l ih => exact ih (hf s a h)

theorem keeps_fold_snd {α β : Type} {f : β × State → α → β × State} (hf : ∀ r a, Keeps o r.2 → Keeps o (f r a).2) {l : List α}
    {r : β × State} (h : Keeps o r.2) : Keeps o (l.foldl f r).2 := by
  induction l generalizing r with
  | nil => exact h
  | cons a l ih => exact ih (hf r a h)

end Sys2Proof.Machine
end

