-- ==== Sys2Proof/Laws/Keeps/Shared.lean ====
section
/-!
SUPPORT. Every transformation of the state in Machine/Ops.lean, Machine/Sections.lean, Machine/Frames.lean,
Machine/Cells.lean, Machine/CulBase.lean, Machine/Power.lean leaves the queue as it was and keeps the invariant.
-/
namespace Sys2Proof.Machine

variable {o : State}

theorem regSetFld_keeps (s : State) (a) (hi) (lo) (x) (h : Keeps o s) : Keeps o (regSetFld s a hi lo x) := by
  unfold regSetFld
  with_reducible repeat' first | assumption | apply regSet_keeps

theorem emit_keeps (s : State) (x1) (h : Keeps o s) : Keeps o (emit s x1) := by
  unfold emit
  with_reducible repeat' first | assumption | fail_if_no_progress refine keeps_mk ?_ rfl rfl rfl ⟨rfl, rfl, rfl, rfl⟩

theorem fresh_keeps (s : State) (h : Keeps o s) : Keeps o (fresh s).2 := by
  unfold fresh
  with_reducible repeat' first | assumption | fail_if_no_progress refine keeps_mk ?_ rfl rfl rfl ⟨rfl, rfl, rfl, rfl⟩

theorem fnSet_keeps (s : State) (f) (x2) (h : Keeps o s) : Keeps o (fnSet s f x2) := by
  unfold fnSet
  with_reducible repeat' first | assumption | fail_if_no_progress refine keeps_mk ?_ rfl rfl rfl ⟨rfl, rfl, rfl, rfl⟩

theorem msix_keeps (s : State) (f) (v) (h : Keeps o s) : Keeps o (msix s f v) := by
  unfold msix
  with_reducible repeat' first | assumption | apply regSetFld_keeps | apply emit_keeps | refine keeps_ite ?_ ?_

theorem blockIrq_keeps (before) (s : State) (h : Keeps o s) : Keeps o (blockIrq before s) := by
  unfold blockIrq
  with_reducible repeat' first | assumption | apply msix_keeps | refine keeps_ite ?_ ?_

theorem raise_keeps (s : State) (cause) (bit) (h : Keeps o s) : Keeps o (raise s cause bit) := by
  unfold raise
  with_reducible repeat' first | assumption | apply blockIrq_keeps | apply regSet_keeps

theorem countBy_keeps (s : State) (a) (cause) (bit) (n) (h : Keeps o s) : Keeps o (countBy s a cause bit n) := by
  unfold countBy
  with_reducible repeat' first | assumption | apply regSet_keeps | apply raise_keeps | refine keeps_ite ?_ ?_

theorem count_keeps (s : State) (a) (cause) (h : Keeps o s) : Keeps o (count s a cause) := by
  unfold count
  with_reducible repeat' first | assumption | apply countBy_keeps

theorem satInc_keeps (s : State) (a) (hi) (lo) (h : Keeps o s) : Keeps o (satInc s a hi lo) := by
  unfold satInc
  with_reducible repeat' first | assumption | apply regSetFld_keeps | refine keeps_ite ?_ ?_

theorem hostPut_keeps (s : State) (f) (addr) (bytes) (relaxed) (h : Keeps o s) : Keeps o (hostPut s f addr bytes relaxed) := by
  unfold hostPut
  with_reducible repeat' first | assumption | apply emit_keeps | apply count_keeps | refine keeps_ite ?_ ?_

theorem hostWrite_keeps (s : State) (f) (addr) (bytes) (h : Keeps o s) : Keeps o (hostWrite s f addr bytes) := by
  unfold hostWrite
  with_reducible repeat' first | assumption | apply hostPut_keeps

theorem hostOrdered_keeps (s : State) (f) (addr) (bytes) (h : Keeps o s) : Keeps o (hostOrdered s f addr bytes) := by
  unfold hostOrdered
  with_reducible repeat' first | assumption | apply hostPut_keeps

theorem domainOff_keeps (s : State) (f) (a) (h : Keeps o s) : Keeps o (domainOff s f a) := by
  unfold domainOff
  with_reducible repeat'
    first
      | assumption | apply raise_keeps | apply regSet_keeps
      | fail_if_no_progress refine keeps_mk ?_ rfl rfl rfl ⟨rfl, rfl, rfl, rfl⟩

theorem hostAccess_keeps (s : State) (f) (a) (k) (h : Keeps o s) (hk : ∀ y0, Keeps o y0 → Keeps o (k y0)) :
    Keeps o (hostAccess s f a k) := by
  unfold hostAccess
  with_reducible repeat'
    first
      | assumption | apply domainOff_keeps | refine keeps_ite ?_ ?_
      | fail_if_no_progress refine keeps_mk ?_ rfl rfl rfl ⟨rfl, rfl, rfl, rfl⟩ | apply hk

theorem event_keeps (s : State) (k) (h : Keeps o s) (hk : ∀ y0, Keeps o y0 → Keeps o (k y0)) : KeepsNext o (event s k) := by
  unfold event
  with_reducible repeat' first | assumption | refine keeps_ite ?_ ?_ | refine keepsNext_next ?_ | apply hk

theorem hostCmd_keeps (s : State) (f) (a) (k) (h : Keeps o s) (hk : ∀ y0, Keeps o y0 → Keeps o (k y0)) :
    KeepsNext o (hostCmd s f a k) := by
  unfold hostCmd
  with_reducible repeat' first | assumption | apply hostAccess_keeps | refine keepsNext_next ?_

theorem domEvent_keeps (s : State) (d) (k) (h : Keeps o s) (hk : ∀ y0, Keeps o y0 → Keeps o (k y0)) :
    KeepsNext o (domEvent s d k) := by
  unfold domEvent
  with_reducible repeat' first | assumption | apply event_keeps | refine keeps_ite ?_ ?_ | apply hk | intro _ _

theorem tankStoreByte_keeps (s : State) (x) (b) (h : Keeps o s) : Keeps o (tankStoreByte s x b) := by
  unfold tankStoreByte
  have hs := keeps_mem h x b
  dsimp only
  split
  · exact hs
  · split
    · exact regSet_keeps _ _ _ (keeps_of_eq hs rfl rfl rfl ⟨rfl, rfl, rfl, rfl⟩)
    · exact keeps_of_eq hs rfl rfl rfl ⟨rfl, rfl, rfl, rfl⟩

theorem tankWrite_keeps (s : State) (x) (x2) (h : Keeps o s) : Keeps o (tankWrite s x x2) := by
  fun_induction tankWrite s x x2 <;> (with_reducible repeat' first | assumption | apply tankStoreByte_keeps | apply_assumption)

theorem tankNote_keeps (s : State) (m) (x) (h : Keeps o s) : Keeps o (tankNote s m x) := by
  unfold tankNote
  with_reducible repeat' first | assumption | fail_if_no_progress refine keeps_mk ?_ rfl rfl rfl ⟨rfl, rfl, rfl, rfl⟩

theorem tankRefuse_keeps (s : State) (m) (off) (h : Keeps o s) : Keeps o (tankRefuse s m off) := by
  unfold tankRefuse
  with_reducible repeat' first | assumption | apply count_keeps | apply regSet_keeps | apply raise_keeps

theorem tankAccess_keeps (s : State) (m) (x) (op) (n) (bytes) (h : Keeps o s) : Keeps o (tankAccess s m x op n bytes).2 := by
  unfold tankAccess
  with_reducible repeat'
    first
      | assumption | apply tankRefuse_keeps | apply tankWrite_keeps | apply tankNote_keeps | refine keeps_ite_snd ?_ ?_
      | split

theorem lockFree_keeps (s : State) (i) (h : Keeps o s) : Keeps o (lockFree s i) := by
  unfold lockFree
  with_reducible repeat' first | assumption | apply regSet_keeps

theorem lockEvent_keeps (s : State) (i) (m) (bit) (h : Keeps o s) : Keeps o (lockEvent s i m bit) := by
  unfold lockEvent
  with_reducible repeat' first | assumption | apply raise_keeps | apply regSet_keeps

theorem locksReclaim_keeps (s : State) (m) (h : Keeps o s) : Keeps o (locksReclaim s m) := by
  unfold locksReclaim
  with_reducible repeat'
    first
      | assumption | apply lockEvent_keeps | apply lockFree_keeps | split | dsimp only | refine keeps_fold ?_ ?_

theorem lockRead_keeps (s : State) (m) (i) (h : Keeps o s) : Keeps o (lockRead s m i).2 := by
  unfold lockRead
  with_reducible repeat' first | assumption | apply regSet_keeps | refine keeps_ite_snd ?_ ?_

theorem lockWrite_keeps (s : State) (m) (i) (h : Keeps o s) : Keeps o (lockWrite s m i) := by
  unfold lockWrite
  with_reducible repeat'
    first
      | assumption | apply lockFree_keeps | apply lockEvent_keeps | apply count_keeps | refine keeps_ite ?_ ?_

theorem imgRaise_keeps (s : State) (bit) (h : Keeps o s) : Keeps o (imgRaise s bit) := by
  unfold imgRaise
  with_reducible repeat' first | assumption | apply raise_keeps

theorem swapShow_keeps (s : State) (h : Keeps o s) : Keeps o (swapShow s) := by
  unfold swapShow
  with_reducible repeat' first | assumption | apply regSet_keeps

theorem swapSettle_keeps (s : State) (h : Keeps o s) : Keeps o (swapSettle s) := by
  unfold swapSettle
  with_reducible repeat'
    first
      | assumption | apply swapShow_keeps | apply imgRaise_keeps | apply regSetFld_keeps | refine keeps_ite ?_ ?_
      | fail_if_no_progress refine keeps_mk ?_ rfl rfl rfl ⟨rfl, rfl, rfl, rfl⟩

theorem unitTake_keeps (s : State) (type) (unit) (h : Keeps o s) : Keeps o (unitTake s type unit) := by
  unfold unitTake
  with_reducible repeat' first | assumption | fail_if_no_progress refine keeps_mk ?_ rfl rfl rfl ⟨rfl, rfl, rfl, rfl⟩

theorem freePick_keeps (s : State) (n) (h : Keeps o s) : Keeps o (freePick s n).2 := by
  unfold freePick
  with_reducible repeat' first | assumption | apply fresh_keeps

theorem frameSet_keeps (s : State) (x1) (x) (h : Keeps o s) : Keeps o (frameSet s x1 x) := by
  unfold frameSet
  with_reducible repeat' first | assumption | fail_if_no_progress refine keeps_mk ?_ rfl rfl rfl ⟨rfl, rfl, rfl, rfl⟩

theorem frameMod_keeps (s : State) (x1) (k) (h : Keeps o s) : Keeps o (frameMod s x1 k) := by
  unfold frameMod
  with_reducible repeat' first | assumption | apply frameSet_keeps | split

theorem frameSettle_keeps (s : State) (x1) (h : Keeps o s) : Keeps o (frameSettle s x1) := by
  unfold frameSettle
  with_reducible repeat'
    first
      | assumption | apply frameSet_keeps | apply frameMod_keeps | refine keeps_ite ?_ ?_ | split | dsimp only

theorem refAdd_keeps (s : State) (x1) (h : Keeps o s) : Keeps o (refAdd s x1) := by
  unfold refAdd
  with_reducible repeat' first | assumption | apply frameMod_keeps

theorem refDrop_keeps (s : State) (x1) (h : Keeps o s) : Keeps o (refDrop s x1) := by
  unfold refDrop
  with_reducible repeat' first | assumption | apply frameSettle_keeps | apply frameMod_keeps

theorem frameLetGo_keeps (s : State) (x1) (h : Keeps o s) : Keeps o (frameLetGo s x1) := by
  unfold frameLetGo
  with_reducible repeat' first | assumption | apply frameSettle_keeps | apply frameMod_keeps

theorem pickCell_keeps (s : State) (last) (h : Keeps o s) : Keeps o (pickCell s last).2 := by
  unfold pickCell
  with_reducible repeat'
    first
      | assumption | apply freePick_keeps | fail_if_no_progress refine keeps_mk ?_ rfl rfl rfl ⟨rfl, rfl, rfl, rfl⟩ | split
      | dsimp only

theorem queueSet_keeps (s : State) (q) (l) (h : Keeps o s) : Keeps o (queueSet s q l) := by
  unfold queueSet
  with_reducible repeat' first | assumption | fail_if_no_progress refine keeps_mk ?_ rfl rfl rfl ⟨rfl, rfl, rfl, rfl⟩

theorem cellFor_keeps (s : State) (d) (copy) (last) (h : Keeps o s) : Keeps o (cellFor s d copy last).2 := by
  unfold cellFor
  with_reducible repeat' first | assumption | apply pickCell_keeps | refine keeps_ite_snd ?_ ?_

theorem weirDrop_keeps (s : State) (p) (c) (h : Keeps o s) : Keeps o (weirDrop s p c) := by
  unfold weirDrop
  with_reducible repeat' first | assumption | apply count_keeps

theorem weirCell_keeps (s : State) (x1) (h : Keeps o s) : Keeps o (weirCell s x1) := by
  unfold weirCell
  with_reducible repeat'
    first
      | assumption | apply frameSet_keeps | apply weirDrop_keeps | refine keeps_ite ?_ ?_ | split | dsimp only
      | refine keeps_fold ?_ ?_ | intro _ _ _

theorem cellTake_keeps (s : State) (x1) (h : Keeps o s) : Keeps o (cellTake s x1) := by
  unfold cellTake
  with_reducible repeat'
    first
      | assumption | apply cellFor_keeps | apply frameMod_keeps | apply weirDrop_keeps | refine keeps_ite ?_ ?_ | split
      | dsimp only | refine keeps_fold ?_ ?_ | intro _ _ _

theorem chargesRelease_keeps (s : State) (x1) (h : Keeps o s) : Keeps o (chargesRelease s x1) := by
  unfold chargesRelease
  with_reducible repeat' first | assumption | apply frameMod_keeps

theorem weirCells_keeps (s : State) (x1) (x2) (h : Keeps o s) : Keeps o (weirCells s x1 x2) := by
  fun_induction weirCells s x1 x2 <;> (with_reducible repeat'
    first
      | assumption | apply cellTake_keeps | apply frameMod_keeps | apply weirCell_keeps | refine keeps_ite ?_ ?_
      | apply_assumption)

theorem culCount_keeps (s : State) (k) (h : Keeps o s) : Keeps o (culCount s k) := by
  unfold culCount
  with_reducible repeat' first | assumption | apply count_keeps

theorem culFlush_keeps (s : State) (x1) (h : Keeps o s) : Keeps o (culFlush s x1) := by
  fun_induction culFlush s x1 <;> (with_reducible repeat'
    first
      | assumption | apply culCount_keeps | apply emit_keeps | refine keeps_ite ?_ ?_
      | fail_if_no_progress refine keeps_mk ?_ rfl rfl rfl ⟨rfl, rfl, rfl, rfl⟩ | dsimp only | apply_assumption)

theorem culPend_keeps (s : State) (cls) (index) (payload) (h : Keeps o s) : Keeps o (culPend s cls index payload) := by
  unfold culPend
  with_reducible repeat' first | assumption | apply culFlush_keeps | refine keeps_ite ?_ ?_

theorem culTime_keeps (s : State) (h : Keeps o s) : Keeps o (culTime s) := by
  unfold culTime
  with_reducible repeat'
    first
      | assumption | apply culPend_keeps | fail_if_no_progress refine keeps_mk ?_ rfl rfl rfl ⟨rfl, rfl, rfl, rfl⟩

theorem mirrorRefuse_keeps (s : State) (h : Keeps o s) : Keeps o (mirrorRefuse s) := by
  unfold mirrorRefuse
  with_reducible repeat'
    first
      | assumption | apply culCount_keeps | apply regSetFld_keeps | refine keeps_ite ?_ ?_
      | fail_if_no_progress refine keeps_mk ?_ rfl rfl rfl ⟨rfl, rfl, rfl, rfl⟩

theorem pwrRefuse_keeps (s : State) (d) (h : Keeps o s) : Keeps o (pwrRefuse s d) := by
  unfold pwrRefuse
  with_reducible repeat' first | assumption | apply raise_keeps | apply regSet_keeps

theorem startOn_keeps (s : State) (d) (h : Keeps o s) : Keeps o (startOn s d) := by
  unfold startOn
  with_reducible repeat' first | assumption | apply satInc_keeps | apply regSetFld_keeps

theorem startOff_keeps (s : State) (d) (h : Keeps o s) : Keeps o (startOff s d) := by
  unfold startOff
  with_reducible repeat' first | assumption | apply regSetFld_keeps

theorem idleRestart_keeps (s : State) (d) (h : Keeps o s) : Keeps o (idleRestart s d) := by
  unfold idleRestart
  with_reducible repeat'
    first
      | assumption | refine keeps_ite ?_ ?_ | fail_if_no_progress refine keeps_mk ?_ rfl rfl rfl ⟨rfl, rfl, rfl, rfl⟩

theorem domPend_keeps (s : State) (d) (on) (h : Keeps o s) : Keeps o (domPend s d on) := by
  unfold domPend
  with_reducible repeat'
    first
      | assumption | apply regSetFld_keeps | fail_if_no_progress refine keeps_mk ?_ rfl rfl rfl ⟨rfl, rfl, rfl, rfl⟩

theorem domOn1_keeps (s : State) (d) (h : Keeps o s) : Keeps o (domOn1 s d) := by
  unfold domOn1
  with_reducible repeat'
    first
      | assumption | apply idleRestart_keeps | apply regSetFld_keeps | apply domPend_keeps | apply startOn_keeps
      | refine keeps_ite ?_ ?_ | fail_if_no_progress refine keeps_mk ?_ rfl rfl rfl ⟨rfl, rfl, rfl, rfl⟩

theorem domOff1_keeps (s : State) (d) (h : Keeps o s) : Keeps o (domOff1 s d) := by
  unfold domOff1
  with_reducible repeat'
    first
      | assumption | apply idleRestart_keeps | apply domPend_keeps | apply startOff_keeps | refine keeps_ite ?_ ?_
      | fail_if_no_progress refine keeps_mk ?_ rfl rfl rfl ⟨rfl, rfl, rfl, rfl⟩

theorem domRequest_keeps (s : State) (d) (on) (h : Keeps o s) : Keeps o (domRequest s d on) := by
  unfold domRequest
  with_reducible repeat' first | assumption | apply domOn1_keeps | apply domOff1_keeps | refine keeps_ite ?_ ?_

theorem domOnRequest_keeps (s : State) (d) (h : Keeps o s) : Keeps o (domOnRequest s d) := by
  unfold domOnRequest
  with_reducible repeat' first | assumption | apply pwrRefuse_keeps | apply domRequest_keeps | refine keeps_ite ?_ ?_

theorem domOffRequest_keeps (s : State) (d) (h : Keeps o s) : Keeps o (domOffRequest s d) := by
  unfold domOffRequest
  with_reducible repeat' first | assumption | apply domRequest_keeps | refine keeps_ite ?_ ?_

end Sys2Proof.Machine
end

