-- ==== Sys2Proof/Laws/Keeps/Contexts.lean ====
section
/-!
SUPPORT. Every transformation of the state in Machine/RiderOps.lean, Machine/Engine.lean, Machine/Event.lean,
Machine/Completion.lean leaves the queue as it was and keeps the invariant.
-/
namespace Sys2Proof.Machine

variable {o : State}

theorem engSet_keeps (s : State) (e) (x) (h : Keeps o s) : Keeps o (engSet s e x) := by
  unfold engSet
  with_reducible repeat' first | assumption | fail_if_no_progress refine keeps_mk ?_ rfl rfl rfl ⟨rfl, rfl, rfl, rfl⟩

theorem thrSet_keeps (s : State) (e) (t) (x) (h : Keeps o s) : Keeps o (thrSet s e t x) := by
  unfold thrSet
  with_reducible repeat' first | assumption | apply engSet_keeps

theorem krnCount_keeps (s : State) (e) (k) (h : Keeps o s) : Keeps o (krnCount s e k) := by
  unfold krnCount
  with_reducible repeat' first | assumption | apply count_keeps

theorem krnRaise_keeps (s : State) (e) (t) (bit) (h : Keeps o s) : Keeps o (krnRaise s e t bit) := by
  unfold krnRaise
  with_reducible repeat' first | assumption | apply raise_keeps | apply regSet_keeps

theorem regHigh_keeps (s : State) (a) (hi) (lo) (v) (h : Keeps o s) : Keeps o (regHigh s a hi lo v) := by
  unfold regHigh
  with_reducible repeat' first | assumption | apply regSetFld_keeps | refine keeps_ite ?_ ?_

theorem ringWrite_keeps (s : State) (f) (base) (log) (size) (seq) (word) (rest) (h : Keeps o s) :
    Keeps o (ringWrite s f base log size seq word rest) := by
  unfold ringWrite
  with_reducible repeat' first | assumption | apply hostOrdered_keeps | apply hostWrite_keeps

theorem ctxSet_keeps (s : State) (c) (x) (h : Keeps o s) : Keeps o (ctxSet s c x) := by
  unfold ctxSet
  with_reducible repeat' first | assumption | fail_if_no_progress refine keeps_mk ?_ rfl rfl rfl ⟨rfl, rfl, rfl, rfl⟩

theorem ctxMod_keeps (s : State) (c) (k) (h : Keeps o s) : Keeps o (ctxMod s c k) := by
  unfold ctxMod
  with_reducible repeat' first | assumption | apply ctxSet_keeps

theorem rdrCount_keeps (s : State) (k) (h : Keeps o s) : Keeps o (rdrCount s k) := by
  unfold rdrCount
  with_reducible repeat' first | assumption | apply count_keeps

theorem rdrRaise_keeps (s : State) (c) (bit) (h : Keeps o s) : Keeps o (rdrRaise s c bit) := by
  unfold rdrRaise
  with_reducible repeat' first | assumption | apply raise_keeps | apply regSet_keeps

theorem journal_keeps (s : State) (k) (reason) (c) (a) (b) (uFrom) (uTo) (h : Keeps o s) :
    Keeps o (journal s k reason c a b uFrom uTo) := by
  unfold journal
  with_reducible repeat'
    first
      | assumption | apply rdrRaise_keeps | apply rdrCount_keeps | apply ringWrite_keeps | apply regSet_keeps
      | apply msix_keeps | refine keeps_ite ?_ ?_ | fail_if_no_progress refine keeps_mk ?_ rfl rfl rfl ⟨rfl, rfl, rfl, rfl⟩

theorem journalNow_keeps (s : State) (k) (reason) (c) (a) (b) (h : Keeps o s) : Keeps o (journalNow s k reason c a b) := by
  unfold journalNow
  with_reducible repeat' first | assumption | apply journal_keeps

theorem pageOutStart_keeps (s : State) (c) (reason) (h : Keeps o s) : Keeps o (pageOutStart s c reason) := by
  unfold pageOutStart
  with_reducible repeat' first | assumption | apply journalNow_keeps | apply ctxMod_keeps

theorem pageInOne_keeps (s : State) (c) (h : Keeps o s) : Keeps o (pageInOne s c) := by
  unfold pageInOne
  with_reducible repeat'
    first
      | assumption | apply ctxMod_keeps | apply rdrRaise_keeps | apply pageOutStart_keeps | refine keeps_ite ?_ ?_
      | fail_if_no_progress refine keeps_mk ?_ rfl rfl rfl ⟨rfl, rfl, rfl, rfl⟩ | split | dsimp only

theorem pageInStart_keeps (s : State) (l) (h : Keeps o s) : Keeps o (pageInStart s l) := by
  unfold pageInStart
  with_reducible repeat' first | assumption | apply pageInOne_keeps | refine keeps_fold ?_ ?_

theorem pageAhead_keeps (s : State) (x1) (h : Keeps o s) : Keeps o (pageAhead s x1) := by
  fun_induction pageAhead s x1 <;> (with_reducible repeat' first | assumption | apply pageOutStart_keeps | apply_assumption)

theorem pageKick_keeps (s : State) (h : Keeps o s) : Keeps o (pageKick s) := by
  unfold pageKick
  with_reducible repeat' first | assumption | apply pageAhead_keeps | apply pageInStart_keeps | refine keeps_ite ?_ ?_

theorem pageWant_keeps (s : State) (c) (h : Keeps o s) : Keeps o (pageWant s c) := by
  unfold pageWant
  with_reducible repeat'
    first
      | assumption | apply pageKick_keeps | refine keeps_ite ?_ ?_
      | fail_if_no_progress refine keeps_mk ?_ rfl rfl rfl ⟨rfl, rfl, rfl, rfl⟩

theorem timersCancel_keeps (s : State) (e) (c) (h : Keeps o s) : Keeps o (timersCancel s e c) := by
  unfold timersCancel
  with_reducible repeat' first | assumption | apply engSet_keeps

theorem placeWake_keeps (s : State) (e) (h : Keeps o s) : Keeps o (placeWake s e) := by
  unfold placeWake
  with_reducible repeat' first | assumption | apply journalNow_keeps | apply domOnRequest_keeps | refine keeps_ite ?_ ?_

theorem thrCost_keeps (s : State) (e) (t) (n) (h : Keeps o s) : Keeps o (thrCost s e t n) := by
  unfold thrCost
  with_reducible repeat' first | assumption | apply thrSet_keeps

theorem slotTake_keeps (s : State) (e) (t) (h : Keeps o s) : Keeps o (slotTake s e t) := by
  unfold slotTake
  with_reducible repeat' first | assumption | apply engSet_keeps

theorem farDrop_keeps (s : State) (e) (t) (h : Keeps o s) : Keeps o (farDrop s e t) := by
  unfold farDrop
  with_reducible repeat'
    first
      | assumption | apply thrSet_keeps | fail_if_no_progress refine keeps_mk ?_ rfl rfl rfl ⟨rfl, rfl, rfl, rfl⟩

theorem farClear_keeps (s : State) (e) (h : Keeps o s) : Keeps o (farClear s e) := by
  unfold farClear
  with_reducible repeat' first | assumption | fail_if_no_progress refine keeps_mk ?_ rfl rfl rfl ⟨rfl, rfl, rfl, rfl⟩

theorem threadTake_keeps (s : State) (e) (t) (v) (h : Keeps o s) : Keeps o (threadTake s e t v) := by
  unfold threadTake
  with_reducible repeat'
    first
      | assumption | apply thrSet_keeps | apply ctxMod_keeps | apply krnCount_keeps
      | fail_if_no_progress refine keeps_mk ?_ rfl rfl rfl ⟨rfl, rfl, rfl, rfl⟩ | split | dsimp only

theorem krnDispatchN_keeps (e) (x1) (x2 : State) (h : Keeps o x2) : Keeps o (krnDispatchN e x1 x2) := by
  fun_induction krnDispatchN e x1 x2 <;> (with_reducible repeat'
    first
      | assumption | apply threadTake_keeps | apply engSet_keeps | apply_assumption)

theorem krnDispatch_keeps (s : State) (e) (h : Keeps o s) : Keeps o (krnDispatch s e) := by
  unfold krnDispatch
  with_reducible repeat' first | assumption | apply krnDispatchN_keeps | refine keeps_ite ?_ ?_

theorem eventRef_keeps (s : State) (v) (h : Keeps o s) : Keeps o (eventRef s v) := by
  unfold eventRef
  with_reducible repeat' first | assumption | apply refAdd_keeps | refine keeps_ite ?_ ?_

theorem queueEvent_keeps (s : State) (e) (v) (h : Keeps o s) : Keeps o (queueEvent s e v) := by
  unfold queueEvent
  with_reducible repeat' first | assumption | apply krnDispatch_keeps | apply regHigh_keeps | apply engSet_keeps

theorem postQueue_keeps (s : State) (e) (v) (h : Keeps o s) : Keeps o (postQueue s e v).2 := by
  unfold postQueue
  with_reducible repeat' first | assumption | apply queueEvent_keeps | apply eventRef_keeps | refine keeps_ite_snd ?_ ?_

theorem postHold_keeps (s : State) (c) (v) (h : Keeps o s) : Keeps o (postHold s c v).2 := by
  unfold postHold
  with_reducible repeat'
    first
      | assumption | apply eventRef_keeps | apply rdrCount_keeps | refine keeps_ite_snd ?_ ?_
      | fail_if_no_progress refine keeps_mk ?_ rfl rfl rfl ⟨rfl, rfl, rfl, rfl⟩

theorem withFirst_keeps (s : State) (c) (v) (h : Keeps o s) : Keeps o (withFirst s c v).2 := by
  unfold withFirst
  with_reducible repeat' first | assumption | apply ctxMod_keeps | refine keeps_ite_snd ?_ ?_

theorem postContext_keeps (s : State) (c) (v) (h : Keeps o s) : Keeps o (postContext s c v).2 := by
  unfold postContext
  with_reducible repeat'
    first
      | assumption | apply postHold_keeps | apply withFirst_keeps | apply postQueue_keeps | apply pageWant_keeps
      | apply rdrCount_keeps | refine keeps_ite_snd ?_ ?_ | split | dsimp only | refine keeps_of_pair (by assumption) ?_

theorem post_keeps (s : State) (e) (v) (h : Keeps o s) : Keeps o (post s e v).2 := by
  unfold post
  with_reducible repeat' first | assumption | apply postContext_keeps | apply postQueue_keeps | split

theorem postOwn_keeps (s : State) (e) (v) (h : Keeps o s) : Keeps o (postOwn s e v) := by
  unfold postOwn
  with_reducible repeat'
    first
      | assumption | apply post_keeps | refine keeps_ite ?_ ?_
      | fail_if_no_progress refine keeps_mk ?_ rfl rfl rfl ⟨rfl, rfl, rfl, rfl⟩ | split
      | refine keeps_of_pair (by assumption) ?_

theorem postWaiting_keeps (s : State) (x1) (h : Keeps o s) : Keeps o (postWaiting s x1) := by
  fun_induction postWaiting s x1 <;> (with_reducible repeat' first | assumption | apply postOwn_keeps | apply_assumption)

theorem postHeld_keeps (s : State) (c) (x2) (h : Keeps o s) : Keeps o (postHeld s c x2) := by
  fun_induction postHeld s c x2 <;> (with_reducible repeat'
    first
      | assumption | apply withFirst_keeps | apply queueEvent_keeps
      | fail_if_no_progress refine keeps_mk ?_ rfl rfl rfl ⟨rfl, rfl, rfl, rfl⟩ | dsimp only | apply_assumption)

theorem holdRelease_keeps (s : State) (c) (h : Keeps o s) : Keeps o (holdRelease s c) := by
  unfold holdRelease
  with_reducible repeat'
    first
      | assumption | apply postHeld_keeps | refine keeps_ite ?_ ?_
      | fail_if_no_progress refine keeps_mk ?_ rfl rfl rfl ⟨rfl, rfl, rfl, rfl⟩

theorem postRoom_keeps (s : State) (h : Keeps o s) : Keeps o (postRoom s) := by
  unfold postRoom
  with_reducible repeat'
    first
      | assumption | apply holdRelease_keeps | apply postWaiting_keeps
      | fail_if_no_progress refine keeps_mk ?_ rfl rfl rfl ⟨rfl, rfl, rfl, rfl⟩ | refine keeps_fold ?_ ?_

theorem eventsDrop_keeps (s : State) (c) (k) (h : Keeps o s) : Keeps o (eventsDrop s c k) := by
  unfold eventsDrop
  with_reducible repeat'
    first
      | assumption | apply engSet_keeps | apply rdrCount_keeps | apply refDrop_keeps | refine keeps_ite ?_ ?_
      | fail_if_no_progress refine keeps_mk ?_ rfl rfl rfl ⟨rfl, rfl, rfl, rfl⟩ | dsimp only | refine keeps_fold ?_ ?_
      | intro _ _ _

theorem postMailbox_keeps (s : State) (e) (c) (h : Keeps o s) : Keeps o (postMailbox s e c) := by
  unfold postMailbox
  with_reducible repeat' first | assumption | apply postOwn_keeps | apply krnCount_keeps

theorem ctxCreate_keeps (s : State) (c) (n) (e) (decl) (reason) (h : Keeps o s) : Keeps o (ctxCreate s c n e decl reason) := by
  unfold ctxCreate
  with_reducible repeat'
    first
      | assumption | apply placeWake_keeps | apply journalNow_keeps | apply rdrCount_keeps | apply ctxSet_keeps

theorem postFresh_keeps (s : State) (e) (h : Keeps o s) : Keeps o (postFresh s e) := by
  unfold postFresh
  with_reducible repeat'
    first
      | assumption | apply postOwn_keeps | apply ctxMod_keeps | refine keeps_ite ?_ ?_ | refine keeps_fold ?_ ?_ | intro _ _ _

theorem timCount_keeps (s : State) (a) (h : Keeps o s) : Keeps o (timCount s a) := by
  unfold timCount
  with_reducible repeat' first | assumption | apply countBy_keeps

theorem ts2Set_keeps (s : State) (g) (l) (h : Keeps o s) : Keeps o (ts2Set s g l) := by
  unfold ts2Set
  with_reducible repeat' first | assumption | fail_if_no_progress refine keeps_mk ?_ rfl rfl rfl ⟨rfl, rfl, rfl, rfl⟩

theorem ts2Free_keeps (s : State) (x) (h : Keeps o s) : Keeps o (ts2Free s x) := by
  unfold ts2Free
  with_reducible repeat' first | assumption | apply ts2Set_keeps | split

theorem ts2Take_keeps (s : State) (p) (tag) (ns32) (frac) (h : Keeps o s) : Keeps o (ts2Take s p tag ns32 frac).2 := by
  unfold ts2Take
  with_reducible repeat'
    first
      | assumption | apply regHigh_keeps | apply ts2Set_keeps | apply raise_keeps | apply timCount_keeps
      | refine keeps_ite_snd ?_ ?_

theorem fcnt_keeps (s : State) (f) (k) (h : Keeps o s) : Keeps o (fcnt s f k) := by
  unfold fcnt
  with_reducible repeat' first | assumption | apply count_keeps

theorem hstRaise_keeps (s : State) (f) (kind) (q) (bit) (h : Keeps o s) : Keeps o (hstRaise s f kind q bit) := by
  unfold hstRaise
  with_reducible repeat' first | assumption | apply raise_keeps | apply regSet_keeps

theorem completionFree_keeps (s : State) (c) (h : Keeps o s) : Keeps o (completionFree s c) := by
  unfold completionFree
  with_reducible repeat' first | assumption | apply ts2Free_keeps | apply refDrop_keeps | split

theorem cqWrite_keeps (s : State) (f) (q) (c) (h : Keeps o s) : Keeps o (cqWrite s f q c) := by
  unfold cqWrite
  with_reducible repeat'
    first
      | assumption | apply hostOrdered_keeps | apply completionFree_keeps | apply regSet_keeps | apply msix_keeps
      | apply fnSet_keeps | refine keeps_ite ?_ ?_

theorem cqHeldSet_keeps (s : State) (f) (q) (l) (h : Keeps o s) : Keeps o (cqHeldSet s f q l) := by
  unfold cqHeldSet
  with_reducible repeat' first | assumption | apply fnSet_keeps

theorem cqDrainFrom_keeps (f) (q) (keep) (x3) (x4 : State) (h : Keeps o x4) : Keeps o (cqDrainFrom f q keep x3 x4) := by
  fun_induction cqDrainFrom f q keep x3 x4 <;> (with_reducible repeat'
    first
      | assumption | apply cqHeldSet_keeps | apply cqWrite_keeps | apply_assumption)

theorem cqDrain_keeps (s : State) (f) (q) (h : Keeps o s) : Keeps o (cqDrain s f q) := by
  unfold cqDrain
  with_reducible repeat' first | assumption | apply cqDrainFrom_keeps

theorem complete_keeps (s : State) (f) (q) (c) (h : Keeps o s) : Keeps o (complete s f q c) := by
  unfold complete
  with_reducible repeat'
    first
      | assumption | apply completionFree_keeps | apply fcnt_keeps | apply cqHeldSet_keeps | apply cqWrite_keeps
      | refine keeps_ite ?_ ?_

theorem txComplete_keeps (s : State) (f) (ring) (index) (flags) (tag) (status) (stamp) (h : Keeps o s) :
    Keeps o (txComplete s f ring index flags tag status stamp) := by
  unfold txComplete
  with_reducible repeat'
    first
      | assumption | apply fcnt_keeps | apply ts2Free_keeps | apply complete_keeps | refine keeps_ite ?_ ?_

theorem sendOutcome_keeps (s : State) (e) (ctx) (flags) (tag) (status) (stamp) (h : Keeps o s) :
    Keeps o (sendOutcome s e ctx flags tag status stamp) := by
  unfold sendOutcome
  with_reducible repeat'
    first
      | assumption | apply krnCount_keeps | refine keeps_ite ?_ ?_
      | fail_if_no_progress refine keeps_mk ?_ rfl rfl rfl ⟨rfl, rfl, rfl, rfl⟩

theorem frameComplete_keeps (s : State) (x1) (status) (stamp) (h : Keeps o s) : Keeps o (frameComplete s x1 status stamp) := by
  unfold frameComplete
  with_reducible repeat'
    first
      | assumption | apply ts2Free_keeps | apply frameSet_keeps | apply txComplete_keeps | apply sendOutcome_keeps
      | refine keeps_ite ?_ ?_ | split

theorem destDecided_keeps (s : State) (x1) (queued) (port) (h : Keeps o s) : Keeps o (destDecided s x1 queued port) := by
  unfold destDecided
  with_reducible repeat' first | assumption | apply frameSet_keeps | apply frameComplete_keeps | refine keeps_ite ?_ ?_ | split

end Sys2Proof.Machine
end

