-- ==== Sys2Proof/Laws/Keeps/Flow.lean ====
section
/-!
SUPPORT. Every transformation of the state in Machine/PortOps.lean, Machine/HeadgateOps.lean, Machine/Ber.lean,
Machine/Clock.lean, Machine/ConfOps.lean, Machine/PubBase.lean, Machine/PubSup.lean, Machine/SwitchOps.lean,
Machine/PubOps.lean, Machine/Confluence.lean leaves the queue as it was and keeps the invariant.
-/
namespace Sys2Proof.Machine

variable {o : State}

theorem portSet_keeps (s : State) (p) (x) (h : Keeps o s) : Keeps o (portSet s p x) := by
  unfold portSet
  with_reducible repeat' first | assumption | fail_if_no_progress refine keeps_mk ?_ rfl rfl rfl ⟨rfl, rfl, rfl, rfl⟩

theorem portRaise_keeps (s : State) (p) (bit) (h : Keeps o s) : Keeps o (portRaise s p bit) := by
  unfold portRaise
  with_reducible repeat' first | assumption | apply raise_keeps

theorem portHalf_keeps (s : State) (p) (n) (h : Keeps o s) : Keeps o (portHalf s p n) := by
  unfold portHalf
  with_reducible repeat' first | assumption | apply portRaise_keeps | apply regSet_keeps

theorem portCount_keeps (s : State) (p) (n) (h : Keeps o s) : Keeps o (portCount s p n) := by
  unfold portCount
  with_reducible repeat' first | assumption | apply regSet_keeps | apply portHalf_keeps | refine keeps_ite ?_ ?_

theorem cntHiSet_keeps (s : State) (a) (v) (h : Keeps o s) : Keeps o (cntHiSet s a v) := by
  unfold cntHiSet
  with_reducible repeat' first | assumption | fail_if_no_progress refine keeps_mk ?_ rfl rfl rfl ⟨rfl, rfl, rfl, rfl⟩

theorem portOctets_keeps (s : State) (p) (n) (k) (h : Keeps o s) : Keeps o (portOctets s p n k) := by
  unfold portOctets
  with_reducible repeat'
    first
      | assumption | apply cntHiSet_keeps | apply regSet_keeps | apply portHalf_keeps | refine keeps_ite ?_ ?_

theorem furPortTo_keeps (s : State) (p) (st) (h : Keeps o s) : Keeps o (furPortTo s p st) := by
  unfold furPortTo
  with_reducible repeat'
    first
      | assumption | apply regSetFld_keeps | refine keeps_ite ?_ ?_
      | fail_if_no_progress refine keeps_mk ?_ rfl rfl rfl ⟨rfl, rfl, rfl, rfl⟩

theorem furLinkUp_keeps (s : State) (p) (h : Keeps o s) : Keeps o (furLinkUp s p) := by
  unfold furLinkUp
  with_reducible repeat'
    first
      | assumption | apply regSetFld_keeps | apply furPortTo_keeps | apply raise_keeps | apply regSet_keeps
      | refine keeps_ite ?_ ?_ | split

theorem furLinkDown_keeps (s : State) (p) (h : Keeps o s) : Keeps o (furLinkDown s p) := by
  unfold furLinkDown
  with_reducible repeat' first | assumption | apply furPortTo_keeps | apply regSetFld_keeps | refine keeps_ite ?_ ?_ | split

theorem queuePut_keeps (s : State) (x1) (p) (h : Keeps o s) : Keeps o (queuePut s x1 p) := by
  unfold queuePut
  with_reducible repeat' first | assumption | apply refAdd_keeps | apply queueSet_keeps | split

theorem destRemove_keeps (s : State) (x1) (p) (h : Keeps o s) : Keeps o (destRemove s x1 p) := by
  unfold destRemove
  with_reducible repeat' first | assumption | apply frameMod_keeps

theorem entryGone_keeps (s : State) (p) (e) (status) (h : Keeps o s) : Keeps o (entryGone s p e status) := by
  unfold entryGone
  with_reducible repeat'
    first
      | assumption | apply refDrop_keeps | apply frameComplete_keeps | apply destRemove_keeps | refine keeps_ite ?_ ?_ | split

theorem calSet_keeps (s : State) (g) (l) (h : Keeps o s) : Keeps o (calSet s g l) := by
  unfold calSet
  with_reducible repeat' first | assumption | fail_if_no_progress refine keeps_mk ?_ rfl rfl rfl ⟨rfl, rfl, rfl, rfl⟩

theorem calRemove_keeps (s : State) (e) (h : Keeps o s) : Keeps o (calRemove s e) := by
  unfold calRemove
  with_reducible repeat' first | assumption | apply calSet_keeps

theorem calGone_keeps (s : State) (e) (status) (h : Keeps o s) : Keeps o (calGone s e status) := by
  unfold calGone
  with_reducible repeat'
    first
      | assumption | apply frameComplete_keeps | apply calRemove_keeps | apply refDrop_keeps | apply destRemove_keeps

theorem calRecheck_keeps (s : State) (h : Keeps o s) : Keeps o (calRecheck s) := by
  unfold calRecheck
  with_reducible repeat'
    first
      | assumption | apply calGone_keeps | apply raise_keeps | apply timCount_keeps | refine keeps_fold ?_ ?_ | intro _ _ _

theorem calEnter_keeps (s : State) (x1) (p) (target) (h : Keeps o s) : Keeps o (calEnter s x1 p target) := by
  unfold calEnter
  with_reducible repeat'
    first
      | assumption | apply destRemove_keeps | apply frameComplete_keeps | apply raise_keeps | apply timCount_keeps
      | apply calSet_keeps | apply regHigh_keeps | apply refAdd_keeps | refine keeps_ite ?_ ?_
      | fail_if_no_progress refine keeps_mk ?_ rfl rfl rfl ⟨rfl, rfl, rfl, rfl⟩

theorem portEmpty_keeps (s : State) (p) (h : Keeps o s) : Keeps o (portEmpty s p) := by
  unfold portEmpty
  with_reducible repeat'
    first
      | assumption | apply entryGone_keeps | apply portCount_keeps | apply queueSet_keeps | apply calGone_keeps | split
      | dsimp only | refine keeps_fold ?_ ?_ | intro _ _ _

theorem portFlush_keeps (s : State) (p) (h : Keeps o s) : Keeps o (portFlush s p) := by
  unfold portFlush
  with_reducible repeat' first | assumption | apply portSet_keeps | apply portEmpty_keeps | apply regSetFld_keeps

theorem loopEnd_keeps (s : State) (p) (cut) (h : Keeps o s) : Keeps o (loopEnd s p cut) := by
  unfold loopEnd
  with_reducible repeat' first | assumption | apply portSet_keeps | refine keeps_ite ?_ ?_

theorem lineFrame_keeps (s : State) (p) (bytes) (cut) (h : Keeps o s) : Keeps o (lineFrame s p bytes cut) := by
  unfold lineFrame
  with_reducible repeat' first | assumption | apply emit_keeps | refine keeps_ite ?_ ?_

theorem txLost_keeps (s : State) (p) (sent) (h : Keeps o s) : Keeps o (txLost s p sent) := by
  unfold txLost
  with_reducible repeat'
    first
      | assumption | apply loopEnd_keeps | apply portSet_keeps | apply portOctets_keeps | apply portCount_keeps
      | apply destRemove_keeps | apply frameComplete_keeps | apply refDrop_keeps | refine keeps_ite ?_ ?_ | split

theorem txAbort_keeps (s : State) (p) (sent) (h : Keeps o s) : Keeps o (txAbort s p sent) := by
  unfold txAbort
  with_reducible repeat' first | assumption | apply txLost_keeps | apply lineFrame_keeps | split

theorem staleDrop_keeps (s : State) (p) (q) (limit) (all) (x5) (h : Keeps o s) : Keeps o (staleDrop s p q limit all x5) := by
  fun_induction staleDrop s p q limit all x5 <;> (with_reducible repeat'
    first
      | assumption | apply queueSet_keeps | apply count_keeps | apply portCount_keeps | apply entryGone_keeps
      | refine keeps_ite ?_ ?_ | apply_assumption)

theorem queueAge_keeps (s : State) (p) (q) (all) (h : Keeps o s) : Keeps o (queueAge s p q all) := by
  unfold queueAge
  with_reducible repeat' first | assumption | apply staleDrop_keeps | refine keeps_ite ?_ ?_

theorem linkUp_keeps (s : State) (p) (h : Keeps o s) : Keeps o (linkUp s p) := by
  unfold linkUp
  with_reducible repeat'
    first
      | assumption | apply regSetFld_keeps | apply portSet_keeps | apply queueAge_keeps | apply raise_keeps
      | apply furLinkUp_keeps | apply portRaise_keeps | refine keeps_ite ?_ ?_
      | fail_if_no_progress refine keeps_mk ?_ rfl rfl rfl ⟨rfl, rfl, rfl, rfl⟩ | split | refine keeps_fold ?_ ?_
      | intro _ _ _

theorem lineEval_keeps (s : State) (p) (h : Keeps o s) : Keeps o (lineEval s p) := by
  unfold lineEval
  with_reducible repeat' first | assumption | apply emit_keeps | apply portSet_keeps | refine keeps_ite ?_ ?_

theorem pcsEval_keeps (s : State) (p) (h : Keeps o s) : Keeps o (pcsEval s p) := by
  unfold pcsEval
  with_reducible repeat'
    first
      | assumption | apply portRaise_keeps | apply regSetFld_keeps | apply lineEval_keeps | apply portSet_keeps
      | refine keeps_ite ?_ ?_

theorem pauseSet_keeps (s : State) (p) (st) (x3) (h : Keeps o s) : Keeps o (pauseSet s p st x3) := by
  unfold pauseSet
  with_reducible repeat' first | assumption | apply portSet_keeps

theorem pauseLoad_keeps (s : State) (p) (st) (quanta) (h : Keeps o s) : Keeps o (pauseLoad s p st quanta) := by
  unfold pauseLoad
  with_reducible repeat' first | assumption | apply pauseSet_keeps | refine keeps_ite ?_ ?_

theorem pauseAsk_keeps (s : State) (p) (st) (stop) (h : Keeps o s) : Keeps o (pauseAsk s p st stop) := by
  unfold pauseAsk
  with_reducible repeat' first | assumption | apply portSet_keeps

theorem pauseTest_keeps (s : State) (p) (st) (cells) (h : Keeps o s) : Keeps o (pauseTest s p st cells) := by
  unfold pauseTest
  with_reducible repeat' first | assumption | apply pauseAsk_keeps | refine keeps_ite ?_ ?_

theorem pauseEval_keeps (s : State) (p) (h : Keeps o s) : Keeps o (pauseEval s p) := by
  unfold pauseEval
  with_reducible repeat'
    first
      | assumption | apply pauseTest_keeps | refine keeps_ite ?_ ?_ | refine keeps_fold ?_ ?_ | intro _ _ _

theorem pauseSweep_keeps (s : State) (h : Keeps o s) : Keeps o (pauseSweep s) := by
  unfold pauseSweep
  with_reducible repeat' first | assumption | apply pauseEval_keeps | refine keeps_fold ?_ ?_

theorem flowEvent_keeps (s : State) (k) (h : Keeps o s) (hk : ∀ y0, Keeps o y0 → Keeps o (k y0)) :
    KeepsNext o (flowEvent s k) := by
  unfold flowEvent
  with_reducible repeat' first | assumption | apply event_keeps | apply pauseSweep_keeps | apply hk | intro _ _

theorem hdgDrop_keeps (s : State) (r) (h : Keeps o s) : Keeps o (hdgDrop s r) := by
  unfold hdgDrop
  with_reducible repeat' first | assumption | apply count_keeps

theorem rsetCount_keeps (s : State) (set) (k) (h : Keeps o s) : Keeps o (rsetCount s set k) := by
  unfold rsetCount
  with_reducible repeat' first | assumption | apply count_keeps

theorem nodeSet_keeps (s : State) (i) (n) (h : Keeps o s) : Keeps o (nodeSet s i n) := by
  unfold nodeSet
  with_reducible repeat' first | assumption | fail_if_no_progress refine keeps_mk ?_ rfl rfl rfl ⟨rfl, rfl, rfl, rfl⟩

theorem nodeFree_keeps (s : State) (h : Keeps o s) : Keeps o (nodeFree s).2 := by
  unfold nodeFree
  with_reducible repeat' first | assumption | apply freePick_keeps | refine keeps_ite_snd ?_ ?_

theorem nodeFull_keeps (s : State) (set) (h : Keeps o s) : Keeps o (nodeFull s set) := by
  unfold nodeFull
  with_reducible repeat' first | assumption | apply raise_keeps | apply rsetCount_keeps

theorem redJudge_keeps (s : State) (x1) (mac) (t) (h : Keeps o s) : Keeps o (redJudge s x1 mac t).2 := by
  unfold redJudge
  with_reducible repeat'
    first
      | assumption | apply nodeFree_keeps | apply nodeFull_keeps | apply nodeSet_keeps | apply rsetCount_keeps
      | refine keeps_ite ?_ ?_ | refine keeps_ite_snd ?_ ?_ | split | dsimp only

theorem redFirm_keeps (s : State) (x1) (mac) (t) (h : Keeps o s) : Keeps o (redFirm s x1 mac t).2 := by
  unfold redFirm
  with_reducible repeat'
    first
      | assumption | apply rsetCount_keeps | apply nodeSet_keeps | refine keeps_ite_snd ?_ ?_ | split | dsimp only

theorem redRestore_keeps (s : State) (x1) (mac) (t) (h : Keeps o s) : Keeps o (redRestore s x1 mac t) := by
  unfold redRestore
  with_reducible repeat' first | assumption | apply nodeSet_keeps | refine keeps_ite ?_ ?_ | split | dsimp only

theorem policerTake_keeps (s : State) (i) (len) (h : Keeps o s) : Keeps o (policerTake s i len).2 := by
  unfold policerTake
  with_reducible repeat'
    first
      | assumption | refine keeps_ite_snd ?_ ?_ | fail_if_no_progress refine keeps_mk ?_ rfl rfl rfl ⟨rfl, rfl, rfl, rfl⟩
      | split

theorem markDrop_keeps (s : State) (x1) (r) (h : Keeps o s) : Keeps o (markDrop s x1 r) := by
  unfold markDrop
  with_reducible repeat' first | assumption | apply frameMod_keeps

theorem stages567_keeps (s : State) (x1) (h : Keeps o s) : Keeps o (stages567 s x1) := by
  unfold stages567
  with_reducible repeat'
    first
      | assumption | apply markDrop_keeps | apply frameSet_keeps | apply policerTake_keeps | refine keeps_ite ?_ ?_ | split
      | dsimp only

theorem stages4567_keeps (s : State) (x1) (h : Keeps o s) : Keeps o (stages4567 s x1) := by
  unfold stages4567
  with_reducible repeat'
    first
      | assumption | apply markDrop_keeps | apply rsetCount_keeps | apply stages567_keeps | apply redJudge_keeps
      | apply frameMod_keeps | refine keeps_ite ?_ ?_ | split | refine keeps_of_pair (by assumption) ?_

theorem headgate_keeps (s : State) (x1) (h : Keeps o s) : Keeps o (headgate s x1) := by
  unfold headgate
  with_reducible repeat'
    first
      | assumption | apply rsetCount_keeps | apply frameSet_keeps | apply markDrop_keeps | apply stages4567_keeps
      | refine keeps_ite ?_ ?_ | split

theorem authStart_keeps (s : State) (x1) (h : Keeps o s) : Keeps o (authStart s x1) := by
  fun_induction authStart s x1 <;> (with_reducible repeat'
    first
      | assumption | fail_if_no_progress refine keeps_mk ?_ rfl rfl rfl ⟨rfl, rfl, rfl, rfl⟩ | dsimp only | apply_assumption)

theorem authEnter_keeps (s : State) (x1) (h : Keeps o s) : Keeps o (authEnter s x1).2 := by
  unfold authEnter
  with_reducible repeat'
    first
      | assumption | apply regHigh_keeps | apply authStart_keeps | refine keeps_ite_snd ?_ ?_
      | fail_if_no_progress refine keeps_mk ?_ rfl rfl rfl ⟨rfl, rfl, rfl, rfl⟩

theorem slewBegin_keeps (s : State) (adj) (rate) (h : Keeps o s) : Keeps o (slewBegin s adj rate) := by
  unfold slewBegin slewStart
  split
  · exact raise_keeps _ _ _ (keeps_clk h (fun i => slewStop_with_ok (h.inv i).clock (slewStop_ok (h.inv i).clock).held))
  · exact keeps_clk h (fun i => slewStop_with_ok (h.inv i).clock (slewStop_ok (h.inv i).clock).held)

theorem heldTake_keeps (s : State) (x1) (h : Keeps o s) (hl : Inv o → ∀ x ∈ x1, HeldOk x) : Keeps o (heldTake s x1) := by
  fun_induction heldTake s x1 with
  | case1 => exact keeps_clk h (fun i => ⟨(h.inv i).clock.ns, (h.inv i).clock.ns32, fun x hx => nomatch hx⟩)
  | case2 s a r t ih => exact ih (slewBegin_keeps _ _ _ h) (fun i x hx => hl i x (List.mem_cons_of_mem _ hx))
  | case3 s y t _ => exact keeps_clk h (fun i => slewStop_with_ok (h.inv i).clock (hl i))

theorem clkHold_keeps (s : State) (x1) (h : Keeps o s) (hx : HeldOk x1) : Keeps o (clkHold s x1) := by
  refine keeps_clk h (fun i => slewStop_with_ok (h.inv i).clock ?_)
  intro y hy
  rcases List.mem_append.mp hy with hy | hy
  · exact (h.inv i).clock.held y hy
  · rwa [List.mem_singleton.mp hy]

theorem disciplined_keeps (s : State) (m) (k) (h : Keeps o s) (hk : ∀ y0, Keeps o y0 → Keeps o (k y0)) :
    Keeps o (disciplined s m k) := by
  unfold disciplined
  with_reducible repeat' first | assumption | apply raise_keeps | apply regSet_keeps | refine keeps_ite ?_ ?_ | apply hk

theorem timWrite_keeps (s : State) (m) (a) (k) (h : Keeps o s) (hk : ∀ y0, Keeps o y0 → Keeps o (k y0)) :
    KeepsNext o (timWrite s m a k) := by
  unfold timWrite
  with_reducible repeat'
    first
      | assumption | apply hostCmd_keeps | apply disciplined_keeps | apply event_keeps | refine keepsNext_ite ?_ ?_
      | intro _ _

theorem raiseTim_keeps (s : State) (bit) (h : Keeps o s) : Keeps o (raiseTim s bit) := by
  unfold raiseTim
  with_reducible repeat'
    first
      | assumption | apply raise_keeps | refine keeps_ite ?_ ?_
      | fail_if_no_progress refine keeps_mk ?_ rfl rfl rfl ⟨rfl, rfl, rfl, rfl⟩

theorem timeEvent_keeps (s : State) (k) (h : Keeps o s) (hk : ∀ y0, Keeps o y0 → Keeps o (k y0)) :
    KeepsNext o (timeEvent s k) := by
  unfold timeEvent
  with_reducible repeat' first | assumption | refine keeps_ite ?_ ?_ | refine keepsNext_next ?_ | apply hk

theorem capture_keeps (s : State) (c) (h : Keeps o s) : Keeps o (capture s c) := by
  unfold capture
  with_reducible repeat'
    first
      | assumption | apply regSet_keeps | apply regSetFld_keeps | apply raiseTim_keeps | refine keeps_ite ?_ ?_

theorem ppsAlign_keeps (s : State) (h : Keeps o s) : Keeps o (ppsAlign s) := by
  unfold ppsAlign
  with_reducible repeat' first | assumption | fail_if_no_progress refine keeps_mk ?_ rfl rfl rfl ⟨rfl, rfl, rfl, rfl⟩

theorem ppsBack_keeps (s : State) (h : Keeps o s) : Keeps o (ppsBack s) := by
  unfold ppsBack
  with_reducible repeat' first | assumption | apply ppsAlign_keeps | refine keeps_ite ?_ ?_

theorem ppsRise_keeps (s : State) (h : Keeps o s) : Keeps o (ppsRise s) := by
  unfold ppsRise
  with_reducible repeat'
    first
      | assumption | apply emit_keeps | refine keeps_ite ?_ ?_
      | fail_if_no_progress refine keeps_mk ?_ rfl rfl rfl ⟨rfl, rfl, rfl, rfl⟩

theorem cmpFire_keeps (s : State) (n) (h : Keeps o s) : Keeps o (cmpFire s n) := by
  unfold cmpFire
  with_reducible repeat'
    first
      | assumption | apply regSetFld_keeps | apply raiseTim_keeps | apply ppsRise_keeps | apply regSet_keeps
      | refine keeps_ite ?_ ?_ | fail_if_no_progress refine keeps_mk ?_ rfl rfl rfl ⟨rfl, rfl, rfl, rfl⟩

theorem cnfStrSet_keeps (s : State) (i) (x) (h : Keeps o s) : Keeps o (cnfStrSet s i x) := by
  unfold cnfStrSet
  with_reducible repeat' first | assumption | fail_if_no_progress refine keeps_mk ?_ rfl rfl rfl ⟨rfl, rfl, rfl, rfl⟩

theorem cnfBasSet_keeps (s : State) (b) (x) (h : Keeps o s) : Keeps o (cnfBasSet s b x) := by
  unfold cnfBasSet
  with_reducible repeat' first | assumption | fail_if_no_progress refine keeps_mk ?_ rfl rfl rfl ⟨rfl, rfl, rfl, rfl⟩

theorem strTo_keeps (s : State) (i) (st) (h : Keeps o s) : Keeps o (strTo s i st) := by
  unfold strTo
  with_reducible repeat' first | assumption | apply regSetFld_keeps

theorem basTo_keeps (s : State) (b) (st) (h : Keeps o s) : Keeps o (basTo s b st) := by
  unfold basTo
  with_reducible repeat' first | assumption | apply regSetFld_keeps

theorem strCountBy_keeps (s : State) (i) (k) (n) (h : Keeps o s) : Keeps o (strCountBy s i k n) := by
  unfold strCountBy
  with_reducible repeat' first | assumption | apply countBy_keeps

theorem strCount_keeps (s : State) (i) (k) (h : Keeps o s) : Keeps o (strCount s i k) := by
  unfold strCount
  with_reducible repeat' first | assumption | apply strCountBy_keeps

theorem cnfRaise_keeps (s : State) (b) (i) (bit) (h : Keeps o s) : Keeps o (cnfRaise s b i bit) := by
  unfold cnfRaise
  with_reducible repeat' first | assumption | apply raise_keeps | apply regSet_keeps

theorem strMark_keeps (s : State) (i) (code) (h : Keeps o s) : Keeps o (strMark s i code) := by
  unfold strMark
  with_reducible repeat' first | assumption | apply cnfStrSet_keeps

theorem cnfHand_keeps (s : State) (l) (h : Keeps o s) : Keeps o (cnfHand s l).2 := by
  unfold cnfHand
  with_reducible repeat'
    first
      | assumption | apply regHigh_keeps | refine keeps_ite_snd ?_ ?_
      | fail_if_no_progress refine keeps_mk ?_ rfl rfl rfl ⟨rfl, rfl, rfl, rfl⟩

theorem strLate_keeps (s : State) (i) (x) (h : Keeps o s) : Keeps o (strLate s i x) := by
  unfold strLate
  with_reducible repeat' first | assumption | apply cnfRaise_keeps | apply strCount_keeps | refine keeps_ite ?_ ?_

theorem strRestart_keeps (s : State) (i) (x) (h : Keeps o s) : Keeps o (strRestart s i x) := by
  unfold strRestart
  with_reducible repeat'
    first
      | assumption | apply cnfRaise_keeps | apply strMark_keeps | apply strLate_keeps | apply cnfStrSet_keeps

theorem strStore_keeps (s : State) (i) (x) (newest) (h : Keeps o s) : Keeps o (strStore s i x newest) := by
  unfold strStore
  with_reducible repeat' first | assumption | apply strLate_keeps | apply cnfStrSet_keeps

theorem strNewest_keeps (s : State) (i) (x) (h : Keeps o s) : Keeps o (strNewest s i x) := by
  unfold strNewest
  with_reducible repeat' first | assumption | apply strCount_keeps | apply regSetFld_keeps | refine keeps_ite ?_ ?_ | split

theorem strClassify_keeps (s : State) (i) (x) (synced) (first) (h : Keeps o s) : Keeps o (strClassify s i x synced first) := by
  unfold strClassify
  with_reducible repeat'
    first
      | assumption | apply strNewest_keeps | apply strLate_keeps | apply cnfStrSet_keeps | apply strRestart_keeps
      | apply strCount_keeps | apply strStore_keeps | apply strCountBy_keeps | refine keeps_ite ?_ ?_ | split | dsimp only

theorem asduRefuse_keeps (s : State) (i) (k) (code) (h : Keeps o s) : Keeps o (asduRefuse s i k code) := by
  unfold asduRefuse
  with_reducible repeat' first | assumption | apply strCount_keeps | apply cnfRaise_keeps | apply strMark_keeps | split

theorem asduIngest_keeps (s : State) (a) (h : Keeps o s) : Keeps o (asduIngest s a) := by
  unfold asduIngest
  with_reducible repeat'
    first
      | assumption | apply asduRefuse_keeps | apply strCount_keeps | apply regSet_keeps | apply strTo_keeps
      | apply cnfStrSet_keeps | apply strClassify_keeps | refine keeps_ite ?_ ?_ | split

theorem basApply_keeps (s : State) (b) (h : Keeps o s) : Keeps o (basApply s b) := by
  unfold basApply
  with_reducible repeat' first | assumption | apply basTo_keeps | apply cnfBasSet_keeps | refine keeps_ite ?_ ?_

theorem basFresh_keeps (s : State) (b) (h : Keeps o s) : Keeps o (basFresh s b) := by
  unfold basFresh
  with_reducible repeat' first | assumption | apply cnfBasSet_keeps

theorem basStop_keeps (s : State) (b) (h : Keeps o s) : Keeps o (basStop s b) := by
  unfold basStop
  with_reducible repeat' first | assumption | apply basTo_keeps | apply cnfBasSet_keeps

theorem cellFill_keeps (s : State) (b) (col) (policy) (stream) (float) (test) (h : Keeps o s) :
    Keeps o (cellFill s b col policy stream float test).2 := by
  unfold cellFill
  with_reducible repeat' first | assumption | apply cnfBasSet_keeps | refine keeps_ite_snd ?_ ?_

theorem cellAt_keeps (s : State) (b) (col) (g) (h : Keeps o s) : Keeps o (cellAt s b col g).2 := by
  unfold cellAt
  with_reducible repeat'
    first
      | assumption | apply cnfBasSet_keeps | apply cellFill_keeps | apply cnfStrSet_keeps | apply count_keeps | split
      | dsimp only

theorem rowCells_keeps (s : State) (b) (g) (col) (x4) (h : Keeps o s) : Keeps o (rowCells s b g col x4).2 := by
  fun_induction rowCells s b g col x4 <;> (with_reducible repeat'
    first
      | assumption | apply cellAt_keeps | dsimp only | apply_assumption)

theorem rowShown_keeps (s : State) (b) (i) (code) (h : Keeps o s) : Keeps o (rowShown s b i code) := by
  unfold rowShown
  with_reducible repeat' first | assumption | apply regSetFld_keeps | apply cnfStrSet_keeps

theorem rowCompute_keeps (s : State) (b) (h : Keeps o s) : Keeps o (rowCompute s b) := by
  unfold rowCompute
  with_reducible repeat'
    first
      | assumption | apply rowCells_keeps | apply rowShown_keeps | apply cnfBasSet_keeps | apply cnfRaise_keeps
      | apply basTo_keeps | refine keeps_ite ?_ ?_ | fail_if_no_progress refine keeps_mk ?_ rfl rfl rfl ⟨rfl, rfl, rfl, rfl⟩
      | split | refine keeps_fold ?_ ?_ | intro _ _ _

theorem rowSignal_keeps (s : State) (b) (h : Keeps o s) : Keeps o (rowSignal s b) := by
  unfold rowSignal
  with_reducible repeat' first | assumption | apply cnfBasSet_keeps | apply msix_keeps | refine keeps_ite ?_ ?_

theorem rowSeal_keeps (s : State) (b) (h : Keeps o s) : Keeps o (rowSeal s b).2 := by
  unfold rowSeal
  with_reducible repeat'
    first
      | assumption | apply cnfBasSet_keeps | apply regSet_keeps | apply regSetFld_keeps | apply cnfRaise_keeps
      | apply count_keeps | apply ringWrite_keeps | apply rowSignal_keeps | refine keeps_ite ?_ ?_
      | refine keeps_ite_snd ?_ ?_ | fail_if_no_progress refine keeps_mk ?_ rfl rfl rfl ⟨rfl, rfl, rfl, rfl⟩ | split
      | dsimp only

theorem gpSet_keeps (s : State) (g) (x) (h : Keeps o s) : Keeps o (gpSet s g x) := by
  unfold gpSet
  with_reducible repeat' first | assumption | fail_if_no_progress refine keeps_mk ?_ rfl rfl rfl ⟨rfl, rfl, rfl, rfl⟩

theorem svSet_keeps (s : State) (v) (l) (h : Keeps o s) : Keeps o (svSet s v l) := by
  unfold svSet
  with_reducible repeat' first | assumption | fail_if_no_progress refine keeps_mk ?_ rfl rfl rfl ⟨rfl, rfl, rfl, rfl⟩

theorem subSet_keeps (s : State) (v) (x) (h : Keeps o s) : Keeps o (subSet s v x) := by
  unfold subSet
  with_reducible repeat' first | assumption | fail_if_no_progress refine keeps_mk ?_ rfl rfl rfl ⟨rfl, rfl, rfl, rfl⟩

theorem subTo_keeps (s : State) (v) (st) (h : Keeps o s) : Keeps o (subTo s v st) := by
  unfold subTo
  with_reducible repeat' first | assumption | apply regSetFld_keeps

theorem gooseLoad_keeps (s : State) (g) (h : Keeps o s) : Keeps o (gooseLoad s g) := by
  unfold gooseLoad
  with_reducible repeat' first | assumption | apply regSetFld_keeps

theorem svLoad_keeps (s : State) (v) (h : Keeps o s) : Keeps o (svLoad s v) := by
  unfold svLoad
  with_reducible repeat' first | assumption | apply regSetFld_keeps

theorem subLoad_keeps (s : State) (v) (h : Keeps o s) : Keeps o (subLoad s v) := by
  unfold subLoad
  with_reducible repeat' first | assumption | apply subTo_keeps | apply regSetFld_keeps

theorem publishApply_keeps (s : State) (u) (was) (h : Keeps o s) : Keeps o (publishApply s u was) := by
  unfold publishApply
  with_reducible repeat'
    first
      | assumption | apply gooseLoad_keeps | apply gpSet_keeps | apply regSet_keeps | apply svLoad_keeps | apply svSet_keeps
      | apply subLoad_keeps | apply subSet_keeps | refine keeps_ite ?_ ?_

theorem gpStop_keeps (s : State) (g) (h : Keeps o s) : Keeps o (gpStop s g) := by
  unfold gpStop
  with_reducible repeat' first | assumption | apply gpSet_keeps | apply regSetFld_keeps

theorem gpStart_keeps (s : State) (g) (h : Keeps o s) : Keeps o (gpStart s g) := by
  unfold gpStart
  with_reducible repeat' first | assumption | apply gpSet_keeps | apply regSetFld_keeps

theorem pubTake_keeps (s : State) (u) (h : Keeps o s) : Keeps o (pubTake s u) := by
  unfold pubTake
  with_reducible repeat'
    first
      | assumption | apply swapSettle_keeps | apply publishApply_keeps | apply unitTake_keeps | refine keeps_ite ?_ ?_

theorem pubCountBy_keeps (s : State) (k) (n) (h : Keeps o s) : Keeps o (pubCountBy s k n) := by
  unfold pubCountBy
  with_reducible repeat' first | assumption | apply countBy_keeps

theorem pubCount_keeps (s : State) (k) (h : Keeps o s) : Keeps o (pubCount s k) := by
  unfold pubCount
  with_reducible repeat' first | assumption | apply pubCountBy_keeps

theorem evrWrite_keeps (s : State) (f) (rest) (h : Keeps o s) : Keeps o (evrWrite s f rest).2 := by
  unfold evrWrite
  with_reducible repeat'
    first
      | assumption | apply raise_keeps | apply pubCount_keeps | apply ringWrite_keeps | apply regSet_keeps | apply msix_keeps
      | refine keeps_ite ?_ ?_ | refine keeps_ite_snd ?_ ?_
      | fail_if_no_progress refine keeps_mk ?_ rfl rfl rfl ⟨rfl, rfl, rfl, rfl⟩

theorem supEvent_keeps (s : State) (v) (kind) (fault) (st) (sq) (ns32) (frac) (auth) (h : Keeps o s) :
    Keeps o (supEvent s v kind fault st sq ns32 frac auth) := by
  unfold supEvent
  with_reducible repeat'
    first
      | assumption | apply evrWrite_keeps | apply post_keeps | apply krnCount_keeps | apply rdrCount_keeps
      | refine keeps_ite ?_ ?_ | refine keeps_ite_snd ?_ ?_ | split | dsimp only | refine keeps_of_pair (by assumption) ?_

theorem subMirror_keeps (s : State) (v) (h : Keeps o s) : Keeps o (subMirror s v) := by
  unfold subMirror
  with_reducible repeat' first | assumption | apply culPend_keeps

theorem subExpire_keeps (s : State) (v) (h : Keeps o s) : Keeps o (subExpire s v) := by
  unfold subExpire
  with_reducible repeat'
    first
      | assumption | apply satInc_keeps | apply subTo_keeps | apply raise_keeps | apply pubCount_keeps | apply subMirror_keeps
      | apply supEvent_keeps

theorem subRefresh_keeps (s : State) (v) (st) (sq) (tal) (stamp) (ns32) (frac) (auth) (h : Keeps o s) :
    Keeps o (subRefresh s v st sq tal stamp ns32 frac auth) := by
  unfold subRefresh
  with_reducible repeat'
    first
      | assumption | apply pubCount_keeps | apply subExpire_keeps | apply subSet_keeps | apply regSet_keeps
      | apply subTo_keeps | apply raise_keeps | apply supEvent_keeps | apply subMirror_keeps | refine keeps_ite ?_ ?_

theorem subMessage_keeps (s : State) (v) (bytes) (l3) (auth) (ns32) (frac) (h : Keeps o s) :
    Keeps o (subMessage s v bytes l3 auth ns32 frac) := by
  unfold subMessage
  with_reducible repeat'
    first
      | assumption | apply pubCount_keeps | apply raise_keeps | apply regSetFld_keeps | apply supEvent_keeps
      | apply subMirror_keeps | apply pubCountBy_keeps | apply subRefresh_keeps | refine keeps_ite ?_ ?_

theorem pubOffer_keeps (s : State) (stream) (bytes) (l3) (auth) (ns32) (frac) (h : Keeps o s) :
    Keeps o (pubOffer s stream bytes l3 auth ns32 frac) := by
  unfold pubOffer
  with_reducible repeat' first | assumption | apply pubTake_keeps | apply subMessage_keeps | split | dsimp only

theorem fdbSet_keeps (s : State) (i) (e) (h : Keeps o s) : Keeps o (fdbSet s i e) := by
  unfold fdbSet
  with_reducible repeat' first | assumption | fail_if_no_progress refine keeps_mk ?_ rfl rfl rfl ⟨rfl, rfl, rfl, rfl⟩

theorem fdbRoom_keeps (s : State) (ways) (p) (h : Keeps o s) : Keeps o (fdbRoom s ways p).2 := by
  unfold fdbRoom
  with_reducible repeat' first | assumption | apply freePick_keeps | refine keeps_ite_snd ?_ ?_

theorem learn_keeps (s : State) (x1) (h : Keeps o s) : Keeps o (learn s x1) := by
  unfold learn
  with_reducible repeat'
    first
      | assumption | apply fdbSet_keeps | apply count_keeps | apply fdbRoom_keeps | apply raise_keeps | refine keeps_ite ?_ ?_
      | split | dsimp only | refine keeps_of_pair (by assumption) ?_

theorem destsFind_keeps (s : State) (x1) (h : Keeps o s) : Keeps o (destsFind s x1) := by
  unfold destsFind
  with_reducible repeat' first | assumption | apply frameSet_keeps | refine keeps_ite ?_ ?_ | split

theorem setNumber_keeps (s : State) (x) (h : Keeps o s) : Keeps o (setNumber s x).2 := by
  unfold setNumber
  with_reducible repeat' first | assumption | fail_if_no_progress refine keeps_mk ?_ rfl rfl rfl ⟨rfl, rfl, rfl, rfl⟩

theorem proxyNumber_keeps (s : State) (mac) (x) (h : Keeps o s) : Keeps o (proxyNumber s mac x).2 := by
  unfold proxyNumber
  with_reducible repeat'
    first
      | assumption | apply nodeSet_keeps | apply nodeFree_keeps | apply setNumber_keeps | apply nodeFull_keeps | split
      | dsimp only

theorem numberFrame_keeps (s : State) (x1) (ports) (h : Keeps o s) : Keeps o (numberFrame s x1 ports) := by
  unfold numberFrame
  with_reducible repeat'
    first
      | assumption | apply setNumber_keeps | apply proxyNumber_keeps | apply frameMod_keeps | refine keeps_ite ?_ ?_ | split
      | dsimp only | refine keeps_fold ?_ ?_ | intro _ _ _

theorem siphonTake_keeps (s : State) (x1) (x) (h : Keeps o s) : Keeps o (siphonTake s x1 x) := by
  unfold siphonTake
  with_reducible repeat'
    first
      | assumption | apply portCount_keeps | apply queueSet_keeps | apply count_keeps | apply refAdd_keeps | apply raise_keeps
      | refine keeps_ite ?_ ?_ | split

theorem siphonMatch_keeps (s : State) (x1) (x) (h : Keeps o s) : Keeps o (siphonMatch s x1 x) := by
  unfold siphonMatch
  with_reducible repeat'
    first
      | assumption | apply frameSet_keeps | apply siphonTake_keeps | refine keeps_ite ?_ ?_
      | fail_if_no_progress refine keeps_mk ?_ rfl rfl rfl ⟨rfl, rfl, rfl, rfl⟩ | split

theorem siphonIngress_keeps (s : State) (x1) (p) (h : Keeps o s) : Keeps o (siphonIngress s x1 p) := by
  unfold siphonIngress
  with_reducible repeat'
    first
      | assumption | apply siphonMatch_keeps | refine keeps_ite ?_ ?_ | refine keeps_fold ?_ ?_ | intro _ _ _

theorem siphonEgress_keeps (s : State) (x1) (p) (h : Keeps o s) : Keeps o (siphonEgress s x1 p) := by
  unfold siphonEgress
  with_reducible repeat'
    first
      | assumption | apply siphonMatch_keeps | refine keeps_ite ?_ ?_ | split | dsimp only | refine keeps_fold ?_ ?_
      | intro _ _ _

theorem stagedDrop_keeps (s : State) (x1) (h : Keeps o s) : Keeps o (stagedDrop s x1) := by
  unfold stagedDrop
  with_reducible repeat' first | assumption | apply refDrop_keeps | apply frameMod_keeps | split

theorem destPlace_keeps (s : State) (x1) (p) (h : Keeps o s) : Keeps o (destPlace s x1 p) := by
  unfold destPlace
  with_reducible repeat'
    first
      | assumption | apply calEnter_keeps | apply pubCount_keeps | apply queuePut_keeps | refine keeps_ite ?_ ?_ | split

theorem destGo_keeps (s : State) (x1) (x) (h : Keeps o s) : Keeps o (destGo s x1 x) := by
  unfold destGo
  with_reducible repeat'
    first
      | assumption | apply destDecided_keeps | apply destRemove_keeps | apply portCount_keeps | apply refAdd_keeps
      | apply destPlace_keeps | refine keeps_ite ?_ ?_
      | fail_if_no_progress refine keeps_mk ?_ rfl rfl rfl ⟨rfl, rfl, rfl, rfl⟩ | split

theorem destsGo_keeps (s : State) (x1) (h : Keeps o s) : Keeps o (destsGo s x1) := by
  unfold destsGo
  with_reducible repeat'
    first
      | assumption | apply frameSet_keeps | apply numberFrame_keeps | apply pubCount_keeps | apply destGo_keeps | split
      | dsimp only | refine keeps_fold ?_ ?_ | intro _ _ _

theorem forwardFrame_keeps (s : State) (x1) (other) (h : Keeps o s) : Keeps o (forwardFrame s x1 other) := by
  unfold forwardFrame
  with_reducible repeat'
    first
      | assumption | apply frameComplete_keeps | apply count_keeps | apply destsGo_keeps | refine keeps_ite ?_ ?_ | split

theorem oqTransfer_keeps (s : State) (p) (h : Keeps o s) : Keeps o (oqTransfer s p) := by
  unfold oqTransfer
  with_reducible repeat'
    first
      | assumption | apply cellFor_keeps | apply refDrop_keeps | apply destDecided_keeps | apply destRemove_keeps
      | apply weirDrop_keeps | apply weirCells_keeps | apply frameSet_keeps | apply refAdd_keeps | apply portCount_keeps
      | apply destPlace_keeps | apply frameLetGo_keeps | refine keeps_ite ?_ ?_
      | fail_if_no_progress refine keeps_mk ?_ rfl rfl rfl ⟨rfl, rfl, rfl, rfl⟩ | split | dsimp only
      | refine keeps_of_pair (by assumption) ?_

theorem toContext_keeps (s : State) (x1) (f) (h : Keeps o s) : Keeps o (toContext s x1 f) := by
  unfold toContext
  with_reducible repeat'
    first
      | assumption | apply post_keeps | apply hdgDrop_keeps | split | refine keeps_of_pair (by assumption) ?_

theorem toConfluence_keeps (s : State) (x1) (f) (h : Keeps o s) : Keeps o (toConfluence s x1 f) := by
  unfold toConfluence
  with_reducible repeat'
    first
      | assumption | apply cnfHand_keeps | apply siphonMatch_keeps | apply hdgDrop_keeps | refine keeps_ite ?_ ?_
      | refine keeps_fold ?_ ?_ | intro _ _ _

theorem dispatch_keeps (s : State) (x1) (h : Keeps o s) : Keeps o (dispatch s x1) := by
  unfold dispatch
  with_reducible repeat'
    first
      | assumption | apply pubOffer_keeps | apply toContext_keeps | apply toConfluence_keeps | apply forwardFrame_keeps
      | apply frameLetGo_keeps | refine keeps_ite ?_ ?_ | split

theorem frameStore_keeps (s : State) (f) (h : Keeps o s) : Keeps o (frameStore s f).2 := by
  unfold frameStore
  with_reducible repeat' first | assumption | apply cellFor_keeps | apply frameSet_keeps | split | dsimp only

theorem stageHigh_keeps (s : State) (d) (n) (h : Keeps o s) : Keeps o (stageHigh s d n) := by
  unfold stageHigh
  with_reducible repeat' first | assumption | apply regSetFld_keeps | refine keeps_ite ?_ ?_

theorem injectLost_keeps (s : State) (f) (reason) (h : Keeps o s) : Keeps o (injectLost s f reason) := by
  unfold injectLost
  with_reducible repeat'
    first
      | assumption | apply count_keeps | apply txComplete_keeps | apply sendOutcome_keeps | apply pubCount_keeps | split

theorem inject_keeps (s : State) (f) (ports) (h : Keeps o s) : Keeps o (inject s f ports) := by
  unfold inject
  with_reducible repeat'
    first
      | assumption | apply injectLost_keeps | apply stageHigh_keeps | apply frameStore_keeps | apply weirCells_keeps
      | apply destsFind_keeps | apply siphonIngress_keeps | apply frameLetGo_keeps | apply forwardFrame_keeps
      | refine keeps_ite ?_ ?_ | split | refine keeps_of_pair (by assumption) ?_

theorem berTrue_keeps (s : State) (h : Keeps o s) : Keeps o (berTrue s).2 := by
  unfold berTrue
  with_reducible repeat' first | assumption | apply freePick_keeps

theorem gooseFrame_keeps (s : State) (g) (content) (st) (sq) (tSec) (tNs) (tal) (h : Keeps o s) :
    Keeps o (gooseFrame s g content st sq tSec tNs tal).2 := by
  unfold gooseFrame
  with_reducible repeat' first | assumption | apply berTrue_keeps | refine keeps_ite_snd ?_ ?_

theorem pubVid_keeps (s : State) (bytes) (h : Keeps o s) : Keeps o (pubVid s bytes).2.2 := by
  unfold pubVid
  with_reducible repeat' first | assumption | apply freePick_keeps | refine keeps_ite_snd_snd ?_ ?_

theorem pubInject_keeps (s : State) (bytes) (index) (sv) (target) (h : Keeps o s) :
    Keeps o (pubInject s bytes index sv target) := by
  unfold pubInject
  with_reducible repeat'
    first
      | assumption | apply pubVid_keeps | apply pubCount_keeps | apply count_keeps | apply inject_keeps
      | refine keeps_ite ?_ ?_

theorem laneStart_keeps (s : State) (x1) (x2) (h : Keeps o s) : Keeps o (laneStart s x1 x2) := by
  fun_induction laneStart s x1 x2 <;> (with_reducible repeat'
    first
      | assumption | apply pubCount_keeps | fail_if_no_progress refine keeps_mk ?_ rfl rfl rfl ⟨rfl, rfl, rfl, rfl⟩
      | dsimp only | apply_assumption)

theorem laneKick_keeps (s : State) (h : Keeps o s) : Keeps o (laneKick s) := by
  unfold laneKick
  with_reducible repeat' first | assumption | apply laneStart_keeps

theorem laneEnter_keeps (s : State) (j) (h : Keeps o s) : Keeps o (laneEnter s j) := by
  unfold laneEnter
  with_reducible repeat'
    first
      | assumption | apply laneKick_keeps | fail_if_no_progress refine keeps_mk ?_ rfl rfl rfl ⟨rfl, rfl, rfl, rfl⟩

theorem pubSend_keeps (s : State) (bytes) (index) (sv) (target) (h : Keeps o s) :
    Keeps o (pubSend s bytes index sv target) := by
  unfold pubSend
  with_reducible repeat'
    first
      | assumption | apply pubInject_keeps | apply pubCount_keeps | apply laneEnter_keeps | refine keeps_ite ?_ ?_

theorem pubTagged_keeps (s : State) (bytes) (index) (sv) (target) (alg) (key) (h : Keeps o s) :
    Keeps o (pubTagged s bytes index sv target alg key) := by
  unfold pubTagged
  with_reducible repeat'
    first
      | assumption | apply pubInject_keeps | apply raise_keeps | apply regSet_keeps | apply pubCount_keeps
      | refine keeps_ite ?_ ?_ | split

theorem gpMirror_keeps (s : State) (g) (h : Keeps o s) : Keeps o (gpMirror s g) := by
  unfold gpMirror
  with_reducible repeat' first | assumption | apply culPend_keeps

theorem gpTransmit_keeps (s : State) (g) (content) (st) (sq) (tSec) (tNs) (wait) (target) (h : Keeps o s) :
    Keeps o (gpTransmit s g content st sq tSec tNs wait target) := by
  unfold gpTransmit
  with_reducible repeat'
    first
      | assumption | apply gooseFrame_keeps | apply regSet_keeps | apply gpMirror_keeps | apply pubSend_keeps

theorem gpEvent_keeps (s : State) (g) (h : Keeps o s) : Keeps o (gpEvent s g) := by
  unfold gpEvent
  with_reducible repeat' first | assumption | apply gpTransmit_keeps | apply gpSet_keeps

theorem gpLaunch_keeps (s : State) (g) (target) (old) (h : Keeps o s) : Keeps o (gpLaunch s g target old) := by
  unfold gpLaunch
  with_reducible repeat' first | assumption | apply regSetFld_keeps | apply gpSet_keeps | apply gpTransmit_keeps

theorem gpSettle_keeps (s : State) (g) (h : Keeps o s) : Keeps o (gpSettle s g) := by
  unfold gpSettle
  with_reducible repeat'
    first
      | assumption | apply regSetFld_keeps | apply gpSet_keeps | refine keeps_ite ?_ ?_ | split | dsimp only

theorem pubSettle_keeps (s : State) (h : Keeps o s) : Keeps o (pubSettle s) := by
  unfold pubSettle
  with_reducible repeat' first | assumption | apply gpSettle_keeps | refine keeps_fold ?_ ?_

theorem gpRepeat_keeps (s : State) (g) (due) (h : Keeps o s) : Keeps o (gpRepeat s g due) := by
  unfold gpRepeat
  with_reducible repeat'
    first
      | assumption | apply pubTake_keeps | apply gpTransmit_keeps | apply gpSet_keeps | refine keeps_ite ?_ ?_

theorem gpRetransmit_keeps (s : State) (g) (h : Keeps o s) : Keeps o (gpRetransmit s g) := by
  unfold gpRetransmit
  with_reducible repeat'
    first
      | assumption | apply gpSettle_keeps | apply pubCount_keeps | apply gpSet_keeps | apply gpTransmit_keeps
      | apply gpRepeat_keeps | refine keeps_ite ?_ ?_ | split | dsimp only

theorem pubRead_keeps (s : State) (x) (x2) (h : Keeps o s) : Keeps o (pubRead s x x2).2 := by
  fun_induction pubRead s x x2 <;> (with_reducible repeat'
    first
      | assumption | apply tankAccess_keeps | dsimp only | refine keeps_of_pair (by assumption) ?_ | apply_assumption)

theorem pubAnswer_keeps (s : State) (u) (code) (h : Keeps o s) : Keeps o (pubAnswer s u code).2 := by
  unfold pubAnswer
  with_reducible repeat'
    first
      | assumption | apply raise_keeps | apply regSet_keeps | apply pubCount_keeps | refine keeps_ite_snd ?_ ?_

theorem pubAccept_keeps (s : State) (u) (content) (h : Keeps o s) : Keeps o (pubAccept s u content) := by
  unfold pubAccept
  with_reducible repeat'
    first
      | assumption | apply regSetFld_keeps | apply regSet_keeps | apply pubCount_keeps | apply gpSet_keeps
      | apply pubTake_keeps | apply gpLaunch_keeps | apply gpEvent_keeps | refine keeps_ite ?_ ?_

theorem pubUpdate_keeps (s : State) (u) (h : Keeps o s) : Keeps o (pubUpdate s u).2 := by
  unfold pubUpdate
  with_reducible repeat'
    first
      | assumption | apply gpSettle_keeps | apply pubAnswer_keeps | apply pubRead_keeps | apply pubAccept_keeps
      | refine keeps_ite_snd ?_ ?_ | split | refine keeps_of_pair (by assumption) ?_

theorem svDiscard_keeps (s : State) (v) (h : Keeps o s) : Keeps o (svDiscard s v) := by
  unfold svDiscard
  with_reducible repeat' first | assumption | apply pubCount_keeps | apply count_keeps

theorem svTake_keeps (s : State) (v) (r) (h : Keeps o s) : Keeps o (svTake s v r) := by
  unfold svTake
  with_reducible repeat'
    first
      | assumption | apply regSetFld_keeps | apply svDiscard_keeps | apply svSet_keeps | apply pubTake_keeps
      | apply pubSend_keeps | refine keeps_ite ?_ ?_

theorem svRow_keeps (s : State) (b) (r) (h : Keeps o s) : Keeps o (svRow s b r) := by
  unfold svRow
  with_reducible repeat'
    first
      | assumption | apply svTake_keeps | refine keeps_ite ?_ ?_ | refine keeps_fold ?_ ?_ | intro _ _ _

theorem pubShift_keeps (s : State) (delta) (h : Keeps o s) : Keeps o (pubShift s delta) := by
  unfold pubShift
  with_reducible repeat'
    first
      | assumption | apply gpSet_keeps | apply regSet_keeps | apply subSet_keeps | refine keeps_ite ?_ ?_ | dsimp only
      | refine keeps_fold ?_ ?_ | intro _ _ _

theorem gpTakeover_keeps (s : State) (g) (h : Keeps o s) : Keeps o (gpTakeover s g) := by
  unfold gpTakeover
  with_reducible repeat'
    first
      | assumption | apply regSetFld_keeps | apply gpSet_keeps | apply gpEvent_keeps | refine keeps_ite ?_ ?_ | split

theorem subTakeover_keeps (s : State) (v) (h : Keeps o s) : Keeps o (subTakeover s v) := by
  unfold subTakeover
  with_reducible repeat'
    first
      | assumption | apply subSet_keeps | apply regSet_keeps | apply subTo_keeps | refine keeps_ite ?_ ?_ | split | dsimp only

theorem pubTakeover_keeps (s : State) (h : Keeps o s) : Keeps o (pubTakeover s) := by
  unfold pubTakeover
  with_reducible repeat'
    first
      | assumption | apply gpTakeover_keeps | apply subTakeover_keeps | dsimp only | refine keeps_fold ?_ ?_

theorem execAsduIngest_keeps (s : State) (h : Keeps o s) : KeepsNext o (execAsduIngest s) := by
  unfold execAsduIngest
  with_reducible repeat'
    first
      | assumption | apply domEvent_keeps | apply asduIngest_keeps
      | fail_if_no_progress refine keeps_mk ?_ rfl rfl rfl ⟨rfl, rfl, rfl, rfl⟩ | split | dsimp only | intro _ _

theorem execRowDeadline_keeps (b) (s : State) (h : Keeps o s) : KeepsNext o (execRowDeadline b s) := by
  unfold execRowDeadline
  with_reducible repeat' first | assumption | apply domEvent_keeps | apply rowCompute_keeps | refine keeps_ite ?_ ?_ | intro _ _

theorem execRowSeal_keeps (b) (s : State) (h : Keeps o s) : KeepsNext o (execRowSeal b s) := by
  unfold execRowSeal
  with_reducible repeat'
    first
      | assumption | apply flowEvent_keeps | apply rowSeal_keeps | apply svRow_keeps | refine keeps_ite ?_ ?_ | split
      | intro _ _ | refine keeps_of_pair (by assumption) ?_

theorem execStreamSilence_keeps (i) (s : State) (h : Keeps o s) : KeepsNext o (execStreamSilence i s) := by
  unfold execStreamSilence
  with_reducible repeat'
    first
      | assumption | apply domEvent_keeps | apply cnfRaise_keeps | apply strCount_keeps | apply strTo_keeps
      | refine keeps_ite ?_ ?_ | intro _ _

theorem execBasinRunSet_keeps (f) (b) (s : State) (h : Keeps o s) : KeepsNext o (execBasinRunSet f b s) := by
  unfold execBasinRunSet
  with_reducible repeat'
    first
      | assumption | apply hostCmd_keeps | apply regSetFld_keeps | apply basApply_keeps | apply basFresh_keeps
      | refine keeps_ite ?_ ?_ | dsimp only | intro _ _

theorem execBasinRunClear_keeps (f) (b) (s : State) (h : Keeps o s) : KeepsNext o (execBasinRunClear f b s) := by
  unfold execBasinRunClear
  with_reducible repeat'
    first
      | assumption | apply hostCmd_keeps | apply basStop_keeps | apply regSetFld_keeps | refine keeps_ite ?_ ?_ | intro _ _

theorem execStreamEnable_keeps (f) (i) (s : State) (h : Keeps o s) : KeepsNext o (execStreamEnable f i s) := by
  unfold execStreamEnable
  with_reducible repeat'
    first
      | assumption | apply hostCmd_keeps | apply regSetFld_keeps | apply strTo_keeps | apply cnfStrSet_keeps
      | refine keeps_ite ?_ ?_ | dsimp only | intro _ _

theorem execStreamDisable_keeps (f) (i) (s : State) (h : Keeps o s) : KeepsNext o (execStreamDisable f i s) := by
  unfold execStreamDisable
  with_reducible repeat'
    first
      | assumption | apply hostCmd_keeps | apply strTo_keeps | apply cnfStrSet_keeps | apply regSetFld_keeps
      | refine keeps_ite ?_ ?_ | dsimp only | intro _ _

theorem ringRegWrite_keeps (s : State) (b) (a) (v) (h : Keeps o s) : Keeps o (ringRegWrite s b a v) := by
  unfold ringRegWrite
  with_reducible repeat'
    first
      | assumption | apply cnfRaise_keeps | apply cnfBasSet_keeps | apply regSet_keeps | refine keeps_ite ?_ ?_

theorem execCnfRingCtlWrite_keeps (f) (a) (v) (s : State) (h : Keeps o s) : KeepsNext o (execCnfRingCtlWrite f a v s) := by
  unfold execCnfRingCtlWrite
  with_reducible repeat' first | assumption | apply hostCmd_keeps | apply ringRegWrite_keeps | split | intro _ _

theorem rowsCompute_keeps (l) (x1) (x2 : State) (h : Keeps o x2) : Keeps o (rowsCompute l x1 x2) := by
  fun_induction rowsCompute l x1 x2 <;> (with_reducible repeat' first | assumption | apply rowCompute_keeps | apply_assumption)

theorem basSkip_keeps (s : State) (b) (h : Keeps o s) : Keeps o (basSkip s b) := by
  unfold basSkip
  with_reducible repeat'
    first
      | assumption | apply cnfBasSet_keeps | apply cnfRaise_keeps | apply countBy_keeps | refine keeps_ite ?_ ?_ | split

theorem cnfForward_keeps (s : State) (h : Keeps o s) : Keeps o (cnfForward s) := by
  unfold cnfForward
  with_reducible repeat' first | assumption | apply rowsCompute_keeps | apply basSkip_keeps | refine keeps_fold ?_ ?_

theorem basStep_keeps (s : State) (b) (h : Keeps o s) : Keeps o (basStep s b) := by
  unfold basStep
  with_reducible repeat' first | assumption | apply cnfBasSet_keeps | split | dsimp only

theorem cnfMoved_keeps (s : State) (delta) (h : Keeps o s) : Keeps o (cnfMoved s delta) := by
  unfold cnfMoved
  with_reducible repeat'
    first
      | assumption | apply basStep_keeps | fail_if_no_progress refine keeps_mk ?_ rfl rfl rfl ⟨rfl, rfl, rfl, rfl⟩
      | refine keeps_fold ?_ ?_

theorem cnfJump_keeps (s : State) (delta) (h : Keeps o s) : Keeps o (cnfJump s delta) := by
  unfold cnfJump
  with_reducible repeat'
    first
      | assumption | apply cnfForward_keeps | apply basApply_keeps | refine keeps_ite ?_ ?_ | refine keeps_fold ?_ ?_
      | intro _ _ _

theorem cnfShift_keeps (s : State) (delta) (h : Keeps o s) : Keeps o (cnfShift s delta) := by
  unfold cnfShift
  with_reducible repeat' first | assumption | apply cnfJump_keeps | apply cnfMoved_keeps

theorem cnfThaw_keeps (s : State) (h : Keeps o s) : Keeps o (cnfThaw s) := by
  unfold cnfThaw
  with_reducible repeat'
    first
      | assumption | apply cnfJump_keeps | apply cnfMoved_keeps
      | fail_if_no_progress refine keeps_mk ?_ rfl rfl rfl ⟨rfl, rfl, rfl, rfl⟩ | split

end Sys2Proof.Machine
end

