-- ==== Sys2Proof/Laws/Keeps/Rider.lean ====
section
/-!
SUPPORT. Every transformation of the state in Machine/Mailbox.lean, Machine/SqOps.lean, Machine/RiderCmd.lean leaves the
queue as it was and keeps the invariant.
-/
namespace Sys2Proof.Machine

variable {o : State}

theorem masterCmd_keeps (s : State) (m) (a) (k) (h : Keeps o s) (hk : ∀ y0, Keeps o y0 → Keeps o (k y0)) :
    KeepsNext o (masterCmd s m a k) := by
  unfold masterCmd
  with_reducible repeat' first | assumption | apply hostCmd_keeps | apply domEvent_keeps | refine keepsNext_ite ?_ ?_

theorem mbxSet_keeps (s : State) (c) (x) (h : Keeps o s) : Keeps o (mbxSet s c x) := by
  unfold mbxSet
  with_reducible repeat' first | assumption | fail_if_no_progress refine keeps_mk ?_ rfl rfl rfl ⟨rfl, rfl, rfl, rfl⟩

theorem mbxCount_keeps (s : State) (k) (h : Keeps o s) : Keeps o (mbxCount s k) := by
  unfold mbxCount
  with_reducible repeat' first | assumption | apply count_keeps

theorem mbxRaise_keeps (s : State) (c) (bit) (h : Keeps o s) : Keeps o (mbxRaise s c bit) := by
  unfold mbxRaise
  with_reducible repeat' first | assumption | apply raise_keeps | apply regSet_keeps

theorem mbxPend_keeps (s : State) (lo) (hi) (c) (h : Keeps o s) : Keeps o (mbxPend s lo hi c) := by
  unfold mbxPend
  with_reducible repeat' first | assumption | apply regSet_keeps

theorem mbxNotifySender_keeps (s : State) (c) (h : Keeps o s) : Keeps o (mbxNotifySender s c) := by
  unfold mbxNotifySender
  with_reducible repeat' first | assumption | apply mbxPend_keeps | apply msix_keeps | refine keeps_ite ?_ ?_

theorem mbxEmpty_keeps (s : State) (c) (h : Keeps o s) : Keeps o (mbxEmpty s c) := by
  unfold mbxEmpty
  with_reducible repeat' first | assumption | apply mbxSet_keeps | apply regSet_keeps

theorem mbxOutcome_keeps (s : State) (c) (status) (code) (value) (h : Keeps o s) :
    Keeps o (mbxOutcome s c status code value) := by
  unfold mbxOutcome
  with_reducible repeat'
    first
      | assumption | apply mbxEmpty_keeps | apply regSet_keeps | apply mbxSet_keeps | apply mbxNotifySender_keeps
      | refine keeps_ite ?_ ?_

theorem mbxAck_keeps (s : State) (c) (v) (h : Keeps o s) : Keeps o (mbxAck s c v) := by
  unfold mbxAck
  with_reducible repeat' first | assumption | apply mbxOutcome_keeps | apply mbxCount_keeps | refine keeps_ite ?_ ?_

theorem supervisorAnswer_keeps (s : State) (c) (h : Keeps o s) : Keeps o (supervisorAnswer s c) := by
  unfold supervisorAnswer
  with_reducible repeat' first | assumption | apply mbxAck_keeps | refine keeps_ite ?_ ?_

theorem mbxDeliver_keeps (s : State) (c) (h : Keeps o s) : Keeps o (mbxDeliver s c) := by
  unfold mbxDeliver
  with_reducible repeat'
    first
      | assumption | apply postMailbox_keeps | apply supervisorAnswer_keeps | apply mbxAck_keeps | apply rdrRaise_keeps
      | apply rdrCount_keeps | apply mbxPend_keeps | apply msix_keeps | refine keeps_ite ?_ ?_

theorem mbxSend_keeps (s : State) (c) (h : Keeps o s) : Keeps o (mbxSend s c).2 := by
  unfold mbxSend
  with_reducible repeat'
    first
      | assumption | apply mbxCount_keeps | apply mbxDeliver_keeps | apply mbxSet_keeps | apply regSet_keeps
      | apply domOnRequest_keeps | refine keeps_ite ?_ ?_ | refine keeps_ite_snd ?_ ?_

theorem mbxAckRead_keeps (s : State) (c) (h : Keeps o s) : Keeps o (mbxAckRead s c).2 := by
  unfold mbxAckRead
  with_reducible repeat' first | assumption | apply mbxEmpty_keeps | refine keeps_ite_snd ?_ ?_

theorem mbxWake_keeps (s : State) (c) (h : Keeps o s) : Keeps o (mbxWake s c) := by
  unfold mbxWake
  with_reducible repeat'
    first
      | assumption | apply regSetFld_keeps | apply mbxDeliver_keeps | apply mbxCount_keeps | apply mbxSet_keeps

theorem mbxDomainOn_keeps (s : State) (d) (h : Keeps o s) : Keeps o (mbxDomainOn s d) := by
  unfold mbxDomainOn
  with_reducible repeat'
    first
      | assumption | apply mbxWake_keeps | refine keeps_ite ?_ ?_ | refine keeps_fold ?_ ?_ | intro _ _ _

theorem mbxReceiverReset_keeps (s : State) (m) (h : Keeps o s) : Keeps o (mbxReceiverReset s m) := by
  unfold mbxReceiverReset
  with_reducible repeat'
    first
      | assumption | apply mbxEmpty_keeps | apply mbxOutcome_keeps | apply mbxRaise_keeps | apply mbxCount_keeps
      | refine keeps_ite ?_ ?_ | refine keeps_fold ?_ ?_ | intro _ _ _

theorem mbxSenderReset_keeps (s : State) (m) (h : Keeps o s) : Keeps o (mbxSenderReset s m) := by
  unfold mbxSenderReset
  with_reducible repeat'
    first
      | assumption | apply mbxSet_keeps | apply regSetFld_keeps | apply mbxEmpty_keeps | refine keeps_ite ?_ ?_ | dsimp only
      | refine keeps_fold ?_ ?_ | intro _ _ _

theorem masterReset_keeps (s : State) (m) (h : Keeps o s) : Keeps o (masterReset s m) := by
  unfold masterReset
  with_reducible repeat'
    first
      | assumption | apply mbxSenderReset_keeps | apply mbxReceiverReset_keeps | apply locksReclaim_keeps

theorem mbxClearAll_keeps (s : State) (h : Keeps o s) : Keeps o (mbxClearAll s) := by
  unfold mbxClearAll
  with_reducible repeat'
    first
      | assumption | apply regSet_keeps | fail_if_no_progress refine keeps_mk ?_ rfl rfl rfl ⟨rfl, rfl, rfl, rfl⟩
      | refine keeps_fold ?_ ?_ | intro _ _ _

theorem sqSet_keeps (s : State) (f) (q) (l) (h : Keeps o s) : Keeps o (sqSet s f q l) := by
  unfold sqSet
  with_reducible repeat' first | assumption | apply fnSet_keeps

theorem sqStart_keeps (s : State) (f) (q) (index) (h : Keeps o s) : Keeps o (sqStart s f q index) := by
  unfold sqStart
  with_reducible repeat' first | assumption | apply sqSet_keeps

theorem sqComplete_keeps (s : State) (f) (q) (index) (cid) (status) (detail) (result) (h : Keeps o s) :
    Keeps o (sqComplete s f q index cid status detail result) := by
  unfold sqComplete
  with_reducible repeat'
    first
      | assumption | apply fcnt_keeps | apply sqSet_keeps | apply complete_keeps | refine keeps_ite ?_ ?_

theorem riderRefused_keeps (s : State) (ctx) (h : Keeps o s) : Keeps o (riderRefused s ctx) := by
  unfold riderRefused
  with_reducible repeat' first | assumption | apply rdrRaise_keeps | apply rdrCount_keeps

theorem sqSettleN_keeps (f) (q) (x2) (x3 : State) (h : Keeps o x3) : Keeps o (sqSettleN f q x2 x3) := by
  fun_induction sqSettleN f q x2 x3 <;> (with_reducible repeat'
    first
      | assumption | apply sqComplete_keeps | apply riderRefused_keeps | apply_assumption)

theorem sqSettle_keeps (s : State) (f) (q) (h : Keeps o s) : Keeps o (sqSettle s f q) := by
  unfold sqSettle
  with_reducible repeat' first | assumption | apply sqSettleN_keeps

theorem sqDone_keeps (s : State) (f) (q) (index) (cid) (status) (detail) (result) (h : Keeps o s) :
    Keeps o (sqDone s f q index cid status detail result) := by
  unfold sqDone
  with_reducible repeat' first | assumption | apply sqSettle_keeps | apply sqComplete_keeps

theorem tankPut_keeps (s : State) (m) (x) (x3) (h : Keeps o s) : Keeps o (tankPut s m x x3).2 := by
  fun_induction tankPut s m x x3 <;> (with_reducible repeat'
    first
      | assumption | apply tankAccess_keeps | dsimp only | refine keeps_of_pair (by assumption) ?_ | apply_assumption)

theorem tankTake_keeps (s : State) (m) (x) (x3) (h : Keeps o s) : Keeps o (tankTake s m x x3).2 := by
  fun_induction tankTake s m x x3 <;> (with_reducible repeat'
    first
      | assumption | apply tankAccess_keeps | dsimp only | refine keeps_of_pair (by assumption) ?_ | apply_assumption)

theorem freeBytes_keeps (s : State) (x1) (h : Keeps o s) : Keeps o (freeBytes s x1).2 := by
  fun_induction freeBytes s x1 <;> (with_reducible repeat'
    first
      | assumption | apply fresh_keeps | dsimp only | apply_assumption)

theorem ctxPoison_keeps (s : State) (c) (reason) (h : Keeps o s) : Keeps o (ctxPoison s c reason) := by
  unfold ctxPoison
  with_reducible repeat'
    first
      | assumption | apply eventsDrop_keeps | apply journalNow_keeps | apply freeBytes_keeps | apply ctxMod_keeps
      | apply rdrRaise_keeps | fail_if_no_progress refine keeps_mk ?_ rfl rfl rfl ⟨rfl, rfl, rfl, rfl⟩

theorem migrateStart_keeps (s : State) (c) (b) (reason) (h : Keeps o s) : Keeps o (migrateStart s c b reason) := by
  unfold migrateStart
  with_reducible repeat' first | assumption | apply ctxMod_keeps

theorem migrateAbort_keeps (s : State) (c) (reason) (h : Keeps o s) : Keeps o (migrateAbort s c reason) := by
  unfold migrateAbort
  with_reducible repeat'
    first
      | assumption | apply journalNow_keeps | apply holdRelease_keeps | apply rdrCount_keeps | apply ctxMod_keeps | split

theorem migrateDone_keeps (s : State) (c) (h : Keeps o s) : Keeps o (migrateDone s c) := by
  unfold migrateDone
  with_reducible repeat'
    first
      | assumption | apply migrateAbort_keeps | apply engSet_keeps | apply regHigh_keeps | apply journalNow_keeps
      | apply ctxMod_keeps | apply holdRelease_keeps | apply placeWake_keeps | apply rdrCount_keeps | refine keeps_ite ?_ ?_
      | split | dsimp only

theorem polBalance_keeps (s : State) (p) (h : Keeps o s) : KeepsOpt o (polBalance s p) := by
  unfold polBalance
  with_reducible repeat'
    first
      | assumption | apply migrateStart_keeps | refine keepsOpt_ite ?_ ?_ | exact keepsOpt_none | refine keepsOpt_some ?_
      | split | dsimp only

theorem polRelieve_keeps (s : State) (p) (h : Keeps o s) : KeepsOpt o (polRelieve s p) := by
  unfold polRelieve
  with_reducible repeat'
    first
      | assumption | apply migrateStart_keeps | refine keepsOpt_findSome ?_ | exact keepsOpt_none | refine keepsOpt_some ?_
      | split | intro _

theorem polDrain_keeps (s : State) (p) (h : Keeps o s) : KeepsOpt o (polDrain s p) := by
  unfold polDrain
  with_reducible repeat'
    first
      | assumption | apply migrateStart_keeps | refine keepsOpt_findSome ?_ | exact keepsOpt_none | refine keepsOpt_some ?_
      | split | dsimp only | intro _

theorem polRepeat_keeps (move) (x1) (x2 : State) (h : Keeps o x2) (hmove : ∀ y0, Keeps o y0 → KeepsOpt o (move y0)) :
    Keeps o (polRepeat move x1 x2).2 := by
  induction x1 generalizing x2 with
  | zero => exact h
  | succ n ih =>
    unfold polRepeat
    split
    · exact ih _ (keeps_of_some (by assumption) (hmove _ h))
    · exact h

theorem polLatency_keeps (p) (x1) (x2) (x3 : State) (h : Keeps o x3) : Keeps o (polLatency p x1 x2 x3).2 := by
  fun_induction polLatency p x1 x2 x3 <;> (with_reducible repeat'
    first
      | assumption | apply migrateStart_keeps | apply_assumption)

theorem polSlot_keeps (s : State) (n) (p) (h : Keeps o s) : Keeps o (polSlot s n p).2 := by
  unfold polSlot
  with_reducible repeat'
    first
      | assumption | apply polRepeat_keeps | apply polRelieve_keeps | apply polDrain_keeps | apply polLatency_keeps
      | apply polBalance_keeps | refine keeps_ite_snd ?_ ?_ | intro _ _

theorem polReturn_keeps (s : State) (n) (h : Keeps o s) : Keeps o (polReturn s n).2 := by
  unfold polReturn
  with_reducible repeat'
    first
      | assumption | apply migrateStart_keeps | refine keeps_ite_snd ?_ ?_ | split | refine keeps_fold_snd ?_ ?_ | intro _ _ _

theorem polRun_keeps (s : State) (n) (h : Keeps o s) : Keeps o (polRun s n) := by
  unfold polRun
  with_reducible repeat' first | assumption | apply polSlot_keeps | refine keeps_fold_snd ?_ ?_ | intro _ _ _

theorem polInterval_keeps (s : State) (h : Keeps o s) : Keeps o (polInterval s) := by
  unfold polInterval
  with_reducible repeat' first | assumption | apply polReturn_keeps | apply polRun_keeps | refine keeps_ite ?_ ?_

theorem rAns_keeps (s : State) (code) (h : Keeps o s) : Keeps o (rAns s code).2 := by
  unfold rAns
  with_reducible repeat' first | assumption

theorem riderCreate_keeps (s : State) (w) (h : Keeps o s) : Keeps o (riderCreate s w).2 := by
  unfold riderCreate
  with_reducible repeat'
    first
      | assumption | apply rAns_keeps | apply pageKick_keeps | apply postFresh_keeps | apply ctxCreate_keeps
      | apply pageOutStart_keeps | refine keeps_ite_snd ?_ ?_ | split | dsimp only

theorem ctxRetire_keeps (s : State) (c) (reason) (h : Keeps o s) : Keeps o (ctxRetire s c reason) := by
  unfold ctxRetire
  with_reducible repeat'
    first
      | assumption | apply eventsDrop_keeps | apply timersCancel_keeps | apply rdrCount_keeps | apply journalNow_keeps
      | apply ctxSet_keeps | apply pageKick_keeps | fail_if_no_progress refine keeps_mk ?_ rfl rfl rfl ⟨rfl, rfl, rfl, rfl⟩

theorem riderRetire_keeps (s : State) (w) (h : Keeps o s) : Keeps o (riderRetire s w).2 := by
  unfold riderRetire
  with_reducible repeat' first | assumption | apply rAns_keeps | apply ctxRetire_keeps | refine keeps_ite_snd ?_ ?_

theorem riderMove_keeps (s : State) (w) (h : Keeps o s) : Keeps o (riderMove s w).2 := by
  unfold riderMove
  with_reducible repeat' first | assumption | apply rAns_keeps | apply migrateStart_keeps | refine keeps_ite_snd ?_ ?_

theorem ctxPin_keeps (s : State) (c) (reason) (h : Keeps o s) : Keeps o (ctxPin s c reason) := by
  unfold ctxPin
  with_reducible repeat' first | assumption | apply journalNow_keeps | apply ctxMod_keeps

theorem riderPin_keeps (s : State) (w) (h : Keeps o s) : Keeps o (riderPin s w).2 := by
  unfold riderPin
  with_reducible repeat'
    first
      | assumption | apply rAns_keeps | apply ctxPin_keeps | apply ctxMod_keeps | apply migrateStart_keeps
      | refine keeps_ite_snd ?_ ?_

theorem riderUnpin_keeps (s : State) (w) (h : Keeps o s) : Keeps o (riderUnpin s w).2 := by
  unfold riderUnpin
  with_reducible repeat'
    first
      | assumption | apply rAns_keeps | apply journalNow_keeps | apply ctxMod_keeps | refine keeps_ite_snd ?_ ?_

theorem riderResident_keeps (s : State) (w) (h : Keeps o s) : Keeps o (riderResident s w).2 := by
  unfold riderResident
  with_reducible repeat'
    first
      | assumption | apply rAns_keeps | apply ctxMod_keeps | apply pageWant_keeps | refine keeps_ite ?_ ?_
      | refine keeps_ite_snd ?_ ?_

theorem riderEvict_keeps (s : State) (w) (h : Keeps o s) : Keeps o (riderEvict s w).2 := by
  unfold riderEvict
  with_reducible repeat' first | assumption | apply rAns_keeps | apply pageOutStart_keeps | refine keeps_ite_snd ?_ ?_

theorem riderPage_keeps (s : State) (w) (h : Keeps o s) : Keeps o (riderPage s w).2 := by
  unfold riderPage
  with_reducible repeat' first | assumption | apply pageWant_keeps | apply rAns_keeps | refine keeps_ite_snd ?_ ?_

theorem riderRead_keeps (s : State) (w) (h : Keeps o s) : Keeps o (riderRead s w).2 := by
  unfold riderRead
  with_reducible repeat'
    first
      | assumption | apply rAns_keeps | apply riderPage_keeps | apply hostWrite_keeps | apply tankPut_keeps
      | refine keeps_ite_snd ?_ ?_ | split

theorem riderData_keeps (s : State) (w) (h : Keeps o s) : Keeps o (riderData s w).2 := by
  unfold riderData
  with_reducible repeat'
    first
      | assumption | apply tankTake_keeps | split | dsimp only | refine keeps_of_pair (by assumption) ?_

theorem riderWrite_keeps (s : State) (w) (h : Keeps o s) : Keeps o (riderWrite s w).2 := by
  unfold riderWrite
  with_reducible repeat'
    first
      | assumption | apply rAns_keeps | apply riderPage_keeps | apply riderData_keeps | apply ctxMod_keeps
      | refine keeps_ite_snd ?_ ?_ | split | refine keeps_of_pair (by assumption) ?_

theorem riderClear_keeps (s : State) (w) (h : Keeps o s) : Keeps o (riderClear s w).2 := by
  unfold riderClear
  with_reducible repeat'
    first
      | assumption | apply rAns_keeps | apply riderData_keeps | apply ctxMod_keeps | apply journalNow_keeps
      | refine keeps_ite_snd ?_ ?_ | split | dsimp only | refine keeps_of_pair (by assumption) ?_

theorem riderMap_keeps (s : State) (w) (h : Keeps o s) : Keeps o (riderMap s w).2 := by
  unfold riderMap
  with_reducible repeat' first | assumption | apply rAns_keeps | apply tankPut_keeps | refine keeps_ite_snd ?_ ?_ | split

theorem riderPolicyNow_keeps (s : State) (x1) (h : Keeps o s) : Keeps o (riderPolicyNow s x1).2 := by
  unfold riderPolicyNow
  with_reducible repeat'
    first
      | assumption | apply rAns_keeps | apply polRun_keeps
      | fail_if_no_progress refine keeps_mk ?_ rfl rfl rfl ⟨rfl, rfl, rfl, rfl⟩

theorem riderRun_keeps (s : State) (w) (h : Keeps o s) : Keeps o (riderRun s w).2 := by
  unfold riderRun
  with_reducible repeat'
    first
      | assumption | apply riderCreate_keeps | apply riderRetire_keeps | apply riderMove_keeps | apply riderPin_keeps
      | apply riderUnpin_keeps | apply riderResident_keeps | apply riderEvict_keeps | apply riderRead_keeps
      | apply riderWrite_keeps | apply riderClear_keeps | apply riderMap_keeps | apply riderPolicyNow_keeps | apply rAns_keeps
      | split

theorem riderAnswer_keeps (s : State) (w) (code) (result) (h : Keeps o s) : Keeps o (riderAnswer s w code result) := by
  unfold riderAnswer
  with_reducible repeat'
    first
      | assumption | apply riderRefused_keeps | apply mbxAck_keeps | apply sqDone_keeps | apply regSet_keeps | split

theorem riderStart_keeps (s : State) (w) (h : Keeps o s) : Keeps o (riderStart s w) := by
  unfold riderStart
  with_reducible repeat'
    first
      | assumption | apply riderRun_keeps | apply riderAnswer_keeps
      | fail_if_no_progress refine keeps_mk ?_ rfl rfl rfl ⟨rfl, rfl, rfl, rfl⟩ | split
      | refine keeps_of_pair (by assumption) ?_

theorem riderFinish_keeps (s : State) (w) (rest) (code) (v) (h : Keeps o s) : Keeps o (riderFinish s w rest code v) := by
  unfold riderFinish
  with_reducible repeat'
    first
      | assumption | apply riderAnswer_keeps | apply riderStart_keeps
      | fail_if_no_progress refine keeps_mk ?_ rfl rfl rfl ⟨rfl, rfl, rfl, rfl⟩ | split

theorem mirrorWrite_keeps (s : State) (r) (h : Keeps o s) : Keeps o (mirrorWrite s r) := by
  unfold mirrorWrite
  with_reducible repeat'
    first
      | assumption | apply culCount_keeps | apply ctxMod_keeps | apply pageWant_keeps | apply mirrorRefuse_keeps
      | refine keeps_ite ?_ ?_ | fail_if_no_progress refine keeps_mk ?_ rfl rfl rfl ⟨rfl, rfl, rfl, rfl⟩ | split | dsimp only

theorem mirrorRetry_keeps (s : State) (h : Keeps o s) : Keeps o (mirrorRetry s) := by
  unfold mirrorRetry
  with_reducible repeat'
    first
      | assumption | apply mirrorWrite_keeps | fail_if_no_progress refine keeps_mk ?_ rfl rfl rfl ⟨rfl, rfl, rfl, rfl⟩
      | dsimp only | refine keeps_fold ?_ ?_

theorem mirrorCtx_keeps (s : State) (c) (data) (h : Keeps o s) : Keeps o (mirrorCtx s c data) := by
  unfold mirrorCtx
  with_reducible repeat'
    first
      | assumption | apply mirrorRefuse_keeps | apply mirrorWrite_keeps | apply postFresh_keeps | apply ctxCreate_keeps
      | refine keeps_ite ?_ ?_ | fail_if_no_progress refine keeps_mk ?_ rfl rfl rfl ⟨rfl, rfl, rfl, rfl⟩ | split | dsimp only

theorem leaveRetry_keeps (s : State) (h : Keeps o s) : Keeps o (leaveRetry s) := by
  unfold leaveRetry
  with_reducible repeat'
    first
      | assumption | apply ctxRetire_keeps | refine keeps_ite ?_ ?_
      | fail_if_no_progress refine keeps_mk ?_ rfl rfl rfl ⟨rfl, rfl, rfl, rfl⟩ | dsimp only | refine keeps_fold ?_ ?_
      | intro _ _ _

theorem riderRetry_keeps (s : State) (h : Keeps o s) : Keeps o (riderRetry s) := by
  unfold riderRetry
  with_reducible repeat'
    first
      | assumption | apply leaveRetry_keeps | apply mirrorRetry_keeps | apply riderRun_keeps | apply riderFinish_keeps
      | refine keeps_ite ?_ ?_ | split | dsimp only | refine keeps_of_pair (by assumption) ?_

theorem riderMoved_keeps (s : State) (c) (h : Keeps o s) : Keeps o (riderMoved s c) := by
  unfold riderMoved
  with_reducible repeat' first | assumption | apply riderFinish_keeps | apply ctxPin_keeps | refine keeps_ite ?_ ?_ | split

theorem riderGiveUp_keeps (s : State) (h : Keeps o s) : Keeps o (riderGiveUp s) := by
  unfold riderGiveUp
  with_reducible repeat'
    first
      | assumption | apply riderFinish_keeps | apply migrateAbort_keeps | refine keeps_ite ?_ ?_ | split

theorem pageOutEnd_keeps (s : State) (c) (ecc) (h : Keeps o s) : Keeps o (pageOutEnd s c ecc) := by
  unfold pageOutEnd
  with_reducible repeat'
    first
      | assumption | apply ctxPoison_keeps | apply hostOrdered_keeps | apply rdrCount_keeps | apply ctxMod_keeps
      | apply riderRetry_keeps | apply pageWant_keeps | apply pageKick_keeps | refine keeps_ite ?_ ?_
      | fail_if_no_progress refine keeps_mk ?_ rfl rfl rfl ⟨rfl, rfl, rfl, rfl⟩

theorem pageInEnd_keeps (s : State) (c) (home) (h : Keeps o s) : Keeps o (pageInEnd s c home) := by
  unfold pageInEnd
  with_reducible repeat'
    first
      | assumption | apply riderRetry_keeps | apply pageKick_keeps | apply rdrRaise_keeps | apply ctxPoison_keeps
      | apply rdrCount_keeps | apply journalNow_keeps | apply ctxMod_keeps | apply holdRelease_keeps | refine keeps_ite ?_ ?_
      | fail_if_no_progress refine keeps_mk ?_ rfl rfl rfl ⟨rfl, rfl, rfl, rfl⟩ | split | dsimp only

end Sys2Proof.Machine
end

