-- ==== Sys2Proof/Laws/Keeps/Twin.lean ====
section
/-!
SUPPORT. Every transformation of the state in Machine/SenOps.lean, Machine/CulOps.lean, Machine/Culvert.lean leaves the
queue as it was and keeps the invariant.
-/
namespace Sys2Proof.Machine

variable {o : State}

theorem regSet256_keeps (s : State) (a) (x) (h : Keeps o s) : Keeps o (regSet256 s a x) := by
  unfold regSet256
  with_reducible repeat' first | assumption | apply regSet_keeps | refine keeps_fold ?_ ?_ | intro _ _ _

theorem senShow_keeps (s : State) (h : Keeps o s) : Keeps o (senShow s) := by
  unfold senShow
  with_reducible repeat'
    first
      | assumption | apply regSetFld_keeps | apply regSet256_keeps | apply regSet_keeps | refine keeps_ite ?_ ?_ | dsimp only
      | refine keeps_fold ?_ ?_ | intro _ _ _

theorem senRaise_keeps (s : State) (bit) (h : Keeps o s) : Keeps o (senRaise s bit) := by
  unfold senRaise
  with_reducible repeat'
    first
      | assumption | apply raise_keeps | refine keeps_ite ?_ ?_
      | fail_if_no_progress refine keeps_mk ?_ rfl rfl rfl ⟨rfl, rfl, rfl, rfl⟩

theorem senLog_keeps (s : State) (kind) (actions) (h : Keeps o s) : Keeps o (senLog s kind actions) := by
  unfold senLog
  with_reducible repeat'
    first
      | assumption | apply senRaise_keeps | apply senShow_keeps
      | fail_if_no_progress refine keeps_mk ?_ rfl rfl rfl ⟨rfl, rfl, rfl, rfl⟩

theorem senApply_keeps (s : State) (w) (h : Keeps o s) : Keeps o (senApply s w) := by
  unfold senApply
  with_reducible repeat'
    first
      | assumption | apply senLog_keeps | apply senShow_keeps
      | fail_if_no_progress refine keeps_mk ?_ rfl rfl rfl ⟨rfl, rfl, rfl, rfl⟩ | split

theorem senStart_keeps (s : State) (w) (h : Keeps o s) : Keeps o (senStart s w) := by
  unfold senStart
  with_reducible repeat'
    first
      | assumption | apply regSetFld_keeps | refine keeps_ite ?_ ?_
      | fail_if_no_progress refine keeps_mk ?_ rfl rfl rfl ⟨rfl, rfl, rfl, rfl⟩

theorem senEnd_keeps (s : State) (ofCul) (h : Keeps o s) : Keeps o (senEnd s ofCul) := by
  unfold senEnd
  with_reducible repeat' first | assumption | apply regSetFld_keeps | apply raise_keeps | refine keeps_ite ?_ ?_

theorem senDone_keeps (s : State) (h : Keeps o s) : Keeps o (senDone s) := by
  unfold senDone
  with_reducible repeat'
    first
      | assumption | apply senApply_keeps | apply senEnd_keeps | refine keeps_ite ?_ ?_
      | fail_if_no_progress refine keeps_mk ?_ rfl rfl rfl ⟨rfl, rfl, rfl, rfl⟩ | split

theorem senThaw_keeps (s : State) (h : Keeps o s) : Keeps o (senThaw s) := by
  unfold senThaw
  with_reducible repeat'
    first
      | assumption | apply senShow_keeps | apply senEnd_keeps | apply raise_keeps | refine keeps_ite ?_ ?_
      | fail_if_no_progress refine keeps_mk ?_ rfl rfl rfl ⟨rfl, rfl, rfl, rfl⟩

theorem culRaise_keeps (s : State) (bit) (h : Keeps o s) : Keeps o (culRaise s bit) := by
  unfold culRaise
  with_reducible repeat' first | assumption | apply raise_keeps

theorem culBitSet_keeps (s : State) (i) (b) (h : Keeps o s) : Keeps o (culBitSet s i b) := by
  unfold culBitSet
  with_reducible repeat' first | assumption | apply regSetFld_keeps

theorem peerWrites_keeps (s : State) (x1) (h : Keeps o s) : Keeps o (peerWrites s x1).2 := by
  fun_induction peerWrites s x1 <;> (with_reducible repeat'
    first
      | assumption | apply tankPut_keeps | refine keeps_of_pair (by assumption) ?_ | apply_assumption)

theorem peerStatus_keeps (s : State) (h : Keeps o s) : Keeps o (peerStatus s) := by
  unfold peerStatus
  with_reducible repeat'
    first
      | assumption | apply peerWrites_keeps | apply culRaise_keeps | apply culCount_keeps | apply regSetFld_keeps
      | refine keeps_ite ?_ ?_ | fail_if_no_progress refine keeps_mk ?_ rfl rfl rfl ⟨rfl, rfl, rfl, rfl⟩

theorem hbSend_keeps (s : State) (h : Keeps o s) : Keeps o (hbSend s) := by
  unfold hbSend
  with_reducible repeat'
    first
      | assumption | apply culCount_keeps | apply emit_keeps | refine keeps_ite ?_ ?_
      | fail_if_no_progress refine keeps_mk ?_ rfl rfl rfl ⟨rfl, rfl, rfl, rfl⟩

theorem culRoleSet_keeps (s : State) (r) (h : Keeps o s) : Keeps o (culRoleSet s r) := by
  unfold culRoleSet
  with_reducible repeat'
    first
      | assumption | apply regSetFld_keeps | apply culBitSet_keeps | apply culRaise_keeps | refine keeps_ite ?_ ?_
      | fail_if_no_progress refine keeps_mk ?_ rfl rfl rfl ⟨rfl, rfl, rfl, rfl⟩

theorem culTo_keeps (s : State) (r) (h : Keeps o s) : Keeps o (culTo s r) := by
  unfold culTo
  with_reducible repeat' first | assumption | apply peerStatus_keeps | apply culRoleSet_keeps | refine keeps_ite ?_ ?_

theorem promote_keeps (s : State) (h : Keeps o s) : Keeps o (promote s) := by
  unfold promote
  with_reducible repeat'
    first
      | assumption | apply regSet_keeps | apply culRoleSet_keeps | apply culBitSet_keeps | apply culRaise_keeps
      | apply culCount_keeps | apply hbSend_keeps | apply peerStatus_keeps | apply pubTakeover_keeps
      | fail_if_no_progress refine keeps_mk ?_ rfl rfl rfl ⟨rfl, rfl, rfl, rfl⟩

theorem culSettle_keeps (s : State) (h : Keeps o s) : Keeps o (culSettle s) := by
  unfold culSettle
  with_reducible repeat'
    first
      | assumption | apply culBitSet_keeps | apply culTo_keeps | apply hbSend_keeps | refine keeps_ite ?_ ?_
      | fail_if_no_progress refine keeps_mk ?_ rfl rfl rfl ⟨rfl, rfl, rfl, rfl⟩

theorem culEvent_keeps (s : State) (k) (h : Keeps o s) (hk : ∀ y0, Keeps o y0 → Keeps o (k y0)) :
    KeepsNext o (culEvent s k) := by
  unfold culEvent
  with_reducible repeat' first | assumption | apply domEvent_keeps | apply culSettle_keeps | apply hk | intro _ _

theorem culUnpair_keeps (s : State) (h : Keeps o s) : Keeps o (culUnpair s) := by
  unfold culUnpair
  with_reducible repeat'
    first
      | assumption | apply regSetFld_keeps | apply culBitSet_keeps
      | fail_if_no_progress refine keeps_mk ?_ rfl rfl rfl ⟨rfl, rfl, rfl, rfl⟩

theorem handoverCancel_keeps (s : State) (h : Keeps o s) : Keeps o (handoverCancel s) := by
  unfold handoverCancel
  with_reducible repeat'
    first
      | assumption | apply gpEvent_keeps | refine keeps_ite ?_ ?_
      | fail_if_no_progress refine keeps_mk ?_ rfl rfl rfl ⟨rfl, rfl, rfl, rfl⟩ | dsimp only | refine keeps_fold ?_ ?_
      | intro _ _ _

theorem heartbeatLost_keeps (s : State) (h : Keeps o s) : Keeps o (heartbeatLost s) := by
  unfold heartbeatLost
  with_reducible repeat'
    first
      | assumption | apply culCount_keeps | apply culUnpair_keeps | apply handoverCancel_keeps | apply culRaise_keeps
      | apply promote_keeps | apply culTo_keeps | apply culBitSet_keeps | refine keeps_ite ?_ ?_

theorem pairCheck_keeps (s : State) (h : Keeps o s) : Keeps o (pairCheck s) := by
  unfold pairCheck
  with_reducible repeat'
    first
      | assumption | apply culBitSet_keeps | apply culRaise_keeps | apply hbSend_keeps | refine keeps_ite ?_ ?_
      | fail_if_no_progress refine keeps_mk ?_ rfl rfl rfl ⟨rfl, rfl, rfl, rfl⟩

theorem identSend_keeps (s : State) (h : Keeps o s) : Keeps o (identSend s) := by
  unfold identSend
  with_reducible repeat'
    first
      | assumption | apply emit_keeps | apply pairCheck_keeps
      | fail_if_no_progress refine keeps_mk ?_ rfl rfl rfl ⟨rfl, rfl, rfl, rfl⟩

theorem epochSeen_keeps (s : State) (e) (h : Keeps o s) : Keeps o (epochSeen s e) := by
  unfold epochSeen
  with_reducible repeat' first | assumption | apply regSet_keeps | refine keeps_ite ?_ ?_

theorem identMismatch_keeps (s : State) (h : Keeps o s) : Keeps o (identMismatch s) := by
  unfold identMismatch
  with_reducible repeat'
    first
      | assumption | apply culRaise_keeps | apply culBitSet_keeps | apply culUnpair_keeps | apply handoverCancel_keeps
      | apply culTo_keeps | refine keeps_ite ?_ ?_ | fail_if_no_progress refine keeps_mk ?_ rfl rfl rfl ⟨rfl, rfl, rfl, rfl⟩

theorem identTake_keeps (s : State) (m) (h : Keeps o s) : Keeps o (identTake s m) := by
  unfold identTake
  with_reducible repeat'
    first
      | assumption | apply epochSeen_keeps | apply regSet256_keeps | apply culBitSet_keeps | apply pairCheck_keeps
      | apply senStart_keeps | apply identMismatch_keeps | refine keeps_ite ?_ ?_
      | fail_if_no_progress refine keeps_mk ?_ rfl rfl rfl ⟨rfl, rfl, rfl, rfl⟩

theorem fullPass_keeps (s : State) (h : Keeps o s) : Keeps o (fullPass s) := by
  unfold fullPass
  with_reducible repeat'
    first
      | assumption | apply culCount_keeps | apply culFlush_keeps | apply culTime_keeps
      | fail_if_no_progress refine keeps_mk ?_ rfl rfl rfl ⟨rfl, rfl, rfl, rfl⟩

theorem mirrorAck_keeps (s : State) (ack) (h : Keeps o s) : Keeps o (mirrorAck s ack) := by
  unfold mirrorAck
  with_reducible repeat'
    first
      | assumption | apply culCount_keeps | apply emit_keeps | apply culFlush_keeps | refine keeps_ite ?_ ?_
      | fail_if_no_progress refine keeps_mk ?_ rfl rfl rfl ⟨rfl, rfl, rfl, rfl⟩ | split | dsimp only | refine keeps_fold ?_ ?_
      | intro _ _ _

theorem mirrorApply_keeps (s : State) (cls) (i) (b) (h : Keeps o s) : Keeps o (mirrorApply s cls i b) := by
  unfold mirrorApply
  with_reducible repeat'
    first
      | assumption | apply culCount_keeps | apply gpSet_keeps | apply subSet_keeps | apply regSet_keeps
      | apply mirrorCtx_keeps | apply culRaise_keeps | apply culBitSet_keeps | refine keeps_ite ?_ ?_
      | fail_if_no_progress refine keeps_mk ?_ rfl rfl rfl ⟨rfl, rfl, rfl, rfl⟩ | split

theorem lseqTake_keeps (s : State) (n) (k) (h : Keeps o s) (hk : ∀ y0, Keeps o y0 → Keeps o (k y0)) :
    Keeps o (lseqTake s n k) := by
  unfold lseqTake
  with_reducible repeat'
    first
      | assumption | refine keeps_ite ?_ ?_ | fail_if_no_progress refine keeps_mk ?_ rfl rfl rfl ⟨rfl, rfl, rfl, rfl⟩
      | apply hk

theorem mirrorTake_keeps (s : State) (m) (h : Keeps o s) : Keeps o (mirrorTake s m) := by
  unfold mirrorTake
  with_reducible repeat'
    first
      | assumption | apply lseqTake_keeps | apply epochSeen_keeps | apply mirrorApply_keeps | refine keeps_ite ?_ ?_
      | dsimp only | intro _ _

theorem takebackAsked_keeps (s : State) (h : Keeps o s) : Keeps o (takebackAsked s) := by
  unfold takebackAsked
  with_reducible repeat'
    first
      | assumption | refine keeps_ite ?_ ?_ | fail_if_no_progress refine keeps_mk ?_ rfl rfl rfl ⟨rfl, rfl, rfl, rfl⟩

theorem heartbeatRoles_keeps (s : State) (new) (h : Keeps o s) : Keeps o (heartbeatRoles s new) := by
  unfold heartbeatRoles
  with_reducible repeat'
    first
      | assumption | apply culRaise_keeps | apply culTo_keeps | apply regSet_keeps | apply culBitSet_keeps
      | apply promote_keeps | refine keeps_ite ?_ ?_

theorem heartbeatTake_keeps (s : State) (m) (h : Keeps o s) : Keeps o (heartbeatTake s m) := by
  unfold heartbeatTake
  with_reducible repeat'
    first
      | assumption | apply epochSeen_keeps | apply culCount_keeps | apply regSet_keeps | apply regSetFld_keeps
      | apply mirrorAck_keeps | apply culBitSet_keeps | apply heartbeatRoles_keeps | apply fullPass_keeps
      | apply peerStatus_keeps | apply takebackAsked_keeps | refine keeps_ite ?_ ?_
      | fail_if_no_progress refine keeps_mk ?_ rfl rfl rfl ⟨rfl, rfl, rfl, rfl⟩

theorem culTake_keeps (s : State) (m) (type) (k) (h : Keeps o s) (hk : ∀ y0, Keeps o y0 → Keeps o (k y0)) :
    Keeps o (culTake s m type k) := by
  unfold culTake
  with_reducible repeat' first | assumption | apply culCount_keeps | refine keeps_ite ?_ ?_ | apply hk

theorem imageServe_keeps (s : State) (h : Keeps o s) : Keeps o (imageServe s) := by
  unfold imageServe
  with_reducible repeat'
    first
      | assumption | apply fresh_keeps | apply emit_keeps | refine keeps_ite ?_ ?_
      | fail_if_no_progress refine keeps_mk ?_ rfl rfl rfl ⟨rfl, rfl, rfl, rfl⟩

theorem lanesKeep_keeps (s : State) (h : Keeps o s) : Keeps o (lanesKeep s) := by
  unfold lanesKeep
  with_reducible repeat' first | assumption | apply regSetFld_keeps

theorem culCommit_keeps (s : State) (h : Keeps o s) : Keeps o (culCommit s) := by
  unfold culCommit
  with_reducible repeat'
    first
      | assumption | apply culUnpair_keeps | apply culTo_keeps | apply regSetFld_keeps | apply lanesKeep_keeps
      | refine keeps_ite ?_ ?_ | fail_if_no_progress refine keeps_mk ?_ rfl rfl rfl ⟨rfl, rfl, rfl, rfl⟩

theorem culThaw_keeps (s : State) (h : Keeps o s) : Keeps o (culThaw s) := by
  unfold culThaw
  with_reducible repeat'
    first
      | assumption | apply regSetFld_keeps | apply culTo_keeps | apply culUnpair_keeps | refine keeps_ite ?_ ?_
      | fail_if_no_progress refine keeps_mk ?_ rfl rfl rfl ⟨rfl, rfl, rfl, rfl⟩

theorem culOff_keeps (s : State) (h : Keeps o s) : Keeps o (culOff s) := by
  unfold culOff
  with_reducible repeat' first | assumption | apply culBitSet_keeps | apply culUnpair_keeps | apply regSetFld_keeps

theorem witness_keeps (s : State) (epoch) (h : Keeps o s) : Keeps o (witness s epoch).2.2 := by
  unfold witness
  with_reducible repeat' first | assumption | apply promote_keeps | refine keeps_ite_snd_snd ?_ ?_

theorem execCulvertLaneUp_keeps (n) (s : State) (h : Keeps o s) : KeepsNext o (execCulvertLaneUp n s) := by
  unfold execCulvertLaneUp
  with_reducible repeat'
    first
      | assumption | apply culEvent_keeps | apply culRaise_keeps | apply culBitSet_keeps | apply identSend_keeps
      | refine keeps_ite ?_ ?_ | dsimp only | intro _ _

theorem execCulvertLaneDown_keeps (n) (s : State) (h : Keeps o s) : KeepsNext o (execCulvertLaneDown n s) := by
  unfold execCulvertLaneDown
  with_reducible repeat'
    first
      | assumption | apply culEvent_keeps | apply culRaise_keeps | apply culCount_keeps | apply culBitSet_keeps
      | refine keeps_ite ?_ ?_ | intro _ _

theorem execIdentTimer_keeps (s : State) (h : Keeps o s) : KeepsNext o (execIdentTimer s) := by
  unfold execIdentTimer
  with_reducible repeat' first | assumption | apply culEvent_keeps | apply identSend_keeps | refine keeps_ite ?_ ?_ | intro _ _

theorem execIdentRx_keeps (bytes) (s : State) (h : Keeps o s) : KeepsNext o (execIdentRx bytes s) := by
  unfold execIdentRx
  with_reducible repeat'
    first
      | assumption | apply culEvent_keeps | apply culTake_keeps | apply identTake_keeps | split | intro _ _

theorem execHeartbeatTimer_keeps (s : State) (h : Keeps o s) : KeepsNext o (execHeartbeatTimer s) := by
  unfold execHeartbeatTimer
  with_reducible repeat' first | assumption | apply culEvent_keeps | apply hbSend_keeps | refine keeps_ite ?_ ?_ | intro _ _

theorem execHeartbeatRx_keeps (bytes) (s : State) (h : Keeps o s) : KeepsNext o (execHeartbeatRx bytes s) := by
  unfold execHeartbeatRx
  with_reducible repeat'
    first
      | assumption | apply culEvent_keeps | apply culTake_keeps | apply heartbeatTake_keeps | refine keeps_ite ?_ ?_
      | intro _ _

theorem execHeartbeatLoss_keeps (s : State) (h : Keeps o s) : KeepsNext o (execHeartbeatLoss s) := by
  unfold execHeartbeatLoss
  with_reducible repeat'
    first
      | assumption | apply culEvent_keeps | apply heartbeatLost_keeps | refine keeps_ite ?_ ?_ | intro _ _

theorem execMirrorRx_keeps (bytes) (s : State) (h : Keeps o s) : KeepsNext o (execMirrorRx bytes s) := by
  unfold execMirrorRx
  with_reducible repeat'
    first
      | assumption | apply culEvent_keeps | apply culTake_keeps | apply mirrorTake_keeps | refine keeps_ite ?_ ?_ | intro _ _

theorem execImageRx_keeps (bytes) (s : State) (h : Keeps o s) : KeepsNext o (execImageRx bytes s) := by
  unfold execImageRx
  with_reducible repeat'
    first
      | assumption | apply culEvent_keeps | apply culTake_keeps | apply lseqTake_keeps | apply imageServe_keeps | intro _ _

theorem execMirrorTimeTimer_keeps (s : State) (h : Keeps o s) : KeepsNext o (execMirrorTimeTimer s) := by
  unfold execMirrorTimeTimer
  with_reducible repeat' first | assumption | apply culEvent_keeps | apply culTime_keeps | refine keeps_ite ?_ ?_ | intro _ _

theorem wireSet_keeps (s : State) (c) (h : Keeps o s) : Keeps o (wireSet s c) := by
  unfold wireSet
  with_reducible repeat'
    first
      | assumption | apply regSetFld_keeps | fail_if_no_progress refine keeps_mk ?_ rfl rfl rfl ⟨rfl, rfl, rfl, rfl⟩

theorem execRoleWireEdge_keeps (s : State) (h : Keeps o s) : KeepsNext o (execRoleWireEdge s) := by
  unfold execRoleWireEdge
  with_reducible repeat'
    first
      | assumption | apply culEvent_keeps | apply wireSet_keeps | apply culCount_keeps | refine keeps_ite ?_ ?_
      | fail_if_no_progress refine keeps_mk ?_ rfl rfl rfl ⟨rfl, rfl, rfl, rfl⟩ | split | dsimp only | intro _ _

theorem execRoleWireSilence_keeps (s : State) (h : Keeps o s) : KeepsNext o (execRoleWireSilence s) := by
  unfold execRoleWireSilence
  with_reducible repeat'
    first
      | assumption | apply culEvent_keeps | apply wireSet_keeps | refine keeps_ite ?_ ?_
      | fail_if_no_progress refine keeps_mk ?_ rfl rfl rfl ⟨rfl, rfl, rfl, rfl⟩ | split | dsimp only | intro _ _

theorem execPairWaitExpiry_keeps (s : State) (h : Keeps o s) : KeepsNext o (execPairWaitExpiry s) := by
  unfold execPairWaitExpiry
  with_reducible repeat'
    first
      | assumption | apply culEvent_keeps | apply culTo_keeps | apply culRaise_keeps | apply culBitSet_keeps
      | refine keeps_ite ?_ ?_ | fail_if_no_progress refine keeps_mk ?_ rfl rfl rfl ⟨rfl, rfl, rfl, rfl⟩ | split | dsimp only
      | intro _ _

theorem execTakebackSettleExpiry_keeps (s : State) (h : Keeps o s) : KeepsNext o (execTakebackSettleExpiry s) := by
  unfold execTakebackSettleExpiry
  with_reducible repeat'
    first
      | assumption | apply culEvent_keeps | apply culTo_keeps | refine keeps_ite ?_ ?_ | split | intro _ _

theorem execHandoverDone_keeps (s : State) (h : Keeps o s) : KeepsNext o (execHandoverDone s) := by
  unfold execHandoverDone
  with_reducible repeat'
    first
      | assumption | apply culEvent_keeps | apply culTo_keeps | refine keeps_ite ?_ ?_
      | fail_if_no_progress refine keeps_mk ?_ rfl rfl rfl ⟨rfl, rfl, rfl, rfl⟩ | split | dsimp only | intro _ _

theorem culRefuse_keeps (s : State) (h : Keeps o s) : Keeps o (culRefuse s) := by
  unfold culRefuse
  with_reducible repeat' first | assumption | apply culRaise_keeps

theorem culCmd_keeps (s : State) (f) (v) (op) (ok) (k) (h : Keeps o s) (hk : ∀ y0, Keeps o y0 → Keeps o (k y0)) :
    KeepsNext o (culCmd s f v op ok k) := by
  unfold culCmd
  with_reducible repeat'
    first
      | assumption | apply hostCmd_keeps | apply culRefuse_keeps | apply culSettle_keeps | apply regSetFld_keeps
      | refine keeps_ite ?_ ?_ | apply hk | intro _ _

theorem execCulFence_keeps (f) (v) (s : State) (h : Keeps o s) : KeepsNext o (execCulFence f v s) := by
  unfold execCulFence
  with_reducible repeat' first | assumption | apply culCmd_keeps | apply culTo_keeps | refine keeps_ite ?_ ?_ | intro _ _

theorem execCulUnfence_keeps (f) (v) (s : State) (h : Keeps o s) : KeepsNext o (execCulUnfence f v s) := by
  unfold execCulUnfence
  with_reducible repeat' first | assumption | apply culCmd_keeps | apply culTo_keeps | intro _ _

theorem execCulBind_keeps (f) (v) (s : State) (h : Keeps o s) : KeepsNext o (execCulBind f v s) := by
  unfold execCulBind
  with_reducible repeat'
    first
      | assumption | apply culCmd_keeps | apply senStart_keeps | apply culTo_keeps | refine keeps_ite ?_ ?_ | dsimp only
      | intro _ _

theorem execCulUnbind_keeps (f) (v) (s : State) (h : Keeps o s) : KeepsNext o (execCulUnbind f v s) := by
  unfold execCulUnbind
  with_reducible repeat' first | assumption | apply culCmd_keeps | apply senStart_keeps | intro _ _

theorem execSentinelWriteDone_keeps (s : State) (h : Keeps o s) : KeepsNext o (execSentinelWriteDone s) := by
  unfold execSentinelWriteDone
  with_reducible repeat' first | assumption | apply senDone_keeps | refine keeps_ite ?_ ?_ | refine keepsNext_next ?_

end Sys2Proof.Machine
end

