-- ==== Sys2Proof/Laws/Keeps/Flume.lean ====
section
/-!
SUPPORT. Every transformation of the state in Machine/FlumeOps.lean, Machine/Flume.lean leaves the queue as it was and
keeps the invariant.
-/
namespace Sys2Proof.Machine

variable {o : State}

theorem fluSet_keeps (s : State) (e) (x) (h : Keeps o s) : Keeps o (fluSet s e x) := by
  unfold fluSet
  with_reducible repeat' first | assumption | fail_if_no_progress refine keeps_mk ?_ rfl rfl rfl ⟨rfl, rfl, rfl, rfl⟩

theorem flmRaise_keeps (s : State) (e) (bit) (h : Keeps o s) : Keeps o (flmRaise s e bit) := by
  unfold flmRaise
  with_reducible repeat' first | assumption | apply raise_keeps | apply regSet_keeps

theorem flmCount_keeps (s : State) (e) (k) (n) (h : Keeps o s) : Keeps o (flmCount s e k n) := by
  unfold flmCount
  with_reducible repeat' first | assumption | apply countBy_keeps

theorem flmFault_keeps (s : State) (e) (code) (h : Keeps o s) : Keeps o (flmFault s e code) := by
  unfold flmFault
  with_reducible repeat' first | assumption | apply flmRaise_keeps | apply fluSet_keeps

theorem pinWrite_keeps (s : State) (e) (i) (lvl) (h : Keeps o s) : Keeps o (pinWrite s e i lvl) := by
  unfold pinWrite
  with_reducible repeat'
    first
      | assumption | apply emit_keeps | refine keeps_ite ?_ ?_
      | fail_if_no_progress refine keeps_mk ?_ rfl rfl rfl ⟨rfl, rfl, rfl, rfl⟩

theorem pinDir_keeps (s : State) (e) (i) (drive) (h : Keeps o s) : Keeps o (pinDir s e i drive) := by
  unfold pinDir
  with_reducible repeat' first | assumption | apply fluSet_keeps | apply emit_keeps | refine keeps_ite ?_ ?_

theorem pinShow_keeps (s : State) (n) (h : Keeps o s) : Keeps o (pinShow s n) := by
  unfold pinShow
  with_reducible repeat' first | assumption | apply emit_keeps | refine keeps_ite ?_ ?_

theorem bankCheck_keeps (s : State) (b) (h : Keeps o s) : Keeps o (bankCheck s b) := by
  unfold bankCheck
  with_reducible repeat' first | assumption | apply regSetFld_keeps | apply raise_keeps | refine keeps_ite ?_ ?_

theorem bankShow_keeps (was : State) (s : State) (b) (h0 : Keeps o was) (h1 : Keeps o s) : Keeps o (bankShow was s b) := by
  unfold bankShow
  with_reducible repeat' first | assumption | apply pinShow_keeps | refine keeps_ite ?_ ?_ | refine keeps_fold ?_ ?_

theorem flagsTouch_keeps (s : State) (h : Keeps o s) : Keeps o (flagsTouch s) := by
  unfold flagsTouch
  with_reducible repeat'
    first
      | assumption | refine keeps_ite ?_ ?_ | fail_if_no_progress refine keeps_mk ?_ rfl rfl rfl ⟨rfl, rfl, rfl, rfl⟩

theorem flagsSet_keeps (s : State) (e) (mask) (h : Keeps o s) : Keeps o (flagsSet s e mask) := by
  unfold flagsSet
  with_reducible repeat'
    first
      | assumption | apply flagsTouch_keeps | apply flmRaise_keeps | apply regSet_keeps | refine keeps_ite ?_ ?_
      | fail_if_no_progress refine keeps_mk ?_ rfl rfl rfl ⟨rfl, rfl, rfl, rfl⟩

theorem flagsClear_keeps (s : State) (mask) (h : Keeps o s) : Keeps o (flagsClear s mask) := by
  unfold flagsClear
  with_reducible repeat'
    first
      | assumption | apply flagsTouch_keeps | fail_if_no_progress refine keeps_mk ?_ rfl rfl rfl ⟨rfl, rfl, rfl, rfl⟩

theorem flmTicks_keeps (s : State) (e) (n) (h : Keeps o s) : Keeps o (flmTicks s e n) := by
  unfold flmTicks
  with_reducible repeat' first | assumption | apply fluSet_keeps

theorem flagTake_keeps (s : State) (f) (h : Keeps o s) : Keeps o (flagTake s f) := by
  unfold flagTake
  with_reducible repeat'
    first
      | assumption | apply flagsClear_keeps | fail_if_no_progress refine keeps_mk ?_ rfl rfl rfl ⟨rfl, rfl, rfl, rfl⟩

theorem txqPut_keeps (s : State) (e) (w) (h : Keeps o s) : Keeps o (txqPut s e w) := by
  unfold txqPut
  with_reducible repeat' first | assumption | apply fluSet_keeps

theorem rxqTake_keeps (s : State) (e) (h : Keeps o s) : Keeps o (rxqTake s e) := by
  unfold rxqTake
  with_reducible repeat' first | assumption | apply fluSet_keeps

theorem flmFetch_keeps (s : State) (e) (h : Keeps o s) : KeepsFlume o (flmFetch s e) := by
  unfold flmFetch
  with_reducible repeat'
    first
      | assumption | apply flmCount_keeps | apply fluSet_keeps | refine keepsFlume_ite ?_ ?_ | refine KeepsFlume.ok _ ?_
      | refine KeepsFlume.stall _ ?_ | exact KeepsFlume.bad _ | split

theorem flmTake1_keeps (s : State) (e) (h : Keeps o s) : KeepsFlume o (flmTake1 s e) := by
  unfold flmTake1
  with_reducible repeat'
    first
      | assumption | apply fluSet_keeps | apply flmFetch_keeps | refine keepsFlume_ite ?_ ?_ | refine KeepsFlume.ok _ ?_
      | refine KeepsFlume.stall _ ?_ | exact KeepsFlume.bad _ | split | refine keeps_of_ok (by assumption) ?_
      | refine keeps_of_stall (by assumption) ?_

theorem flmPush_keeps (s : State) (e) (w) (h : Keeps o s) : KeepsFlume o (flmPush s e w) := by
  unfold flmPush
  with_reducible repeat'
    first
      | assumption | apply flmCount_keeps | apply fluSet_keeps | refine keepsFlume_ite ?_ ?_ | refine KeepsFlume.ok _ ?_
      | refine KeepsFlume.stall _ ?_ | exact KeepsFlume.bad _

theorem flmDeposit_keeps (s : State) (e) (h : Keeps o s) : KeepsFlume o (flmDeposit s e) := by
  unfold flmDeposit
  with_reducible repeat'
    first
      | assumption | apply flmPush_keeps | apply fluSet_keeps | refine KeepsFlume.ok _ ?_ | split
      | refine keeps_of_ok (by assumption) ?_

theorem flmAppend1_keeps (s : State) (e) (b) (h : Keeps o s) : Keeps o (flmAppend1 s e b) := by
  unfold flmAppend1
  with_reducible repeat' first | assumption | apply flmCount_keeps | apply fluSet_keeps | refine keeps_ite ?_ ?_

theorem flmStall_keeps (s : State) (e) (code) (r) (h : Keeps o s) : Keeps o (flmStall s e code r) := by
  unfold flmStall
  with_reducible repeat' first | assumption | apply flmTicks_keeps | apply flmCount_keeps | apply fluSet_keeps

theorem flmDone_keeps (s : State) (e) (h : Keeps o s) : Keeps o (flmDone s e) := by
  unfold flmDone
  with_reducible repeat' first | assumption | apply fluSet_keeps

theorem flmHold_keeps (s : State) (e) (r) (h : Keeps o s) : Keeps o (flmHold s e r) := by
  unfold flmHold
  with_reducible repeat' first | assumption | apply fluSet_keeps

theorem flmEnd_keeps (s : State) (e) (ticks) (h : Keeps o s) : Keeps o (flmEnd s e ticks) := by
  unfold flmEnd
  with_reducible repeat'
    first
      | assumption | apply flmTicks_keeps | apply flmDone_keeps | apply flmHold_keeps | refine keeps_ite ?_ ?_

theorem flmJump_keeps (s : State) (e) (a) (h : Keeps o s) : Keeps o (flmJump s e a) := by
  unfold flmJump
  with_reducible repeat' first | assumption | apply flmTicks_keeps | apply fluSet_keeps

theorem flmAppendAll_keeps (start : State) (e) (r) (x3 : State) (x4) (x5) (h0 : Keeps o start) (h1 : Keeps o x3) :
    Keeps o (flmAppendAll start e r x3 x4 x5) := by
  induction x5 generalizing x3 x4 with
  | nil =>
    cases x4
    all_goals unfold flmAppendAll
    all_goals try dsimp only
    all_goals with_reducible repeat' first | assumption | apply flmDeposit_keeps | apply flmEnd_keeps | apply flmAppend1_keeps | apply flmStall_keeps | apply flmFault_keeps | refine keeps_ite ?_ ?_ | split | refine keeps_of_ok (by assumption) ?_ | refine keeps_of_stall (by assumption) ?_ | apply_assumption
  | cons b t ih =>
    cases x4
    all_goals unfold flmAppendAll
    all_goals try dsimp only
    all_goals with_reducible repeat' first | assumption | apply flmDeposit_keeps | apply flmEnd_keeps | apply flmAppend1_keeps | apply flmStall_keeps | apply flmFault_keeps | refine keeps_ite ?_ ?_ | split | refine keeps_of_ok (by assumption) ?_ | refine keeps_of_stall (by assumption) ?_ | apply_assumption

theorem flmTakeAll_keeps (start : State) (e) (r) (fin) (x4 : State) (x5) (x6) (h0 : Keeps o start) (h1 : Keeps o x4) (hfin : ∀ y0 y1, Keeps o y0 → Keeps o (fin y0 y1)) :
    Keeps o (flmTakeAll start e r fin x4 x5 x6) := by
  fun_induction flmTakeAll start e r fin x4 x5 x6 <;> (with_reducible repeat'
    first
      | assumption | apply flmTake1_keeps | apply flmStall_keeps | apply flmFault_keeps | apply hfin
      | refine keeps_of_ok (by assumption) ?_ | refine keeps_of_stall (by assumption) ?_ | apply_assumption)

theorem flmSendCell_keeps (s : State) (e) (p) (inv) (r) (h : Keeps o s) : Keeps o (flmSendCell s e p inv r) := by
  unfold flmSendCell
  with_reducible repeat'
    first
      | assumption | apply flmTake1_keeps | apply flmTicks_keeps | apply pinWrite_keeps | apply flmDone_keeps
      | apply flmHold_keeps | apply flmStall_keeps | apply flmFault_keeps | refine keeps_ite ?_ ?_ | split
      | refine keeps_of_ok (by assumption) ?_ | refine keeps_of_stall (by assumption) ?_

theorem recvNext_keeps (s : State) (e) (r) (h : Keeps o s) : Keeps o (recvNext s e r) := by
  unfold recvNext
  with_reducible repeat'
    first
      | assumption | apply flmDone_keeps | apply flmTicks_keeps | apply flmHold_keeps | refine keeps_ite ?_ ?_

theorem flmRecvCell_keeps (s : State) (e) (p) (inv) (r) (h : Keeps o s) : Keeps o (flmRecvCell s e p inv r) := by
  unfold flmRecvCell
  with_reducible repeat'
    first
      | assumption | apply flmAppend1_keeps | apply flmDeposit_keeps | apply recvNext_keeps | apply flmStall_keeps
      | apply flmFault_keeps | refine keeps_ite ?_ ?_
      | fail_if_no_progress refine keeps_mk ?_ rfl rfl rfl ⟨rfl, rfl, rfl, rfl⟩ | split
      | refine keeps_of_ok (by assumption) ?_ | refine keeps_of_stall (by assumption) ?_

theorem pinWriteAll_keeps (s : State) (e) (x2) (x3) (h : Keeps o s) : Keeps o (pinWriteAll s e x2 x3) := by
  fun_induction pinWriteAll s e x2 x3 <;> (with_reducible repeat' first | assumption | apply pinWrite_keeps | apply_assumption)

theorem pinDirAll_keeps (s : State) (e) (x2) (x3) (h : Keeps o s) : Keeps o (pinDirAll s e x2 x3) := by
  fun_induction pinDirAll s e x2 x3 <;> (with_reducible repeat' first | assumption | apply pinDir_keeps | apply_assumption)

theorem flmMark_keeps (s : State) (e) (r) (h : Keeps o s) : Keeps o (flmMark s e r) := by
  unfold flmMark
  with_reducible repeat'
    first
      | assumption | apply flmDone_keeps | apply fluSet_keeps | apply flmEnd_keeps | apply flmStall_keeps
      | refine keeps_ite ?_ ?_

theorem flmTry_keeps (s : State) (e) (r) (edge) (h : Keeps o s) : Keeps o (flmTry s e r edge) := by
  unfold flmTry
  with_reducible repeat'
    first
      | assumption | apply flmEnd_keeps | apply flmHold_keeps | apply flmTicks_keeps | apply flmSendCell_keeps
      | apply flmRecvCell_keeps | apply flmAppendAll_keeps | apply flmTakeAll_keeps | apply pinWriteAll_keeps
      | apply fluSet_keeps | apply flmJump_keeps | apply pinDirAll_keeps | apply flmStall_keeps | apply flagTake_keeps
      | apply flmMark_keeps | apply flmFetch_keeps | apply flmFault_keeps | apply flmDeposit_keeps | apply flmCount_keeps
      | apply flmPush_keeps | refine keeps_ite ?_ ?_ | split | intro _ _ _ | intro _ _ | refine keeps_of_ok (by assumption) ?_
      | refine keeps_of_stall (by assumption) ?_

theorem flmIssue_keeps (s : State) (e) (w) (k) (h : Keeps o s) (hk : ∀ y0, Keeps o y0 → Keeps o (k y0)) :
    KeepsNext o (flmIssue s e w k) := by
  unfold flmIssue
  with_reducible repeat' first | assumption | apply domEvent_keeps | refine keeps_ite ?_ ?_ | apply hk | intro _ _

theorem flmDo_keeps (s : State) (e) (op) (left) (bits) (edge) (h : Keeps o s) : Keeps o (flmDo s e op left bits edge) := by
  unfold flmDo
  with_reducible repeat' first | assumption | apply flmTry_keeps

theorem flmProgRefused_keeps (s : State) (e) (h : Keeps o s) : Keeps o (flmProgRefused s e) := by
  unfold flmProgRefused
  with_reducible repeat' first | assumption | apply flmRaise_keeps | apply flmCount_keeps | apply regSetFld_keeps

theorem flmPrepare_keeps (s : State) (e) (resume) (due) (h : Keeps o s) : Keeps o (flmPrepare s e resume due) := by
  unfold flmPrepare
  with_reducible repeat' first | assumption | apply fluSet_keeps | apply flmTicks_keeps | refine keeps_ite ?_ ?_ | split

theorem flmMode_keeps (s : State) (e) (m) (h : Keeps o s) : Keeps o (flmMode s e m) := by
  unfold flmMode
  with_reducible repeat' first | assumption | apply fluSet_keeps

theorem flmStart_keeps (s : State) (e) (resume) (h : Keeps o s) : Keeps o (flmStart s e resume) := by
  unfold flmStart
  with_reducible repeat'
    first
      | assumption | apply flmRaise_keeps | apply flmMode_keeps | apply flmPrepare_keeps | refine keeps_ite ?_ ?_

theorem flmStartMatch_keeps (s : State) (e) (resume) (h : Keeps o s) : Keeps o (flmStartMatch s e resume) := by
  unfold flmStartMatch
  with_reducible repeat'
    first
      | assumption | apply fluSet_keeps | apply flmRaise_keeps | apply flmCount_keeps | apply flmMode_keeps
      | apply flmPrepare_keeps | refine keeps_ite ?_ ?_

theorem flmFire_keeps (s : State) (e) (h : Keeps o s) : Keeps o (flmFire s e) := by
  unfold flmFire
  with_reducible repeat' first | assumption | apply flmMode_keeps | apply flmPrepare_keeps

theorem flmStop_keeps (s : State) (e) (h : Keeps o s) : Keeps o (flmStop s e) := by
  unfold flmStop
  with_reducible repeat' first | assumption | apply fluSet_keeps | refine keeps_ite ?_ ?_

theorem flmPass_keeps (s : State) (e) (h : Keeps o s) : Keeps o (flmPass s e) := by
  unfold flmPass
  with_reducible repeat' first | assumption | apply flmTicks_keeps | apply flmCount_keeps | refine keeps_ite ?_ ?_

theorem flmAct_keeps (s : State) (e) (h : Keeps o s) : Keeps o (flmAct s e) := by
  unfold flmAct
  with_reducible repeat' first | assumption | apply flmTry_keeps | refine keeps_ite ?_ ?_ | split | dsimp only

theorem flmCtl_keeps (s : State) (e) (v) (h : Keeps o s) : Keeps o (flmCtl s e v) := by
  unfold flmCtl
  with_reducible repeat'
    first
      | assumption | apply flmStop_keeps | apply flmStartMatch_keeps | apply flmStart_keeps | refine keeps_ite ?_ ?_

theorem ringStop_keeps (s : State) (e) (tx) (h : Keeps o s) : Keeps o (ringStop s e tx) := by
  unfold ringStop
  with_reducible repeat' first | assumption | apply fluSet_keeps | apply flmRaise_keeps | apply regSetFld_keeps

theorem dmaRead_keeps (s : State) (x) (h : Keeps o s) : Keeps o (dmaRead s x).2 := by
  unfold dmaRead
  with_reducible repeat'
    first
      | assumption | apply tankAccess_keeps | split | dsimp only | refine keeps_of_pair (by assumption) ?_

theorem dmaWrite_keeps (s : State) (x) (w) (h : Keeps o s) : Keeps o (dmaWrite s x w).2 := by
  unfold dmaWrite
  with_reducible repeat'
    first
      | assumption | apply tankAccess_keeps | split | dsimp only | refine keeps_of_pair (by assumption) ?_

theorem ringTake_keeps (s : State) (e) (tx) (h : Keeps o s) : Keeps o (ringTake s e tx) := by
  unfold ringTake
  with_reducible repeat'
    first
      | assumption | apply dmaRead_keeps | apply ringStop_keeps | apply fluSet_keeps | refine keeps_ite ?_ ?_ | split
      | refine keeps_of_pair (by assumption) ?_

theorem ringsTake_keeps (s : State) (e) (h : Keeps o s) : Keeps o (ringsTake s e) := by
  unfold ringsTake
  with_reducible repeat' first | assumption | apply ringTake_keeps

theorem ringPublish_keeps (s : State) (e) (tx) (h : Keeps o s) : Keeps o (ringPublish s e tx) := by
  unfold ringPublish
  with_reducible repeat' first | assumption | apply dmaWrite_keeps | apply ringStop_keeps | refine keeps_ite ?_ ?_

theorem dmaTx_keeps (e) (n) (put) (x3) (x4) (x5 : State) (h : Keeps o x5) : Keeps o (dmaTx e n put x3 x4 x5) := by
  fun_induction dmaTx e n put x3 x4 x5 <;> (with_reducible repeat'
    first
      | assumption | apply ringPublish_keeps | apply dmaRead_keeps | apply ringStop_keeps | apply txqPut_keeps
      | apply fluSet_keeps | dsimp only | refine keeps_of_pair (by assumption) ?_ | apply_assumption)

theorem dmaRx_keeps (e) (n) (get) (x3) (x4) (x5 : State) (h : Keeps o x5) : Keeps o (dmaRx e n get x3 x4 x5) := by
  fun_induction dmaRx e n get x3 x4 x5 <;> (with_reducible repeat'
    first
      | assumption | apply ringPublish_keeps | apply dmaWrite_keeps | apply ringStop_keeps | apply rxqTake_keeps
      | apply fluSet_keeps | dsimp only | refine keeps_of_pair (by assumption) ?_ | apply_assumption)

theorem regMask_keeps (s : State) (a) (mask) (v) (h : Keeps o s) : Keeps o (regMask s a mask v) := by
  unfold regMask
  with_reducible repeat' first | assumption | apply regSet_keeps

theorem execBankSupplyCheck_keeps (b) (millivolts) (s : State) (h : Keeps o s) :
    KeepsNext o (execBankSupplyCheck b millivolts s) := by
  unfold execBankSupplyCheck
  with_reducible repeat'
    first
      | assumption | apply domEvent_keeps | apply bankShow_keeps | apply bankCheck_keeps | apply regSetFld_keeps | split
      | dsimp only | intro _ _

theorem execFlumeStart_keeps (f) (e) (v) (s : State) (h : Keeps o s) : KeepsNext o (execFlumeStart f e v s) := by
  unfold execFlumeStart
  with_reducible repeat' first | assumption | apply hostCmd_keeps | apply flmCtl_keeps | intro _ _

theorem execFlumeResume_keeps (f) (e) (v) (s : State) (h : Keeps o s) : KeepsNext o (execFlumeResume f e v s) := by
  unfold execFlumeResume
  with_reducible repeat' first | assumption | apply hostCmd_keeps | apply flmCtl_keeps | intro _ _

theorem execFlumeStartMatch_keeps (f) (e) (v) (s : State) (h : Keeps o s) : KeepsNext o (execFlumeStartMatch f e v s) := by
  unfold execFlumeStartMatch
  with_reducible repeat' first | assumption | apply hostCmd_keeps | apply flmCtl_keeps | intro _ _

theorem execFlumeStop_keeps (f) (e) (v) (s : State) (h : Keeps o s) : KeepsNext o (execFlumeStop f e v s) := by
  unfold execFlumeStop
  with_reducible repeat' first | assumption | apply hostCmd_keeps | apply flmCtl_keeps | intro _ _

theorem execFlumeMatchReached_keeps (e) (s : State) (h : Keeps o s) : KeepsNext o (execFlumeMatchReached e s) := by
  unfold execFlumeMatchReached
  with_reducible repeat'
    first
      | assumption | apply domEvent_keeps | apply flmFire_keeps | refine keeps_ite ?_ ?_ | dsimp only | intro _ _

theorem execFlumeStallResume_keeps (e) (pins) (edgeAt) (s : State) (h : Keeps o s) :
    KeepsNext o (execFlumeStallResume e pins edgeAt s) := by
  unfold execFlumeStallResume
  with_reducible repeat'
    first
      | assumption | apply domEvent_keeps | apply flmTry_keeps | refine keeps_ite ?_ ?_
      | fail_if_no_progress refine keeps_mk ?_ rfl rfl rfl ⟨rfl, rfl, rfl, rfl⟩ | split | dsimp only | intro _ _

theorem execFIdle_keeps (e) (n1) (s : State) (h : Keeps o s) : KeepsNext o (execFIdle e n1 s) := by
  unfold execFIdle
  with_reducible repeat' first | assumption | apply flmIssue_keeps | apply flmEnd_keeps | intro _ _

theorem maskedPins_keeps (s : State) (m) (v) (k) (h : Keeps o s) (hk : ∀ y0 y1 y2, Keeps o y0 → Keeps o (k y0 y1 y2)) :
    Keeps o (maskedPins s m v k) := by
  unfold maskedPins
  with_reducible repeat' first | assumption | refine keeps_ite ?_ ?_ | apply hk | refine keeps_fold ?_ ?_ | intro _ _ _

theorem execFDrive_keeps (e) (m) (v) (t) (s : State) (h : Keeps o s) : KeepsNext o (execFDrive e m v t s) := by
  unfold execFDrive
  with_reducible repeat'
    first
      | assumption | apply flmIssue_keeps | apply flmEnd_keeps | apply maskedPins_keeps | apply pinWrite_keeps | intro _ _ _
      | intro _ _

theorem execFDir_keeps (e) (m) (d) (s : State) (h : Keeps o s) : KeepsNext o (execFDir e m d s) := by
  unfold execFDir
  with_reducible repeat'
    first
      | assumption | apply flmIssue_keeps | apply flmEnd_keeps | apply maskedPins_keeps | apply pinDir_keeps | intro _ _ _
      | intro _ _

theorem execFFlumeSend_keeps (e) (n1) (p) (inv) (s : State) (h : Keeps o s) : KeepsNext o (execFFlumeSend e n1 p inv s) := by
  unfold execFFlumeSend
  with_reducible repeat'
    first
      | assumption | apply flmIssue_keeps | apply flmFault_keeps | apply flmDo_keeps | refine keeps_ite ?_ ?_ | intro _ _

theorem execFRecv_keeps (e) (n1) (p) (inv) (pins) (s : State) (h : Keeps o s) : KeepsNext o (execFRecv e n1 p inv pins s) := by
  unfold execFRecv
  with_reducible repeat'
    first
      | assumption | apply flmIssue_keeps | apply flmRecvCell_keeps | apply flmHold_keeps | apply flmTicks_keeps
      | refine keeps_ite ?_ ?_ | dsimp only | intro _ _

theorem execFEmit_keeps (e) (n1) (t) (s : State) (h : Keeps o s) : KeepsNext o (execFEmit e n1 t s) := by
  unfold execFEmit
  with_reducible repeat' first | assumption | apply flmIssue_keeps | apply flmDo_keeps | intro _ _

theorem execFGather_keeps (e) (n1) (pins) (s : State) (h : Keeps o s) : KeepsNext o (execFGather e n1 pins s) := by
  unfold execFGather
  with_reducible repeat'
    first
      | assumption | apply flmIssue_keeps | apply flmDo_keeps
      | fail_if_no_progress refine keeps_mk ?_ rfl rfl rfl ⟨rfl, rfl, rfl, rfl⟩ | dsimp only | intro _ _

theorem execFWaitLevel_keeps (e) (pol) (p) (pins) (s : State) (h : Keeps o s) :
    KeepsNext o (execFWaitLevel e pol p pins s) := by
  unfold execFWaitLevel
  with_reducible repeat'
    first
      | assumption | apply flmIssue_keeps | apply flmDo_keeps
      | fail_if_no_progress refine keeps_mk ?_ rfl rfl rfl ⟨rfl, rfl, rfl, rfl⟩ | dsimp only | intro _ _

theorem execFWaitEdge_keeps (e) (pol) (p) (edgeAt) (s : State) (h : Keeps o s) :
    KeepsNext o (execFWaitEdge e pol p edgeAt s) := by
  unfold execFWaitEdge
  with_reducible repeat' first | assumption | apply flmIssue_keeps | apply flmDo_keeps | intro _ _

theorem execFWaitFlag_keeps (e) (pol) (clr) (rel) (flag) (s : State) (h : Keeps o s) :
    KeepsNext o (execFWaitFlag e pol clr rel flag s) := by
  unfold execFWaitFlag
  with_reducible repeat' first | assumption | apply flmIssue_keeps | apply flmDo_keeps | intro _ _

theorem execFWaitMark_keeps (e) (s : State) (h : Keeps o s) : KeepsNext o (execFWaitMark e s) := by
  unfold execFWaitMark
  with_reducible repeat' first | assumption | apply flmIssue_keeps | apply flmDo_keeps | intro _ _

theorem execFBr_keeps (e) (c) (a) (pins) (s : State) (h : Keeps o s) : KeepsNext o (execFBr e c a pins s) := by
  unfold execFBr
  with_reducible repeat'
    first
      | assumption | apply flmIssue_keeps | apply flmJump_keeps | apply flmEnd_keeps | refine keeps_ite ?_ ?_
      | fail_if_no_progress refine keeps_mk ?_ rfl rfl rfl ⟨rfl, rfl, rfl, rfl⟩ | dsimp only | intro _ _

theorem execFLoop_keeps (e) (k) (a) (s : State) (h : Keeps o s) : KeepsNext o (execFLoop e k a s) := by
  unfold execFLoop
  with_reducible repeat'
    first
      | assumption | apply flmIssue_keeps | apply fluSet_keeps | apply flmJump_keeps | apply flmEnd_keeps
      | refine keeps_ite ?_ ?_ | dsimp only | intro _ _

theorem execFFlagSet_keeps (e) (rel) (flag) (s : State) (h : Keeps o s) : KeepsNext o (execFFlagSet e rel flag s) := by
  unfold execFFlagSet
  with_reducible repeat' first | assumption | apply flmIssue_keeps | apply flmEnd_keeps | apply flagsSet_keeps | intro _ _

theorem execFFlagClear_keeps (e) (rel) (flag) (s : State) (h : Keeps o s) : KeepsNext o (execFFlagClear e rel flag s) := by
  unfold execFFlagClear
  with_reducible repeat' first | assumption | apply flmIssue_keeps | apply flmEnd_keeps | apply flagsClear_keeps | intro _ _

theorem execFFlagSetWait_keeps (e) (rel) (flag) (s : State) (h : Keeps o s) : KeepsNext o (execFFlagSetWait e rel flag s) := by
  unfold execFFlagSetWait
  with_reducible repeat' first | assumption | apply flmIssue_keeps | apply flmStall_keeps | apply flagsSet_keeps | intro _ _

theorem execFSetk_keeps (e) (k) (v) (s : State) (h : Keeps o s) : KeepsNext o (execFSetk e k v s) := by
  unfold execFSetk
  with_reducible repeat' first | assumption | apply flmIssue_keeps | apply flmEnd_keeps | apply fluSet_keeps | intro _ _

theorem execFAddk_keeps (e) (k) (v) (s : State) (h : Keeps o s) : KeepsNext o (execFAddk e k v s) := by
  unfold execFAddk
  with_reducible repeat' first | assumption | apply flmIssue_keeps | apply flmEnd_keeps | apply fluSet_keeps | intro _ _

theorem execFLoadk_keeps (e) (k) (s : State) (h : Keeps o s) : KeepsNext o (execFLoadk e k s) := by
  unfold execFLoadk
  with_reducible repeat' first | assumption | apply flmIssue_keeps | apply flmDo_keeps | intro _ _

theorem execFXferFetch_keeps (e) (s : State) (h : Keeps o s) : KeepsNext o (execFXferFetch e s) := by
  unfold execFXferFetch
  with_reducible repeat' first | assumption | apply flmIssue_keeps | apply flmDo_keeps | intro _ _

theorem execFXferTryFetch_keeps (e) (s : State) (h : Keeps o s) : KeepsNext o (execFXferTryFetch e s) := by
  unfold execFXferTryFetch
  with_reducible repeat'
    first
      | assumption | apply flmIssue_keeps | apply flmFetch_keeps | apply flmEnd_keeps | apply flmFault_keeps | split
      | intro _ _ | refine keeps_of_ok (by assumption) ?_ | refine keeps_of_stall (by assumption) ?_

theorem execFXferDeposit_keeps (e) (s : State) (h : Keeps o s) : KeepsNext o (execFXferDeposit e s) := by
  unfold execFXferDeposit
  with_reducible repeat' first | assumption | apply flmIssue_keeps | apply flmDo_keeps | intro _ _

theorem execFXferTryDeposit_keeps (e) (s : State) (h : Keeps o s) : KeepsNext o (execFXferTryDeposit e s) := by
  unfold execFXferTryDeposit
  with_reducible repeat'
    first
      | assumption | apply flmIssue_keeps | apply flmDeposit_keeps | apply flmEnd_keeps | apply flmRaise_keeps
      | apply flmCount_keeps | apply fluSet_keeps | apply flmFault_keeps | split | dsimp only | intro _ _
      | refine keeps_of_ok (by assumption) ?_ | refine keeps_of_stall (by assumption) ?_

theorem execFXferLoadm_keeps (e) (s : State) (h : Keeps o s) : KeepsNext o (execFXferLoadm e s) := by
  unfold execFXferLoadm
  with_reducible repeat' first | assumption | apply flmIssue_keeps | apply flmDo_keeps | intro _ _

theorem execFXferStamp_keeps (e) (s : State) (h : Keeps o s) : KeepsNext o (execFXferStamp e s) := by
  unfold execFXferStamp
  with_reducible repeat' first | assumption | apply flmIssue_keeps | apply flmDo_keeps | intro _ _

theorem execFXferNow_keeps (e) (s : State) (h : Keeps o s) : KeepsNext o (execFXferNow e s) := by
  unfold execFXferNow
  with_reducible repeat' first | assumption | apply flmIssue_keeps | apply flmDo_keeps | intro _ _

theorem execFXferBranchSl_keeps (e) (s : State) (h : Keeps o s) : KeepsNext o (execFXferBranchSl e s) := by
  unfold execFXferBranchSl
  with_reducible repeat' first | assumption | apply flmIssue_keeps | apply flmDo_keeps | intro _ _

theorem execFXferDirs_keeps (e) (s : State) (h : Keeps o s) : KeepsNext o (execFXferDirs e s) := by
  unfold execFXferDirs
  with_reducible repeat' first | assumption | apply flmIssue_keeps | apply flmDo_keeps | intro _ _

theorem execFXferClear_keeps (e) (s : State) (h : Keeps o s) : KeepsNext o (execFXferClear e s) := by
  unfold execFXferClear
  with_reducible repeat'
    first
      | assumption | apply flmIssue_keeps | apply flmEnd_keeps | apply fluSet_keeps | dsimp only | intro _ _

theorem execFlumeDmaTxPoll_keeps (e) (s : State) (h : Keeps o s) : KeepsNext o (execFlumeDmaTxPoll e s) := by
  unfold execFlumeDmaTxPoll
  with_reducible repeat'
    first
      | assumption | apply domEvent_keeps | apply dmaRead_keeps | apply ringStop_keeps | apply dmaTx_keeps
      | refine keeps_ite ?_ ?_ | split | dsimp only | intro _ _ | refine keeps_of_pair (by assumption) ?_

theorem execFlumeDmaRxWrite_keeps (e) (s : State) (h : Keeps o s) : KeepsNext o (execFlumeDmaRxWrite e s) := by
  unfold execFlumeDmaRxWrite
  with_reducible repeat'
    first
      | assumption | apply domEvent_keeps | apply dmaRead_keeps | apply ringStop_keeps | apply dmaRx_keeps
      | refine keeps_ite ?_ ?_ | split | dsimp only | intro _ _ | refine keeps_of_pair (by assumption) ?_

theorem execFlmDmaCtlWrite_keeps (f) (e) (v) (s : State) (h : Keeps o s) : KeepsNext o (execFlmDmaCtlWrite f e v s) := by
  unfold execFlmDmaCtlWrite
  with_reducible repeat'
    first
      | assumption | apply hostCmd_keeps | apply flmProgRefused_keeps | apply regMask_keeps | apply ringsTake_keeps
      | apply fluSet_keeps | refine keeps_ite ?_ ?_ | dsimp only | intro _ _

theorem execFlmTxqPush_keeps (f) (e) (v) (s : State) (h : Keeps o s) : KeepsNext o (execFlmTxqPush f e v s) := by
  unfold execFlmTxqPush
  with_reducible repeat'
    first
      | assumption | apply hostCmd_keeps | apply flmRaise_keeps | apply txqPut_keeps | refine keeps_ite ?_ ?_ | dsimp only
      | intro _ _

theorem execFlmRxqPop_keeps (f) (e) (s : State) (h : Keeps o s) : KeepsNext o (execFlmRxqPop f e s) := by
  unfold execFlmRxqPop
  with_reducible repeat'
    first
      | assumption | apply hostCmd_keeps | apply flmRaise_keeps | apply rxqTake_keeps | refine keeps_ite ?_ ?_
      | fail_if_no_progress refine keeps_mk ?_ rfl rfl rfl ⟨rfl, rfl, rfl, rfl⟩ | split | dsimp only | intro _ _

theorem execFlmFlagSetWrite_keeps (f) (v) (s : State) (h : Keeps o s) : KeepsNext o (execFlmFlagSetWrite f v s) := by
  unfold execFlmFlagSetWrite
  with_reducible repeat' first | assumption | apply hostCmd_keeps | apply flagsSet_keeps | intro _ _

theorem execFlmFlagClrWrite_keeps (f) (v) (s : State) (h : Keeps o s) : KeepsNext o (execFlmFlagClrWrite f v s) := by
  unfold execFlmFlagClrWrite
  with_reducible repeat' first | assumption | apply hostCmd_keeps | apply flagsClear_keeps | intro _ _

theorem pinConfigured_keeps (s : State) (n) (h : Keeps o s) : Keeps o (pinConfigured s n) := by
  unfold pinConfigured
  with_reducible repeat' first | assumption | apply emit_keeps

theorem execFlumeConfigWrite_keeps (f) (a) (v) (s : State) (h : Keeps o s) : KeepsNext o (execFlumeConfigWrite f a v s) := by
  unfold execFlumeConfigWrite
  with_reducible repeat'
    first
      | assumption | apply hostCmd_keeps | apply flmProgRefused_keeps | apply regMask_keeps | apply pinConfigured_keeps
      | refine keeps_ite ?_ ?_ | split | dsimp only | intro _ _

theorem execFlumeIllegalInstruction_keeps (e) (w) (s : State) (h : Keeps o s) :
    KeepsNext o (execFlumeIllegalInstruction e w s) := by
  unfold execFlumeIllegalInstruction
  with_reducible repeat' first | assumption | apply flmIssue_keeps | apply flmFault_keeps | refine keeps_ite ?_ ?_ | intro _ _

end Sys2Proof.Machine
end

