-- ==== Sys2Proof/Laws/Keeps/Memory.lean ====
section
/-!
SUPPORT. Every transformation of the state in Machine/FrzOps.lean, Machine/Tank.lean, Machine/KernMem.lean,
Machine/Sluice.lean, Machine/View.lean, Machine/FrzRead.lean leaves the queue as it was and keeps the invariant.
-/
namespace Sys2Proof.Machine

variable {o : State}

theorem crossDeliver_keeps (s : State) (ch) (w) (h : Keeps o s) : Keeps o (crossDeliver s ch w) := by
  unfold crossDeliver
  with_reducible repeat' first | assumption | fail_if_no_progress refine keeps_mk ?_ rfl rfl rfl ⟨rfl, rfl, rfl, rfl⟩

theorem crossHold_keeps (s : State) (ch) (w) (h : Keeps o s) : Keeps o (crossHold s ch w) := by
  unfold crossHold
  with_reducible repeat' first | assumption | fail_if_no_progress refine keeps_mk ?_ rfl rfl rfl ⟨rfl, rfl, rfl, rfl⟩ | split

theorem crossThaw_keeps (s : State) (h : Keeps o s) : Keeps o (crossThaw s) := by
  unfold crossThaw
  with_reducible repeat'
    first
      | assumption | apply crossDeliver_keeps | fail_if_no_progress refine keeps_mk ?_ rfl rfl rfl ⟨rfl, rfl, rfl, rfl⟩
      | split | dsimp only | refine keeps_fold ?_ ?_ | intro _ _ _

theorem freezeCut_keeps (s : State) (h : Keeps o s) : Keeps o (freezeCut s) := by
  unfold freezeCut
  with_reducible repeat'
    first
      | assumption | apply freePick_keeps | apply emit_keeps | split | dsimp only | refine keeps_fold ?_ ?_ | intro _ _ _

theorem freezeStart_keeps (s : State) (src) (timeRun) (h : Keeps o s) : Keeps o (freezeStart s src timeRun) := by
  unfold freezeStart
  with_reducible repeat'
    first
      | assumption | apply freezeCut_keeps | apply satInc_keeps | apply regSetFld_keeps | apply fresh_keeps
      | refine keeps_ite ?_ ?_ | fail_if_no_progress refine keeps_mk ?_ rfl rfl rfl ⟨rfl, rfl, rfl, rfl⟩

theorem freezeTrigger_keeps (s : State) (src) (tr) (h : Keeps o s) : Keeps o (freezeTrigger s src tr) := by
  unfold freezeTrigger
  with_reducible repeat'
    first
      | assumption | apply freezeStart_keeps | refine keeps_ite ?_ ?_
      | fail_if_no_progress refine keeps_mk ?_ rfl rfl rfl ⟨rfl, rfl, rfl, rfl⟩

theorem freezePending_keeps (s : State) (h : Keeps o s) : Keeps o (freezePending s) := by
  unfold freezePending
  with_reducible repeat'
    first
      | assumption | apply freezeTrigger_keeps | fail_if_no_progress refine keeps_mk ?_ rfl rfl rfl ⟨rfl, rfl, rfl, rfl⟩
      | split

theorem freezeArmed_keeps (s : State) (bit) (h : Keeps o s) : Keeps o (freezeArmed s bit) := by
  unfold freezeArmed
  with_reducible repeat' first | assumption | apply freezeTrigger_keeps | refine keeps_ite ?_ ?_

theorem fatal_keeps (s : State) (code) (h : Keeps o s) : Keeps o (fatal s code) := by
  unfold fatal
  with_reducible repeat'
    first
      | assumption | apply regSet_keeps | apply raise_keeps | apply msix_keeps | apply freezeArmed_keeps
      | apply regSetFld_keeps | refine keeps_ite ?_ ?_ | refine keeps_fold ?_ ?_ | intro _ _ _

theorem execTankAccess_keeps (m) (x) (op) (bytes) (n) (s : State) (h : Keeps o s) :
    KeepsNext o (execTankAccess m x op bytes n s) := by
  unfold execTankAccess
  with_reducible repeat'
    first
      | assumption | apply domEvent_keeps | apply tankAccess_keeps | refine keeps_ite ?_ ?_
      | fail_if_no_progress refine keeps_mk ?_ rfl rfl rfl ⟨rfl, rfl, rfl, rfl⟩ | split | intro _ _
      | refine keeps_of_pair (by assumption) ?_

theorem leaseStat_keeps (s : State) (m) (b) (result) (h : Keeps o s) : Keeps o (leaseStat s m b result) := by
  unfold leaseStat
  with_reducible repeat'
    first
      | assumption | apply regSet_keeps | fail_if_no_progress refine keeps_mk ?_ rfl rfl rfl ⟨rfl, rfl, rfl, rfl⟩

theorem leaseWrite_keeps (s : State) (m) (v) (h : Keeps o s) : Keeps o (leaseWrite s m v) := by
  unfold leaseWrite
  with_reducible repeat'
    first
      | assumption | apply raise_keeps | apply leaseStat_keeps | apply regSetFld_keeps | refine keeps_ite ?_ ?_
      | fail_if_no_progress refine keeps_mk ?_ rfl rfl rfl ⟨rfl, rfl, rfl, rfl⟩

theorem execLeaseWrite_keeps (m) (v) (s : State) (h : Keeps o s) : KeepsNext o (execLeaseWrite m v s) := by
  unfold execLeaseWrite
  with_reducible repeat' first | assumption | apply masterCmd_keeps | apply leaseWrite_keeps | split | intro _ _

theorem execLeaseApply_keeps (b) (s : State) (h : Keeps o s) : KeepsNext o (execLeaseApply b s) := by
  unfold execLeaseApply
  with_reducible repeat'
    first
      | assumption | apply domEvent_keeps | apply regSet_keeps | apply leaseStat_keeps | apply raise_keeps
      | refine keeps_ite ?_ ?_ | fail_if_no_progress refine keeps_mk ?_ rfl rfl rfl ⟨rfl, rfl, rfl, rfl⟩ | split | dsimp only
      | intro _ _

theorem execLockRead_keeps (m) (i) (s : State) (h : Keeps o s) : KeepsNext o (execLockRead m i s) := by
  unfold execLockRead
  with_reducible repeat'
    first
      | assumption | apply masterCmd_keeps | apply lockRead_keeps
      | fail_if_no_progress refine keeps_mk ?_ rfl rfl rfl ⟨rfl, rfl, rfl, rfl⟩ | dsimp only | intro _ _

theorem execLockWrite_keeps (m) (i) (s : State) (h : Keeps o s) : KeepsNext o (execLockWrite m i s) := by
  unfold execLockWrite
  with_reducible repeat' first | assumption | apply masterCmd_keeps | apply lockWrite_keeps | intro _ _

theorem execLockForce_keeps (f) (v) (s : State) (h : Keeps o s) : KeepsNext o (execLockForce f v s) := by
  unfold execLockForce
  with_reducible repeat' first | assumption | apply hostCmd_keeps | apply lockFree_keeps | refine keeps_ite ?_ ?_ | intro _ _

theorem execMbxSend_keeps (m) (c) (s : State) (h : Keeps o s) : KeepsNext o (execMbxSend m c s) := by
  unfold execMbxSend
  with_reducible repeat'
    first
      | assumption | apply masterCmd_keeps | apply mbxSend_keeps | apply tankRefuse_keeps | refine keeps_ite ?_ ?_
      | fail_if_no_progress refine keeps_mk ?_ rfl rfl rfl ⟨rfl, rfl, rfl, rfl⟩ | dsimp only | intro _ _

theorem execMbxAckWrite_keeps (m) (c) (v) (s : State) (h : Keeps o s) : KeepsNext o (execMbxAckWrite m c v s) := by
  unfold execMbxAckWrite
  with_reducible repeat'
    first
      | assumption | apply masterCmd_keeps | apply mbxAck_keeps | apply tankRefuse_keeps | refine keeps_ite ?_ ?_ | intro _ _

theorem execMbxAckRead_keeps (m) (c) (s : State) (h : Keeps o s) : KeepsNext o (execMbxAckRead m c s) := by
  unfold execMbxAckRead
  with_reducible repeat'
    first
      | assumption | apply masterCmd_keeps | apply mbxAckRead_keeps | apply tankRefuse_keeps | refine keeps_ite ?_ ?_
      | fail_if_no_progress refine keeps_mk ?_ rfl rfl rfl ⟨rfl, rfl, rfl, rfl⟩ | dsimp only | intro _ _

theorem execMbxWakeLimit_keeps (c) (s : State) (h : Keeps o s) : KeepsNext o (execMbxWakeLimit c s) := by
  unfold execMbxWakeLimit
  with_reducible repeat'
    first
      | assumption | apply domEvent_keeps | apply mbxWake_keeps | apply mbxEmpty_keeps | apply mbxOutcome_keeps
      | apply mbxRaise_keeps | apply mbxCount_keeps | refine keeps_ite ?_ ?_ | split | intro _ _

theorem dmemWrite_keeps (s : State) (e) (x) (x3) (h : Keeps o s) : Keeps o (dmemWrite s e x x3) := by
  fun_induction dmemWrite s e x x3 <;> (with_reducible repeat' first | assumption | apply engSet_keeps | apply_assumption)

theorem buildRead_keeps (s : State) (b) (x) (x3) (h : Keeps o s) : Keeps o (buildRead s b x x3).2 := by
  fun_induction buildRead s b x x3 <;> (with_reducible repeat'
    first
      | assumption | apply fresh_keeps | dsimp only | apply_assumption)

theorem buildWrite_keeps (s : State) (e) (t) (b) (x) (bytes) (h : Keeps o s) : Keeps o (buildWrite s e t b x bytes) := by
  unfold buildWrite
  with_reducible repeat'
    first
      | assumption | apply thrSet_keeps | apply cellFor_keeps | refine keeps_ite ?_ ?_ | split
      | refine keeps_of_pair (by assumption) ?_

theorem mailRead_keeps (s : State) (e) (x) (n) (h : Keeps o s) : Keeps o (mailRead s e x n).2 := by
  unfold mailRead
  with_reducible repeat' first | assumption | apply mbxSend_keeps | apply mbxAckRead_keeps | refine keeps_ite_snd ?_ ?_

theorem mailWrite_keeps (s : State) (e) (x) (bytes) (h : Keeps o s) : KeepsOpt o (mailWrite s e x bytes) := by
  unfold mailWrite
  with_reducible repeat'
    first
      | assumption | apply leaseWrite_keeps | apply mbxSet_keeps | apply mbxAck_keeps | refine keepsOpt_ite ?_ ?_
      | exact keepsOpt_none | refine keepsOpt_some ?_

theorem kLoad_keeps (s : State) (e) (t) (a) (n) (word) (host) (h : Keeps o s) : Keeps o (kLoad s e t a n word host).2 := by
  unfold kLoad
  with_reducible repeat'
    first
      | assumption | apply freePick_keeps | apply buildRead_keeps | apply tankAccess_keeps | apply mailRead_keeps
      | apply tankRefuse_keeps | apply emit_keeps | refine keeps_ite_snd ?_ ?_ | split | dsimp only
      | refine keeps_of_pair (by assumption) ?_

theorem kStore_keeps (s : State) (e) (t) (a) (bytes) (word) (h : Keeps o s) : Keeps o (kStore s e t a bytes word).2 := by
  unfold kStore
  with_reducible repeat'
    first
      | assumption | apply dmemWrite_keeps | apply thrSet_keeps | apply buildWrite_keeps | apply tankAccess_keeps
      | apply mailWrite_keeps | apply tankRefuse_keeps | apply hostWrite_keeps | refine keeps_ite_snd ?_ ?_ | split
      | dsimp only | refine keeps_of_some (by assumption) ?_

theorem operandRead_keeps (s : State) (e) (t) (a) (n) (h : Keeps o s) : Keeps o (operandRead s e t a n).2 := by
  unfold operandRead
  with_reducible repeat' first | assumption | apply buildRead_keeps | apply tankTake_keeps | split | dsimp only

theorem berSearch_keeps (e) (t) (tag) (x3) (x4 : State) (x5) (x6) (h : Keeps o x4) :
    Keeps o (berSearch e t tag x3 x4 x5 x6).2 := by
  fun_induction berSearch e t tag x3 x4 x5 x6 <;> (with_reducible repeat'
    first
      | assumption | apply operandRead_keeps | apply thrSet_keeps | dsimp only | refine keeps_of_pair (by assumption) ?_
      | apply_assumption)

theorem berWalk_keeps (e) (t) (x2) (x3 : State) (x4) (x5) (x6) (h : Keeps o x3) : Keeps o (berWalk e t x2 x3 x4 x5 x6).2.2 := by
  fun_induction berWalk e t x2 x3 x4 x5 x6 <;> (with_reducible repeat'
    first
      | assumption | apply berSearch_keeps | dsimp only | refine keeps_of_pair (by assumption) ?_ | apply_assumption)

theorem sluSet_keeps (s : State) (i) (r) (x) (h : Keeps o s) : Keeps o (sluSet s i r x) := by
  unfold sluSet
  with_reducible repeat' first | assumption | fail_if_no_progress refine keeps_mk ?_ rfl rfl rfl ⟨rfl, rfl, rfl, rfl⟩

theorem sluHalf_keeps (s : State) (i) (r) (h : Keeps o s) : Keeps o (sluHalf s i r) := by
  unfold sluHalf
  with_reducible repeat' first | assumption | apply raise_keeps | apply regSet_keeps

theorem sluWait_keeps (s : State) (i) (r) (h : Keeps o s) : Keeps o (sluWait s i r) := by
  unfold sluWait
  with_reducible repeat'
    first
      | assumption | apply regSet_keeps | apply sluSet_keeps | apply sluHalf_keeps | refine keeps_ite ?_ ?_
      | fail_if_no_progress refine keeps_mk ?_ rfl rfl rfl ⟨rfl, rfl, rfl, rfl⟩ | split

theorem sluAsk_keeps (s : State) (i) (r) (h : Keeps o s) : Keeps o (sluAsk s i r) := by
  unfold sluAsk
  with_reducible repeat' first | assumption | apply sluSet_keeps | refine keeps_ite ?_ ?_

theorem execSluiceRequest_keeps (i) (x) (s : State) (h : Keeps o s) : KeepsNext o (execSluiceRequest i x s) := by
  unfold execSluiceRequest
  with_reducible repeat'
    first
      | assumption | apply domEvent_keeps | apply sluAsk_keeps | refine keeps_ite ?_ ?_
      | fail_if_no_progress refine keeps_mk ?_ rfl rfl rfl ⟨rfl, rfl, rfl, rfl⟩ | split | dsimp only | intro _ _

theorem sluDrop_keeps (s : State) (i) (r) (h : Keeps o s) : Keeps o (sluDrop s i r) := by
  unfold sluDrop
  with_reducible repeat' first | assumption | apply sluSet_keeps | apply sluWait_keeps

theorem execSluiceWithdraw_keeps (i) (r) (s : State) (h : Keeps o s) : KeepsNext o (execSluiceWithdraw i r s) := by
  unfold execSluiceWithdraw
  with_reducible repeat' first | assumption | apply domEvent_keeps | apply sluDrop_keeps | refine keeps_ite ?_ ?_ | intro _ _

theorem sluDomainOff_keeps (s : State) (d) (h : Keeps o s) : Keeps o (sluDomainOff s d) := by
  unfold sluDomainOff
  with_reducible repeat'
    first
      | assumption | apply sluDrop_keeps | refine keeps_ite ?_ ?_ | refine keeps_fold ?_ ?_ | intro _ _ _

theorem sluLottery_keeps (s : State) (i) (entrants) (h : Keeps o s) : Keeps o (sluLottery s i entrants).2 := by
  unfold sluLottery
  with_reducible repeat' first | assumption | apply regSetFld_keeps | split | dsimp only

theorem sluWinner_keeps (s : State) (i) (h : Keeps o s) : Keeps o (sluWinner s i).2 := by
  unfold sluWinner
  with_reducible repeat' first | assumption | apply sluLottery_keeps | refine keeps_ite_snd ?_ ?_ | split | dsimp only

theorem sluGrant_keeps (s : State) (i) (r) (h : Keeps o s) : Keeps o (sluGrant s i r) := by
  unfold sluGrant
  with_reducible repeat'
    first
      | assumption | apply sluDrop_keeps | apply regSet_keeps | apply sluHalf_keeps | apply regSetFld_keeps
      | refine keeps_ite ?_ ?_

theorem sluChoose_keeps (s : State) (i) (h : Keeps o s) : Keeps o (sluChoose s i).2 := by
  unfold sluChoose
  with_reducible repeat'
    first
      | assumption | apply sluWinner_keeps | apply regSet_keeps | dsimp only | refine keeps_fold ?_ ?_ | intro _ _ _

theorem sluTick_keeps (s : State) (h : Keeps o s) : Keeps o (sluTick s) := by
  unfold sluTick
  with_reducible repeat'
    first
      | assumption | apply sluWait_keeps | refine keeps_ite ?_ ?_ | split | dsimp only | refine keeps_fold ?_ ?_ | intro _ _ _

theorem tickConflict_keeps (s : State) (h : Keeps o s) : Keeps o (tickConflict s) := by
  unfold tickConflict
  with_reducible repeat' first | assumption | apply count_keeps | dsimp only | refine keeps_fold ?_ ?_ | intro _ _ _

theorem sluPut_keeps (s : State) (i) (a) (v) (h : Keeps o s) : Keeps o (sluPut s i a v) := by
  unfold sluPut
  with_reducible repeat'
    first
      | assumption | apply regSet_keeps | fail_if_no_progress refine keeps_mk ?_ rfl rfl rfl ⟨rfl, rfl, rfl, rfl⟩

theorem sluRefuse_keeps (s : State) (i) (h : Keeps o s) : Keeps o (sluRefuse s i) := by
  unfold sluRefuse
  with_reducible repeat' first | assumption | apply raise_keeps | apply regSet_keeps

theorem execSluSeedWrite_keeps (f) (i) (v) (s : State) (h : Keeps o s) : KeepsNext o (execSluSeedWrite f i v s) := by
  unfold execSluSeedWrite
  with_reducible repeat'
    first
      | assumption | apply hostCmd_keeps | apply sluRefuse_keeps | apply sluPut_keeps | refine keeps_ite ?_ ?_ | split
      | intro _ _

theorem sluPrivWrite_keeps (s : State) (i) (k) (v) (h : Keeps o s) : Keeps o (sluPrivWrite s i k v) := by
  unfold sluPrivWrite
  with_reducible repeat' first | assumption | apply sluRefuse_keeps | apply sluPut_keeps | refine keeps_ite ?_ ?_

theorem execSluConfigWrite_keeps (f) (a) (v) (s : State) (h : Keeps o s) : KeepsNext o (execSluConfigWrite f a v s) := by
  unfold execSluConfigWrite
  with_reducible repeat'
    first
      | assumption | apply hostCmd_keeps | apply sluPut_keeps | apply sluPrivWrite_keeps | refine keeps_ite ?_ ?_ | split
      | dsimp only | intro _ _

end Sys2Proof.Machine
end

