-- ==== Sys2Proof/Laws/Keeps/Frames.lean ====
section
/-!
SUPPORT. Every transformation of the state in Machine/FurrowOps.lean, Machine/EgressOps.lean, Machine/IngressOps.lean,
Machine/Freeze.lean, Machine/Furrow.lean, Machine/TxOps.lean leaves the queue as it was and keeps the invariant.
-/
namespace Sys2Proof.Machine

variable {o : State}

theorem furSet_keeps (s : State) (d) (x) (h : Keeps o s) : Keeps o (furSet s d x) := by
  unfold furSet
  with_reducible repeat' first | assumption | fail_if_no_progress refine keeps_mk ?_ rfl rfl rfl ⟨rfl, rfl, rfl, rfl⟩

theorem furTo_keeps (s : State) (d) (st) (h : Keeps o s) : Keeps o (furTo s d st) := by
  unfold furTo
  with_reducible repeat' first | assumption | apply regSetFld_keeps

theorem furCount_keeps (s : State) (d) (k) (h : Keeps o s) : Keeps o (furCount s d k) := by
  unfold furCount
  with_reducible repeat' first | assumption | apply count_keeps

theorem furDrop_keeps (s : State) (r) (h : Keeps o s) : Keeps o (furDrop s r) := by
  unfold furDrop
  with_reducible repeat' first | assumption | apply count_keeps

theorem furRaise_keeps (s : State) (d) (p) (bit) (h : Keeps o s) : Keeps o (furRaise s d p bit) := by
  unfold furRaise
  with_reducible repeat' first | assumption | apply raise_keeps | apply regSet_keeps

theorem furShift_keeps (s : State) (delta) (h : Keeps o s) : Keeps o (furShift s delta) := by
  unfold furShift
  with_reducible repeat'
    first
      | assumption | apply furSet_keeps | apply regSet_keeps | refine keeps_ite ?_ ?_ | dsimp only | refine keeps_fold ?_ ?_
      | intro _ _ _

theorem furDynSet_keeps (s : State) (d) (chanB) (y) (h : Keeps o s) : Keeps o (furDynSet s d chanB y) := by
  unfold furDynSet
  with_reducible repeat' first | assumption | apply furSet_keeps

theorem furRelayed_keeps (s : State) (p) (h : Keeps o s) : Keeps o (furRelayed s p) := by
  unfold furRelayed
  with_reducible repeat' first | assumption | apply count_keeps

theorem starSend_keeps (s : State) (d) (p) (bytes) (head) (h : Keeps o s) : Keeps o (starSend s d p bytes head) := by
  unfold starSend
  with_reducible repeat'
    first
      | assumption | apply inject_keeps | apply queueSet_keeps | apply furRelayed_keeps | refine keeps_ite ?_ ?_ | split

theorem slotMod_keeps (s : State) (d) (furrow) (chanB) (k) (h : Keeps o s) : Keeps o (slotMod s d furrow chanB k) := by
  unfold slotMod
  with_reducible repeat' first | assumption | apply furSet_keeps

theorem starNull_keeps (s : State) (d) (furrow) (chanB) (h : Keeps o s) : Keeps o (starNull s d furrow chanB) := by
  unfold starNull
  with_reducible repeat'
    first
      | assumption | apply furCount_keeps | apply slotMod_keeps | apply starSend_keeps | refine keeps_ite ?_ ?_ | split
      | dsimp only | refine keeps_fold ?_ ?_ | intro _ _ _

theorem starCycle_keeps (s : State) (d) (p) (h : Keeps o s) : Keeps o (starCycle s d p) := by
  unfold starCycle
  with_reducible repeat' first | assumption | apply starSend_keeps

theorem furContain_keeps (s : State) (d) (p) (h : Keeps o s) : Keeps o (furContain s d p) := by
  unfold furContain
  with_reducible repeat' first | assumption | apply furRaise_keeps | apply count_keeps | apply furPortTo_keeps

theorem furPortCycle_keeps (s : State) (d) (full) (p) (h : Keeps o s) : Keeps o (furPortCycle s d full p) := by
  unfold furPortCycle
  with_reducible repeat'
    first
      | assumption | apply furPortTo_keeps | refine keeps_ite ?_ ?_
      | fail_if_no_progress refine keeps_mk ?_ rfl rfl rfl ⟨rfl, rfl, rfl, rfl⟩

theorem furClose_keeps (s : State) (d) (h : Keeps o s) : Keeps o (furClose s d) := by
  unfold furClose
  with_reducible repeat' first | assumption | apply countBy_keeps | apply furSet_keeps

theorem furLeave_keeps (s : State) (d) (st) (h : Keeps o s) : Keeps o (furLeave s d st) := by
  unfold furLeave
  with_reducible repeat'
    first
      | assumption | apply frameLetGo_keeps | apply furPortTo_keeps | apply furTo_keeps | apply furSet_keeps
      | refine keeps_fold ?_ ?_ | intro _ _ _

theorem furStop_keeps (s : State) (d) (h : Keeps o s) : Keeps o (furStop s d) := by
  unfold furStop
  with_reducible repeat'
    first
      | assumption | apply furLeave_keeps | apply furClose_keeps | apply furSet_keeps | apply regSetFld_keeps

theorem furBreak_keeps (s : State) (d) (h : Keeps o s) : Keeps o (furBreak s d) := by
  unfold furBreak
  with_reducible repeat'
    first
      | assumption | apply raise_keeps | apply furCount_keeps | apply furLeave_keeps | apply furSet_keeps
      | refine keeps_ite ?_ ?_

theorem furApply_keeps (s : State) (d) (h : Keeps o s) : Keeps o (furApply s d) := by
  unfold furApply
  with_reducible repeat' first | assumption | apply regSetFld_keeps | apply raise_keeps | apply furCount_keeps

theorem furBegin_keeps (s : State) (d) (start) (number) (h : Keeps o s) : Keeps o (furBegin s d start number) := by
  unfold furBegin
  with_reducible repeat'
    first
      | assumption | apply furClose_keeps | apply regSet_keeps | apply furApply_keeps | apply furPortCycle_keeps
      | apply furSet_keeps | apply furCount_keeps | apply starCycle_keeps | split | dsimp only | refine keeps_fold ?_ ?_
      | intro _ _ _

theorem furEnter_keeps (s : State) (d) (h : Keeps o s) : Keeps o (furEnter s d) := by
  unfold furEnter
  with_reducible repeat'
    first
      | assumption | apply regSetFld_keeps | apply raise_keeps | apply furTo_keeps | refine keeps_ite ?_ ?_

theorem furTurn_keeps (s : State) (d) (start) (number) (h : Keeps o s) : Keeps o (furTurn s d start number) := by
  unfold furTurn
  with_reducible repeat' first | assumption | apply furBegin_keeps | apply furStop_keeps | refine keeps_ite ?_ ?_

theorem furCycleStart_keeps (s : State) (d) (h : Keeps o s) : Keeps o (furCycleStart s d) := by
  unfold furCycleStart
  with_reducible repeat'
    first
      | assumption | apply furBegin_keeps | apply furEnter_keeps | apply furTurn_keeps | refine keeps_ite ?_ ?_ | split

theorem furRunSet_keeps (s : State) (d) (h : Keeps o s) : Keeps o (furRunSet s d) := by
  unfold furRunSet
  with_reducible repeat'
    first
      | assumption | apply regSetFld_keeps | apply furSet_keeps | apply furTo_keeps | refine keeps_ite ?_ ?_

theorem furRunClear_keeps (s : State) (d) (h : Keeps o s) : Keeps o (furRunClear s d) := by
  unfold furRunClear
  with_reducible repeat' first | assumption | apply regSetFld_keeps | apply furStop_keeps | refine keeps_ite ?_ ?_

theorem furWindowClear_keeps (s : State) (p) (h : Keeps o s) : Keeps o (furWindowClear s p) := by
  unfold furWindowClear
  with_reducible repeat' first | assumption | apply regSet_keeps | refine keeps_fold ?_ ?_ | intro _ _ _

theorem furSpeedCheck_keeps (s : State) (d) (p) (h : Keeps o s) : Keeps o (furSpeedCheck s d p) := by
  unfold furSpeedCheck
  with_reducible repeat' first | assumption | apply furLinkUp_keeps | refine keeps_ite ?_ ?_

theorem furMembersLoad_keeps (s : State) (d) (h : Keeps o s) : Keeps o (furMembersLoad s d) := by
  unfold furMembersLoad
  with_reducible repeat'
    first
      | assumption | apply furSpeedCheck_keeps | apply regSet_keeps | apply furWindowClear_keeps | apply furLinkUp_keeps
      | refine keeps_ite ?_ ?_ | split | dsimp only | refine keeps_fold ?_ ?_ | intro _ _ _

theorem furAnchor_keeps (s : State) (d) (h : Keeps o s) : Keeps o (furAnchor s d) := by
  unfold furAnchor
  with_reducible repeat' first | assumption | apply furSet_keeps | apply regSet_keeps | refine keeps_ite ?_ ?_

theorem furLoad_keeps (s : State) (d) (h : Keeps o s) : Keeps o (furLoad s d) := by
  unfold furLoad
  with_reducible repeat'
    first
      | assumption | apply furMembersLoad_keeps | apply furStop_keeps | apply regSetFld_keeps | apply furAnchor_keeps
      | apply regSet_keeps | apply furRunSet_keeps | apply furRunClear_keeps | refine keeps_ite ?_ ?_

theorem furMiss_keeps (s : State) (d) (p) (chanB) (h : Keeps o s) : Keeps o (furMiss s d p chanB) := by
  unfold furMiss
  with_reducible repeat'
    first
      | assumption | apply starNull_keeps | apply furDynSet_keeps | apply furSet_keeps | refine keeps_ite ?_ ?_ | split
      | refine keeps_fold ?_ ?_ | intro _ _ _

theorem furMissed_keeps (s : State) (p) (h : Keeps o s) : Keeps o (furMissed s p) := by
  unfold furMissed
  with_reducible repeat' first | assumption | apply furMiss_keeps | split

theorem furRefuse_keeps (s : State) (x1) (d) (p) (chanB) (r) (furrow) (slot) (h : Keeps o s) :
    Keeps o (furRefuse s x1 d p chanB r furrow slot) := by
  unfold furRefuse
  with_reducible repeat'
    first
      | assumption | apply frameMod_keeps | apply furDrop_keeps | apply count_keeps | apply regSet_keeps | apply slotMod_keeps
      | apply furContain_keeps | apply regSetFld_keeps | apply furMiss_keeps | refine keeps_ite ?_ ?_ | split | dsimp only

theorem furDrift_keeps (s : State) (d) (p) (drift) (h : Keeps o s) : Keeps o (furDrift s d p drift) := by
  unfold furDrift
  with_reducible repeat' first | assumption | apply regSetFld_keeps | apply furRaise_keeps | refine keeps_ite ?_ ?_

theorem furAdmit_keeps (s : State) (x1) (d) (chanB) (kind) (furrow) (stamp) (h : Keeps o s) :
    Keeps o (furAdmit s x1 d chanB kind furrow stamp) := by
  unfold furAdmit
  with_reducible repeat' first | assumption | apply frameMod_keeps

theorem coldLost_keeps (s : State) (x1) (d) (p) (chanB) (h : Keeps o s) : Keeps o (coldLost s x1 d p chanB) := by
  unfold coldLost
  with_reducible repeat' first | assumption | apply raise_keeps | apply furCount_keeps | apply furRefuse_keeps

theorem furHeader_keeps (s : State) (x1) (d) (p) (chanB) (bytes) (ns32) (frac) (h : Keeps o s) :
    Keeps o (furHeader s x1 d p chanB bytes ns32 frac).2 := by
  unfold furHeader
  with_reducible repeat'
    first
      | assumption | apply furRefuse_keeps | apply coldLost_keeps | apply furAdmit_keeps | apply furSet_keeps
      | apply furDrift_keeps | apply slotMod_keeps | apply furDynSet_keeps | refine keeps_ite ?_ ?_
      | refine keeps_ite_snd ?_ ?_ | split | dsimp only

theorem furReport_keeps (s : State) (p) (ns32) (frac) (cold) (h : Keeps o s) : Keeps o (furReport s p ns32 frac cold) := by
  unfold furReport
  with_reducible repeat'
    first
      | assumption | apply portSet_keeps | apply furSet_keeps | apply slotMod_keeps | apply furDynSet_keeps
      | refine keeps_ite ?_ ?_ | split

theorem furRelay_keeps (s : State) (x1) (ports) (h : Keeps o s) : Keeps o (furRelay s x1 ports) := by
  unfold furRelay
  with_reducible repeat'
    first
      | assumption | apply frameSet_keeps | apply destsGo_keeps | apply chargesRelease_keeps | apply weirCells_keeps
      | apply furRelayed_keeps | split | dsimp only | refine keeps_fold ?_ ?_ | intro _ _ _

theorem coldEnd_keeps (s : State) (d) (x2) (w) (fcs) (h : Keeps o s) : Keeps o (coldEnd s d x2 w fcs) := by
  unfold coldEnd
  with_reducible repeat'
    first
      | assumption | apply furSet_keeps | apply furDrop_keeps | apply furCount_keeps | apply furRelay_keeps
      | apply count_keeps | apply regSet_keeps | apply regSetFld_keeps | apply raise_keeps | apply furTo_keeps
      | refine keeps_ite ?_ ?_

theorem coldHold_keeps (s : State) (d) (x2) (fcs) (h : Keeps o s) : Keeps o (coldHold s d x2 fcs) := by
  unfold coldHold
  with_reducible repeat' first | assumption | apply furSet_keeps

theorem coldOut_keeps (d) (s : State) (c) (h : Keeps o s) : Keeps o (coldOut d s c) := by
  unfold coldOut
  with_reducible repeat' first | assumption | apply coldLost_keeps | apply frameLetGo_keeps | refine keeps_ite ?_ ?_

theorem coldDecide_keeps (s : State) (d) (h : Keeps o s) : Keeps o (coldDecide s d) := by
  unfold coldDecide
  with_reducible repeat'
    first
      | assumption | apply furSet_keeps | apply coldOut_keeps | apply frameLetGo_keeps | apply coldEnd_keeps
      | refine keeps_ite ?_ ?_ | split | dsimp only | refine keeps_fold ?_ ?_ | intro _ _ _

theorem furStages_keeps (s : State) (x1) (h : Keeps o s) : Keeps o (furStages s x1) := by
  unfold furStages
  with_reducible repeat'
    first
      | assumption | apply markDrop_keeps | apply frameSet_keeps | refine keeps_ite ?_ ?_ | split | dsimp only

theorem furEnd_keeps (s : State) (x1) (d) (p) (chanB) (x) (bytes) (fcs) (e) (h : Keeps o s) :
    Keeps o (furEnd s x1 d p chanB x bytes fcs e).2 := by
  unfold furEnd
  with_reducible repeat'
    first
      | assumption | apply coldEnd_keeps | apply furRefuse_keeps | apply furDynSet_keeps | apply starNull_keeps
      | apply slotMod_keeps | apply count_keeps | apply regSetFld_keeps | apply furRelay_keeps | apply furSet_keeps
      | apply furCount_keeps | apply furStages_keeps | refine keeps_ite ?_ ?_ | refine keeps_ite_snd ?_ ?_ | split

theorem furNullDue_keeps (s : State) (d) (furrow) (chanB) (h : Keeps o s) : Keeps o (furNullDue s d furrow chanB) := by
  unfold furNullDue
  with_reducible repeat' first | assumption | apply starNull_keeps | refine keeps_ite ?_ ?_ | split

theorem furMinislot_keeps (s : State) (d) (chanB) (h : Keeps o s) : Keeps o (furMinislot s d chanB) := by
  unfold furMinislot
  with_reducible repeat' first | assumption | apply furDynSet_keeps | refine keeps_ite ?_ ?_

theorem furEvaluate_keeps (s : State) (d) (h : Keeps o s) : Keeps o (furEvaluate s d) := by
  unfold furEvaluate
  with_reducible repeat'
    first
      | assumption | apply furSet_keeps | apply regSetFld_keeps | apply raise_keeps | apply regSet_keeps
      | refine keeps_ite ?_ ?_ | split | dsimp only

theorem furForce_keeps (s : State) (d) (m) (h : Keeps o s) : Keeps o (furForce s d m) := by
  unfold furForce
  with_reducible repeat' first | assumption | apply raise_keeps | apply furSet_keeps | refine keeps_ite ?_ ?_

theorem furCmdContain_keeps (s : State) (p) (h : Keeps o s) : Keeps o (furCmdContain s p) := by
  unfold furCmdContain
  with_reducible repeat' first | assumption | apply raise_keeps | apply furContain_keeps | refine keeps_ite ?_ ?_ | split

theorem furCmdReadmit_keeps (s : State) (p) (h : Keeps o s) : Keeps o (furCmdReadmit s p) := by
  unfold furCmdReadmit
  with_reducible repeat' first | assumption | apply raise_keeps | apply furPortTo_keeps | refine keeps_ite ?_ ?_

theorem loopPut_keeps (s : State) (p) (bytes) (sfd) (fate) (h : Keeps o s) : Keeps o (loopPut s p bytes sfd fate) := by
  unfold loopPut
  with_reducible repeat' first | assumption | apply portSet_keeps | refine keeps_ite ?_ ?_

theorem txStartAt_keeps (s : State) (p) (e) (bytes) (late) (lead) (h : Keeps o s) :
    Keeps o (txStartAt s p e bytes late lead) := by
  unfold txStartAt
  with_reducible repeat'
    first
      | assumption | apply ts2Take_keeps | apply loopPut_keeps | apply portSet_keeps | apply stagedDrop_keeps
      | apply siphonEgress_keeps | refine keeps_ite ?_ ?_ | refine keeps_ite_snd ?_ ?_ | split

theorem txStart_keeps (s : State) (p) (e) (bytes) (late) (h : Keeps o s) : Keeps o (txStart s p e bytes late) := by
  unfold txStart
  with_reducible repeat'
    first
      | assumption | apply txStartAt_keeps | refine keeps_ite ?_ ?_ | refine keeps_ite_snd ?_ ?_ | split

theorem cycleLaunch_keeps (d) (s : State) (p) (h : Keeps o s) : Keeps o (cycleLaunch d s p) := by
  unfold cycleLaunch
  with_reducible repeat'
    first
      | assumption | apply freePick_keeps | apply txStartAt_keeps | apply queueSet_keeps | refine keeps_ite ?_ ?_ | split
      | dsimp only

theorem cycleSend_keeps (s : State) (d) (h : Keeps o s) : Keeps o (cycleSend s d) := by
  unfold cycleSend
  with_reducible repeat' first | assumption | apply cycleLaunch_keeps | refine keeps_fold ?_ ?_

theorem classPick_keeps (s : State) (p) (d) (elig) (h : Keeps o s) : KeepsPick o (classPick s p d elig) := by
  unfold classPick
  with_reducible repeat'
    first
      | assumption | refine keepsPick_ite ?_ ?_ | exact keepsPick_none | refine keepsPick_some ?_
      | fail_if_no_progress refine keeps_mk ?_ rfl rfl rfl ⟨rfl, rfl, rfl, rfl⟩ | split | dsimp only

theorem entryPick_keeps (p) (d) (elig) (x3) (x4 : State) (h : Keeps o x4) : Keeps o (entryPick p d elig x3 x4).2 := by
  fun_induction entryPick p d elig x3 x4 <;> (with_reducible repeat'
    first
      | assumption | apply classPick_keeps | apply queueAge_keeps | apply queueSet_keeps
      | refine keeps_of_pick (by assumption) ?_ | apply_assumption)

theorem egressLoop_keeps (p) (x1) (x2 : State) (h : Keeps o x2) : Keeps o (egressLoop p x1 x2) := by
  fun_induction egressLoop p x1 x2 <;> (with_reducible repeat'
    first
      | assumption | apply entryPick_keeps | apply entryGone_keeps | apply hdgDrop_keeps | apply txStart_keeps
      | refine keeps_of_pair (by assumption) ?_ | apply_assumption)

theorem egressSelect_keeps (s : State) (p) (h : Keeps o s) : Keeps o (egressSelect s p) := by
  unfold egressSelect
  with_reducible repeat' first | assumption | apply egressLoop_keeps | refine keeps_ite ?_ ?_

theorem egressLaunch_keeps (s : State) (p) (h : Keeps o s) : Keeps o (egressLaunch s p) := by
  unfold egressLaunch
  with_reducible repeat'
    first
      | assumption | apply calGone_keeps | apply raise_keeps | apply timCount_keeps | apply hdgDrop_keeps
      | apply txStart_keeps | apply calRemove_keeps | refine keeps_ite ?_ ?_ | split

theorem txCounted_keeps (s : State) (p) (bytes) (h : Keeps o s) : Keeps o (txCounted s p bytes) := by
  unfold txCounted
  with_reducible repeat' first | assumption | apply portOctets_keeps | apply portCount_keeps | refine keeps_ite ?_ ?_

theorem txRelease_keeps (s : State) (p) (t) (h : Keeps o s) : Keeps o (txRelease s p t) := by
  unfold txRelease
  with_reducible repeat'
    first
      | assumption | apply portSet_keeps | apply refDrop_keeps | apply destRemove_keeps | refine keeps_ite ?_ ?_

theorem txEnd_keeps (s : State) (p) (h : Keeps o s) : Keeps o (txEnd s p) := by
  unfold txEnd
  with_reducible repeat'
    first
      | assumption | apply txRelease_keeps | apply loopEnd_keeps | apply lineFrame_keeps | apply txCounted_keeps
      | apply frameComplete_keeps | refine keeps_ite ?_ ?_ | split

theorem txBreak_keeps (s : State) (p) (sent) (n) (h : Keeps o s) : Keeps o (txBreak s p sent n) := by
  unfold txBreak
  with_reducible repeat'
    first
      | assumption | apply txRelease_keeps | apply loopEnd_keeps | apply lineFrame_keeps | apply portOctets_keeps
      | apply portCount_keeps | split

theorem txUnderrun_keeps (s : State) (p) (sent) (h : Keeps o s) : Keeps o (txUnderrun s p sent) := by
  unfold txUnderrun
  with_reducible repeat'
    first
      | assumption | apply fnSet_keeps | apply txBreak_keeps | apply frameComplete_keeps | apply portRaise_keeps
      | apply regSetFld_keeps | refine keeps_ite ?_ ?_ | split

theorem txStomp_keeps (s : State) (p) (sent) (h : Keeps o s) : Keeps o (txStomp s p sent) := by
  unfold txStomp
  with_reducible repeat' first | assumption | apply raise_keeps | apply count_keeps | apply txBreak_keeps

theorem pauseSend_keeps (s : State) (p) (h : Keeps o s) : Keeps o (pauseSend s p) := by
  unfold pauseSend
  with_reducible repeat'
    first
      | assumption | apply portSet_keeps | apply loopPut_keeps | apply emit_keeps | apply portCount_keeps
      | apply portOctets_keeps | refine keeps_ite ?_ ?_ | split | dsimp only

theorem pauseRepeat_keeps (s : State) (p) (h : Keeps o s) : Keeps o (pauseRepeat s p) := by
  unfold pauseRepeat
  with_reducible repeat' first | assumption | apply portSet_keeps | refine keeps_ite ?_ ?_ | split | dsimp only

theorem frameDiscard_keeps (s : State) (x1) (h : Keeps o s) : Keeps o (frameDiscard s x1) := by
  unfold frameDiscard
  with_reducible repeat' first | assumption | apply frameLetGo_keeps | apply frameMod_keeps

theorem cutStomp_keeps (s : State) (x1) (cut) (sent) (h : Keeps o s) : Keeps o (cutStomp s x1 cut sent) := by
  unfold cutStomp
  with_reducible repeat' first | assumption | apply txStomp_keeps | refine keeps_ite ?_ ?_ | split

theorem cutSent_keeps (s : State) (p) (h : Keeps o s) : Keeps o (cutSent s p).2 := by
  unfold cutSent
  with_reducible repeat' first | assumption | apply freePick_keeps | split

theorem frameShed_keeps (s : State) (p) (x2) (h : Keeps o s) : Keeps o (frameShed s p x2) := by
  unfold frameShed
  with_reducible repeat'
    first
      | assumption | apply cutSent_keeps | apply frameMod_keeps | apply cutStomp_keeps | split | dsimp only

theorem stage89_keeps (s : State) (x1) (h : Keeps o s) : Keeps o (stage89 s x1) := by
  unfold stage89
  with_reducible repeat'
    first
      | assumption | apply dispatch_keeps | apply authEnter_keeps | apply frameDiscard_keeps | apply hdgDrop_keeps
      | apply frameMod_keeps | refine keeps_ite ?_ ?_ | split

theorem cellAdmit_keeps (s : State) (p) (x2) (h : Keeps o s) : Keeps o (cellAdmit s p x2) := by
  unfold cellAdmit
  with_reducible repeat'
    first
      | assumption | apply frameShed_keeps | apply count_keeps | apply weirCells_keeps | apply destsFind_keeps
      | apply stageHigh_keeps | refine keeps_ite ?_ ?_ | split

theorem cellsAdmit_keeps (s : State) (p) (x2) (x3) (h : Keeps o s) : Keeps o (cellsAdmit s p x2 x3) := by
  fun_induction cellsAdmit s p x2 x3 <;> (with_reducible repeat' first | assumption | apply cellAdmit_keeps | apply_assumption)

theorem cutStart_keeps (s : State) (p) (x2) (h : Keeps o s) : Keeps o (cutStart s p x2) := by
  unfold cutStart
  with_reducible repeat' first | assumption | apply refAdd_keeps | apply frameMod_keeps | apply txStart_keeps | split

theorem receiveCell_keeps (s : State) (p) (x2) (h : Keeps o s) : Keeps o (receiveCell s p x2) := by
  unfold receiveCell
  with_reducible repeat'
    first
      | assumption | apply frameShed_keeps | apply cellAdmit_keeps | apply cutStart_keeps | refine keeps_ite ?_ ?_ | split

theorem frameGood_keeps (s : State) (x1) (h : Keeps o s) : Keeps o (frameGood s x1) := by
  unfold frameGood
  with_reducible repeat'
    first
      | assumption | apply frameMod_keeps | apply frameDiscard_keeps | apply hdgDrop_keeps | apply cellsAdmit_keeps
      | apply siphonIngress_keeps | apply learn_keeps | apply stage89_keeps | apply siphonEgress_keeps
      | apply frameLetGo_keeps | apply pubOffer_keeps | refine keeps_ite ?_ ?_ | split | dsimp only

theorem waiterDrop_keeps (s : State) (set) (x2) (h : Keeps o s) : Keeps o (waiterDrop s set x2) := by
  unfold waiterDrop
  with_reducible repeat'
    first
      | assumption | apply markDrop_keeps | apply frameMod_keeps | apply rsetCount_keeps | apply frameGood_keeps
      | refine keeps_ite ?_ ?_ | split

theorem waiterAgain_keeps (s : State) (mac) (t) (x3) (h : Keeps o s) : Keeps o (waiterAgain s mac t x3) := by
  unfold waiterAgain
  with_reducible repeat'
    first
      | assumption | apply redJudge_keeps | apply stages567_keeps | apply frameMod_keeps | apply markDrop_keeps
      | apply redFirm_keeps | apply frameGood_keeps | refine keeps_ite ?_ ?_ | split | dsimp only
      | refine keeps_of_pair (by assumption) ?_

theorem redEnd_keeps (s : State) (x1) (f) (good) (h : Keeps o s) : Keeps o (redEnd s x1 f good) := by
  unfold redEnd
  with_reducible repeat'
    first
      | assumption | apply redFirm_keeps | apply waiterDrop_keeps | apply redRestore_keeps | apply waiterAgain_keeps
      | refine keeps_ite ?_ ?_ | split | dsimp only | refine keeps_fold ?_ ?_ | intro _ _ _

theorem rxCounted_keeps (s : State) (p) (bytes) (cls) (h : Keeps o s) : Keeps o (rxCounted s p bytes cls) := by
  unfold rxCounted
  with_reducible repeat' first | assumption | apply portOctets_keeps | apply portCount_keeps | refine keeps_ite ?_ ?_ | split

theorem guardedEnd_keeps (s : State) (p) (x2) (f) (x) (good) (h : Keeps o s) : Keeps o (guardedEnd s p x2 f x good) := by
  unfold guardedEnd
  with_reducible repeat'
    first
      | assumption | apply frameDiscard_keeps | apply cellsAdmit_keeps | apply coldHold_keeps | apply furEnd_keeps
      | apply frameMod_keeps | apply siphonIngress_keeps | apply frameLetGo_keeps | apply hdgDrop_keeps | apply stage89_keeps
      | refine keeps_ite ?_ ?_ | split

theorem receiveRest_keeps (s : State) (p) (x2) (good) (sent) (h : Keeps o s) : Keeps o (receiveRest s p x2 good sent) := by
  unfold receiveRest
  with_reducible repeat'
    first
      | assumption | apply guardedEnd_keeps | apply redEnd_keeps | apply chargesRelease_keeps | apply cellsAdmit_keeps
      | apply frameDiscard_keeps | apply cutStomp_keeps | apply frameGood_keeps | refine keeps_ite ?_ ?_ | split | dsimp only

theorem receiveEnd_keeps (s : State) (p) (cls) (sent) (h : Keeps o s) : Keeps o (receiveEnd s p cls sent) := by
  unfold receiveEnd
  with_reducible repeat'
    first
      | assumption | apply receiveRest_keeps | apply rxCounted_keeps | apply portSet_keeps | refine keeps_ite ?_ ?_ | split
      | dsimp only

theorem receiveBroken_keeps (s : State) (p) (h : Keeps o s) : Keeps o (receiveBroken s p) := by
  unfold receiveBroken
  with_reducible repeat' first | assumption | apply cutSent_keeps | apply receiveEnd_keeps

theorem receiveCut_keeps (s : State) (p) (h : Keeps o s) : Keeps o (receiveCut s p) := by
  unfold receiveCut
  with_reducible repeat'
    first
      | assumption | apply cutSent_keeps | apply portSet_keeps | apply receiveRest_keeps | apply portCount_keeps | split

theorem startLost_keeps (s : State) (p) (h : Keeps o s) : Keeps o (startLost s p) := by
  unfold startLost
  with_reducible repeat' first | assumption | apply furMissed_keeps | apply portSet_keeps | refine keeps_ite ?_ ?_

theorem linkDown_keeps (s : State) (p) (sent) (h : Keeps o s) : Keeps o (linkDown s p sent) := by
  unfold linkDown
  with_reducible repeat'
    first
      | assumption | apply regSetFld_keeps | apply startLost_keeps | apply receiveCut_keeps | apply txAbort_keeps
      | apply portRaise_keeps | apply portCount_keeps | apply furLinkDown_keeps | apply portSet_keeps | apply pcsEval_keeps
      | apply portFlush_keeps | refine keeps_ite ?_ ?_

theorem receiveStart_keeps (s : State) (p) (bytes) (raw) (h : Keeps o s) : Keeps o (receiveStart s p bytes raw) := by
  unfold receiveStart
  with_reducible repeat'
    first
      | assumption | apply receiveBroken_keeps | apply frameStore_keeps | apply furMissed_keeps | apply portSet_keeps
      | apply count_keeps | apply headgate_keeps | apply furHeader_keeps | refine keeps_ite ?_ ?_ | split | dsimp only
      | refine keeps_of_pair (by assumption) ?_

theorem receiveFrame_keeps (s : State) (p) (bytes) (h : Keeps o s) : Keeps o (receiveFrame s p bytes) := by
  unfold receiveFrame
  with_reducible repeat' first | assumption | apply receiveStart_keeps | refine keeps_ite ?_ ?_ | split

theorem loopedEnd_keeps (s : State) (p) (sent) (h : Keeps o s) : Keeps o (loopedEnd s p sent) := by
  unfold loopedEnd
  with_reducible repeat' first | assumption | apply receiveEnd_keeps | apply portSet_keeps | split | dsimp only

theorem thawPorts_keeps (s : State) (h : Keeps o s) : Keeps o (thawPorts s) := by
  unfold thawPorts
  with_reducible repeat'
    first
      | assumption | apply freePick_keeps | apply txLost_keeps | apply receiveCut_keeps | split | dsimp only
      | refine keeps_fold ?_ ?_ | intro _ _ _

theorem thawTim_keeps (s : State) (h : Keeps o s) : Keeps o (thawTim s) := by
  unfold thawTim
  with_reducible repeat'
    first
      | assumption | apply raise_keeps | refine keeps_ite ?_ ?_
      | fail_if_no_progress refine keeps_mk ?_ rfl rfl rfl ⟨rfl, rfl, rfl, rfl⟩ | dsimp only | refine keeps_fold ?_ ?_
      | intro _ _ _

theorem thaw_keeps (s : State) (how) (h : Keeps o s) : Keeps o (thaw s how) := by
  unfold thaw
  with_reducible repeat'
    first
      | assumption | apply regSet_keeps | apply regSetFld_keeps | apply thawPorts_keeps | apply crossThaw_keeps
      | apply furBreak_keeps | apply cnfThaw_keeps | apply calRecheck_keeps | apply senThaw_keeps | apply thawTim_keeps
      | apply culThaw_keeps | apply raise_keeps | refine keeps_ite ?_ ?_
      | fail_if_no_progress refine keeps_mk ?_ rfl rfl rfl ⟨rfl, rfl, rfl, rfl⟩ | dsimp only | refine keeps_fold ?_ ?_

theorem execFreezeNAssert_keeps (ns) (s : State) (h : Keeps o s) : KeepsNext o (execFreezeNAssert ns s) := by
  unfold execFreezeNAssert
  with_reducible repeat'
    first
      | assumption | apply freePick_keeps | apply freezeTrigger_keeps | refine keeps_ite ?_ ?_ | refine keepsNext_next ?_
      | fail_if_no_progress refine keeps_mk ?_ rfl rfl rfl ⟨rfl, rfl, rfl, rfl⟩

theorem execFreezeNRelease_keeps (s : State) (h : Keeps o s) : KeepsNext o (execFreezeNRelease s) := by
  unfold execFreezeNRelease
  with_reducible repeat'
    first
      | assumption | apply thaw_keeps | refine keeps_ite ?_ ?_ | refine keepsNext_next ?_
      | fail_if_no_progress refine keeps_mk ?_ rfl rfl rfl ⟨rfl, rfl, rfl, rfl⟩

theorem frzCtl_keeps (s : State) (v) (h : Keeps o s) : Keeps o (frzCtl s v) := by
  unfold frzCtl
  with_reducible repeat'
    first
      | assumption | apply regSetFld_keeps | apply raise_keeps | apply freezeTrigger_keeps | refine keeps_ite ?_ ?_

theorem execFrzCtlFreeze_keeps (f) (v) (s : State) (h : Keeps o s) : KeepsNext o (execFrzCtlFreeze f v s) := by
  unfold execFrzCtlFreeze
  with_reducible repeat' first | assumption | apply hostCmd_keeps | apply frzCtl_keeps | intro _ _

theorem execAutothawExpiry_keeps (s : State) (h : Keeps o s) : KeepsNext o (execAutothawExpiry s) := by
  unfold execAutothawExpiry
  with_reducible repeat'
    first
      | assumption | apply thaw_keeps | refine keeps_ite ?_ ?_ | refine keepsNext_next ?_
      | fail_if_no_progress refine keeps_mk ?_ rfl rfl rfl ⟨rfl, rfl, rfl, rfl⟩

theorem tapSelect_keeps (s : State) (i) (h : Keeps o s) : Keeps o (tapSelect s i) := by
  unfold tapSelect
  with_reducible repeat'
    first
      | assumption | apply emit_keeps | refine keeps_ite ?_ ?_
      | fail_if_no_progress refine keeps_mk ?_ rfl rfl rfl ⟨rfl, rfl, rfl, rfl⟩ | dsimp only | refine keeps_fold ?_ ?_
      | intro _ _ _

theorem tapCmd_keeps (s : State) (k) (h : Keeps o s) (hk : ∀ y0, Keeps o y0 → Keeps o (k y0)) : KeepsNext o (tapCmd s k) := by
  unfold tapCmd
  with_reducible repeat' first | assumption | refine keeps_ite ?_ ?_ | refine keepsNext_next ?_ | apply hk

theorem frzCtrl_keeps (s : State) (v) (h : Keeps o s) : Keeps o (frzCtrl s v) := by
  unfold frzCtrl
  with_reducible repeat'
    first
      | assumption | apply tapSelect_keeps | apply emit_keeps | apply freezeTrigger_keeps | apply thaw_keeps
      | refine keeps_ite ?_ ?_ | fail_if_no_progress refine keeps_mk ?_ rfl rfl rfl ⟨rfl, rfl, rfl, rfl⟩

theorem execJtagFreeze_keeps (v) (s : State) (h : Keeps o s) : KeepsNext o (execJtagFreeze v s) := by
  unfold execJtagFreeze
  with_reducible repeat' first | assumption | apply tapCmd_keeps | apply frzCtrl_keeps | intro _ _

theorem execJtagThaw_keeps (v) (s : State) (h : Keeps o s) : KeepsNext o (execJtagThaw v s) := by
  unfold execJtagThaw
  with_reducible repeat' first | assumption | apply tapCmd_keeps | apply frzCtrl_keeps | intro _ _

theorem idcode_keeps (s : State) (h : Keeps o s) : Keeps o (idcode s) := by
  unfold idcode
  with_reducible repeat' first | assumption | apply tapSelect_keeps | apply emit_keeps

theorem execJtagIdcode_keeps (s : State) (h : Keeps o s) : KeepsNext o (execJtagIdcode s) := by
  unfold execJtagIdcode
  with_reducible repeat' first | assumption | apply tapCmd_keeps | apply idcode_keeps

theorem execJtagSamplePreload_keeps (s : State) (h : Keeps o s) : KeepsNext o (execJtagSamplePreload s) := by
  unfold execJtagSamplePreload
  with_reducible repeat' first | assumption | apply tapCmd_keeps | apply tapSelect_keeps | intro _ _

theorem execJtagExtest_keeps (s : State) (h : Keeps o s) : KeepsNext o (execJtagExtest s) := by
  unfold execJtagExtest
  with_reducible repeat' first | assumption | apply tapCmd_keeps | apply tapSelect_keeps | intro _ _

theorem tapBypass_keeps (s : State) (i) (h : Keeps o s) : Keeps o (tapBypass s i) := by
  unfold tapBypass
  with_reducible repeat' first | assumption | apply tapSelect_keeps | apply emit_keeps

theorem execJtagClamp_keeps (s : State) (h : Keeps o s) : KeepsNext o (execJtagClamp s) := by
  unfold execJtagClamp
  with_reducible repeat' first | assumption | apply tapCmd_keeps | apply tapBypass_keeps | intro _ _

theorem execJtagHighz_keeps (s : State) (h : Keeps o s) : KeepsNext o (execJtagHighz s) := by
  unfold execJtagHighz
  with_reducible repeat' first | assumption | apply tapCmd_keeps | apply tapBypass_keeps | intro _ _

theorem execJtagBypass_keeps (code) (s : State) (h : Keeps o s) : KeepsNext o (execJtagBypass code s) := by
  unfold execJtagBypass
  with_reducible repeat'
    first
      | assumption | apply tapCmd_keeps | apply idcode_keeps | apply tapSelect_keeps | apply tapBypass_keeps
      | apply emit_keeps | split | dsimp only | intro _ _

theorem recNote_keeps (s : State) (i) (sec) (w) (n) (h : Keeps o s) : Keeps o (recNote s i sec w n) := by
  unfold recNote
  with_reducible repeat'
    first
      | assumption | refine keeps_ite ?_ ?_ | fail_if_no_progress refine keeps_mk ?_ rfl rfl rfl ⟨rfl, rfl, rfl, rfl⟩

theorem execJtagFrzAddr_keeps (v) (s : State) (h : Keeps o s) : KeepsNext o (execJtagFrzAddr v s) := by
  unfold execJtagFrzAddr
  with_reducible repeat'
    first
      | assumption | apply tapCmd_keeps | apply tapSelect_keeps | refine keeps_ite ?_ ?_
      | fail_if_no_progress refine keeps_mk ?_ rfl rfl rfl ⟨rfl, rfl, rfl, rfl⟩ | dsimp only | intro _ _

theorem execJtagFrzData_keeps (words) (s : State) (h : Keeps o s) : KeepsNext o (execJtagFrzData words s) := by
  unfold execJtagFrzData
  with_reducible repeat'
    first
      | assumption | apply tapCmd_keeps | apply tapSelect_keeps | apply emit_keeps | apply recNote_keeps
      | refine keeps_ite ?_ ?_ | fail_if_no_progress refine keeps_mk ?_ rfl rfl rfl ⟨rfl, rfl, rfl, rfl⟩ | split | dsimp only
      | refine keeps_fold ?_ ?_ | intro _ _ _ | intro _ _

theorem tapReset_keeps (s : State) (h : Keeps o s) : Keeps o (tapReset s) := by
  unfold tapReset
  with_reducible repeat'
    first
      | assumption | apply tapSelect_keeps | fail_if_no_progress refine keeps_mk ?_ rfl rfl rfl ⟨rfl, rfl, rfl, rfl⟩

theorem execTapReset_keeps (s : State) (h : Keeps o s) : KeepsNext o (execTapReset s) := by
  unfold execTapReset
  with_reducible repeat' first | assumption | apply tapCmd_keeps | apply tapReset_keeps

theorem senCmd_keeps (s : State) (v) (h : Keeps o s) : Keeps o (senCmd s v) := by
  unfold senCmd
  with_reducible repeat'
    first
      | assumption | apply raise_keeps | apply regSetFld_keeps | apply senStart_keeps | refine keeps_ite ?_ ?_

theorem senRow_keeps (s : State) (f) (op) (v) (h : Keeps o s) : KeepsNext o (senRow s f op v) := by
  unfold senRow
  with_reducible repeat' first | assumption | apply hostCmd_keeps | apply senCmd_keeps | intro _ _

theorem execWriteToken_keeps (f) (v) (s : State) (h : Keeps o s) : KeepsNext o (execWriteToken f v s) := by
  unfold execWriteToken
  with_reducible repeat' first | assumption | apply senRow_keeps

theorem execClearToken_keeps (f) (v) (s : State) (h : Keeps o s) : KeepsNext o (execClearToken f v s) := by
  unfold execClearToken
  with_reducible repeat' first | assumption | apply senRow_keeps

theorem execLogAck_keeps (f) (v) (s : State) (h : Keeps o s) : KeepsNext o (execLogAck f v s) := by
  unfold execLogAck
  with_reducible repeat' first | assumption | apply senRow_keeps

theorem execAckVbat_keeps (f) (v) (s : State) (h : Keeps o s) : KeepsNext o (execAckVbat f v s) := by
  unfold execAckVbat
  with_reducible repeat' first | assumption | apply senRow_keeps

theorem execTamperCfg_keeps (f) (v) (s : State) (h : Keeps o s) : KeepsNext o (execTamperCfg f v s) := by
  unfold execTamperCfg
  with_reducible repeat' first | assumption | apply senRow_keeps

theorem execTamperDetect_keeps (n) (s : State) (h : Keeps o s) : KeepsNext o (execTamperDetect n s) := by
  unfold execTamperDetect
  with_reducible repeat'
    first
      | assumption | apply senLog_keeps | apply senRaise_keeps | apply senShow_keeps | apply freezeArmed_keeps
      | refine keeps_ite ?_ ?_ | refine keepsNext_next ?_ | refine keepsNext_ite ?_ ?_
      | fail_if_no_progress refine keeps_mk ?_ rfl rfl rfl ⟨rfl, rfl, rfl, rfl⟩

theorem execVbatLoss_keeps (s : State) (h : Keeps o s) : KeepsNext o (execVbatLoss s) := by
  unfold execVbatLoss
  with_reducible repeat'
    first
      | assumption | refine keepsNext_next ?_ | fail_if_no_progress refine keeps_mk ?_ rfl rfl rfl ⟨rfl, rfl, rfl, rfl⟩

theorem execVbatRestore_keeps (s : State) (h : Keeps o s) : KeepsNext o (execVbatRestore s) := by
  unfold execVbatRestore
  with_reducible repeat'
    first
      | assumption | apply senLog_keeps | refine keepsNext_next ?_ | refine keepsNext_ite ?_ ?_
      | fail_if_no_progress refine keeps_mk ?_ rfl rfl rfl ⟨rfl, rfl, rfl, rfl⟩

theorem execSenRtcRead_keeps (f) (s : State) (h : Keeps o s) : KeepsNext o (execSenRtcRead f s) := by
  unfold execSenRtcRead
  with_reducible repeat'
    first
      | assumption | apply hostCmd_keeps | apply regSet_keeps
      | fail_if_no_progress refine keeps_mk ?_ rfl rfl rfl ⟨rfl, rfl, rfl, rfl⟩ | intro _ _

theorem execFurrowRunSet_keeps (f) (d) (s : State) (h : Keeps o s) : KeepsNext o (execFurrowRunSet f d s) := by
  unfold execFurrowRunSet
  with_reducible repeat' first | assumption | apply hostCmd_keeps | apply furRunSet_keeps | intro _ _

theorem execFurrowRunClear_keeps (f) (d) (s : State) (h : Keeps o s) : KeepsNext o (execFurrowRunClear f d s) := by
  unfold execFurrowRunClear
  with_reducible repeat' first | assumption | apply hostCmd_keeps | apply furRunClear_keeps | intro _ _

theorem execCycleStart_keeps (d) (s : State) (h : Keeps o s) : KeepsNext o (execCycleStart d s) := by
  unfold execCycleStart
  with_reducible repeat'
    first
      | assumption | apply flowEvent_keeps | apply cycleSend_keeps | apply furCycleStart_keeps | refine keeps_ite ?_ ?_
      | intro _ _

theorem execColdstartDecision_keeps (d) (s : State) (h : Keeps o s) : KeepsNext o (execColdstartDecision d s) := by
  unfold execColdstartDecision
  with_reducible repeat'
    first
      | assumption | apply flowEvent_keeps | apply coldDecide_keeps | refine keeps_ite ?_ ?_ | intro _ _

theorem execFurrowStartReport_keeps (p) (ns32) (frac) (cold) (s : State) (h : Keeps o s) :
    KeepsNext o (execFurrowStartReport p ns32 frac cold s) := by
  unfold execFurrowStartReport
  with_reducible repeat' first | assumption | apply flowEvent_keeps | apply furReport_keeps | refine keeps_ite ?_ ?_ | intro _ _

theorem execStarNullDeadline_keeps (d) (furrow) (chanB) (s : State) (h : Keeps o s) :
    KeepsNext o (execStarNullDeadline d furrow chanB s) := by
  unfold execStarNullDeadline
  with_reducible repeat'
    first
      | assumption | apply flowEvent_keeps | apply furNullDue_keeps | refine keeps_ite ?_ ?_ | intro _ _

theorem execMinislotBoundary_keeps (d) (chanB) (s : State) (h : Keeps o s) : KeepsNext o (execMinislotBoundary d chanB s) := by
  unfold execMinislotBoundary
  with_reducible repeat' first | assumption | apply domEvent_keeps | apply furMinislot_keeps | intro _ _

theorem execModeEvaluation_keeps (d) (s : State) (h : Keeps o s) : KeepsNext o (execModeEvaluation d s) := by
  unfold execModeEvaluation
  with_reducible repeat' first | assumption | apply domEvent_keeps | apply furEvaluate_keeps | intro _ _

theorem execFurModeCmd_keeps (f) (d) (v) (s : State) (h : Keeps o s) : KeepsNext o (execFurModeCmd f d v s) := by
  unfold execFurModeCmd
  with_reducible repeat' first | assumption | apply hostCmd_keeps | apply furForce_keeps | split | intro _ _

theorem execFurPortContain_keeps (f) (p) (s : State) (h : Keeps o s) : KeepsNext o (execFurPortContain f p s) := by
  unfold execFurPortContain
  with_reducible repeat' first | assumption | apply hostCmd_keeps | apply furCmdContain_keeps | intro _ _

theorem execFurPortReadmit_keeps (f) (p) (s : State) (h : Keeps o s) : KeepsNext o (execFurPortReadmit f p s) := by
  unfold execFurPortReadmit
  with_reducible repeat' first | assumption | apply hostCmd_keeps | apply furCmdReadmit_keeps | intro _ _

theorem injectPcp_keeps (s : State) (bytes) (h : Keeps o s) : Keeps o (injectPcp s bytes).2 := by
  unfold injectPcp
  with_reducible repeat' first | assumption | apply freePick_keeps | refine keeps_ite_snd ?_ ?_

theorem hostInject_keeps (s : State) (fn) (ring) (d) (bytes) (whole) (h : Keeps o s) :
    Keeps o (hostInject s fn ring d bytes whole) := by
  unfold hostInject
  with_reducible repeat' first | assumption | apply injectPcp_keeps | apply inject_keeps

theorem txRingSet_keeps (s : State) (fn) (ring) (l) (h : Keeps o s) : Keeps o (txRingSet s fn ring l) := by
  unfold txRingSet
  with_reducible repeat' first | assumption | apply fnSet_keeps

theorem earlyArrive_keeps (s : State) (p) (fn) (ring) (bytes) (n) (h : Keeps o s) :
    Keeps o (earlyArrive s p fn ring bytes n) := by
  unfold earlyArrive
  with_reducible repeat' first | assumption | apply hostInject_keeps | refine keeps_ite ?_ ?_ | split

theorem earlyFree_keeps (s : State) (x1) (h : Keeps o s) : Keeps o (earlyFree s x1) := by
  unfold earlyFree
  with_reducible repeat'
    first
      | assumption | apply entryGone_keeps | apply queueSet_keeps | apply frameComplete_keeps | split | dsimp only
      | refine keeps_fold ?_ ?_ | intro _ _ _

theorem txReadDone_keeps (s : State) (fn) (ring) (bytes) (good) (h : Keeps o s) :
    Keeps o (txReadDone s fn ring bytes good) := by
  unfold txReadDone
  with_reducible repeat'
    first
      | assumption | apply txRingSet_keeps | apply regSet_keeps | apply hostInject_keeps | apply txComplete_keeps
      | apply frameMod_keeps | apply earlyFree_keeps | refine keeps_ite ?_ ?_ | split | dsimp only | refine keeps_fold ?_ ?_
      | intro _ _ _

end Sys2Proof.Machine
end

