-- ==== Sys2Proof/Laws/Keeps/Host.lean ====
section
/-!
SUPPORT. Every transformation of the state in Machine/HostOps.lean, Machine/Host.lean leaves the queue as it was and
keeps the invariant.
-/
namespace Sys2Proof.Machine

variable {o : State}

theorem qRefuse_keeps (s : State) (f) (kind) (q) (h : Keeps o s) : Keeps o (qRefuse s f kind q) := by
  unfold qRefuse
  with_reducible repeat' first | assumption | apply hstRaise_keeps

theorem doorbell_keeps (s : State) (f) (kind) (q) (v) (h : Keeps o s) : Keeps o (doorbell s f kind q v) := by
  unfold doorbell
  with_reducible repeat'
    first
      | assumption | apply hstRaise_keeps | apply fcnt_keeps | apply regSet_keeps | refine keeps_ite ?_ ?_

theorem txMarkOld_keeps (s : State) (f) (t) (h : Keeps o s) : Keeps o (txMarkOld s f t) := by
  unfold txMarkOld
  with_reducible repeat' first | assumption | apply txRingSet_keeps

theorem rxRingSet_keeps (s : State) (f) (t) (l) (h : Keeps o s) : Keeps o (rxRingSet s f t l) := by
  unfold rxRingSet
  with_reducible repeat' first | assumption | apply fnSet_keeps

theorem qEnable_keeps (s : State) (f) (kind) (q) (v) (h : Keeps o s) : Keeps o (qEnable s f kind q v) := by
  unfold qEnable
  with_reducible repeat'
    first
      | assumption | apply regSet_keeps | apply fnSet_keeps | apply txMarkOld_keeps | apply rxRingSet_keeps
      | refine keeps_ite ?_ ?_

theorem qWriteOn_keeps (s : State) (f) (kind) (q) (v) (h : Keeps o s) : Keeps o (qWriteOn s f kind q v) := by
  unfold qWriteOn
  with_reducible repeat'
    first
      | assumption | apply qRefuse_keeps | apply regSet_keeps | apply qEnable_keeps | refine keeps_ite ?_ ?_

theorem cqDiscard_keeps (s : State) (f) (q) (h : Keeps o s) : Keeps o (cqDiscard s f q) := by
  unfold cqDiscard
  with_reducible repeat'
    first
      | assumption | apply completionFree_keeps | apply fcnt_keeps | apply cqHeldSet_keeps | refine keeps_fold ?_ ?_
      | intro _ _ _

theorem qWriteOff_keeps (s : State) (f) (kind) (q) (v) (h : Keeps o s) : Keeps o (qWriteOff s f kind q v) := by
  unfold qWriteOff
  with_reducible repeat'
    first
      | assumption | apply qRefuse_keeps | apply regSet_keeps | apply cqDiscard_keeps | refine keeps_ite ?_ ?_

theorem fetchTake_keeps (s : State) (f) (kind) (q) (l) (h : Keeps o s) : Keeps o (fetchTake s f kind q l) := by
  unfold fetchTake
  with_reducible repeat'
    first
      | assumption | apply sqSettle_keeps | apply regSet_keeps | apply sqSet_keeps | apply txRingSet_keeps
      | apply rxRingSet_keeps | refine keeps_ite ?_ ?_

theorem rxPick_keeps (f) (x1) (x2 : State) (h : Keeps o x2) : Keeps o (rxPick f x1 x2).2 := by
  fun_induction rxPick f x1 x2 <;> (with_reducible repeat'
    first
      | assumption | apply entryPick_keeps | dsimp only | refine keeps_of_pair (by assumption) ?_ | apply_assumption)

theorem rxDeliver_keeps (s : State) (f) (d) (c) (e) (h : Keeps o s) : Keeps o (rxDeliver s f d c e) := by
  unfold rxDeliver
  with_reducible repeat'
    first
      | assumption | apply entryGone_keeps | apply fcnt_keeps | apply regSet_keeps | apply rxRingSet_keeps
      | apply freePick_keeps | apply siphonEgress_keeps | apply frameComplete_keeps | apply destRemove_keeps
      | apply hostWrite_keeps | apply complete_keeps | refine keeps_ite ?_ ?_ | refine keeps_ite_snd ?_ ?_ | split

theorem pauseQueues_keeps (s : State) (on) (h : Keeps o s) : Keeps o (pauseQueues s on) := by
  unfold pauseQueues
  with_reducible repeat' first | assumption | apply regSetFld_keeps | refine keeps_fold ?_ ?_ | intro _ _ _

theorem dropUnbegun_keeps (s : State) (h : Keeps o s) : Keeps o (dropUnbegun s) := by
  unfold dropUnbegun
  with_reducible repeat'
    first
      | assumption | apply rxRingSet_keeps | apply txRingSet_keeps | refine keeps_fold ?_ ?_ | intro _ _ _

theorem drainAll_keeps (s : State) (h : Keeps o s) : Keeps o (drainAll s) := by
  unfold drainAll
  with_reducible repeat' first | assumption | apply cqDrain_keeps | refine keeps_fold ?_ ?_ | intro _ _ _

theorem resyncFail_keeps (s : State) (err) (h : Keeps o s) : Keeps o (resyncFail s err) := by
  unfold resyncFail
  with_reducible repeat' first | assumption | apply hstRaise_keeps | apply regSetFld_keeps

theorem resyncStart_keeps (s : State) (f) (h : Keeps o s) : Keeps o (resyncStart s f) := by
  unfold resyncStart
  with_reducible repeat'
    first
      | assumption | apply hstRaise_keeps | apply dropUnbegun_keeps | apply pauseQueues_keeps | apply regSet_keeps
      | refine keeps_ite ?_ ?_ | fail_if_no_progress refine keeps_mk ?_ rfl rfl rfl ⟨rfl, rfl, rfl, rfl⟩

theorem resyncGo_keeps (s : State) (h : Keeps o s) : Keeps o (resyncGo s) := by
  unfold resyncGo
  with_reducible repeat'
    first
      | assumption | apply drainAll_keeps | apply pauseQueues_keeps | refine keeps_ite ?_ ?_
      | fail_if_no_progress refine keeps_mk ?_ rfl rfl rfl ⟨rfl, rfl, rfl, rfl⟩

theorem resyncKey_keeps (s : State) (f) (v) (h : Keeps o s) : Keeps o (resyncKey s f v) := by
  unfold resyncKey
  with_reducible repeat' first | assumption | apply resyncStart_keeps | apply resyncGo_keeps | refine keeps_ite ?_ ?_

theorem causeBytes_keeps (s : State) (h : Keeps o s) : Keeps o (causeBytes s).2 := by
  unfold causeBytes
  with_reducible repeat' first | assumption | apply fresh_keeps

theorem summaryBytes_keeps (s : State) (h : Keeps o s) : Keeps o (summaryBytes s).2 := by
  unfold summaryBytes
  with_reducible repeat' first | assumption | apply causeBytes_keeps

theorem fnDiscard_keeps (s : State) (f) (h : Keeps o s) : Keeps o (fnDiscard s f) := by
  unfold fnDiscard
  with_reducible repeat'
    first
      | assumption | apply sqSet_keeps | apply cqDiscard_keeps | apply frameMod_keeps | apply earlyFree_keeps
      | apply rxRingSet_keeps | apply txRingSet_keeps | refine keeps_ite ?_ ?_ | dsimp only | refine keeps_fold ?_ ?_
      | intro _ _ _

theorem fnDisable_keeps (s : State) (f) (h : Keeps o s) : Keeps o (fnDisable s f) := by
  unfold fnDisable
  with_reducible repeat' first | assumption | apply regSetFld_keeps | refine keeps_fold ?_ ?_ | intro _ _ _

theorem fnClear_keeps (s : State) (f) (h : Keeps o s) : Keeps o (fnClear s f) := by
  unfold fnClear
  with_reducible repeat' first | assumption | apply regClear_keeps

theorem fnReset_keeps (s : State) (f) (h : Keeps o s) : Keeps o (fnReset s f) := by
  unfold fnReset
  with_reducible repeat'
    first
      | assumption | apply fnClear_keeps | apply fnDiscard_keeps | apply fnDisable_keeps | apply fnSet_keeps
      | apply masterReset_keeps | apply resyncFail_keeps | refine keeps_ite ?_ ?_

theorem hostEvent_keeps (s : State) (k) (h : Keeps o s) (hk : ∀ y0, Keeps o y0 → Keeps o (k y0)) :
    KeepsNext o (hostEvent s k) := by
  unfold hostEvent
  with_reducible repeat' first | assumption | apply flowEvent_keeps | refine keeps_ite ?_ ?_ | apply hk | intro _ _

theorem execSubmissionDoorbell_keeps (f) (kind) (q) (v) (s : State) (h : Keeps o s) :
    KeepsNext o (execSubmissionDoorbell f kind q v s) := by
  unfold execSubmissionDoorbell
  with_reducible repeat' first | assumption | apply hostCmd_keeps | apply doorbell_keeps | split | intro _ _

theorem execCqDoorbell_keeps (f) (q) (v) (s : State) (h : Keeps o s) : KeepsNext o (execCqDoorbell f q v s) := by
  unfold execCqDoorbell
  with_reducible repeat'
    first
      | assumption | apply hostCmd_keeps | apply pauseSweep_keeps | apply cqDrain_keeps | apply doorbell_keeps | intro _ _

theorem execQueueEnable_keeps (f) (kind) (q) (v) (s : State) (h : Keeps o s) : KeepsNext o (execQueueEnable f kind q v s) := by
  unfold execQueueEnable
  with_reducible repeat' first | assumption | apply hostCmd_keeps | apply qWriteOn_keeps | split | intro _ _

theorem execQueueDisable_keeps (f) (kind) (q) (v) (s : State) (h : Keeps o s) :
    KeepsNext o (execQueueDisable f kind q v s) := by
  unfold execQueueDisable
  with_reducible repeat'
    first
      | assumption | apply hostCmd_keeps | apply pauseSweep_keeps | apply qWriteOff_keeps | split | intro _ _

theorem execQueueFetch_keeps (f) (kind) (q) (entries) (s : State) (h : Keeps o s) :
    KeepsNext o (execQueueFetch f kind q entries s) := by
  unfold execQueueFetch
  with_reducible repeat'
    first
      | assumption | apply hostEvent_keeps | apply fnSet_keeps | apply fetchTake_keeps | refine keeps_ite ?_ ?_
      | fail_if_no_progress refine keeps_mk ?_ rfl rfl rfl ⟨rfl, rfl, rfl, rfl⟩ | dsimp only | intro _ _

theorem execCmdNop_keeps (f) (q) (s : State) (h : Keeps o s) : KeepsNext o (execCmdNop f q s) := by
  unfold execCmdNop
  with_reducible repeat'
    first
      | assumption | apply hostEvent_keeps | apply sqDone_keeps | refine keeps_ite ?_ ?_ | split | intro _ _

theorem fenceDone_keeps (s : State) (f) (q) (kind) (h : Keeps o s) : Keeps o (fenceDone s f q kind) := by
  unfold fenceDone
  with_reducible repeat' first | assumption | apply sqDone_keeps | refine keeps_ite ?_ ?_ | split

theorem execFenceOrder_keeps (f) (q) (s : State) (h : Keeps o s) : KeepsNext o (execFenceOrder f q s) := by
  unfold execFenceOrder
  with_reducible repeat' first | assumption | apply hostEvent_keeps | apply fenceDone_keeps | intro _ _

theorem execFenceVisible_keeps (f) (q) (s : State) (h : Keeps o s) : KeepsNext o (execFenceVisible f q s) := by
  unfold execFenceVisible
  with_reducible repeat' first | assumption | apply hostEvent_keeps | apply fenceDone_keeps | intro _ _

theorem execTwinWitness_keeps (f) (q) (s : State) (h : Keeps o s) : KeepsNext o (execTwinWitness f q s) := by
  unfold execTwinWitness
  with_reducible repeat'
    first
      | assumption | apply hostEvent_keeps | apply witness_keeps | apply culSettle_keeps | apply sqDone_keeps
      | refine keeps_ite ?_ ?_ | split | dsimp only | intro _ _

theorem execTxDescriptor_keeps (f) (t) (s : State) (h : Keeps o s) : KeepsNext o (execTxDescriptor f t s) := by
  unfold execTxDescriptor
  with_reducible repeat'
    first
      | assumption | apply hostEvent_keeps | apply txRingSet_keeps | apply regSet_keeps | apply txComplete_keeps
      | refine keeps_ite ?_ ?_ | split | dsimp only | intro _ _

theorem execTxHostReadDone_keeps (f) (t) (bytes) (good) (s : State) (h : Keeps o s) :
    KeepsNext o (execTxHostReadDone f t bytes good s) := by
  unfold execTxHostReadDone
  with_reducible repeat'
    first
      | assumption | apply hostEvent_keeps | apply txReadDone_keeps | apply hstRaise_keeps | refine keeps_ite ?_ ?_ | split
      | dsimp only | intro _ _

theorem execRxDelivery_keeps (f) (s : State) (h : Keeps o s) : KeepsNext o (execRxDelivery f s) := by
  unfold execRxDelivery
  with_reducible repeat'
    first
      | assumption | apply hostEvent_keeps | apply rxPick_keeps | apply rxDeliver_keeps
      | fail_if_no_progress refine keeps_mk ?_ rfl rfl rfl ⟨rfl, rfl, rfl, rfl⟩ | split | dsimp only | intro _ _
      | refine keeps_of_pair (by assumption) ?_

theorem execFunctionLevelReset_keeps (f) (s : State) (h : Keeps o s) : KeepsNext o (execFunctionLevelReset f s) := by
  unfold execFunctionLevelReset
  with_reducible repeat'
    first
      | assumption | apply pauseSweep_keeps | apply fnReset_keeps | refine keeps_ite ?_ ?_ | refine keepsNext_next ?_

theorem execMsixUnmask_keeps (f) (v) (s : State) (h : Keeps o s) : KeepsNext o (execMsixUnmask f v s) := by
  unfold execMsixUnmask
  with_reducible repeat'
    first
      | assumption | apply hostCmd_keeps | apply regSetFld_keeps | apply msix_keeps | refine keeps_ite ?_ ?_ | dsimp only
      | intro _ _

theorem execMsixEnableSet_keeps (f) (s : State) (h : Keeps o s) : KeepsNext o (execMsixEnableSet f s) := by
  unfold execMsixEnableSet
  with_reducible repeat'
    first
      | assumption | apply fnSet_keeps | apply regSet_keeps | refine keeps_ite ?_ ?_ | refine keepsNext_next ?_
      | refine keeps_fold ?_ ?_ | intro _ _ _

theorem execResyncRequest_keeps (f) (v) (s : State) (h : Keeps o s) : KeepsNext o (execResyncRequest f v s) := by
  unfold execResyncRequest
  with_reducible repeat' first | assumption | apply hostCmd_keeps | apply pauseSweep_keeps | apply resyncKey_keeps | intro _ _

theorem execResyncSnapshot_keeps (s : State) (h : Keeps o s) : KeepsNext o (execResyncSnapshot s) := by
  unfold execResyncSnapshot
  with_reducible repeat'
    first
      | assumption | apply domEvent_keeps | apply summaryBytes_keeps | apply regSetFld_keeps | refine keeps_ite ?_ ?_
      | fail_if_no_progress refine keeps_mk ?_ rfl rfl rfl ⟨rfl, rfl, rfl, rfl⟩ | dsimp only | intro _ _

theorem execResyncSigned_keeps (s : State) (h : Keeps o s) : KeepsNext o (execResyncSigned s) := by
  unfold execResyncSigned
  with_reducible repeat'
    first
      | assumption | apply domEvent_keeps | refine keeps_ite ?_ ?_
      | fail_if_no_progress refine keeps_mk ?_ rfl rfl rfl ⟨rfl, rfl, rfl, rfl⟩ | dsimp only | intro _ _

theorem execResyncSummaryWritten_keeps (good) (s : State) (h : Keeps o s) : KeepsNext o (execResyncSummaryWritten good s) := by
  unfold execResyncSummaryWritten
  with_reducible repeat'
    first
      | assumption | apply hostEvent_keeps | apply hostOrdered_keeps | apply hstRaise_keeps | apply regSetFld_keeps
      | apply msix_keeps | apply drainAll_keeps | apply resyncFail_keeps | refine keeps_ite ?_ ?_
      | fail_if_no_progress refine keeps_mk ?_ rfl rfl rfl ⟨rfl, rfl, rfl, rfl⟩ | split | dsimp only | intro _ _

theorem execResyncResume_keeps (f) (v) (s : State) (h : Keeps o s) : KeepsNext o (execResyncResume f v s) := by
  unfold execResyncResume
  with_reducible repeat' first | assumption | apply hostCmd_keeps | apply pauseSweep_keeps | apply resyncKey_keeps | intro _ _

theorem execBusMasterEnableClear_keeps (f) (s : State) (h : Keeps o s) : KeepsNext o (execBusMasterEnableClear f s) := by
  unfold execBusMasterEnableClear
  with_reducible repeat'
    first
      | assumption | apply fnSet_keeps | apply resyncFail_keeps | refine keeps_ite ?_ ?_ | refine keepsNext_next ?_

end Sys2Proof.Machine
end

