-- ==== Sys2Proof/Laws/Keeps/Tables.lean ====
section
/-!
SUPPORT. Every transformation of the state in Machine/Cistern.lean, Machine/Headgate.lean, Machine/Semantic.lean,
Machine/ImageCheck.lean, Machine/KernOps.lean, Machine/Far.lean leaves the queue as it was and keeps the invariant.
-/
namespace Sys2Proof.Machine

variable {o : State}

theorem execFdbAgeRemove_keeps (i) (s : State) (h : Keeps o s) : KeepsNext o (execFdbAgeRemove i s) := by
  unfold execFdbAgeRemove
  with_reducible repeat'
    first
      | assumption | apply domEvent_keeps | apply fdbSet_keeps | refine keeps_ite ?_ ?_ | split | intro _ _

theorem fdbStart_keeps (s : State) (op) (h : Keeps o s) : Keeps o (fdbStart s op) := by
  unfold fdbStart
  with_reducible repeat'
    first
      | assumption | apply raise_keeps | apply regSetFld_keeps | refine keeps_ite ?_ ?_
      | fail_if_no_progress refine keeps_mk ?_ rfl rfl rfl ⟨rfl, rfl, rfl, rfl⟩

theorem fdbWrite_keeps (s : State) (i) (d) (h : Keeps o s) : Keeps o (fdbWrite s i d).2 := by
  unfold fdbWrite
  with_reducible repeat' first | assumption | apply fdbSet_keeps | refine keeps_ite_snd ?_ ?_ | split

theorem fdbInsert_keeps (s : State) (d) (h : Keeps o s) : Keeps o (fdbInsert s d).2 := by
  unfold fdbInsert
  with_reducible repeat'
    first
      | assumption | apply regSetFld_keeps | apply fdbSet_keeps | apply fdbRoom_keeps | refine keeps_ite_snd ?_ ?_ | split
      | dsimp only | refine keeps_of_pair (by assumption) ?_

theorem fdbByKey_keeps (s : State) (op) (d) (h : Keeps o s) : Keeps o (fdbByKey s op d).2 := by
  unfold fdbByKey
  with_reducible repeat' first | assumption | apply fdbSet_keeps | apply regSetFld_keeps | split | dsimp only

theorem fdbFlush_keeps (s : State) (d) (h : Keeps o s) : Keeps o (fdbFlush s d).2 := by
  unfold fdbFlush
  with_reducible repeat'
    first
      | assumption | refine keeps_ite_snd ?_ ?_ | fail_if_no_progress refine keeps_mk ?_ rfl rfl rfl ⟨rfl, rfl, rfl, rfl⟩

theorem fdbRun_keeps (s : State) (op) (i) (d) (h : Keeps o s) : Keeps o (fdbRun s op i d).2 := by
  unfold fdbRun
  with_reducible repeat'
    first
      | assumption | apply regSet_keeps | apply fdbWrite_keeps | apply fdbInsert_keeps | apply fdbFlush_keeps
      | apply fdbByKey_keeps | refine keeps_ite_snd ?_ ?_ | dsimp only | refine keeps_fold ?_ ?_ | intro _ _ _

theorem execFdbRead_keeps (f) (s : State) (h : Keeps o s) : KeepsNext o (execFdbRead f s) := by
  unfold execFdbRead
  with_reducible repeat' first | assumption | apply hostCmd_keeps | apply fdbStart_keeps | intro _ _

theorem execFdbWrite_keeps (f) (s : State) (h : Keeps o s) : KeepsNext o (execFdbWrite f s) := by
  unfold execFdbWrite
  with_reducible repeat' first | assumption | apply hostCmd_keeps | apply fdbStart_keeps | intro _ _

theorem execFdbInsert_keeps (f) (s : State) (h : Keeps o s) : KeepsNext o (execFdbInsert f s) := by
  unfold execFdbInsert
  with_reducible repeat' first | assumption | apply hostCmd_keeps | apply fdbStart_keeps | intro _ _

theorem execFdbDelete_keeps (f) (s : State) (h : Keeps o s) : KeepsNext o (execFdbDelete f s) := by
  unfold execFdbDelete
  with_reducible repeat' first | assumption | apply hostCmd_keeps | apply fdbStart_keeps | intro _ _

theorem execFdbLookup_keeps (f) (s : State) (h : Keeps o s) : KeepsNext o (execFdbLookup f s) := by
  unfold execFdbLookup
  with_reducible repeat' first | assumption | apply hostCmd_keeps | apply fdbStart_keeps | intro _ _

theorem execFdbFlush_keeps (f) (s : State) (h : Keeps o s) : KeepsNext o (execFdbFlush f s) := by
  unfold execFdbFlush
  with_reducible repeat' first | assumption | apply hostCmd_keeps | apply fdbStart_keeps | intro _ _

theorem execFdbCmdDone_keeps (s : State) (h : Keeps o s) : KeepsNext o (execFdbCmdDone s) := by
  unfold execFdbCmdDone
  with_reducible repeat'
    first
      | assumption | apply domEvent_keeps | apply fdbRun_keeps | apply regSetFld_keeps
      | fail_if_no_progress refine keeps_mk ?_ rfl rfl rfl ⟨rfl, rfl, rfl, rfl⟩ | split | dsimp only | intro _ _

theorem execMcgRead_keeps (f) (g) (s : State) (h : Keeps o s) : KeepsNext o (execMcgRead f g s) := by
  unfold execMcgRead
  with_reducible repeat'
    first
      | assumption | apply hostCmd_keeps | apply regSet_keeps | dsimp only | refine keeps_fold ?_ ?_ | intro _ _ _ | intro _ _

theorem mcgSet_keeps (s : State) (g) (m) (h : Keeps o s) : Keeps o (mcgSet s g m) := by
  unfold mcgSet
  with_reducible repeat' first | assumption | fail_if_no_progress refine keeps_mk ?_ rfl rfl rfl ⟨rfl, rfl, rfl, rfl⟩

theorem execMcgWrite_keeps (f) (g) (s : State) (h : Keeps o s) : KeepsNext o (execMcgWrite f g s) := by
  unfold execMcgWrite
  with_reducible repeat' first | assumption | apply hostCmd_keeps | apply mcgSet_keeps | intro _ _

theorem execOqTransfer_keeps (p) (s : State) (h : Keeps o s) : KeepsNext o (execOqTransfer p s) := by
  unfold execOqTransfer
  with_reducible repeat'
    first
      | assumption | apply flowEvent_keeps | apply oqTransfer_keeps | refine keeps_ite ?_ ?_ | intro _ _

theorem execStaleScan_keeps (s : State) (h : Keeps o s) : KeepsNext o (execStaleScan s) := by
  unfold execStaleScan
  with_reducible repeat'
    first
      | assumption | apply flowEvent_keeps | apply queueAge_keeps | refine keeps_ite ?_ ?_ | dsimp only
      | refine keeps_fold ?_ ?_ | intro _ _ _ | intro _ _

theorem execQuarantineTest_keeps (f) (c) (s : State) (h : Keeps o s) : KeepsNext o (execQuarantineTest f c s) := by
  unfold execQuarantineTest
  with_reducible repeat'
    first
      | assumption | apply hostCmd_keeps | apply regSetFld_keeps | refine keeps_ite ?_ ?_
      | fail_if_no_progress refine keeps_mk ?_ rfl rfl rfl ⟨rfl, rfl, rfl, rfl⟩ | dsimp only | intro _ _

theorem execQuarantineTestDone_keeps (good) (s : State) (h : Keeps o s) : KeepsNext o (execQuarantineTestDone good s) := by
  unfold execQuarantineTestDone
  with_reducible repeat'
    first
      | assumption | apply domEvent_keeps | apply raise_keeps | apply regSetFld_keeps
      | fail_if_no_progress refine keeps_mk ?_ rfl rfl rfl ⟨rfl, rfl, rfl, rfl⟩ | split | dsimp only | intro _ _

theorem siphWrite_keeps (s : State) (x) (v) (h : Keeps o s) : Keeps o (siphWrite s x v) := by
  unfold siphWrite
  with_reducible repeat'
    first
      | assumption | apply raise_keeps | apply regSet_keeps | refine keeps_ite ?_ ?_
      | fail_if_no_progress refine keeps_mk ?_ rfl rfl rfl ⟨rfl, rfl, rfl, rfl⟩

theorem execSiphEnable_keeps (f) (x) (v) (s : State) (h : Keeps o s) : KeepsNext o (execSiphEnable f x v s) := by
  unfold execSiphEnable
  with_reducible repeat' first | assumption | apply hostCmd_keeps | apply siphWrite_keeps | intro _ _

theorem execPauseThWrite_keeps (f) (p) (v) (s : State) (h : Keeps o s) : KeepsNext o (execPauseThWrite f p v s) := by
  unfold execPauseThWrite
  with_reducible repeat'
    first
      | assumption | apply hostCmd_keeps | apply raise_keeps | apply pauseEval_keeps | apply regSet_keeps | split | intro _ _

theorem authDecide_keeps (s : State) (x1) (mode) (x3) (h : Keeps o s) : Keeps o (authDecide s x1 mode x3) := by
  unfold authDecide
  with_reducible repeat'
    first
      | assumption | apply dispatch_keeps | apply frameMod_keeps | apply raise_keeps | apply frameDiscard_keeps
      | apply hdgDrop_keeps | apply count_keeps | refine keeps_ite ?_ ?_ | split

theorem execAuthVerifyDone_keeps (x0) (gmac) (s : State) (h : Keeps o s) : KeepsNext o (execAuthVerifyDone x0 gmac s) := by
  unfold execAuthVerifyDone
  with_reducible repeat'
    first
      | assumption | apply flowEvent_keeps | apply authDecide_keeps | apply authStart_keeps
      | fail_if_no_progress refine keeps_mk ?_ rfl rfl rfl ⟨rfl, rfl, rfl, rfl⟩ | split | dsimp only | intro _ _

theorem execNodeForgetExpiry_keeps (i) (s : State) (h : Keeps o s) : KeepsNext o (execNodeForgetExpiry i s) := by
  unfold execNodeForgetExpiry
  with_reducible repeat'
    first
      | assumption | apply domEvent_keeps | apply nodeSet_keeps | refine keeps_ite ?_ ?_ | split | intro _ _

theorem execEntryForgetExpiry_keeps (i) (s : State) (h : Keeps o s) : KeepsNext o (execEntryForgetExpiry i s) := by
  unfold execEntryForgetExpiry
  with_reducible repeat'
    first
      | assumption | apply domEvent_keeps | apply nodeSet_keeps | refine keeps_ite ?_ ?_ | split | intro _ _

theorem tblDataSet_keeps (s : State) (l) (h : Keeps o s) : Keeps o (tblDataSet s l) := by
  unfold tblDataSet
  with_reducible repeat' first | assumption | apply regSet_keeps | refine keeps_fold ?_ ?_ | intro _ _ _

theorem tblStart_keeps (s : State) (op) (table) (h : Keeps o s) : Keeps o (tblStart s op table) := by
  unfold tblStart
  with_reducible repeat'
    first
      | assumption | apply raise_keeps | apply regSetFld_keeps | refine keeps_ite ?_ ?_
      | fail_if_no_progress refine keeps_mk ?_ rfl rfl rfl ⟨rfl, rfl, rfl, rfl⟩

theorem streamSet_keeps (s : State) (i) (r) (h : Keeps o s) : Keeps o (streamSet s i r) := by
  unfold streamSet
  with_reducible repeat' first | assumption | fail_if_no_progress refine keeps_mk ?_ rfl rfl rfl ⟨rfl, rfl, rfl, rfl⟩

theorem policerSet_keeps (s : State) (i) (r) (h : Keeps o s) : Keeps o (policerSet s i r) := by
  unfold policerSet
  with_reducible repeat' first | assumption | fail_if_no_progress refine keeps_mk ?_ rfl rfl rfl ⟨rfl, rfl, rfl, rfl⟩

theorem tblWrite_keeps (s : State) (table) (i) (d) (h : Keeps o s) : Keeps o (tblWrite s table i d).2 := by
  unfold tblWrite
  with_reducible repeat'
    first
      | assumption | apply streamSet_keeps | apply policerSet_keeps | refine keeps_ite_snd ?_ ?_
      | fail_if_no_progress refine keeps_mk ?_ rfl rfl rfl ⟨rfl, rfl, rfl, rfl⟩ | split

theorem tblInsert_keeps (s : State) (d) (h : Keeps o s) : Keeps o (tblInsert s d).2 := by
  unfold tblInsert
  with_reducible repeat'
    first
      | assumption | apply freePick_keeps | apply regSetFld_keeps | apply streamSet_keeps | refine keeps_ite_snd ?_ ?_ | split
      | dsimp only

theorem tblByKey_keeps (s : State) (op) (d) (h : Keeps o s) : Keeps o (tblByKey s op d).2 := by
  unfold tblByKey
  with_reducible repeat' first | assumption | apply streamSet_keeps | apply regSetFld_keeps | refine keeps_ite_snd ?_ ?_ | split

theorem tblRun_keeps (s : State) (op) (table) (i) (d) (h : Keeps o s) : Keeps o (tblRun s op table i d).2 := by
  unfold tblRun
  with_reducible repeat'
    first
      | assumption | apply tblDataSet_keeps | apply tblWrite_keeps | apply tblInsert_keeps | apply tblByKey_keeps
      | refine keeps_ite_snd ?_ ?_

theorem execTblRead_keeps (f) (table) (s : State) (h : Keeps o s) : KeepsNext o (execTblRead f table s) := by
  unfold execTblRead
  with_reducible repeat' first | assumption | apply hostCmd_keeps | apply tblStart_keeps | intro _ _

theorem execTblWrite_keeps (f) (table) (s : State) (h : Keeps o s) : KeepsNext o (execTblWrite f table s) := by
  unfold execTblWrite
  with_reducible repeat' first | assumption | apply hostCmd_keeps | apply tblStart_keeps | intro _ _

theorem execTblInsert_keeps (f) (table) (s : State) (h : Keeps o s) : KeepsNext o (execTblInsert f table s) := by
  unfold execTblInsert
  with_reducible repeat' first | assumption | apply hostCmd_keeps | apply tblStart_keeps | intro _ _

theorem execTblDelete_keeps (f) (table) (s : State) (h : Keeps o s) : KeepsNext o (execTblDelete f table s) := by
  unfold execTblDelete
  with_reducible repeat' first | assumption | apply hostCmd_keeps | apply tblStart_keeps | intro _ _

theorem execTblLookup_keeps (f) (table) (s : State) (h : Keeps o s) : KeepsNext o (execTblLookup f table s) := by
  unfold execTblLookup
  with_reducible repeat' first | assumption | apply hostCmd_keeps | apply tblStart_keeps | intro _ _

theorem execTblCmdDone_keeps (s : State) (h : Keeps o s) : KeepsNext o (execTblCmdDone s) := by
  unfold execTblCmdDone
  with_reducible repeat'
    first
      | assumption | apply domEvent_keeps | apply tblRun_keeps | apply regSetFld_keeps
      | fail_if_no_progress refine keeps_mk ?_ rfl rfl rfl ⟨rfl, rfl, rfl, rfl⟩ | split | dsimp only | intro _ _

theorem keyStart_keeps (s : State) (v) (h : Keeps o s) : Keeps o (keyStart s v) := by
  unfold keyStart
  with_reducible repeat'
    first
      | assumption | apply raise_keeps | apply regSetFld_keeps | refine keeps_ite ?_ ?_
      | fail_if_no_progress refine keeps_mk ?_ rfl rfl rfl ⟨rfl, rfl, rfl, rfl⟩

theorem execKeyCommit_keeps (f) (v) (s : State) (h : Keeps o s) : KeepsNext o (execKeyCommit f v s) := by
  unfold execKeyCommit
  with_reducible repeat' first | assumption | apply hostCmd_keeps | apply keyStart_keeps | split | intro _ _

theorem execKeyClear_keeps (f) (v) (s : State) (h : Keeps o s) : KeepsNext o (execKeyClear f v s) := by
  unfold execKeyClear
  with_reducible repeat' first | assumption | apply hostCmd_keeps | apply keyStart_keeps | split | intro _ _

theorem execKeyCommitDone_keeps (s : State) (h : Keeps o s) : KeepsNext o (execKeyCommitDone s) := by
  unfold execKeyCommitDone
  with_reducible repeat'
    first
      | assumption | apply domEvent_keeps | apply regSetFld_keeps
      | fail_if_no_progress refine keeps_mk ?_ rfl rfl rfl ⟨rfl, rfl, rfl, rfl⟩ | split | dsimp only | intro _ _

theorem bindShow_keeps (s : State) (v) (h : Keeps o s) : Keeps o (bindShow s v) := by
  unfold bindShow
  with_reducible repeat' first | assumption | apply regSet_keeps

theorem engStart_keeps (s : State) (e) (reason) (h : Keeps o s) : Keeps o (engStart s e reason) := by
  unfold engStart
  with_reducible repeat' first | assumption | apply engSet_keeps | apply regSetFld_keeps | apply regSet_keeps

theorem timerFire_keeps (s : State) (e) (t) (h : Keeps o s) : Keeps o (timerFire s e t) := by
  unfold timerFire
  with_reducible repeat' first | assumption | apply krnCount_keeps | apply engSet_keeps

theorem firedPost_keeps (s : State) (e) (h : Keeps o s) : Keeps o (firedPost s e) := by
  unfold firedPost
  with_reducible repeat'
    first
      | assumption | apply postOwn_keeps | apply engSet_keeps | refine keeps_ite ?_ ?_ | refine keeps_fold ?_ ?_ | intro _ _ _

theorem timerSet_keeps (s : State) (e) (t) (ctx) (target) (cookie) (h : Keeps o s) :
    Keeps o (timerSet s e t ctx target cookie).2 := by
  unfold timerSet
  with_reducible repeat'
    first
      | assumption | apply krnCount_keeps | apply krnRaise_keeps | apply regHigh_keeps | apply timerFire_keeps
      | apply engSet_keeps | refine keeps_ite ?_ ?_ | refine keeps_ite_snd ?_ ?_

theorem timerCancel_keeps (s : State) (e) (ctx) (cookie) (h : Keeps o s) : Keeps o (timerCancel s e ctx cookie).2 := by
  unfold timerCancel
  with_reducible repeat'
    first
      | assumption | apply engSet_keeps | apply timerFire_keeps | apply krnCount_keeps | refine keeps_ite_snd ?_ ?_
      | dsimp only | refine keeps_fold ?_ ?_ | intro _ _ _

theorem timerApply_keeps (e) (t) (ctx) (x3) (x4) (x5 : State) (h : Keeps o x5) : Keeps o (timerApply e t ctx x3 x4 x5).2 := by
  fun_induction timerApply e t ctx x3 x4 x5 <;> (with_reducible repeat'
    first
      | assumption | apply timerSet_keeps | apply timerCancel_keeps | refine keeps_ite_snd ?_ ?_ | apply_assumption)

theorem timerCommit_keeps (s : State) (e) (t) (ctx) (l) (h : Keeps o s) : Keeps o (timerCommit s e t ctx l) := by
  unfold timerCommit
  with_reducible repeat' first | assumption | apply timerApply_keeps | apply thrSet_keeps | refine keeps_ite ?_ ?_

theorem cyclesReport_keeps (s : State) (x) (h : Keeps o s) : Keeps o (cyclesReport s x) := by
  unfold cyclesReport
  with_reducible repeat' first | assumption | apply ctxMod_keeps | refine keeps_ite ?_ ?_ | split

theorem eventEnd_keeps (s : State) (e) (t) (h : Keeps o s) : Keeps o (eventEnd s e t) := by
  unfold eventEnd
  with_reducible repeat'
    first
      | assumption | apply thrSet_keeps | apply cyclesReport_keeps | apply refDrop_keeps | refine keeps_ite ?_ ?_ | split
      | dsimp only

theorem eventAfter_keeps (s : State) (e) (h : Keeps o s) : Keeps o (eventAfter s e) := by
  unfold eventAfter
  with_reducible repeat'
    first
      | assumption | apply pauseSweep_keeps | apply pageKick_keeps | apply riderRetry_keeps | apply postRoom_keeps
      | apply krnDispatch_keeps

theorem thrWait_keeps (s : State) (e) (t) (rd) (ends) (after) (h : Keeps o s) : Keeps o (thrWait s e t rd ends after) := by
  unfold thrWait
  with_reducible repeat' first | assumption | apply engSet_keeps | apply thrSet_keeps

theorem ctxReplace_keeps (s : State) (e) (c) (replays) (h : Keeps o s) : Keeps o (ctxReplace s e c replays) := by
  unfold ctxReplace
  with_reducible repeat'
    first
      | assumption | apply refDrop_keeps | apply rdrCount_keeps | apply journalNow_keeps | apply ctxMod_keeps
      | apply holdRelease_keeps | apply placeWake_keeps | apply rdrRaise_keeps | refine keeps_ite ?_ ?_
      | fail_if_no_progress refine keeps_mk ?_ rfl rfl rfl ⟨rfl, rfl, rfl, rfl⟩ | split | dsimp only | refine keeps_fold ?_ ?_
      | intro _ _ _

theorem engHalt_keeps (s : State) (e) (ecc) (h : Keeps o s) : Keeps o (engHalt s e ecc) := by
  unfold engHalt
  with_reducible repeat'
    first
      | assumption | apply cyclesReport_keeps | apply engSet_keeps | apply refDrop_keeps | apply regSetFld_keeps
      | apply krnRaise_keeps | apply masterReset_keeps | apply riderMoved_keeps | apply ctxReplace_keeps
      | apply rdrRaise_keeps | apply migrateAbort_keeps | apply freezeArmed_keeps | apply pauseSweep_keeps
      | apply riderRetry_keeps | apply postRoom_keeps | refine keeps_ite ?_ ?_
      | fail_if_no_progress refine keeps_mk ?_ rfl rfl rfl ⟨rfl, rfl, rfl, rfl⟩ | split | dsimp only | refine keeps_fold ?_ ?_
      | intro _ _ _

theorem thrExc_keeps (s : State) (e) (t) (code) (pc) (h : Keeps o s) : Keeps o (thrExc s e t code pc) := by
  unfold thrExc
  with_reducible repeat'
    first
      | assumption | apply farDrop_keeps | apply krnCount_keeps | apply thrSet_keeps | apply engHalt_keeps
      | apply freePick_keeps | apply eventEnd_keeps | apply regSet_keeps | apply krnRaise_keeps | apply eventAfter_keeps
      | apply thrWait_keeps | refine keeps_ite ?_ ?_ | split

theorem issueCount_keeps (s : State) (e) (t) (h : Keeps o s) : Keeps o (issueCount s e t) := by
  unfold issueCount
  with_reducible repeat' first | assumption | apply krnCount_keeps | apply thrSet_keeps

theorem issueStart_keeps (s : State) (e) (t) (n) (h : Keeps o s) : Keeps o (issueStart s e t n) := by
  unfold issueStart
  with_reducible repeat'
    first
      | assumption | apply idleRestart_keeps | apply issueCount_keeps | apply slotTake_keeps | apply thrCost_keeps
      | apply thrSet_keeps

theorem krnIssue_keeps (s : State) (e) (t) (w) (n) (k) (h : Keeps o s) (hk : ∀ y0 y1, Keeps o y0 → Keeps o (k y0 y1)) :
    KeepsNext o (krnIssue s e t w n k) := by
  unfold krnIssue
  with_reducible repeat'
    first
      | assumption | apply event_keeps | apply thrExc_keeps | apply thrSet_keeps | apply slotTake_keeps
      | apply issueStart_keeps | refine keeps_ite ?_ ?_ | apply hk | split | dsimp only | intro _ _

theorem krnExc_keeps (s : State) (e) (t) (code) (h : Keeps o s) : Keeps o (krnExc s e t code) := by
  unfold krnExc
  with_reducible repeat' first | assumption | apply thrExc_keeps

theorem thrNext_keeps (s : State) (e) (t) (h : Keeps o s) : Keeps o (thrNext s e t) := by
  unfold thrNext
  with_reducible repeat' first | assumption | apply thrSet_keeps

theorem thrWrite_keeps (s : State) (e) (t) (rd) (v) (h : Keeps o s) : Keeps o (thrWrite s e t rd v) := by
  unfold thrWrite
  with_reducible repeat' first | assumption | apply thrSet_keeps

theorem krnAlu_keeps (s : State) (e) (t) (w) (n) (rd) (f) (h : Keeps o s) : KeepsNext o (krnAlu s e t w n rd f) := by
  unfold krnAlu
  with_reducible repeat' first | assumption | apply krnIssue_keeps | apply thrWrite_keeps | intro _ _ _

theorem ctxCommit_keeps (s : State) (c) (window) (h : Keeps o s) : Keeps o (ctxCommit s c window) := by
  unfold ctxCommit
  with_reducible repeat' first | assumption | apply ctxMod_keeps | apply culPend_keeps | refine keeps_ite ?_ ?_

theorem evDone_keeps (s : State) (e) (t) (commit) (h : Keeps o s) : Keeps o (evDone s e t commit) := by
  unfold evDone
  with_reducible repeat'
    first
      | assumption | apply krnExc_keeps | apply ctxCommit_keeps | apply timerCommit_keeps | apply eventAfter_keeps
      | apply thrNext_keeps | apply eventEnd_keeps | split | dsimp only

theorem engReadyNow_keeps (s : State) (e) (t) (h : Keeps o s) : Keeps o (engReadyNow s e t) := by
  unfold engReadyNow
  with_reducible repeat'
    first
      | assumption | apply regSetFld_keeps | apply krnRaise_keeps | apply engSet_keeps | apply journalNow_keeps
      | apply placeWake_keeps | apply ctxMod_keeps | apply eventAfter_keeps | apply postFresh_keeps | refine keeps_ite ?_ ?_
      | split | dsimp only | refine keeps_fold ?_ ?_ | intro _ _ _

theorem buildSend_keeps (s : State) (e) (t) (b) (d) (h : Keeps o s) : Keeps o (buildSend s e t b d) := by
  unfold buildSend
  with_reducible repeat'
    first
      | assumption | apply buildRead_keeps | apply thrSet_keeps | apply sendOutcome_keeps | apply injectPcp_keeps
      | apply inject_keeps | apply krnCount_keeps | refine keeps_ite ?_ ?_

theorem tagPut_keeps (s : State) (e) (t) (a) (tag) (h : Keeps o s) : Keeps o (tagPut s e t a tag).2 := by
  unfold tagPut
  with_reducible repeat'
    first
      | assumption | apply dmemWrite_keeps | apply tankPut_keeps | apply buildWrite_keeps | split
      | refine keeps_fold_snd ?_ ?_ | intro _ _ _

theorem authSubmit_keeps (s : State) (e) (t) (d) (bytes) (tag) (h : Keeps o s) : Keeps o (authSubmit s e t d bytes tag).2 := by
  unfold authSubmit
  with_reducible repeat' first | assumption | apply krnCount_keeps | apply laneEnter_keeps | refine keeps_ite_snd ?_ ?_

theorem authEnd_keeps (s : State) (e) (t) (ctx) (alg) (bytes) (tag) (place) (jobTag) (key) (h : Keeps o s) :
    Keeps o (authEnd s e t ctx alg bytes tag place jobTag key) := by
  unfold authEnd
  with_reducible repeat'
    first
      | assumption | apply tagPut_keeps | apply krnCount_keeps | apply postOwn_keeps | refine keeps_ite_snd ?_ ?_ | split

theorem farSend_keeps (s : State) (e) (t) (op) (late) (h : Keeps o s) : Keeps o (farSend s e t op late) := by
  unfold farSend
  with_reducible repeat' first | assumption | fail_if_no_progress refine keeps_mk ?_ rfl rfl rfl ⟨rfl, rfl, rfl, rfl⟩

theorem thrBack_keeps (s : State) (e) (t) (h : Keeps o s) : Keeps o (thrBack s e t) := by
  unfold thrBack
  with_reducible repeat' first | assumption | apply thrCost_keeps

theorem storeRefused_keeps (s : State) (f) (h : Keeps o s) : Keeps o (storeRefused s f) := by
  unfold storeRefused
  with_reducible repeat'
    first
      | assumption | apply thrSet_keeps | apply freePick_keeps | apply regSet_keeps | apply krnCount_keeps
      | refine keeps_ite ?_ ?_ | split

theorem fenceBack_keeps (s : State) (e) (t) (h : Keeps o s) : Keeps o (fenceBack s e t) := by
  unfold fenceBack
  with_reducible repeat'
    first
      | assumption | apply thrBack_keeps | apply emit_keeps | refine keeps_ite ?_ ?_
      | fail_if_no_progress refine keeps_mk ?_ rfl rfl rfl ⟨rfl, rfl, rfl, rfl⟩ | split

theorem farDo_keeps (s : State) (f) (h : Keeps o s) : Keeps o (farDo s f) := by
  unfold farDo
  with_reducible repeat'
    first
      | assumption | apply kLoad_keeps | apply thrBack_keeps | apply thrWrite_keeps | apply thrExc_keeps | apply kStore_keeps
      | apply fenceBack_keeps | apply storeRefused_keeps | apply lockRead_keeps | apply thrNext_keeps | apply lockWrite_keeps
      | split | dsimp only | refine keeps_of_pair (by assumption) ?_

theorem farFirst_keeps (s : State) (p) (h : Keeps o s) : Keeps o (farFirst s p) := by
  unfold farFirst
  with_reducible repeat'
    first
      | assumption | apply farDo_keeps | fail_if_no_progress refine keeps_mk ?_ rfl rfl rfl ⟨rfl, rfl, rfl, rfl⟩ | split

theorem farFlush_keeps (e) (t) (a) (len) (x4) (x5 : State) (h : Keeps o x5) : Keeps o (farFlush e t a len x4 x5) := by
  fun_induction farFlush e t a len x4 x5 <;> (with_reducible repeat'
    first
      | assumption | apply farFirst_keeps | apply_assumption)

theorem farDirect_keeps (s : State) (h : Keeps o s) : Keeps o (farDirect s) := by
  unfold farDirect
  with_reducible repeat' first | assumption | apply farFirst_keeps | dsimp only | refine keeps_fold ?_ ?_ | intro _ _ _

theorem farAsk_keeps (s : State) (h : Keeps o s) : Keeps o (farAsk s) := by
  unfold farAsk
  with_reducible repeat'
    first
      | assumption | apply sluAsk_keeps | refine keeps_ite ?_ ?_ | split | refine keeps_fold ?_ ?_ | intro _ _ _

theorem farTick_keeps (s : State) (h : Keeps o s) : Keeps o (farTick s) := by
  unfold farTick
  with_reducible repeat' first | assumption | apply farAsk_keeps | apply farDirect_keeps | refine keeps_ite ?_ ?_

theorem farServe_keeps (s : State) (i) (r) (h : Keeps o s) : Keeps o (farServe s i r) := by
  unfold farServe
  with_reducible repeat'
    first
      | assumption | apply farFirst_keeps | apply sluAsk_keeps | refine keeps_ite ?_ ?_
      | fail_if_no_progress refine keeps_mk ?_ rfl rfl rfl ⟨rfl, rfl, rfl, rfl⟩ | split

theorem execArbitrationPhase_keeps (x) (s : State) (h : Keeps o s) : KeepsNext o (execArbitrationPhase x s) := by
  unfold execArbitrationPhase
  with_reducible repeat'
    first
      | assumption | apply domEvent_keeps | apply sluChoose_keeps | apply farServe_keeps | apply sluGrant_keeps
      | apply regSetFld_keeps | refine keeps_ite ?_ ?_
      | fail_if_no_progress refine keeps_mk ?_ rfl rfl rfl ⟨rfl, rfl, rfl, rfl⟩ | split | dsimp only | intro _ _
      | refine keeps_of_pair (by assumption) ?_

end Sys2Proof.Machine
end

