-- ==== Sys2Proof/Laws/Keeps/Ports.lean ====
section
/-!
SUPPORT. Every transformation of the state in Machine/Trickle.lean, Machine/Ports.lean leaves the queue as it was and
keeps the invariant.
-/
namespace Sys2Proof.Machine

variable {o : State}

theorem lanesRetrain_keeps (s : State) (x) (h : Keeps o s) : Keeps o (lanesRetrain s x) := by
  unfold lanesRetrain
  with_reducible repeat'
    first
      | assumption | apply regSetFld_keeps | refine keeps_ite ?_ ?_ | refine keeps_fold ?_ ?_ | intro _ _ _

theorem trkSet_keeps (s : State) (p) (high) (low) (h : Keeps o s) : Keeps o (trkSet s p high low) := by
  unfold trkSet
  with_reducible repeat' first | assumption | fail_if_no_progress refine keeps_mk ?_ rfl rfl rfl ⟨rfl, rfl, rfl, rfl⟩

theorem trkDrop_keeps (s : State) (a) (n) (h : Keeps o s) : Keeps o (trkDrop s a n) := by
  unfold trkDrop
  with_reducible repeat' first | assumption | apply countBy_keeps

theorem trkAdmit_keeps (s : State) (f) (p) (h : Keeps o s) : Keeps o (trkAdmit s f p) := by
  unfold trkAdmit
  with_reducible repeat' first | assumption | apply trkDrop_keeps | apply trkSet_keeps | refine keeps_ite ?_ ?_

theorem trkReceive_keeps (s : State) (p) (bytes) (good) (h : Keeps o s) : Keeps o (trkReceive s p bytes good) := by
  unfold trkReceive
  with_reducible repeat'
    first
      | assumption | apply trkDrop_keeps | apply regSet_keeps | apply trkAdmit_keeps | refine keeps_ite ?_ ?_
      | refine keeps_fold ?_ ?_ | intro _ _ _

theorem trkAge_keeps (s : State) (p) (h : Keeps o s) : Keeps o (trkAge s p) := by
  unfold trkAge
  with_reducible repeat' first | assumption | apply trkDrop_keeps | apply trkSet_keeps

theorem trkSend_keeps (s : State) (p) (h : Keeps o s) : Keeps o (trkSend s p) := by
  unfold trkSend
  with_reducible repeat'
    first
      | assumption | apply trkAge_keeps | apply emit_keeps | apply trkSet_keeps | refine keeps_ite ?_ ?_ | split

theorem trkEmpty_keeps (s : State) (h : Keeps o s) : Keeps o (trkEmpty s) := by
  unfold trkEmpty
  with_reducible repeat'
    first
      | assumption | apply trkDrop_keeps | fail_if_no_progress refine keeps_mk ?_ rfl rfl rfl ⟨rfl, rfl, rfl, rfl⟩

theorem laneEval_keeps (s : State) (n) (h : Keeps o s) : Keeps o (laneEval s n) := by
  unfold laneEval
  with_reducible repeat' first | assumption | apply pcsEval_keeps | refine keeps_fold ?_ ?_

theorem execLaneSyncAcquired_keeps (n) (s : State) (h : Keeps o s) : KeepsNext o (execLaneSyncAcquired n s) := by
  unfold execLaneSyncAcquired
  with_reducible repeat'
    first
      | assumption | apply domEvent_keeps | apply laneEval_keeps | apply regSetFld_keeps | refine keeps_ite ?_ ?_ | intro _ _

theorem execLaneSyncLost_keeps (n) (s : State) (h : Keeps o s) : KeepsNext o (execLaneSyncLost n s) := by
  unfold execLaneSyncLost
  with_reducible repeat'
    first
      | assumption | apply domEvent_keeps | apply laneEval_keeps | apply satInc_keeps | apply regSetFld_keeps
      | refine keeps_ite ?_ ?_ | intro _ _

theorem execInbandStatus_keeps (p) (link) (full) (speed) (s : State) (h : Keeps o s) :
    KeepsNext o (execInbandStatus p link full speed s) := by
  unfold execInbandStatus
  with_reducible repeat'
    first
      | assumption | apply domEvent_keeps | apply emit_keeps | apply pcsEval_keeps | apply portSet_keeps | dsimp only
      | intro _ _

theorem execUplinkPcsUp_keeps (u) (s : State) (h : Keeps o s) : KeepsNext o (execUplinkPcsUp u s) := by
  unfold execUplinkPcsUp
  with_reducible repeat'
    first
      | assumption | apply domEvent_keeps | apply pcsEval_keeps | apply regSetFld_keeps | refine keeps_ite ?_ ?_ | dsimp only
      | intro _ _

theorem execUplinkPcsDown_keeps (u) (lock) (s : State) (h : Keeps o s) : KeepsNext o (execUplinkPcsDown u lock s) := by
  unfold execUplinkPcsDown
  with_reducible repeat'
    first
      | assumption | apply domEvent_keeps | apply pcsEval_keeps | apply regSetFld_keeps | dsimp only | intro _ _

theorem execRemoteFaultRx_keeps (u) (on) (s : State) (h : Keeps o s) : KeepsNext o (execRemoteFaultRx u on s) := by
  unfold execRemoteFaultRx
  with_reducible repeat'
    first
      | assumption | apply domEvent_keeps | apply pcsEval_keeps | apply regSetFld_keeps | dsimp only | intro _ _

theorem execFecCodewordCorrected_keeps (u) (s : State) (h : Keeps o s) : KeepsNext o (execFecCodewordCorrected u s) := by
  unfold execFecCodewordCorrected
  with_reducible repeat'
    first
      | assumption | apply domEvent_keeps | apply countBy_keeps | refine keeps_ite ?_ ?_ | dsimp only | intro _ _

theorem execFecCodewordUncorrectable_keeps (u) (s : State) (h : Keeps o s) :
    KeepsNext o (execFecCodewordUncorrectable u s) := by
  unfold execFecCodewordUncorrectable
  with_reducible repeat'
    first
      | assumption | apply domEvent_keeps | apply portRaise_keeps | apply countBy_keeps | refine keeps_ite ?_ ?_ | dsimp only
      | intro _ _

theorem execFrameHeaderArrival_keeps (p) (bytes) (s : State) (h : Keeps o s) :
    KeepsNext o (execFrameHeaderArrival p bytes s) := by
  unfold execFrameHeaderArrival
  with_reducible repeat' first | assumption | apply flowEvent_keeps | apply receiveFrame_keeps | intro _ _

theorem execCellAdmission_keeps (p) (s : State) (h : Keeps o s) : KeepsNext o (execCellAdmission p s) := by
  unfold execCellAdmission
  with_reducible repeat'
    first
      | assumption | apply flowEvent_keeps | apply receiveCell_keeps | refine keeps_ite ?_ ?_ | split | intro _ _

theorem execFrameEnd_keeps (p) (fcs) (code) (sent) (s : State) (h : Keeps o s) :
    KeepsNext o (execFrameEnd p fcs code sent s) := by
  unfold execFrameEnd
  with_reducible repeat'
    first
      | assumption | apply flowEvent_keeps | apply loopedEnd_keeps | apply receiveEnd_keeps | refine keeps_ite ?_ ?_ | split
      | dsimp only | intro _ _

theorem controlTake_keeps (s : State) (p) (kind) (line) (h : Keeps o s) : Keeps o (controlTake s p kind line).2 := by
  unfold controlTake
  with_reducible repeat'
    first
      | assumption | apply portSet_keeps | apply receiveBroken_keeps | refine keeps_ite_snd ?_ ?_ | split

theorem controlCounted_keeps (s : State) (p) (n) (len) (good) (code) (h : Keeps o s) :
    Keeps o (controlCounted s p n len good code) := by
  unfold controlCounted
  with_reducible repeat' first | assumption | apply portOctets_keeps | apply portCount_keeps | split | dsimp only

theorem execPauseFrameRx_keeps (p) (quanta) (group) (check) (len) (s : State) (h : Keeps o s) :
    KeepsNext o (execPauseFrameRx p quanta group check len s) := by
  unfold execPauseFrameRx
  with_reducible repeat'
    first
      | assumption | apply flowEvent_keeps | apply controlTake_keeps | apply controlCounted_keeps | apply pauseLoad_keeps
      | apply portCount_keeps | refine keeps_ite ?_ ?_ | split | dsimp only | intro _ _
      | refine keeps_of_pair (by assumption) ?_

theorem execPfcFrameRx_keeps (p) (classes) (quanta) (group) (check) (len) (s : State) (h : Keeps o s) :
    KeepsNext o (execPfcFrameRx p classes quanta group check len s) := by
  unfold execPfcFrameRx
  with_reducible repeat'
    first
      | assumption | apply flowEvent_keeps | apply controlTake_keeps | apply controlCounted_keeps | apply pauseLoad_keeps
      | apply portCount_keeps | refine keeps_ite ?_ ?_ | split | dsimp only | refine keeps_fold ?_ ?_ | intro _ _ _
      | intro _ _ | refine keeps_of_pair (by assumption) ?_

theorem execMacControlOtherRx_keeps (p) (check) (len) (s : State) (h : Keeps o s) :
    KeepsNext o (execMacControlOtherRx p check len s) := by
  unfold execMacControlOtherRx
  with_reducible repeat'
    first
      | assumption | apply flowEvent_keeps | apply controlTake_keeps | apply controlCounted_keeps | split | intro _ _
      | refine keeps_of_pair (by assumption) ?_

theorem execPauseTimerExpiry_keeps (p) (st) (s : State) (h : Keeps o s) : KeepsNext o (execPauseTimerExpiry p st s) := by
  unfold execPauseTimerExpiry
  with_reducible repeat'
    first
      | assumption | apply domEvent_keeps | apply pauseSet_keeps | refine keeps_ite ?_ ?_ | split | intro _ _

theorem execPauseWdTrip_keeps (p) (st) (s : State) (h : Keeps o s) : KeepsNext o (execPauseWdTrip p st s) := by
  unfold execPauseWdTrip
  with_reducible repeat'
    first
      | assumption | apply domEvent_keeps | apply portRaise_keeps | apply portCount_keeps | apply pauseSet_keeps
      | apply portSet_keeps | refine keeps_ite ?_ ?_ | split | dsimp only | intro _ _

theorem execPauseWdHoldEnd_keeps (p) (st) (s : State) (h : Keeps o s) : KeepsNext o (execPauseWdHoldEnd p st s) := by
  unfold execPauseWdHoldEnd
  with_reducible repeat'
    first
      | assumption | apply domEvent_keeps | apply portSet_keeps | refine keeps_ite ?_ ?_ | dsimp only | intro _ _

theorem execPauseFrameTx_keeps (p) (s : State) (h : Keeps o s) : KeepsNext o (execPauseFrameTx p s) := by
  unfold execPauseFrameTx
  with_reducible repeat' first | assumption | apply domEvent_keeps | apply pauseSend_keeps | intro _ _

theorem execPauseRefreshExpiry_keeps (p) (s : State) (h : Keeps o s) : KeepsNext o (execPauseRefreshExpiry p s) := by
  unfold execPauseRefreshExpiry
  with_reducible repeat' first | assumption | apply domEvent_keeps | apply pauseRepeat_keeps | intro _ _

theorem execLoopbackTakeEffect_keeps (p) (s : State) (h : Keeps o s) : KeepsNext o (execLoopbackTakeEffect p s) := by
  unfold execLoopbackTakeEffect
  with_reducible repeat'
    first
      | assumption | apply domEvent_keeps | apply regSetFld_keeps | apply portSet_keeps | apply lineEval_keeps
      | apply linkUp_keeps | apply pcsEval_keeps | apply linkDown_keeps | refine keeps_ite ?_ ?_ | split | dsimp only
      | intro _ _

theorem execEgressSelect_keeps (p) (early) (s : State) (h : Keeps o s) : KeepsNext o (execEgressSelect p early s) := by
  unfold execEgressSelect
  with_reducible repeat'
    first
      | assumption | apply flowEvent_keeps | apply earlyArrive_keeps | apply trkSend_keeps | apply egressSelect_keeps
      | refine keeps_ite ?_ ?_ | split | dsimp only | intro _ _

theorem execFrameTxEnd_keeps (p) (s : State) (h : Keeps o s) : KeepsNext o (execFrameTxEnd p s) := by
  unfold execFrameTxEnd
  with_reducible repeat' first | assumption | apply flowEvent_keeps | apply txEnd_keeps | refine keeps_ite ?_ ?_ | intro _ _

theorem execUnderrun_keeps (p) (sent) (s : State) (h : Keeps o s) : KeepsNext o (execUnderrun p sent s) := by
  unfold execUnderrun
  with_reducible repeat'
    first
      | assumption | apply flowEvent_keeps | apply txUnderrun_keeps | refine keeps_ite ?_ ?_ | intro _ _

theorem execLaunchDue_keeps (p) (s : State) (h : Keeps o s) : KeepsNext o (execLaunchDue p s) := by
  unfold execLaunchDue
  with_reducible repeat' first | assumption | apply flowEvent_keeps | apply egressLaunch_keeps | intro _ _

theorem execLinkDown_keeps (p) (sent) (s : State) (h : Keeps o s) : KeepsNext o (execLinkDown p sent s) := by
  unfold execLinkDown
  with_reducible repeat' first | assumption | apply flowEvent_keeps | apply linkDown_keeps | refine keeps_ite ?_ ?_ | intro _ _

theorem execLinkUp_keeps (p) (s : State) (h : Keeps o s) : KeepsNext o (execLinkUp p s) := by
  unfold execLinkUp
  with_reducible repeat' first | assumption | apply flowEvent_keeps | apply linkUp_keeps | refine keeps_ite ?_ ?_ | intro _ _

theorem execHoldExpiry_keeps (p) (s : State) (h : Keeps o s) : KeepsNext o (execHoldExpiry p s) := by
  unfold execHoldExpiry
  with_reducible repeat'
    first
      | assumption | apply flowEvent_keeps | apply linkUp_keeps | apply portRaise_keeps | apply portFlush_keeps
      | refine keeps_ite ?_ ?_ | split | intro _ _

theorem portTurnOn_keeps (s : State) (p) (h : Keeps o s) : Keeps o (portTurnOn s p) := by
  unfold portTurnOn
  with_reducible repeat'
    first
      | assumption | apply regSetFld_keeps | apply pcsEval_keeps | apply portSet_keeps | apply linkUp_keeps
      | refine keeps_ite ?_ ?_

theorem execFlushDone_keeps (p) (s : State) (h : Keeps o s) : KeepsNext o (execFlushDone p s) := by
  unfold execFlushDone
  with_reducible repeat'
    first
      | assumption | apply event_keeps | apply portRaise_keeps | apply regSetFld_keeps | apply portTurnOn_keeps
      | refine keeps_ite ?_ ?_ | dsimp only | intro _ _

theorem execPortDisable_keeps (f) (p) (s : State) (h : Keeps o s) : KeepsNext o (execPortDisable f p s) := by
  unfold execPortDisable
  with_reducible repeat'
    first
      | assumption | apply hostCmd_keeps | apply regSetFld_keeps | apply pauseSweep_keeps | apply lineEval_keeps
      | apply furLinkDown_keeps | apply portFlush_keeps | refine keeps_ite ?_ ?_ | dsimp only | intro _ _

theorem execPortEnable_keeps (f) (p) (s : State) (h : Keeps o s) : KeepsNext o (execPortEnable f p s) := by
  unfold execPortEnable
  with_reducible repeat'
    first
      | assumption | apply hostCmd_keeps | apply regSetFld_keeps | apply portTurnOn_keeps | refine keeps_ite ?_ ?_ | intro _ _

theorem execTxstartWrite_keeps (f) (p) (v) (s : State) (h : Keeps o s) : KeepsNext o (execTxstartWrite f p v s) := by
  unfold execTxstartWrite
  with_reducible repeat'
    first
      | assumption | apply hostCmd_keeps | apply regSetFld_keeps | refine keeps_ite ?_ ?_ | dsimp only | intro _ _

theorem execMaxlenWrite_keeps (f) (p) (v) (s : State) (h : Keeps o s) : KeepsNext o (execMaxlenWrite f p v s) := by
  unfold execMaxlenWrite
  with_reducible repeat'
    first
      | assumption | apply hostCmd_keeps | apply portRaise_keeps | apply regSetFld_keeps | refine keeps_ite ?_ ?_ | split
      | dsimp only | intro _ _

theorem counterRead_keeps (s : State) (p) (n) (h : Keeps o s) : Keeps o (counterRead s p n) := by
  unfold counterRead
  with_reducible repeat'
    first
      | assumption | apply cntHiSet_keeps | apply regSet_keeps | refine keeps_ite ?_ ?_
      | fail_if_no_progress refine keeps_mk ?_ rfl rfl rfl ⟨rfl, rfl, rfl, rfl⟩

theorem execCounterLoRead_keeps (f) (p) (n) (s : State) (h : Keeps o s) : KeepsNext o (execCounterLoRead f p n s) := by
  unfold execCounterLoRead
  with_reducible repeat'
    first
      | assumption | apply hostCmd_keeps | apply counterRead_keeps
      | fail_if_no_progress refine keeps_mk ?_ rfl rfl rfl ⟨rfl, rfl, rfl, rfl⟩ | split | dsimp only | intro _ _

end Sys2Proof.Machine
end

