-- ==== Sys2Proof/Laws/Keeps/Loading.lean ====
section
/-!
SUPPORT. Every transformation of the state in Machine/Load.lean, Machine/Domains.lean, Machine/Image.lean leaves the
queue as it was and keeps the invariant.
-/
namespace Sys2Proof.Machine

variable {o : State}

theorem regWindow_keeps (s : State) (lo) (hi) (h : Keeps o s) : Keeps o (regWindow s lo hi) := by
  unfold regWindow
  with_reducible repeat' first | assumption | apply regClear_keeps

theorem latLoad_keeps (s : State) (h : Keeps o s) : Keeps o (latLoad s) := by
  unfold latLoad
  with_reducible repeat' first | assumption | apply regSet_keeps | dsimp only | refine keeps_fold ?_ ?_ | intro _ _ _

theorem calLoad_keeps (s : State) (h : Keeps o s) : Keeps o (calLoad s) := by
  unfold calLoad
  with_reducible repeat' first | assumption | fail_if_no_progress refine keeps_mk ?_ rfl rfl rfl ⟨rfl, rfl, rfl, rfl⟩

theorem timeLoad_keeps (s : State) (full) (h : Keeps o s) : Keeps o (timeLoad s full) := by
  unfold timeLoad
  with_reducible repeat'
    first
      | assumption | apply regSetFld_keeps | apply ppsAlign_keeps | apply regSet_keeps | apply calLoad_keeps
      | apply latLoad_keeps | refine keeps_ite ?_ ?_ | fail_if_no_progress refine keeps_mk ?_ rfl rfl rfl ⟨rfl, rfl, rfl, rfl⟩

theorem keptLoad_keeps (s : State) (p) (h : Keeps o s) : Keeps o (keptLoad s p) := by
  unfold keptLoad
  with_reducible repeat'
    first
      | assumption | refine keeps_ite ?_ ?_ | fail_if_no_progress refine keeps_mk ?_ rfl rfl rfl ⟨rfl, rfl, rfl, rfl⟩

theorem portLoad_keeps (s : State) (p) (h : Keeps o s) : Keeps o (portLoad s p) := by
  unfold portLoad
  with_reducible repeat'
    first
      | assumption | apply regSetFld_keeps | apply keptLoad_keeps | apply pcsEval_keeps | apply portTurnOn_keeps
      | apply lineEval_keeps | apply furLinkDown_keeps | apply portFlush_keeps | refine keeps_ite ?_ ?_

theorem portCut_keeps (s : State) (p) (h : Keeps o s) : Keeps o (portCut s p) := by
  unfold portCut
  with_reducible repeat' first | assumption | apply freePick_keeps | apply txAbort_keeps | apply receiveCut_keeps | split

theorem staticPlace_keeps (s : State) (e) (h : Keeps o s) : Keeps o (staticPlace s e) := by
  unfold staticPlace
  with_reducible repeat' first | assumption | apply fdbSet_keeps | split | dsimp only

theorem headgateLoad_keeps (s : State) (h : Keeps o s) : Keeps o (headgateLoad s) := by
  unfold headgateLoad
  with_reducible repeat'
    first
      | assumption | apply policerSet_keeps | apply staticPlace_keeps | refine keeps_ite ?_ ?_
      | fail_if_no_progress refine keeps_mk ?_ rfl rfl rfl ⟨rfl, rfl, rfl, rfl⟩ | split | dsimp only | refine keeps_fold ?_ ?_
      | intro _ _ _

theorem staticRemove_keeps (s : State) (x) (h : Keeps o s) : Keeps o (staticRemove s x) := by
  unfold staticRemove
  with_reducible repeat'
    first
      | assumption | apply fdbSet_keeps | refine keeps_ite ?_ ?_ | split | refine keeps_fold ?_ ?_ | intro _ _ _

theorem cisternClear_keeps (s : State) (h : Keeps o s) : Keeps o (cisternClear s) := by
  unfold cisternClear
  with_reducible repeat'
    first
      | assumption | apply portCut_keeps | apply frameComplete_keeps
      | fail_if_no_progress refine keeps_mk ?_ rfl rfl rfl ⟨rfl, rfl, rfl, rfl⟩ | split | refine keeps_fold ?_ ?_
      | intro _ _ _

theorem queuesLoad_keeps (s : State) (h : Keeps o s) : Keeps o (queuesLoad s) := by
  unfold queuesLoad
  with_reducible repeat'
    first
      | assumption | apply regSetFld_keeps | apply regSet_keeps | dsimp only | refine keeps_fold ?_ ?_ | intro _ _ _

theorem furrowClear_keeps (s : State) (h : Keeps o s) : Keeps o (furrowClear s) := by
  unfold furrowClear
  with_reducible repeat'
    first
      | assumption | apply regSet_keeps | apply furStop_keeps
      | fail_if_no_progress refine keeps_mk ?_ rfl rfl rfl ⟨rfl, rfl, rfl, rfl⟩ | refine keeps_fold ?_ ?_ | intro _ _ _

theorem furForcedKeep_keeps (s : State) (d) (h : Keeps o s) : Keeps o (furForcedKeep s d) := by
  unfold furForcedKeep
  with_reducible repeat' first | assumption | apply furSet_keeps

theorem furrowApply_keeps (s : State) (d) (next) (h : Keeps o s) : Keeps o (furrowApply s d next) := by
  unfold furrowApply
  with_reducible repeat'
    first
      | assumption | apply furForcedKeep_keeps | apply furLoad_keeps | apply furApply_keeps | apply regSetFld_keeps
      | apply furTurn_keeps | refine keeps_ite ?_ ?_ | split

theorem confluenceClear_keeps (s : State) (h : Keeps o s) : Keeps o (confluenceClear s) := by
  unfold confluenceClear
  with_reducible repeat'
    first
      | assumption | apply regWindow_keeps | apply regSet_keeps
      | fail_if_no_progress refine keeps_mk ?_ rfl rfl rfl ⟨rfl, rfl, rfl, rfl⟩

theorem streamLoad_keeps (s : State) (i) (h : Keeps o s) : Keeps o (streamLoad s i) := by
  unfold streamLoad
  with_reducible repeat' first | assumption | apply cnfStrSet_keeps | apply strTo_keeps | apply regSetFld_keeps

theorem streamSwap_keeps (s : State) (i) (h : Keeps o s) : Keeps o (streamSwap s i) := by
  unfold streamSwap
  with_reducible repeat' first | assumption | apply cnfRaise_keeps | apply streamLoad_keeps | apply cnfStrSet_keeps

theorem streamsSwap_keeps (s : State) (old) (l) (h : Keeps o s) : Keeps o (streamsSwap s old l) := by
  unfold streamsSwap
  with_reducible repeat' first | assumption | apply streamSwap_keeps | refine keeps_fold ?_ ?_

theorem basinLoad_keeps (s : State) (b) (h : Keeps o s) : Keeps o (basinLoad s b) := by
  unfold basinLoad
  with_reducible repeat' first | assumption | apply basApply_keeps | apply regSetFld_keeps

theorem confluenceLoad_keeps (s : State) (h : Keeps o s) : Keeps o (confluenceLoad s) := by
  unfold confluenceLoad
  with_reducible repeat'
    first
      | assumption | apply streamLoad_keeps | apply basinLoad_keeps | dsimp only | refine keeps_fold ?_ ?_

theorem publisherClear_keeps (s : State) (h : Keeps o s) : Keeps o (publisherClear s) := by
  unfold publisherClear
  with_reducible repeat'
    first
      | assumption | apply regWindow_keeps | fail_if_no_progress refine keeps_mk ?_ rfl rfl rfl ⟨rfl, rfl, rfl, rfl⟩

theorem publisherLoad_keeps (s : State) (h : Keeps o s) : Keeps o (publisherLoad s) := by
  unfold publisherLoad
  with_reducible repeat'
    first
      | assumption | apply gooseLoad_keeps | apply svLoad_keeps | apply subLoad_keeps | dsimp only | refine keeps_fold ?_ ?_

theorem persShow_keeps (s : State) (e) (p) (st) (h : Keeps o s) : Keeps o (persShow s e p st) := by
  unfold persShow
  with_reducible repeat' first | assumption | apply regSet_keeps

theorem engineLoad_keeps (s : State) (e) (h : Keeps o s) : Keeps o (engineLoad s e) := by
  unfold engineLoad
  with_reducible repeat'
    first
      | assumption | apply farClear_keeps | apply refDrop_keeps | apply engSet_keeps | apply regSet_keeps
      | apply persShow_keeps | apply engStart_keeps | refine keeps_ite ?_ ?_ | split | dsimp only | refine keeps_fold ?_ ?_

theorem enginesClear_keeps (s : State) (h : Keeps o s) : Keeps o (enginesClear s) := by
  unfold enginesClear
  with_reducible repeat' first | assumption | fail_if_no_progress refine keeps_mk ?_ rfl rfl rfl ⟨rfl, rfl, rfl, rfl⟩

theorem ctxStart_keeps (s : State) (d) (reason) (h : Keeps o s) : Keeps o (ctxStart s d reason) := by
  unfold ctxStart
  with_reducible repeat' first | assumption | apply postFresh_keeps | apply ctxCreate_keeps | split

theorem riderLoad_keeps (s : State) (h : Keeps o s) : Keeps o (riderLoad s) := by
  unfold riderLoad
  with_reducible repeat'
    first
      | assumption | apply regWindow_keeps | apply regSetFld_keeps | apply ctxStart_keeps
      | fail_if_no_progress refine keeps_mk ?_ rfl rfl rfl ⟨rfl, rfl, rfl, rfl⟩ | dsimp only | refine keeps_fold ?_ ?_
      | intro _ _ _

theorem bankLoad_keeps (s : State) (b) (h : Keeps o s) : Keeps o (bankLoad s b) := by
  unfold bankLoad
  with_reducible repeat'
    first
      | assumption | apply regSet_keeps | fail_if_no_progress refine keeps_mk ?_ rfl rfl rfl ⟨rfl, rfl, rfl, rfl⟩

theorem regionsLoad_keeps (s : State) (x) (h : Keeps o s) : Keeps o (regionsLoad s x) := by
  unfold regionsLoad
  with_reducible repeat' first | assumption | apply regSet_keeps | split | dsimp only | refine keeps_fold ?_ ?_ | intro _ _ _

theorem tankLoad_keeps (s : State) (h : Keeps o s) : Keeps o (tankLoad s) := by
  unfold tankLoad
  with_reducible repeat'
    first
      | assumption | apply locksReclaim_keeps | apply regionsLoad_keeps | apply bankLoad_keeps | refine keeps_fold ?_ ?_

theorem mailboxLoad_keeps (s : State) (c) (h : Keeps o s) : Keeps o (mailboxLoad s c) := by
  unfold mailboxLoad
  with_reducible repeat' first | assumption | apply regSet_keeps

theorem mailboxesLoad_keeps (s : State) (h : Keeps o s) : Keeps o (mailboxesLoad s) := by
  unfold mailboxesLoad
  with_reducible repeat'
    first
      | assumption | apply regSet_keeps | apply mbxClearAll_keeps | apply mailboxLoad_keeps | dsimp only
      | refine keeps_fold ?_ ?_ | intro _ _ _

theorem flumeSet_keeps (s : State) (e) (h : Keeps o s) : Keeps o (flumeSet s e) := by
  unfold flumeSet
  with_reducible repeat' first | assumption | apply regSet_keeps | split | dsimp only | refine keeps_fold ?_ ?_ | intro _ _ _

theorem pinLoad_keeps (s : State) (n) (h : Keeps o s) : Keeps o (pinLoad s n) := by
  unfold pinLoad
  with_reducible repeat' first | assumption | apply regSet_keeps | split

theorem pinInit_keeps (s : State) (n) (h : Keeps o s) : Keeps o (pinInit s n) := by
  unfold pinInit
  with_reducible repeat'
    first
      | assumption | apply fluSet_keeps | refine keeps_ite ?_ ?_
      | fail_if_no_progress refine keeps_mk ?_ rfl rfl rfl ⟨rfl, rfl, rfl, rfl⟩

theorem banksLoad_keeps (s : State) (h : Keeps o s) : Keeps o (banksLoad s) := by
  unfold banksLoad
  with_reducible repeat'
    first
      | assumption | apply bankCheck_keeps | fail_if_no_progress refine keeps_mk ?_ rfl rfl rfl ⟨rfl, rfl, rfl, rfl⟩
      | dsimp only | refine keeps_fold ?_ ?_

theorem flumeEnable_keeps (s : State) (e) (h : Keeps o s) : Keeps o (flumeEnable s e) := by
  unfold flumeEnable
  with_reducible repeat' first | assumption | apply flmStart_keeps | refine keeps_ite ?_ ?_ | split

theorem flumeEmpty_keeps (s : State) (e) (h : Keeps o s) : Keeps o (flumeEmpty s e) := by
  unfold flumeEmpty
  with_reducible repeat' first | assumption | apply fluSet_keeps

theorem flumeLoad_keeps (s : State) (keep) (h : Keeps o s) : Keeps o (flumeLoad s keep) := by
  unfold flumeLoad
  with_reducible repeat'
    first
      | assumption | apply flumeEmpty_keeps | apply pinLoad_keeps | apply flumeSet_keeps | apply pinInit_keeps
      | apply banksLoad_keeps | apply flumeEnable_keeps | apply pinShow_keeps | apply ringsTake_keeps
      | fail_if_no_progress refine keeps_mk ?_ rfl rfl rfl ⟨rfl, rfl, rfl, rfl⟩ | split | dsimp only | refine keeps_fold ?_ ?_

theorem flumeSwap_keeps (s : State) (e) (h : Keeps o s) : Keeps o (flumeSwap s e) := by
  unfold flumeSwap
  with_reducible repeat'
    first
      | assumption | apply ringsTake_keeps | apply flumeEnable_keeps | apply flumeSet_keeps | apply flumeEmpty_keeps

theorem crossReset_keeps (s : State) (d) (h : Keeps o s) : Keeps o (crossReset s d) := by
  unfold crossReset
  with_reducible repeat' first | assumption | fail_if_no_progress refine keeps_mk ?_ rfl rfl rfl ⟨rfl, rfl, rfl, rfl⟩

theorem portOff_keeps (s : State) (p) (h : Keeps o s) : Keeps o (portOff s p) := by
  unfold portOff
  with_reducible repeat'
    first
      | assumption | apply furLinkDown_keeps | apply portFlush_keeps | apply regSetFld_keeps | apply portCut_keeps

theorem lanesOff_keeps (s : State) (d) (h : Keeps o s) : Keeps o (lanesOff s d) := by
  unfold lanesOff
  with_reducible repeat'
    first
      | assumption | apply regSetFld_keeps | refine keeps_ite ?_ ?_ | refine keeps_fold ?_ ?_ | intro _ _ _

theorem engineOff_keeps (s : State) (retain) (e) (h : Keeps o s) : Keeps o (engineOff s retain e) := by
  unfold engineOff
  with_reducible repeat'
    first
      | assumption | apply refDrop_keeps | apply farClear_keeps | apply engSet_keeps | apply masterReset_keeps
      | apply regSetFld_keeps | apply riderMoved_keeps | apply migrateAbort_keeps | refine keeps_ite ?_ ?_ | split
      | dsimp only | refine keeps_fold ?_ ?_ | intro _ _ _

theorem basOff_keeps (retain) (s : State) (b) (h : Keeps o s) : Keeps o (basOff retain s b) := by
  unfold basOff
  with_reducible repeat' first | assumption | apply basStop_keeps | apply cnfBasSet_keeps

theorem confluenceOff_keeps (s : State) (retain) (h : Keeps o s) : Keeps o (confluenceOff s retain) := by
  unfold confluenceOff
  with_reducible repeat'
    first
      | assumption | apply basOff_keeps | apply regClear_keeps | apply strTo_keeps | apply cnfStrSet_keeps
      | apply regSet_keeps | refine keeps_ite ?_ ?_ | fail_if_no_progress refine keeps_mk ?_ rfl rfl rfl ⟨rfl, rfl, rfl, rfl⟩
      | dsimp only | refine keeps_fold ?_ ?_ | intro _ _ _

theorem domainDown_keeps (s : State) (d) (h : Keeps o s) : Keeps o (domainDown s d) := by
  unfold domainDown
  with_reducible repeat'
    first
      | assumption | apply regSetFld_keeps | apply lanesOff_keeps | apply portOff_keeps | apply engineOff_keeps
      | apply confluenceOff_keeps | apply emit_keeps | apply culOff_keeps | apply idleRestart_keeps | apply pauseSweep_keeps
      | apply riderRetry_keeps | apply postRoom_keeps | apply sluDomainOff_keeps | refine keeps_ite ?_ ?_
      | fail_if_no_progress refine keeps_mk ?_ rfl rfl rfl ⟨rfl, rfl, rfl, rfl⟩ | split | dsimp only | refine keeps_fold ?_ ?_
      | intro _ _ _

theorem portOn_keeps (s : State) (p) (h : Keeps o s) : Keeps o (portOn s p) := by
  unfold portOn
  with_reducible repeat'
    first
      | assumption | apply regWindow_keeps | apply portSet_keeps | apply keptLoad_keeps | apply portTurnOn_keeps
      | refine keeps_ite ?_ ?_ | fail_if_no_progress refine keeps_mk ?_ rfl rfl rfl ⟨rfl, rfl, rfl, rfl⟩

theorem engineOn_keeps (s : State) (retained) (e) (h : Keeps o s) : Keeps o (engineOn s retained e) := by
  unfold engineOn
  with_reducible repeat'
    first
      | assumption | apply regWindow_keeps | apply persShow_keeps | apply engSet_keeps | apply engStart_keeps | split
      | dsimp only

theorem clusterPoint_keeps (s : State) (d) (h : Keeps o s) : Keeps o (clusterPoint s d) := by
  unfold clusterPoint
  with_reducible repeat' first | assumption | apply regSetFld_keeps | refine keeps_ite ?_ ?_

theorem domainUp_keeps (s : State) (d) (retained) (h : Keeps o s) : Keeps o (domainUp s d retained) := by
  unfold domainUp
  with_reducible repeat'
    first
      | assumption | apply clusterPoint_keeps | apply crossReset_keeps | apply portOn_keeps | apply engineOn_keeps
      | apply basApply_keeps | apply flumeLoad_keeps | apply pauseSweep_keeps | apply riderRetry_keeps | apply postRoom_keeps
      | apply mbxDomainOn_keeps | refine keeps_ite ?_ ?_ | split | refine keeps_fold ?_ ?_ | intro _ _ _

theorem execDomainOnRequest_keeps (d) (s : State) (h : Keeps o s) : KeepsNext o (execDomainOnRequest d s) := by
  unfold execDomainOnRequest
  with_reducible repeat' first | assumption | apply event_keeps | apply domOnRequest_keeps | split | intro _ _

theorem execDomainOffRequest_keeps (d) (s : State) (h : Keeps o s) : KeepsNext o (execDomainOffRequest d s) := by
  unfold execDomainOffRequest
  with_reducible repeat' first | assumption | apply event_keeps | apply domOffRequest_keeps | split | intro _ _

theorem sequenceDone_keeps (s : State) (d) (h : Keeps o s) : Keeps o (sequenceDone s d) := by
  unfold sequenceDone
  with_reducible repeat'
    first
      | assumption | apply raise_keeps | apply regSetFld_keeps | apply domPend_keeps | apply domainUp_keeps
      | apply domainDown_keeps | apply startOn_keeps | refine keeps_ite ?_ ?_

theorem idleTick_keeps (s : State) (c) (h : Keeps o s) : Keeps o (idleTick s c) := by
  unfold idleTick
  with_reducible repeat' first | assumption | fail_if_no_progress refine keeps_mk ?_ rfl rfl rfl ⟨rfl, rfl, rfl, rfl⟩

theorem execIdleHoldExpiry_keeps (c) (s : State) (h : Keeps o s) : KeepsNext o (execIdleHoldExpiry c s) := by
  unfold execIdleHoldExpiry
  with_reducible repeat'
    first
      | assumption | apply event_keeps | apply idleTick_keeps | apply domOffRequest_keeps | apply idleRestart_keeps
      | refine keeps_ite ?_ ?_ | split | dsimp only | intro _ _

theorem policyRequest_keeps (s : State) (d) (h : Keeps o s) : Keeps o (policyRequest s d) := by
  unfold policyRequest
  with_reducible repeat' first | assumption | apply domOnRequest_keeps | apply domOffRequest_keeps | refine keeps_ite ?_ ?_

theorem powerWrite_keeps (s : State) (d) (req) (v) (h : Keeps o s) : Keeps o (powerWrite s d req v) := by
  unfold powerWrite
  with_reducible repeat'
    first
      | assumption | apply regSetFld_keeps | apply pwrRefuse_keeps | apply domRequest_keeps | apply policyRequest_keeps
      | refine keeps_ite ?_ ?_

theorem powerCmd_keeps (f) (d) (req) (v) (s : State) (h : Keeps o s) : KeepsNext o (powerCmd f d req v s) := by
  unfold powerCmd
  with_reducible repeat' first | assumption | apply hostCmd_keeps | apply powerWrite_keeps | split | intro _ _

theorem execPwrReqOn_keeps (f) (d) (v) (s : State) (h : Keeps o s) : KeepsNext o (execPwrReqOn f d v s) := by
  unfold execPwrReqOn
  with_reducible repeat' first | assumption | apply powerCmd_keeps

theorem execPwrReqOff_keeps (f) (d) (v) (s : State) (h : Keeps o s) : KeepsNext o (execPwrReqOff f d v s) := by
  unfold execPwrReqOff
  with_reducible repeat' first | assumption | apply powerCmd_keeps

theorem execPwrReqPolicy_keeps (f) (d) (v) (s : State) (h : Keeps o s) : KeepsNext o (execPwrReqPolicy f d v s) := by
  unfold execPwrReqPolicy
  with_reducible repeat' first | assumption | apply powerCmd_keeps

theorem pointStart_keeps (s : State) (c) (h : Keeps o s) : Keeps o (pointStart s c) := by
  unfold pointStart
  with_reducible repeat'
    first
      | assumption | apply regSetFld_keeps | refine keeps_ite ?_ ?_
      | fail_if_no_progress refine keeps_mk ?_ rfl rfl rfl ⟨rfl, rfl, rfl, rfl⟩

theorem execPwrOppointWrite_keeps (f) (v) (s : State) (h : Keeps o s) : KeepsNext o (execPwrOppointWrite f v s) := by
  unfold execPwrOppointWrite
  with_reducible repeat'
    first
      | assumption | apply hostCmd_keeps | apply pointStart_keeps | apply regSetFld_keeps | refine keeps_ite ?_ ?_
      | refine keeps_fold ?_ ?_ | intro _ _

theorem execOppointChangeDone_keeps (c) (s : State) (h : Keeps o s) : KeepsNext o (execOppointChangeDone c s) := by
  unfold execOppointChangeDone
  with_reducible repeat'
    first
      | assumption | apply event_keeps | apply regSetFld_keeps | apply raise_keeps | apply pointStart_keeps
      | refine keeps_ite ?_ ?_ | dsimp only | intro _ _

theorem execDeepStandbyEnter_keeps (f) (v) (s : State) (h : Keeps o s) : KeepsNext o (execDeepStandbyEnter f v s) := by
  unfold execDeepStandbyEnter
  with_reducible repeat'
    first
      | assumption | apply hostCmd_keeps | apply raise_keeps | apply regSetFld_keeps | apply senDone_keeps
      | apply domainDown_keeps | refine keeps_ite ?_ ?_
      | fail_if_no_progress refine keeps_mk ?_ rfl rfl rfl ⟨rfl, rfl, rfl, rfl⟩ | split | dsimp only | refine keeps_fold ?_ ?_
      | intro _ _ _ | intro _ _

theorem execVddLowIsolate_keeps (s : State) (h : Keeps o s) : KeepsNext o (execVddLowIsolate s) := by
  unfold execVddLowIsolate
  with_reducible repeat'
    first
      | assumption | refine keepsNext_next ?_ | fail_if_no_progress refine keeps_mk ?_ rfl rfl rfl ⟨rfl, rfl, rfl, rfl⟩

theorem execBootUsRead_keeps (f) (s : State) (h : Keeps o s) : KeepsNext o (execBootUsRead f s) := by
  unfold execBootUsRead
  with_reducible repeat'
    first
      | assumption | apply hostCmd_keeps | apply regSet_keeps
      | fail_if_no_progress refine keeps_mk ?_ rfl rfl rfl ⟨rfl, rfl, rfl, rfl⟩ | dsimp only | intro _ _

theorem imgTo_keeps (s : State) (st) (h : Keeps o s) : Keeps o (imgTo s st) := by
  unfold imgTo
  with_reducible repeat' first | assumption | apply regSetFld_keeps

theorem imgError_keeps (s : State) (e) (h : Keeps o s) : Keeps o (imgError s e) := by
  unfold imgError
  with_reducible repeat' first | assumption | apply regSet_keeps | apply regSetFld_keeps

theorem imgProgress_keeps (s : State) (pass) (bytes) (h : Keeps o s) : Keeps o (imgProgress s pass bytes) := by
  unfold imgProgress
  with_reducible repeat' first | assumption | apply regSet_keeps

theorem imgStart_keeps (s : State) (c) (h : Keeps o s) : Keeps o (imgStart s c) := by
  unfold imgStart
  with_reducible repeat'
    first
      | assumption | apply imgProgress_keeps | apply imgTo_keeps
      | fail_if_no_progress refine keeps_mk ?_ rfl rfl rfl ⟨rfl, rfl, rfl, rfl⟩

theorem bootStart_keeps (s : State) (l) (h : Keeps o s) : Keeps o (bootStart s l) := by
  unfold bootStart
  with_reducible repeat'
    first
      | assumption | apply imgStart_keeps | fail_if_no_progress refine keeps_mk ?_ rfl rfl rfl ⟨rfl, rfl, rfl, rfl⟩ | split

theorem imgCommand_keeps (s : State) (f) (swap) (v) (h : Keeps o s) : Keeps o (imgCommand s f swap v) := by
  unfold imgCommand
  with_reducible repeat'
    first
      | assumption | apply imgRaise_keeps | apply regSetFld_keeps | apply imgStart_keeps | refine keeps_ite ?_ ?_
      | fail_if_no_progress refine keeps_mk ?_ rfl rfl rfl ⟨rfl, rfl, rfl, rfl⟩

theorem execImgLoad_keeps (f) (v) (s : State) (h : Keeps o s) : KeepsNext o (execImgLoad f v s) := by
  unfold execImgLoad
  with_reducible repeat' first | assumption | apply hostCmd_keeps | apply imgCommand_keeps | intro _ _

theorem execImgSwap_keeps (f) (v) (s : State) (h : Keeps o s) : KeepsNext o (execImgSwap f v s) := by
  unfold execImgSwap
  with_reducible repeat' first | assumption | apply hostCmd_keeps | apply imgCommand_keeps | intro _ _

theorem imgBack_keeps (s : State) (without) (h : Keeps o s) : Keeps o (imgBack s without) := by
  unfold imgBack
  with_reducible repeat'
    first
      | assumption | apply imgTo_keeps | fail_if_no_progress refine keeps_mk ?_ rfl rfl rfl ⟨rfl, rfl, rfl, rfl⟩

theorem imgFail_keeps (s : State) (c) (e) (h : Keeps o s) : Keeps o (imgFail s c e) := by
  unfold imgFail
  with_reducible repeat'
    first
      | assumption | apply imgRaise_keeps | apply imgBack_keeps | apply imgError_keeps | apply bootStart_keeps
      | refine keeps_ite ?_ ?_ | fail_if_no_progress refine keeps_mk ?_ rfl rfl rfl ⟨rfl, rfl, rfl, rfl⟩

theorem execImgAbort_keeps (f) (v) (s : State) (h : Keeps o s) : KeepsNext o (execImgAbort f v s) := by
  unfold execImgAbort
  with_reducible repeat'
    first
      | assumption | apply hostCmd_keeps | apply imgFail_keeps | refine keeps_ite ?_ ?_ | split | intro _ _

theorem execImgKeyRevoke_keeps (f) (v) (s : State) (h : Keeps o s) : KeepsNext o (execImgKeyRevoke f v s) := by
  unfold execImgKeyRevoke
  with_reducible repeat'
    first
      | assumption | apply hostCmd_keeps | apply imgRaise_keeps | refine keeps_ite ?_ ?_
      | fail_if_no_progress refine keeps_mk ?_ rfl rfl rfl ⟨rfl, rfl, rfl, rfl⟩ | dsimp only | intro _ _

theorem execRevokeDone_keeps (s : State) (h : Keeps o s) : KeepsNext o (execRevokeDone s) := by
  unfold execRevokeDone
  with_reducible repeat'
    first
      | assumption | apply event_keeps | apply imgRaise_keeps | apply regSetFld_keeps
      | fail_if_no_progress refine keeps_mk ?_ rfl rfl rfl ⟨rfl, rfl, rfl, rfl⟩ | split | dsimp only | intro _ _

theorem execVerifyComplete_keeps (r) (s : State) (h : Keeps o s) : KeepsNext o (execVerifyComplete r s) := by
  unfold execVerifyComplete
  with_reducible repeat'
    first
      | assumption | apply event_keeps | apply imgFail_keeps | apply imgProgress_keeps | apply bindShow_keeps
      | apply imgTo_keeps | refine keeps_ite ?_ ?_ | fail_if_no_progress refine keeps_mk ?_ rfl rfl rfl ⟨rfl, rfl, rfl, rfl⟩
      | split | dsimp only | intro _ _

theorem policyLoad_keeps (s : State) (x) (d) (h : Keeps o s) : Keeps o (policyLoad s x d) := by
  unfold policyLoad
  with_reducible repeat'
    first
      | assumption | apply regSetFld_keeps | fail_if_no_progress refine keeps_mk ?_ rfl rfl rfl ⟨rfl, rfl, rfl, rfl⟩

theorem pointLoad_keeps (s : State) (x) (c) (h : Keeps o s) : Keeps o (pointLoad s x c) := by
  unfold pointLoad
  with_reducible repeat' first | assumption | apply regSetFld_keeps

theorem domBring_keeps (s : State) (x) (d) (h : Keeps o s) : Keeps o (domBring s x d) := by
  unfold domBring
  with_reducible repeat' first | assumption | apply domRequest_keeps | refine keeps_ite ?_ ?_

theorem blocksStop_keeps (s : State) (h : Keeps o s) : Keeps o (blocksStop s) := by
  unfold blocksStop
  with_reducible repeat'
    first
      | assumption | apply confluenceClear_keeps | apply furrowClear_keeps | apply cisternClear_keeps
      | apply enginesClear_keeps | apply publisherClear_keeps | apply regSetFld_keeps
      | fail_if_no_progress refine keeps_mk ?_ rfl rfl rfl ⟨rfl, rfl, rfl, rfl⟩ | refine keeps_fold ?_ ?_ | intro _ _ _

theorem blocksStart_keeps (s : State) (h : Keeps o s) : Keeps o (blocksStart s) := by
  unfold blocksStart
  with_reducible repeat'
    first
      | assumption | apply timeLoad_keeps | apply portLoad_keeps | apply queuesLoad_keeps | apply headgateLoad_keeps
      | apply furLoad_keeps | apply publisherLoad_keeps | apply confluenceLoad_keeps | apply engineLoad_keeps
      | apply mailboxesLoad_keeps | apply tankLoad_keeps | apply riderLoad_keeps | apply flumeLoad_keeps
      | apply culCommit_keeps | refine keeps_ite ?_ ?_
      | fail_if_no_progress refine keeps_mk ?_ rfl rfl rfl ⟨rfl, rfl, rfl, rfl⟩ | refine keeps_fold ?_ ?_

theorem imgShow_keeps (s : State) (c) (i) (h : Keeps o s) : Keeps o (imgShow s c i) := by
  unfold imgShow
  with_reducible repeat'
    first
      | assumption | apply regSetFld_keeps | apply imgTo_keeps | apply regSet256_keeps | apply regSet_keeps

theorem reloadTrickle_keeps (s : State) (out) (h : Keeps o s) : Keeps o (reloadTrickle s out) := by
  unfold reloadTrickle
  with_reducible repeat'
    first
      | assumption | apply lanesRetrain_keeps | apply regSetFld_keeps | refine keeps_ite ?_ ?_
      | fail_if_no_progress refine keeps_mk ?_ rfl rfl rfl ⟨rfl, rfl, rfl, rfl⟩ | split | dsimp only | refine keeps_fold ?_ ?_
      | intro _ _ _

theorem firstService_keeps (s : State) (h : Keeps o s) : Keeps o (firstService s) := by
  unfold firstService
  with_reducible repeat' first | assumption | apply regSetFld_keeps | refine keeps_ite ?_ ?_

theorem firstCommit_keeps (s : State) (h : Keeps o s) : Keeps o (firstCommit s) := by
  unfold firstCommit
  with_reducible repeat' first | assumption | fail_if_no_progress refine keeps_mk ?_ rfl rfl rfl ⟨rfl, rfl, rfl, rfl⟩

theorem commitFull_keeps (s : State) (c) (i) (h : Keeps o s) : Keeps o (commitFull s c i) := by
  unfold commitFull
  with_reducible repeat'
    first
      | assumption | apply blocksStop_keeps | apply imgShow_keeps | apply regSet_keeps | apply pointLoad_keeps
      | apply policyLoad_keeps | apply blocksStart_keeps | apply pointStart_keeps | apply policyRequest_keeps
      | apply firstService_keeps | apply reloadTrickle_keeps | apply imgRaise_keeps | apply satInc_keeps
      | apply culSettle_keeps | fail_if_no_progress refine keeps_mk ?_ rfl rfl rfl ⟨rfl, rfl, rfl, rfl⟩ | split | dsimp only
      | refine keeps_fold ?_ ?_ | intro _ _ _

theorem commitWhenLocked_keeps (s : State) (h : Keeps o s) : Keeps o (commitWhenLocked s) := by
  unfold commitWhenLocked
  with_reducible repeat'
    first
      | assumption | apply domBring_keeps | apply commitFull_keeps | refine keeps_ite ?_ ?_ | split | refine keeps_fold ?_ ?_
      | intro _ _ _

theorem columnsKeep_keeps (s : State) (b) (old) (h : Keeps o s) : Keeps o (columnsKeep s b old) := by
  unfold columnsKeep
  with_reducible repeat' first | assumption | apply cnfBasSet_keeps

theorem basinApply_keeps (s : State) (b) (old) (h : Keeps o s) : Keeps o (basinApply s b old) := by
  unfold basinApply
  with_reducible repeat'
    first
      | assumption | apply streamsSwap_keeps | apply basinLoad_keeps | apply columnsKeep_keeps | apply basStop_keeps
      | refine keeps_ite ?_ ?_

theorem awayStart_keeps (s : State) (e) (h : Keeps o s) : Keeps o (awayStart s e) := by
  unfold awayStart
  with_reducible repeat' first | assumption | apply migrateStart_keeps | split | refine keeps_fold ?_ ?_ | intro _ _ _

theorem engineNext_keeps (s : State) (h : Keeps o s) : Keeps o (engineNext s) := by
  unfold engineNext
  with_reducible repeat' first | assumption | apply awayStart_keeps | split

theorem riderApply_keeps (s : State) (old) (h : Keeps o s) : Keeps o (riderApply s old) := by
  unfold riderApply
  with_reducible repeat'
    first
      | assumption | apply ctxStart_keeps | apply leaveRetry_keeps | apply regSetFld_keeps
      | fail_if_no_progress refine keeps_mk ?_ rfl rfl rfl ⟨rfl, rfl, rfl, rfl⟩ | dsimp only | refine keeps_fold ?_ ?_
      | intro _ _ _

theorem unitApply_keeps (s : State) (type) (unit) (h : Keeps o s) : Keeps o (unitApply s type unit) := by
  unfold unitApply
  with_reducible repeat'
    first
      | assumption | apply unitTake_keeps | apply headgateLoad_keeps | apply staticRemove_keeps | apply timeLoad_keeps
      | apply furrowApply_keeps | apply cycleSend_keeps | apply basinApply_keeps | apply publishApply_keeps
      | apply engineNext_keeps | apply pauseSweep_keeps | apply riderRetry_keeps | apply postRoom_keeps
      | apply engineLoad_keeps | apply masterReset_keeps | apply riderApply_keeps | apply regionsLoad_keeps
      | apply bankLoad_keeps | refine keeps_ite ?_ ?_ | split

theorem execSwapSafePointApply_keeps (type) (unit) (s : State) (h : Keeps o s) :
    KeepsNext o (execSwapSafePointApply type unit s) := by
  unfold execSwapSafePointApply
  with_reducible repeat'
    first
      | assumption | apply event_keeps | apply engineNext_keeps | apply swapSettle_keeps | apply unitApply_keeps
      | refine keeps_ite ?_ ?_ | split | dsimp only | intro _ _

theorem powerSwap_keeps (s : State) (a) (b) (h : Keeps o s) : Keeps o (powerSwap s a b) := by
  unfold powerSwap
  with_reducible repeat'
    first
      | assumption | apply policyRequest_keeps | apply policyLoad_keeps | apply pointStart_keeps | apply pointLoad_keeps
      | dsimp only | refine keeps_fold ?_ ?_ | intro _ _ _

theorem flumesSwap_keeps (s : State) (a) (b) (h : Keeps o s) : Keeps o (flumesSwap s a b) := by
  unfold flumesSwap
  with_reducible repeat'
    first
      | assumption | apply banksLoad_keeps | apply pinLoad_keeps | apply flumeSwap_keeps | apply flumeSet_keeps
      | apply pinShow_keeps | refine keeps_ite ?_ ?_ | split | dsimp only | refine keeps_fold ?_ ?_

theorem basinsNow_keeps (s : State) (a) (h : Keeps o s) : Keeps o (basinsNow s a) := by
  unfold basinsNow
  with_reducible repeat'
    first
      | assumption | apply unitApply_keeps | refine keeps_ite ?_ ?_ | dsimp only | refine keeps_fold ?_ ?_ | intro _ _ _

theorem commitSwap_keeps (s : State) (c) (a) (b) (h : Keeps o s) : Keeps o (commitSwap s c a b) := by
  unfold commitSwap
  with_reducible repeat'
    first
      | assumption | apply imgShow_keeps | apply swapSettle_keeps | apply engineNext_keeps | apply basinsNow_keeps
      | apply flumesSwap_keeps | apply powerSwap_keeps | apply streamsSwap_keeps
      | fail_if_no_progress refine keeps_mk ?_ rfl rfl rfl ⟨rfl, rfl, rfl, rfl⟩

theorem imgCommit_keeps (s : State) (c) (i) (h : Keeps o s) : Keeps o (imgCommit s c i) := by
  unfold imgCommit
  with_reducible repeat'
    first
      | assumption | apply commitSwap_keeps | apply commitFull_keeps | apply commitWhenLocked_keeps | apply firstCommit_keeps
      | refine keeps_ite ?_ ?_ | split

theorem execApplySectionRead_keeps (index) (payload) (s : State) (h : Keeps o s) :
    KeepsNext o (execApplySectionRead index payload s) := by
  unfold execApplySectionRead
  with_reducible repeat'
    first
      | assumption | apply event_keeps | apply imgFail_keeps | apply imgProgress_keeps | apply imgCommit_keeps
      | refine keeps_ite ?_ ?_ | fail_if_no_progress refine keeps_mk ?_ rfl rfl rfl ⟨rfl, rfl, rfl, rfl⟩ | split | dsimp only
      | intro _ _

end Sys2Proof.Machine
end

