-- ==== Sys2Proof/Laws/Keeps/Timing.lean ====
section
/-!
SUPPORT. Every transformation of the state in Machine/Publisher.lean, Machine/Rider.lean, Machine/TimeApply.lean,
Machine/TimeBase.lean leaves the queue as it was and keeps the invariant.
-/
namespace Sys2Proof.Machine

variable {o : State}

theorem regUpdate_keeps (s : State) (f) (u) (h : Keeps o s) : Keeps o (regUpdate s f u) := by
  unfold regUpdate
  with_reducible repeat' first | assumption | apply pubUpdate_keeps | apply regSetFld_keeps

theorem regDrain_keeps (x0) (x1 : State) (h : Keeps o x1) : Keeps o (regDrain x0 x1) := by
  fun_induction regDrain x0 x1 <;> (with_reducible repeat'
    first
      | assumption | apply regUpdate_keeps | fail_if_no_progress refine keeps_mk ?_ rfl rfl rfl ⟨rfl, rfl, rfl, rfl⟩
      | dsimp only | apply_assumption)

theorem pubExec_keeps (s : State) (src) (p) (h : Keeps o s) : KeepsNext o (pubExec s src p) := by
  unfold pubExec
  with_reducible repeat'
    first
      | assumption | apply flowEvent_keeps | apply pubUpdate_keeps | apply mbxAck_keeps | apply regDrain_keeps
      | apply hostCmd_keeps | apply regSetFld_keeps | apply pauseSweep_keeps | refine keeps_ite ?_ ?_
      | fail_if_no_progress refine keeps_mk ?_ rfl rfl rfl ⟨rfl, rfl, rfl, rfl⟩ | split | dsimp only | intro _ _

theorem execPubUpdate_keeps (src) (s : State) (h : Keeps o s) : KeepsNext o (execPubUpdate src s) := by
  unfold execPubUpdate
  with_reducible repeat' first | assumption | apply pubExec_keeps

theorem execPubUpdateLaunch_keeps (src) (s : State) (h : Keeps o s) : KeepsNext o (execPubUpdateLaunch src s) := by
  unfold execPubUpdateLaunch
  with_reducible repeat' first | assumption | apply pubExec_keeps

theorem execPubTagDone_keeps (i) (s : State) (h : Keeps o s) : KeepsNext o (execPubTagDone i s) := by
  unfold execPubTagDone
  with_reducible repeat'
    first
      | assumption | apply flowEvent_keeps | apply laneKick_keeps | apply pubTagged_keeps
      | fail_if_no_progress refine keeps_mk ?_ rfl rfl rfl ⟨rfl, rfl, rfl, rfl⟩ | split | dsimp only | intro _ _

theorem execGooseRetransmit_keeps (g) (s : State) (h : Keeps o s) : KeepsNext o (execGooseRetransmit g s) := by
  unfold execGooseRetransmit
  with_reducible repeat'
    first
      | assumption | apply flowEvent_keeps | apply gpRetransmit_keeps | refine keeps_ite ?_ ?_ | intro _ _

theorem execSubscriptionExpiry_keeps (v) (s : State) (h : Keeps o s) : KeepsNext o (execSubscriptionExpiry v s) := by
  unfold execSubscriptionExpiry
  with_reducible repeat'
    first
      | assumption | apply domEvent_keeps | apply subExpire_keeps | refine keeps_ite ?_ ?_ | dsimp only | intro _ _

theorem execSubscriptionEnable_keeps (f) (v) (s : State) (h : Keeps o s) : KeepsNext o (execSubscriptionEnable f v s) := by
  unfold execSubscriptionEnable
  with_reducible repeat'
    first
      | assumption | apply hostCmd_keeps | apply regSetFld_keeps | apply subMirror_keeps | apply subTo_keeps
      | apply subSet_keeps | refine keeps_ite ?_ ?_ | dsimp only | intro _ _

theorem execSubscriptionDisable_keeps (f) (v) (s : State) (h : Keeps o s) : KeepsNext o (execSubscriptionDisable f v s) := by
  unfold execSubscriptionDisable
  with_reducible repeat'
    first
      | assumption | apply hostCmd_keeps | apply regSetFld_keeps | apply subMirror_keeps | apply subTo_keeps
      | refine keeps_ite ?_ ?_ | dsimp only | intro _ _

theorem execPublicationDisable_keeps (f) (g) (s : State) (h : Keeps o s) : KeepsNext o (execPublicationDisable f g s) := by
  unfold execPublicationDisable
  with_reducible repeat' first | assumption | apply hostCmd_keeps | apply gpStop_keeps | apply gpSettle_keeps | intro _ _

theorem execRiderIntervalEnd_keeps (s : State) (h : Keeps o s) : KeepsNext o (execRiderIntervalEnd s) := by
  unfold execRiderIntervalEnd
  with_reducible repeat'
    first
      | assumption | apply domEvent_keeps | apply ctxMod_keeps | apply polInterval_keeps | refine keeps_ite ?_ ?_
      | fail_if_no_progress refine keeps_mk ?_ rfl rfl rfl ⟨rfl, rfl, rfl, rfl⟩ | dsimp only | refine keeps_fold ?_ ?_
      | intro _ _ _ | intro _ _

theorem execPageInComplete_keeps (c) (home) (s : State) (h : Keeps o s) : KeepsNext o (execPageInComplete c home s) := by
  unfold execPageInComplete
  with_reducible repeat' first | assumption | apply flowEvent_keeps | apply pageInEnd_keeps | refine keeps_ite ?_ ?_ | intro _ _

theorem execPageOutComplete_keeps (c) (ecc) (s : State) (h : Keeps o s) : KeepsNext o (execPageOutComplete c ecc s) := by
  unfold execPageOutComplete
  with_reducible repeat'
    first
      | assumption | apply flowEvent_keeps | apply pageOutEnd_keeps | refine keeps_ite ?_ ?_ | intro _ _

theorem execMigrationDrained_keeps (c) (s : State) (h : Keeps o s) : KeepsNext o (execMigrationDrained c s) := by
  unfold execMigrationDrained
  with_reducible repeat'
    first
      | assumption | apply domEvent_keeps | apply riderMoved_keeps | apply migrateDone_keeps | refine keeps_ite ?_ ?_
      | dsimp only | intro _ _

theorem execMigrateTimeout_keeps (c) (s : State) (h : Keeps o s) : KeepsNext o (execMigrateTimeout c s) := by
  unfold execMigrateTimeout
  with_reducible repeat'
    first
      | assumption | apply domEvent_keeps | apply riderMoved_keeps | apply migrateAbort_keeps | refine keeps_ite ?_ ?_ | split
      | intro _ _

theorem execEventBoundaryTimeout_keeps (s : State) (h : Keeps o s) : KeepsNext o (execEventBoundaryTimeout s) := by
  unfold execEventBoundaryTimeout
  with_reducible repeat' first | assumption | apply domEvent_keeps | apply riderGiveUp_keeps

theorem riderCmd_keeps (s : State) (src) (op) (data) (h : Keeps o s) : KeepsNext o (riderCmd s src op data) := by
  unfold riderCmd
  with_reducible repeat'
    first
      | assumption | apply domEvent_keeps | apply pauseSweep_keeps | apply riderStart_keeps | apply sqStart_keeps
      | apply hostCmd_keeps | apply rdrRaise_keeps | apply regSet_keeps | refine keeps_ite ?_ ?_
      | fail_if_no_progress refine keeps_mk ?_ rfl rfl rfl ⟨rfl, rfl, rfl, rfl⟩ | split | dsimp only | intro _ _

theorem execRiderCreate_keeps (src) (s : State) (h : Keeps o s) : KeepsNext o (execRiderCreate src s) := by
  unfold execRiderCreate
  with_reducible repeat' first | assumption | apply riderCmd_keeps

theorem execRiderRetire_keeps (src) (s : State) (h : Keeps o s) : KeepsNext o (execRiderRetire src s) := by
  unfold execRiderRetire
  with_reducible repeat' first | assumption | apply riderCmd_keeps

theorem execRiderMove_keeps (src) (s : State) (h : Keeps o s) : KeepsNext o (execRiderMove src s) := by
  unfold execRiderMove
  with_reducible repeat' first | assumption | apply riderCmd_keeps

theorem execRiderPin_keeps (src) (s : State) (h : Keeps o s) : KeepsNext o (execRiderPin src s) := by
  unfold execRiderPin
  with_reducible repeat' first | assumption | apply riderCmd_keeps

theorem execRiderUnpin_keeps (src) (s : State) (h : Keeps o s) : KeepsNext o (execRiderUnpin src s) := by
  unfold execRiderUnpin
  with_reducible repeat' first | assumption | apply riderCmd_keeps

theorem execRiderResident_keeps (src) (s : State) (h : Keeps o s) : KeepsNext o (execRiderResident src s) := by
  unfold execRiderResident
  with_reducible repeat' first | assumption | apply riderCmd_keeps

theorem execRiderEvict_keeps (src) (s : State) (h : Keeps o s) : KeepsNext o (execRiderEvict src s) := by
  unfold execRiderEvict
  with_reducible repeat' first | assumption | apply riderCmd_keeps

theorem execRiderRead_keeps (src) (s : State) (h : Keeps o s) : KeepsNext o (execRiderRead src s) := by
  unfold execRiderRead
  with_reducible repeat' first | assumption | apply riderCmd_keeps

theorem execRiderWrite_keeps (src) (data) (s : State) (h : Keeps o s) : KeepsNext o (execRiderWrite src data s) := by
  unfold execRiderWrite
  with_reducible repeat' first | assumption | apply riderCmd_keeps

theorem execRiderClearPoison_keeps (src) (data) (s : State) (h : Keeps o s) :
    KeepsNext o (execRiderClearPoison src data s) := by
  unfold execRiderClearPoison
  with_reducible repeat' first | assumption | apply riderCmd_keeps

theorem execRiderMap_keeps (src) (s : State) (h : Keeps o s) : KeepsNext o (execRiderMap src s) := by
  unfold execRiderMap
  with_reducible repeat' first | assumption | apply riderCmd_keeps

theorem execRiderRunPolicy_keeps (src) (s : State) (h : Keeps o s) : KeepsNext o (execRiderRunPolicy src s) := by
  unfold execRiderRunPolicy
  with_reducible repeat' first | assumption | apply riderCmd_keeps

theorem clockChanged_keeps (s : State) (delta) (h : Keeps o s) : Keeps o (clockChanged s delta) := by
  unfold clockChanged
  with_reducible repeat'
    first
      | assumption | apply ppsBack_keeps | apply furShift_keeps | apply pubShift_keeps | apply calRecheck_keeps
      | apply furBreak_keeps | apply cnfShift_keeps | refine keeps_ite ?_ ?_
      | fail_if_no_progress refine keeps_mk ?_ rfl rfl rfl ⟨rfl, rfl, rfl, rfl⟩ | refine keeps_fold ?_ ?_ | intro _ _ _

theorem execStepApply_keeps (s : State) (h : Keeps o s) : KeepsNext o (execStepApply s) := by
  unfold execStepApply
  refine timeEvent_keeps _ _ h (fun s h => ?_)
  split
  · next adj rest e =>
    split
    · exact h
    · refine heldTake_keeps _ _ (clockChanged_keeps _ _ (raiseTim_keeps _ _ (keeps_clk h (fun i => ?_)))) ?_
      · exact ClockEq.ok (d := clkStep s.clk adj) ⟨rfl, rfl, rfl, rfl⟩ (clkAdd_ok (h.inv i).clock _)
      · exact fun i x hx => (h.inv i).clock.held x (e ▸ List.mem_cons_of_mem _ hx)
  · exact h

theorem execSetApply_keeps (s : State) (h : Keeps o s) : KeepsNext o (execSetApply s) := by
  unfold execSetApply
  refine timeEvent_keeps _ _ h (fun s h => ?_)
  split
  · next sec ns rest e =>
    split
    · exact h
    · refine heldTake_keeps _ _ (clockChanged_keeps _ _ (raiseTim_keeps _ _ (keeps_clk h (fun i => ?_)))) ?_
      · exact ClockEq.ok (d := clkSet s.clk sec ns) ⟨rfl, rfl, rfl, rfl⟩ (clkSet_ok (h.inv i).clock sec
          ((h.inv i).clock.held (.set sec ns) (e ▸ List.mem_cons_self)))
      · exact fun i x hx => (h.inv i).clock.held x (e ▸ List.mem_cons_of_mem _ hx)
  · exact h

theorem execTimIncrFracWrite_keeps (m) (v) (s : State) (h : Keeps o s) : KeepsNext o (execTimIncrFracWrite m v s) := by
  unfold execTimIncrFracWrite
  with_reducible repeat'
    first
      | assumption | apply timWrite_keeps | fail_if_no_progress refine keeps_mk ?_ rfl rfl rfl ⟨rfl, rfl, rfl, rfl⟩
      | dsimp only | intro _ _

theorem execTimIncrIntWrite_keeps (m) (v) (s : State) (h : Keeps o s) : KeepsNext o (execTimIncrIntWrite m v s) := by
  unfold execTimIncrIntWrite
  with_reducible repeat'
    first
      | assumption | apply timWrite_keeps | apply culTime_keeps
      | fail_if_no_progress refine keeps_mk ?_ rfl rfl rfl ⟨rfl, rfl, rfl, rfl⟩ | dsimp only | intro _ _

theorem execAdjStep_keeps (m) (s : State) (h : Keeps o s) : KeepsNext o (execAdjStep m s) := by
  unfold execAdjStep
  exact timWrite_keeps _ _ _ _ h (fun s h => clkHold_keeps _ _ h trivial)

theorem adjCancel_keeps (s : State) (h : Keeps o s) : Keeps o (adjCancel s) := by
  exact keeps_clk h (fun i => slewStop_with_ok (h.inv i).clock (fun y hy => (h.inv i).clock.held y (List.mem_filter.mp hy).1))

theorem execAdjSlew_keeps (m) (rate) (s : State) (h : Keeps o s) : KeepsNext o (execAdjSlew m rate s) := by
  unfold execAdjSlew
  refine timWrite_keeps _ _ _ _ h (fun s h => ?_)
  dsimp only
  split
  · exact adjCancel_keeps _ h
  · split
    · exact slewBegin_keeps _ _ _ h
    · exact clkHold_keeps _ _ h trivial

theorem execAdjCancel_keeps (m) (s : State) (h : Keeps o s) : KeepsNext o (execAdjCancel m s) := by
  unfold execAdjCancel
  with_reducible repeat' first | assumption | apply timWrite_keeps | apply adjCancel_keeps

theorem execTimSetCmd_keeps (m) (v) (s : State) (h : Keeps o s) : KeepsNext o (execTimSetCmd m v s) := by
  unfold execTimSetCmd
  refine timWrite_keeps _ _ _ _ h (fun s h => ?_)
  dsimp only
  split
  · exact h
  · split
    · exact raise_keeps _ _ _ h
    · exact clkHold_keeps _ _ h (by show _ ≤ _; omega)

theorem execSlewEnd_keeps (s : State) (h : Keeps o s) : KeepsNext o (execSlewEnd s) := by
  unfold execSlewEnd
  with_reducible repeat'
    first
      | assumption | apply event_keeps | apply raise_keeps | refine keeps_ite ?_ ?_
      | fail_if_no_progress refine keeps_mk ?_ rfl rfl rfl ⟨rfl, rfl, rfl, rfl⟩ | split | dsimp only | intro _ _

theorem execTimNowRead_keeps (f) (s : State) (h : Keeps o s) : KeepsNext o (execTimNowRead f s) := by
  unfold execTimNowRead
  with_reducible repeat'
    first
      | assumption | apply hostCmd_keeps | apply regSet_keeps
      | fail_if_no_progress refine keeps_mk ?_ rfl rfl rfl ⟨rfl, rfl, rfl, rfl⟩ | dsimp only | intro _ _

theorem execCmpArm_keeps (f) (n) (s : State) (h : Keeps o s) : KeepsNext o (execCmpArm f n s) := by
  unfold execCmpArm
  with_reducible repeat'
    first
      | assumption | apply hostCmd_keeps | fail_if_no_progress refine keeps_mk ?_ rfl rfl rfl ⟨rfl, rfl, rfl, rfl⟩
      | dsimp only | intro _ _

theorem execCmpDisarm_keeps (f) (n) (s : State) (h : Keeps o s) : KeepsNext o (execCmpDisarm f n s) := by
  unfold execCmpDisarm
  with_reducible repeat'
    first
      | assumption | apply hostCmd_keeps | fail_if_no_progress refine keeps_mk ?_ rfl rfl rfl ⟨rfl, rfl, rfl, rfl⟩
      | dsimp only | intro _ _

theorem execCompareFire_keeps (n) (s : State) (h : Keeps o s) : KeepsNext o (execCompareFire n s) := by
  unfold execCompareFire
  with_reducible repeat' first | assumption | apply timeEvent_keeps | apply cmpFire_keeps | refine keeps_ite ?_ ?_ | intro _ _

theorem execPpsInEdge_keeps (rising) (s : State) (h : Keeps o s) : KeepsNext o (execPpsInEdge rising s) := by
  unfold execPpsInEdge
  with_reducible repeat'
    first
      | assumption | apply timeEvent_keeps | apply capture_keeps | refine keeps_ite ?_ ?_ | split | dsimp only | intro _ _

theorem execCaptureSnap_keeps (f) (c) (v) (s : State) (h : Keeps o s) : KeepsNext o (execCaptureSnap f c v s) := by
  unfold execCaptureSnap
  with_reducible repeat'
    first
      | assumption | apply hostCmd_keeps | apply regSetFld_keeps | apply capture_keeps | split | dsimp only | intro _ _

theorem execCaptureRead_keeps (f) (c) (s : State) (h : Keeps o s) : KeepsNext o (execCaptureRead f c s) := by
  unfold execCaptureRead
  with_reducible repeat'
    first
      | assumption | apply hostCmd_keeps | apply regSetFld_keeps
      | fail_if_no_progress refine keeps_mk ?_ rfl rfl rfl ⟨rfl, rfl, rfl, rfl⟩ | dsimp only | intro _ _

theorem execPpsOutRise_keeps (s : State) (h : Keeps o s) : KeepsNext o (execPpsOutRise s) := by
  unfold execPpsOutRise
  with_reducible repeat'
    first
      | assumption | apply timeEvent_keeps | apply ppsRise_keeps | apply ppsAlign_keeps | refine keeps_ite ?_ ?_ | intro _ _

theorem execPpsOutFall_keeps (s : State) (h : Keeps o s) : KeepsNext o (execPpsOutFall s) := by
  unfold execPpsOutFall
  with_reducible repeat'
    first
      | assumption | apply timeEvent_keeps | apply emit_keeps | refine keeps_ite ?_ ?_
      | fail_if_no_progress refine keeps_mk ?_ rfl rfl rfl ⟨rfl, rfl, rfl, rfl⟩ | split | dsimp only | intro _ _

theorem execReplicaValid_keeps (island) (s : State) (h : Keeps o s) : KeepsNext o (execReplicaValid island s) := by
  unfold execReplicaValid
  with_reducible repeat'
    first
      | assumption | apply event_keeps | apply basApply_keeps | refine keeps_ite ?_ ?_
      | fail_if_no_progress refine keeps_mk ?_ rfl rfl rfl ⟨rfl, rfl, rfl, rfl⟩ | split | dsimp only | refine keeps_fold ?_ ?_
      | intro _ _ _ | intro _ _

end Sys2Proof.Machine
end

