-- ==== Sys2Proof/Laws/Keeps/Reset.lean ====
section
/-!
SUPPORT. Every transformation of the state in Machine/Arch.lean, Machine/Bringup.lean leaves the queue as it was and
keeps the invariant.
-/
namespace Sys2Proof.Machine

variable {o : State}

theorem plainWrite_keeps (s : State) (f) (a) (v) (h : Keeps o s) : Keeps o (plainWrite s f a v) := by
  unfold plainWrite
  with_reducible repeat' first | assumption | apply blockIrq_keeps | apply regSet_keeps | split

theorem ringStore_keeps (s : State) (f) (a) (ctl) (v) (mask) (bad) (refuse)
    (h : Keeps o s) (hrefuse : ∀ y0, Keeps o y0 → Keeps o (refuse y0)) :
    Keeps o (ringStore s f a ctl v mask bad refuse) := by
  unfold ringStore
  with_reducible repeat' first | assumption | apply plainWrite_keeps | refine keeps_ite ?_ ?_ | apply hrefuse

theorem writePwr_keeps (s : State) (f) (a) (v) (h : Keeps o s) : Keeps o (writePwr s f a v) := by
  unfold writePwr
  with_reducible repeat' first | assumption | apply powerWrite_keeps | apply plainWrite_keeps | split

theorem ppsMode_keeps (s : State) (h : Keeps o s) : Keeps o (ppsMode s) := by
  unfold ppsMode
  with_reducible repeat'
    first
      | assumption | apply emit_keeps | refine keeps_ite ?_ ?_
      | fail_if_no_progress refine keeps_mk ?_ rfl rfl rfl ⟨rfl, rfl, rfl, rfl⟩

theorem writeDiscipline_keeps (s : State) (m) (a) (v) (h : Keeps o s) : Keeps o (writeDiscipline s m a v) := by
  unfold writeDiscipline
  with_reducible repeat'
    first
      | assumption | apply disciplined_keeps | apply culTime_keeps | apply plainWrite_keeps | split | intro _ _

theorem writeTim_keeps (s : State) (f) (a) (v) (h : Keeps o s) : Keeps o (writeTim s f a v) := by
  unfold writeTim
  with_reducible repeat'
    first
      | assumption | apply writeDiscipline_keeps | apply ppsAlign_keeps | apply plainWrite_keeps | apply ppsMode_keeps
      | refine keeps_ite ?_ ?_

theorem writeHdg_keeps (s : State) (f) (a) (v) (h : Keeps o s) : Keeps o (writeHdg s f a v) := by
  unfold writeHdg
  with_reducible repeat'
    first
      | assumption | apply tblStart_keeps | apply raise_keeps | apply plainWrite_keeps | apply laneKick_keeps
      | apply authStart_keeps | refine keeps_ite ?_ ?_

theorem writeCis_keeps (s : State) (f) (a) (v) (h : Keeps o s) : Keeps o (writeCis s f a v) := by
  unfold writeCis
  with_reducible repeat'
    first
      | assumption | apply fdbStart_keeps | apply siphWrite_keeps | apply pauseSweep_keeps | apply plainWrite_keeps
      | refine keeps_ite ?_ ?_ | split

theorem writePub_keeps (s : State) (f) (a) (v) (h : Keeps o s) : Keeps o (writePub s f a v) := by
  unfold writePub
  with_reducible repeat'
    first
      | assumption | apply ringStore_keeps | apply raise_keeps | apply plainWrite_keeps | apply gpStart_keeps
      | apply gpStop_keeps | apply gpSettle_keeps | refine keeps_ite ?_ ?_
      | fail_if_no_progress refine keeps_mk ?_ rfl rfl rfl ⟨rfl, rfl, rfl, rfl⟩ | split | intro _ _

theorem writeRdr_keeps (s : State) (f) (a) (v) (h : Keeps o s) : Keeps o (writeRdr s f a v) := by
  unfold writeRdr
  with_reducible repeat'
    first
      | assumption | apply rdrRaise_keeps | apply pauseSweep_keeps | apply pageKick_keeps | apply ringStore_keeps
      | apply riderStart_keeps | apply regSet_keeps | apply plainWrite_keeps | refine keeps_ite ?_ ?_
      | fail_if_no_progress refine keeps_mk ?_ rfl rfl rfl ⟨rfl, rfl, rfl, rfl⟩ | intro _ _

theorem writeMbx_keeps (s : State) (f) (a) (v) (h : Keeps o s) : Keeps o (writeMbx s f a v) := by
  unfold writeMbx
  with_reducible repeat' first | assumption | apply mbxSet_keeps | apply tankRefuse_keeps | refine keeps_ite ?_ ?_

theorem writeHst_keeps (s : State) (f) (a) (v) (h : Keeps o s) : Keeps o (writeHst s f a v) := by
  unfold writeHst
  with_reducible repeat'
    first
      | assumption | apply pauseSweep_keeps | apply qWriteOn_keeps | apply qWriteOff_keeps | apply qRefuse_keeps
      | apply plainWrite_keeps | apply hstRaise_keeps | apply resyncKey_keeps | apply msix_keeps | apply regSetFld_keeps
      | refine keeps_ite ?_ ?_ | split | dsimp only

theorem writeCul_keeps (s : State) (f) (a) (v) (h : Keeps o s) : Keeps o (writeCul s f a v) := by
  unfold writeCul
  with_reducible repeat'
    first
      | assumption | apply culRefuse_keeps | apply plainWrite_keeps | apply culSettle_keeps | refine keeps_ite ?_ ?_

theorem writeFrz_keeps (s : State) (f) (a) (v) (h : Keeps o s) : Keeps o (writeFrz s f a v) := by
  unfold writeFrz
  with_reducible repeat'
    first
      | assumption | apply frzCtl_keeps | apply plainWrite_keeps | apply regSetFld_keeps | apply senCmd_keeps
      | refine keeps_ite ?_ ?_

theorem regWrite_keeps (s : State) (f) (a) (v) (h : Keeps o s) : Keeps o (regWrite s f a v) := by
  unfold regWrite
  with_reducible repeat'
    first
      | assumption | apply writePwr_keeps | apply writeTim_keeps | apply pauseSweep_keeps | apply plainWrite_keeps
      | apply writeHdg_keeps | apply writeCis_keeps | apply ringRegWrite_keeps | apply writePub_keeps | apply writeRdr_keeps
      | apply writeMbx_keeps | apply writeHst_keeps | apply writeCul_keeps | apply writeFrz_keeps | refine keeps_ite ?_ ?_
      | split

theorem execRegisterWrite_keeps (m) (a) (v) (s : State) (h : Keeps o s) : KeepsNext o (execRegisterWrite m a v s) := by
  unfold execRegisterWrite
  with_reducible repeat'
    first
      | assumption | apply hostCmd_keeps | apply regWrite_keeps | apply event_keeps | apply writeDiscipline_keeps
      | refine keeps_ite ?_ ?_ | refine keepsNext_ite ?_ ?_ | split | intro _ _

theorem execUnalignedAccess_keeps (f) (a) (_write) (s : State) (h : Keeps o s) :
    KeepsNext o (execUnalignedAccess f a _write s) := by
  unfold execUnalignedAccess
  with_reducible repeat'
    first
      | assumption | apply tankRefuse_keeps | apply raise_keeps | apply regSet_keeps | refine keeps_ite ?_ ?_
      | refine keepsNext_next ?_ | fail_if_no_progress refine keeps_mk ?_ rfl rfl rfl ⟨rfl, rfl, rfl, rfl⟩

theorem rcClear_keeps (s : State) (f) (a) (h : Keeps o s) : Keeps o (rcClear s f a) := by
  unfold rcClear
  with_reducible repeat' first | assumption | apply regSet_keeps | split

theorem mailboxRead_keeps (s : State) (f) (a) (h : Keeps o s) : Keeps o (mailboxRead s f a) := by
  unfold mailboxRead
  with_reducible repeat'
    first
      | assumption | apply mailRead_keeps | apply tankRefuse_keeps | refine keeps_ite ?_ ?_ | refine keeps_ite_snd ?_ ?_
      | fail_if_no_progress refine keeps_mk ?_ rfl rfl rfl ⟨rfl, rfl, rfl, rfl⟩ | split | dsimp only
      | refine keeps_of_pair (by assumption) ?_

theorem execRcRead_keeps (f) (a) (s : State) (h : Keeps o s) : KeepsNext o (execRcRead f a s) := by
  unfold execRcRead
  with_reducible repeat'
    first
      | assumption | apply hostCmd_keeps | apply mailboxRead_keeps | apply counterRead_keeps | apply sluWait_keeps
      | apply regSet_keeps | apply cntHiSet_keeps | apply rcClear_keeps
      | fail_if_no_progress refine keeps_mk ?_ rfl rfl rfl ⟨rfl, rfl, rfl, rfl⟩ | split | dsimp only | intro _ _

theorem execDomainOffAccess_keeps (f) (a) (_write) (s : State) (h : Keeps o s) :
    KeepsNext o (execDomainOffAccess f a _write s) := by
  unfold execDomainOffAccess
  with_reducible repeat' first | assumption | apply domainOff_keeps | refine keeps_ite ?_ ?_ | refine keepsNext_next ?_

theorem execCrossingWordDelivery_keeps (ch) (w) (s : State) (h : Keeps o s) :
    KeepsNext o (execCrossingWordDelivery ch w s) := by
  unfold execCrossingWordDelivery
  with_reducible repeat'
    first
      | assumption | apply crossHold_keeps | apply event_keeps | apply crossDeliver_keeps | refine keepsNext_next ?_
      | refine keepsNext_ite ?_ ?_ | split | intro _ _

theorem eccCount_keeps (s : State) (m) (h : Keeps o s) : Keeps o (eccCount s m) := by
  unfold eccCount
  with_reducible repeat' first | assumption | apply count_keeps | apply raise_keeps | refine keeps_ite ?_ ?_ | split

theorem execCorrectableEccError_keeps (m) (i) (s : State) (h : Keeps o s) : KeepsNext o (execCorrectableEccError m i s) := by
  unfold execCorrectableEccError
  with_reducible repeat'
    first
      | assumption | apply domEvent_keeps | apply eccCount_keeps
      | fail_if_no_progress refine keeps_mk ?_ rfl rfl rfl ⟨rfl, rfl, rfl, rfl⟩ | dsimp only | intro _ _

theorem framePurge_keeps (s : State) (x1) (h : Keeps o s) : Keeps o (framePurge s x1) := by
  unfold framePurge
  with_reducible repeat'
    first
      | assumption | apply entryGone_keeps | apply queueSet_keeps | apply calGone_keeps | apply refDrop_keeps
      | apply destRemove_keeps | apply freePick_keeps | apply txStomp_keeps | apply frameComplete_keeps
      | refine keeps_ite ?_ ?_ | fail_if_no_progress refine keeps_mk ?_ rfl rfl rfl ⟨rfl, rfl, rfl, rfl⟩ | split | dsimp only
      | refine keeps_fold ?_ ?_ | intro _ _ _

theorem frameEcc_keeps (s : State) (x1) (h : Keeps o s) : Keeps o (frameEcc s x1) := by
  unfold frameEcc
  with_reducible repeat'
    first
      | assumption | apply count_keeps | apply portSet_keeps | apply framePurge_keeps | apply frameComplete_keeps
      | apply freeBytes_keeps | apply frameLetGo_keeps | apply frameMod_keeps | refine keeps_ite ?_ ?_ | split | dsimp only
      | refine keeps_fold ?_ ?_ | intro _ _ _

theorem cellQuarantine_keeps (s : State) (c) (d) (h : Keeps o s) : Keeps o (cellQuarantine s c d) := by
  unfold cellQuarantine
  with_reducible repeat'
    first
      | assumption | apply raise_keeps | apply regSet_keeps
      | fail_if_no_progress refine keeps_mk ?_ rfl rfl rfl ⟨rfl, rfl, rfl, rfl⟩

theorem cellFail_keeps (s : State) (c) (h : Keeps o s) : Keeps o (cellFail s c) := by
  unfold cellFail
  with_reducible repeat'
    first
      | assumption | apply pauseSweep_keeps | apply frameEcc_keeps | apply cellQuarantine_keeps | apply thrSet_keeps
      | apply count_keeps | apply freePick_keeps | refine keeps_ite ?_ ?_ | split

theorem hdgEcc_keeps (s : State) (table) (i) (h : Keeps o s) : Keeps o (hdgEcc s table i) := by
  unfold hdgEcc
  with_reducible repeat' first | assumption | apply raise_keeps | apply regSet_keeps | apply hdgDrop_keeps

theorem tankPoison_keeps (s : State) (x) (h : Keeps o s) : Keeps o (tankPoison s x) := by
  unfold tankPoison
  with_reducible repeat'
    first
      | assumption | apply regSet_keeps | apply raise_keeps | refine keeps_ite ?_ ?_
      | fail_if_no_progress refine keeps_mk ?_ rfl rfl rfl ⟨rfl, rfl, rfl, rfl⟩

theorem supervisorFatal_keeps (s : State) (code) (h : Keeps o s) : Keeps o (supervisorFatal s code) := by
  unfold supervisorFatal
  with_reducible repeat'
    first
      | assumption | apply fatal_keeps | apply imgTo_keeps
      | fail_if_no_progress refine keeps_mk ?_ rfl rfl rfl ⟨rfl, rfl, rfl, rfl⟩

theorem eccFail_keeps (s : State) (m) (i) (h : Keeps o s) : Keeps o (eccFail s m i) := by
  unfold eccFail
  with_reducible repeat'
    first
      | assumption | apply cellFail_keeps | apply raise_keeps | apply fdbSet_keeps | apply hdgEcc_keeps
      | apply streamSet_keeps | apply nodeSet_keeps | apply pauseSweep_keeps | apply ctxPoison_keeps | apply pageOutEnd_keeps
      | apply engHalt_keeps | apply tankPoison_keeps | apply strTo_keeps | apply cnfStrSet_keeps | apply cnfRaise_keeps
      | apply strMark_keeps | apply cnfBasSet_keeps | apply gpSettle_keeps | apply regSetFld_keeps | apply gpSet_keeps
      | apply regSet_keeps | apply subMirror_keeps | apply subTo_keeps | apply supervisorFatal_keeps | apply flmRaise_keeps
      | apply flmFault_keeps | refine keeps_ite ?_ ?_
      | fail_if_no_progress refine keeps_mk ?_ rfl rfl rfl ⟨rfl, rfl, rfl, rfl⟩ | split

theorem execUncorrectableEccError_keeps (m) (i) (s : State) (h : Keeps o s) :
    KeepsNext o (execUncorrectableEccError m i s) := by
  unfold execUncorrectableEccError
  with_reducible repeat'
    first
      | assumption | apply domEvent_keeps | apply eccFail_keeps
      | fail_if_no_progress refine keeps_mk ?_ rfl rfl rfl ⟨rfl, rfl, rfl, rfl⟩ | dsimp only | intro _ _

theorem execScrubSlot_keeps (mem) (bank) (s : State) (h : Keeps o s) : KeepsNext o (execScrubSlot mem bank s) := by
  unfold execScrubSlot
  with_reducible repeat'
    first
      | assumption | apply event_keeps | refine keeps_ite ?_ ?_
      | fail_if_no_progress refine keeps_mk ?_ rfl rfl rfl ⟨rfl, rfl, rfl, rfl⟩ | split | dsimp only | intro _ _

theorem porstState_keeps (s : State) (h : Keeps o s) : Keeps o (porstState s) := by
  have hc : ClockOk Clock.reset := ⟨by decide, by decide, fun x hx => nomatch hx⟩
  exact ⟨h.pending, fun _ => ⟨rfl, rfl, hc⟩⟩

theorem execPorstAssert_keeps (s : State) (h : Keeps o s) : KeepsNext o (execPorstAssert s) := by
  unfold execPorstAssert
  with_reducible repeat'
    first
      | assumption | refine keeps_ite ?_ ?_ | refine keepsNext_next ?_
      | fail_if_no_progress refine keeps_mk ?_ rfl rfl rfl ⟨rfl, rfl, rfl, rfl⟩

theorem execPorstRelease_keeps (straps) (s : State) (h : Keeps o s) : KeepsNext o (execPorstRelease straps s) := by
  unfold execPorstRelease
  with_reducible repeat'
    first
      | assumption | apply regSet_keeps | refine keepsNext_next ?_ | refine keepsNext_ite ?_ ?_
      | fail_if_no_progress refine keeps_mk ?_ rfl rfl rfl ⟨rfl, rfl, rfl, rfl⟩

theorem srstRegs_keeps (s : State) (t : State) (h0 : Keeps o s) (h1 : Keeps o t) : Keeps o (srstRegs s t) := by
  unfold srstRegs
  with_reducible repeat' first | assumption | apply regSetFld_keeps | apply regSet_keeps

theorem srstBegin_keeps (s : State) (ends) (h : Keeps o s) : Keeps o (srstBegin s ends) := by
  unfold srstBegin
  with_reducible repeat'
    first
      | assumption | apply porstState_keeps | apply regSetFld_keeps | apply srstRegs_keeps
      | fail_if_no_progress refine keeps_mk ?_ rfl rfl rfl ⟨rfl, rfl, rfl, rfl⟩

theorem execSrstAssert_keeps (s : State) (h : Keeps o s) : KeepsNext o (execSrstAssert s) := by
  unfold execSrstAssert
  with_reducible repeat'
    first
      | assumption | refine keeps_ite ?_ ?_ | refine keepsNext_next ?_
      | fail_if_no_progress refine keeps_mk ?_ rfl rfl rfl ⟨rfl, rfl, rfl, rfl⟩

theorem srstTaken_keeps (s : State) (h : Keeps o s) : Keeps o (srstTaken s) :=
  keeps_mk (srstBegin_keeps s none h) rfl rfl rfl ⟨rfl, rfl, rfl, rfl⟩

theorem tickPins_keeps (s : State) (h : Keeps o s) : Keeps o (tickPins s) := by
  unfold tickPins
  with_reducible repeat' first | assumption | apply porstState_keeps | apply srstTaken_keeps | refine keeps_ite ?_ ?_

theorem execSrstRelease_keeps (s : State) (h : Keeps o s) : KeepsNext o (execSrstRelease s) := by
  unfold execSrstRelease
  with_reducible repeat'
    first
      | assumption | refine keeps_ite ?_ ?_ | refine keepsNext_next ?_
      | fail_if_no_progress refine keeps_mk ?_ rfl rfl rfl ⟨rfl, rfl, rfl, rfl⟩

theorem execGlbResetSys_keeps (f) (v) (s : State) (h : Keeps o s) : KeepsNext o (execGlbResetSys f v s) := by
  unfold execGlbResetSys
  with_reducible repeat' first | assumption | apply hostCmd_keeps | apply srstBegin_keeps | refine keeps_ite ?_ ?_ | intro _ _

theorem execSystemResetHoldEnd_keeps (straps) (s : State) (h : Keeps o s) : KeepsNext o (execSystemResetHoldEnd straps s) := by
  unfold execSystemResetHoldEnd
  with_reducible repeat'
    first
      | assumption | apply regSetFld_keeps | apply regSet_keeps | refine keepsNext_next ?_ | refine keepsNext_ite ?_ ?_
      | fail_if_no_progress refine keeps_mk ?_ rfl rfl rfl ⟨rfl, rfl, rfl, rfl⟩ | split

theorem execPcieHotReset_keeps (s : State) (h : Keeps o s) : KeepsNext o (execPcieHotReset s) := by
  unfold execPcieHotReset
  with_reducible repeat'
    first
      | assumption | apply pauseSweep_keeps | apply fnReset_keeps | refine keeps_ite ?_ ?_ | refine keepsNext_next ?_
      | refine keeps_fold ?_ ?_

theorem romTo_keeps (s : State) (n) (h : Keeps o s) : Keeps o (romTo s n) := by
  unfold romTo
  with_reducible repeat' first | assumption | fail_if_no_progress refine keeps_mk ?_ rfl rfl rfl ⟨rfl, rfl, rfl, rfl⟩

theorem romPower_keeps (s : State) (d) (h : Keeps o s) : Keeps o (romPower s d) := by
  unfold romPower
  with_reducible repeat' first | assumption | apply startOn_keeps | refine keeps_ite ?_ ?_

theorem linkSet_keeps (s : State) (up) (h : Keeps o s) : Keeps o (linkSet s up) := by
  unfold linkSet
  with_reducible repeat' first | assumption | fail_if_no_progress refine keeps_mk ?_ rfl rfl rfl ⟨rfl, rfl, rfl, rfl⟩

theorem bootFault_keeps (s : State) (h : Keeps o s) : Keeps o (bootFault s) := by
  unfold bootFault
  with_reducible repeat'
    first
      | assumption | apply raise_keeps | apply regSetFld_keeps | apply romTo_keeps | apply romPower_keeps
      | apply linkSet_keeps | refine keeps_ite ?_ ?_

theorem fuseLoad_keeps (s : State) (h : Keeps o s) : Keeps o (fuseLoad s) := by
  unfold fuseLoad
  with_reducible repeat'
    first
      | assumption | apply regSet256_keeps | apply regSet_keeps | apply regSetFld_keeps | dsimp only | refine keeps_fold ?_ ?_
      | intro _ _ _

theorem execFuseSenseDone_keeps (good) (s : State) (h : Keeps o s) : KeepsNext o (execFuseSenseDone good s) := by
  unfold execFuseSenseDone
  with_reducible repeat'
    first
      | assumption | apply event_keeps | apply romTo_keeps | apply fuseLoad_keeps | apply bootFault_keeps
      | refine keeps_ite ?_ ?_ | split | intro _ _

theorem rom8_keeps (s : State) (h : Keeps o s) : Keeps o (rom8 s) := by
  unfold rom8
  with_reducible repeat' first | assumption | apply bootStart_keeps | apply romTo_keeps | apply regSetFld_keeps

theorem rom6_keeps (s : State) (h : Keeps o s) : Keeps o (rom6 s) := by
  unfold rom6
  with_reducible repeat'
    first
      | assumption | apply regSetFld_keeps | apply linkSet_keeps | apply freezePending_keeps | apply romTo_keeps
      | apply rom8_keeps | refine keeps_ite ?_ ?_

theorem rom3_keeps (s : State) (h : Keeps o s) : Keeps o (rom3 s) := by
  unfold rom3
  with_reducible repeat'
    first
      | assumption | apply romTo_keeps | apply senShow_keeps | apply regSet_keeps | apply raise_keeps | apply romPower_keeps
      | refine keeps_ite ?_ ?_ | fail_if_no_progress refine keeps_mk ?_ rfl rfl rfl ⟨rfl, rfl, rfl, rfl⟩

theorem rom7_keeps (s : State) (h : Keeps o s) : Keeps o (rom7 s) := by
  unfold rom7
  with_reducible repeat' first | assumption | apply rom8_keeps | refine keeps_ite ?_ ?_

theorem romNext_keeps (s : State) (h : Keeps o s) : Keeps o (romNext s) := by
  unfold romNext
  with_reducible repeat'
    first
      | assumption | apply rom3_keeps | apply rom6_keeps | apply rom7_keeps | apply commitWhenLocked_keeps
      | apply linkSet_keeps | refine keeps_ite ?_ ?_ | split

theorem romPll_keeps (s : State) (h : Keeps o s) : Keeps o (romPll s) := by
  unfold romPll
  with_reducible repeat'
    first
      | assumption | apply romPower_keeps | apply pwrRefuse_keeps | refine keeps_ite ?_ ?_ | split | refine keeps_fold ?_ ?_
      | intro _ _ _

theorem execPllLocked_keeps (pll) (s : State) (h : Keeps o s) : KeepsNext o (execPllLocked pll s) := by
  unfold execPllLocked
  with_reducible repeat'
    first
      | assumption | apply event_keeps | apply romNext_keeps | apply romPll_keeps | apply regSetFld_keeps
      | refine keeps_ite ?_ ?_ | intro _ _

theorem execPllLockTimeout_keeps (pll) (s : State) (h : Keeps o s) : KeepsNext o (execPllLockTimeout pll s) := by
  unfold execPllLockTimeout
  with_reducible repeat'
    first
      | assumption | apply event_keeps | apply linkSet_keeps | apply bootFault_keeps | apply romNext_keeps
      | apply romPll_keeps | refine keeps_ite ?_ ?_ | fail_if_no_progress refine keeps_mk ?_ rfl rfl rfl ⟨rfl, rfl, rfl, rfl⟩
      | split | dsimp only | intro _ _

theorem execPowerSequenceDone_keeps (x) (s : State) (h : Keeps o s) :
    KeepsNext o (execPowerSequenceDone x s) := by
  unfold execPowerSequenceDone
  with_reducible repeat'
    first
      | assumption | apply event_keeps | apply linkSet_keeps | apply regSetFld_keeps | apply domPend_keeps
      | apply bootFault_keeps | apply romNext_keeps | apply sequenceDone_keeps | refine keeps_ite ?_ ?_ | split | dsimp only
      | intro _ _

theorem execTrickleServiceStart_keeps (s : State) (h : Keeps o s) : KeepsNext o (execTrickleServiceStart s) := by
  unfold execTrickleServiceStart
  with_reducible repeat'
    first
      | assumption | apply event_keeps | apply regSetFld_keeps | refine keeps_ite ?_ ?_
      | fail_if_no_progress refine keeps_mk ?_ rfl rfl rfl ⟨rfl, rfl, rfl, rfl⟩ | intro _ _

theorem execTrickleFrameRx_keeps (p) (bytes) (good) (s : State) (h : Keeps o s) :
    KeepsNext o (execTrickleFrameRx p bytes good s) := by
  unfold execTrickleFrameRx
  with_reducible repeat' first | assumption | apply domEvent_keeps | apply trkReceive_keeps | refine keeps_ite ?_ ?_ | intro _ _

theorem execTrickleAgeDrop_keeps (s : State) (h : Keeps o s) : KeepsNext o (execTrickleAgeDrop s) := by
  unfold execTrickleAgeDrop
  with_reducible repeat' first | assumption | apply event_keeps | apply trkAge_keeps | refine keeps_fold ?_ ?_ | intro _ _

theorem execTrickleDrainEnd_keeps (s : State) (h : Keeps o s) : KeepsNext o (execTrickleDrainEnd s) := by
  unfold execTrickleDrainEnd
  with_reducible repeat'
    first
      | assumption | apply event_keeps | apply lanesRetrain_keeps | apply trkEmpty_keeps | apply pcsEval_keeps
      | apply regSetFld_keeps | refine keeps_ite ?_ ?_
      | fail_if_no_progress refine keeps_mk ?_ rfl rfl rfl ⟨rfl, rfl, rfl, rfl⟩ | dsimp only | refine keeps_fold ?_ ?_
      | intro _ _

theorem execHandoverComplete_keeps (s : State) (h : Keeps o s) : KeepsNext o (execHandoverComplete s) := by
  unfold execHandoverComplete
  with_reducible repeat'
    first
      | assumption | apply event_keeps | apply regSet_keeps | apply culSettle_keeps | apply raise_keeps
      | apply regSetFld_keeps | refine keeps_ite ?_ ?_
      | fail_if_no_progress refine keeps_mk ?_ rfl rfl rfl ⟨rfl, rfl, rfl, rfl⟩ | dsimp only | intro _ _

end Sys2Proof.Machine
end

