-- ==== Sys2Proof/Laws/Keeps/Threads.lean ====
section
/-!
SUPPORT. Every transformation of the state in Machine/Engines.lean, Machine/KuernAlu.lean, Machine/KuernMem.lean,
Machine/KuernOps.lean, Machine/Physical.lean, Machine/Tick.lean leaves the queue as it was and keeps the invariant.
-/
namespace Sys2Proof.Machine

variable {o : State}

theorem execEventWatchdog_keeps (e) (t) (s : State) (h : Keeps o s) : KeepsNext o (execEventWatchdog e t s) := by
  unfold execEventWatchdog
  with_reducible repeat'
    first
      | assumption | apply domEvent_keeps | apply thrExc_keeps | apply krnRaise_keeps | apply krnCount_keeps
      | refine keeps_ite ?_ ?_ | dsimp only | intro _ _

theorem execTimerFire_keeps (e) (i) (s : State) (h : Keeps o s) : KeepsNext o (execTimerFire e i s) := by
  unfold execTimerFire
  with_reducible repeat'
    first
      | assumption | apply domEvent_keeps | apply timerFire_keeps | apply engSet_keeps | refine keeps_ite ?_ ?_ | split
      | dsimp only | intro _ _

theorem execInitTimeout_keeps (e) (s : State) (h : Keeps o s) : KeepsNext o (execInitTimeout e s) := by
  unfold execInitTimeout
  with_reducible repeat'
    first
      | assumption | apply domEvent_keeps | apply krnRaise_keeps | apply engHalt_keeps | refine keeps_ite ?_ ?_ | split
      | intro _ _

theorem execEngineHalt_keeps (f) (e) (v) (s : State) (h : Keeps o s) : KeepsNext o (execEngineHalt f e v s) := by
  unfold execEngineHalt
  with_reducible repeat' first | assumption | apply hostCmd_keeps | apply engHalt_keeps | refine keeps_ite ?_ ?_ | intro _ _

theorem execEngineRestart_keeps (f) (e) (v) (s : State) (h : Keeps o s) : KeepsNext o (execEngineRestart f e v s) := by
  unfold execEngineRestart
  with_reducible repeat'
    first
      | assumption | apply hostCmd_keeps | apply krnRaise_keeps | apply engStart_keeps | apply masterReset_keeps
      | refine keeps_ite ?_ ?_ | split | intro _ _

theorem execSendComplete_keeps (i) (s : State) (h : Keeps o s) : KeepsNext o (execSendComplete i s) := by
  unfold execSendComplete
  with_reducible repeat'
    first
      | assumption | apply domEvent_keeps | apply postOwn_keeps | apply ts2Free_keeps
      | fail_if_no_progress refine keeps_mk ?_ rfl rfl rfl ⟨rfl, rfl, rfl, rfl⟩ | split | dsimp only | intro _ _

theorem execAuthJobDone_keeps (i) (s : State) (h : Keeps o s) : KeepsNext o (execAuthJobDone i s) := by
  unfold execAuthJobDone
  with_reducible repeat'
    first
      | assumption | apply flowEvent_keeps | apply laneKick_keeps | apply authEnd_keeps | refine keeps_ite ?_ ?_
      | fail_if_no_progress refine keeps_mk ?_ rfl rfl rfl ⟨rfl, rfl, rfl, rfl⟩ | split | dsimp only | intro _ _

theorem execKAddi_keeps (e) (t) (rd) (rs1) (imm) (s : State) (h : Keeps o s) : KeepsNext o (execKAddi e t rd rs1 imm s) := by
  unfold execKAddi
  with_reducible repeat' first | assumption | apply krnAlu_keeps

theorem execKAndi_keeps (e) (t) (rd) (rs1) (imm) (s : State) (h : Keeps o s) : KeepsNext o (execKAndi e t rd rs1 imm s) := by
  unfold execKAndi
  with_reducible repeat' first | assumption | apply krnAlu_keeps

theorem execKOri_keeps (e) (t) (rd) (rs1) (imm) (s : State) (h : Keeps o s) : KeepsNext o (execKOri e t rd rs1 imm s) := by
  unfold execKOri
  with_reducible repeat' first | assumption | apply krnAlu_keeps

theorem execKXori_keeps (e) (t) (rd) (rs1) (imm) (s : State) (h : Keeps o s) : KeepsNext o (execKXori e t rd rs1 imm s) := by
  unfold execKXori
  with_reducible repeat' first | assumption | apply krnAlu_keeps

theorem execKShi_keeps (e) (t) (rd) (rs1) (sel) (n) (s : State) (h : Keeps o s) :
    KeepsNext o (execKShi e t rd rs1 sel n s) := by
  unfold execKShi
  with_reducible repeat'
    first
      | assumption | apply krnIssue_keeps | apply krnExc_keeps | apply thrWrite_keeps | split | dsimp only | intro _ _ _

theorem execKSlti_keeps (e) (t) (rd) (rs1) (imm) (s : State) (h : Keeps o s) : KeepsNext o (execKSlti e t rd rs1 imm s) := by
  unfold execKSlti
  with_reducible repeat' first | assumption | apply krnAlu_keeps

theorem execKSltiu_keeps (e) (t) (rd) (rs1) (imm) (s : State) (h : Keeps o s) : KeepsNext o (execKSltiu e t rd rs1 imm s) := by
  unfold execKSltiu
  with_reducible repeat' first | assumption | apply krnAlu_keeps

theorem execKLui_keeps (e) (t) (rd) (imm) (s : State) (h : Keeps o s) : KeepsNext o (execKLui e t rd imm s) := by
  unfold execKLui
  with_reducible repeat' first | assumption | apply krnAlu_keeps

theorem execKExt_keeps (e) (t) (rd) (rs1) (pos) (len) (s : State) (h : Keeps o s) :
    KeepsNext o (execKExt e t rd rs1 pos len s) := by
  unfold execKExt
  with_reducible repeat' first | assumption | apply krnAlu_keeps

theorem execKIns_keeps (e) (t) (rd) (rs1) (pos) (len) (s : State) (h : Keeps o s) :
    KeepsNext o (execKIns e t rd rs1 pos len s) := by
  unfold execKIns
  with_reducible repeat' first | assumption | apply krnAlu_keeps

theorem execKAdd_keeps (e) (t) (rd) (rs1) (rs2) (s : State) (h : Keeps o s) : KeepsNext o (execKAdd e t rd rs1 rs2 s) := by
  unfold execKAdd
  with_reducible repeat' first | assumption | apply krnAlu_keeps

theorem execKSub_keeps (e) (t) (rd) (rs1) (rs2) (s : State) (h : Keeps o s) : KeepsNext o (execKSub e t rd rs1 rs2 s) := by
  unfold execKSub
  with_reducible repeat' first | assumption | apply krnAlu_keeps

theorem execKAnd_keeps (e) (t) (rd) (rs1) (rs2) (s : State) (h : Keeps o s) : KeepsNext o (execKAnd e t rd rs1 rs2 s) := by
  unfold execKAnd
  with_reducible repeat' first | assumption | apply krnAlu_keeps

theorem execKOr_keeps (e) (t) (rd) (rs1) (rs2) (s : State) (h : Keeps o s) : KeepsNext o (execKOr e t rd rs1 rs2 s) := by
  unfold execKOr
  with_reducible repeat' first | assumption | apply krnAlu_keeps

theorem execKXor_keeps (e) (t) (rd) (rs1) (rs2) (s : State) (h : Keeps o s) : KeepsNext o (execKXor e t rd rs1 rs2 s) := by
  unfold execKXor
  with_reducible repeat' first | assumption | apply krnAlu_keeps

theorem execKSll_keeps (e) (t) (rd) (rs1) (rs2) (s : State) (h : Keeps o s) : KeepsNext o (execKSll e t rd rs1 rs2 s) := by
  unfold execKSll
  with_reducible repeat' first | assumption | apply krnAlu_keeps

theorem execKSrl_keeps (e) (t) (rd) (rs1) (rs2) (s : State) (h : Keeps o s) : KeepsNext o (execKSrl e t rd rs1 rs2 s) := by
  unfold execKSrl
  with_reducible repeat' first | assumption | apply krnAlu_keeps

theorem execKSra_keeps (e) (t) (rd) (rs1) (rs2) (s : State) (h : Keeps o s) : KeepsNext o (execKSra e t rd rs1 rs2 s) := by
  unfold execKSra
  with_reducible repeat' first | assumption | apply krnAlu_keeps

theorem execKSlt_keeps (e) (t) (rd) (rs1) (rs2) (s : State) (h : Keeps o s) : KeepsNext o (execKSlt e t rd rs1 rs2 s) := by
  unfold execKSlt
  with_reducible repeat' first | assumption | apply krnAlu_keeps

theorem execKSltu_keeps (e) (t) (rd) (rs1) (rs2) (s : State) (h : Keeps o s) : KeepsNext o (execKSltu e t rd rs1 rs2 s) := by
  unfold execKSltu
  with_reducible repeat' first | assumption | apply krnAlu_keeps

theorem execKMul_keeps (e) (t) (rd) (rs1) (rs2) (s : State) (h : Keeps o s) : KeepsNext o (execKMul e t rd rs1 rs2 s) := by
  unfold execKMul
  with_reducible repeat' first | assumption | apply krnAlu_keeps

theorem execKMulh_keeps (e) (t) (rd) (rs1) (rs2) (s : State) (h : Keeps o s) : KeepsNext o (execKMulh e t rd rs1 rs2 s) := by
  unfold execKMulh
  with_reducible repeat' first | assumption | apply krnAlu_keeps

theorem execKMulhu_keeps (e) (t) (rd) (rs1) (rs2) (s : State) (h : Keeps o s) : KeepsNext o (execKMulhu e t rd rs1 rs2 s) := by
  unfold execKMulhu
  with_reducible repeat' first | assumption | apply krnAlu_keeps

theorem execKDiv_keeps (e) (t) (rd) (rs1) (rs2) (s : State) (h : Keeps o s) : KeepsNext o (execKDiv e t rd rs1 rs2 s) := by
  unfold execKDiv
  with_reducible repeat' first | assumption | apply krnAlu_keeps

theorem execKDivu_keeps (e) (t) (rd) (rs1) (rs2) (s : State) (h : Keeps o s) : KeepsNext o (execKDivu e t rd rs1 rs2 s) := by
  unfold execKDivu
  with_reducible repeat' first | assumption | apply krnAlu_keeps

theorem execKRem_keeps (e) (t) (rd) (rs1) (rs2) (s : State) (h : Keeps o s) : KeepsNext o (execKRem e t rd rs1 rs2 s) := by
  unfold execKRem
  with_reducible repeat' first | assumption | apply krnAlu_keeps

theorem execKRemu_keeps (e) (t) (rd) (rs1) (rs2) (s : State) (h : Keeps o s) : KeepsNext o (execKRemu e t rd rs1 rs2 s) := by
  unfold execKRemu
  with_reducible repeat' first | assumption | apply krnAlu_keeps

theorem execKBswap_keeps (e) (t) (rd) (rs1) (s : State) (h : Keeps o s) : KeepsNext o (execKBswap e t rd rs1 s) := by
  unfold execKBswap
  with_reducible repeat' first | assumption | apply krnAlu_keeps

theorem execKClz_keeps (e) (t) (rd) (rs1) (s : State) (h : Keeps o s) : KeepsNext o (execKClz e t rd rs1 s) := by
  unfold execKClz
  with_reducible repeat' first | assumption | apply krnAlu_keeps

theorem execKMin_keeps (e) (t) (rd) (rs1) (rs2) (s : State) (h : Keeps o s) : KeepsNext o (execKMin e t rd rs1 rs2 s) := by
  unfold execKMin
  with_reducible repeat' first | assumption | apply krnAlu_keeps

theorem execKMax_keeps (e) (t) (rd) (rs1) (rs2) (s : State) (h : Keeps o s) : KeepsNext o (execKMax e t rd rs1 rs2 s) := by
  unfold execKMax
  with_reducible repeat' first | assumption | apply krnAlu_keeps

theorem execKMinu_keeps (e) (t) (rd) (rs1) (rs2) (s : State) (h : Keeps o s) : KeepsNext o (execKMinu e t rd rs1 rs2 s) := by
  unfold execKMinu
  with_reducible repeat' first | assumption | apply krnAlu_keeps

theorem execKMaxu_keeps (e) (t) (rd) (rs1) (rs2) (s : State) (h : Keeps o s) : KeepsNext o (execKMaxu e t rd rs1 rs2 s) := by
  unfold execKMaxu
  with_reducible repeat' first | assumption | apply krnAlu_keeps

theorem thrJump_keeps (s : State) (e) (t) (pc) (h : Keeps o s) : Keeps o (thrJump s e t pc) := by
  unfold thrJump
  with_reducible repeat' first | assumption | apply thrSet_keeps

theorem execKJal_keeps (e) (t) (rd) (off) (s : State) (h : Keeps o s) : KeepsNext o (execKJal e t rd off s) := by
  unfold execKJal
  with_reducible repeat' first | assumption | apply krnIssue_keeps | apply thrJump_keeps | apply thrWrite_keeps | intro _ _ _

theorem execKJalr_keeps (e) (t) (rd) (rs1) (imm) (s : State) (h : Keeps o s) : KeepsNext o (execKJalr e t rd rs1 imm s) := by
  unfold execKJalr
  with_reducible repeat' first | assumption | apply krnIssue_keeps | apply thrJump_keeps | apply thrWrite_keeps | intro _ _ _

theorem krnBranch_keeps (s : State) (e) (t) (op) (rs1) (rs2) (off) (c) (h : Keeps o s) :
    KeepsNext o (krnBranch s e t op rs1 rs2 off c) := by
  unfold krnBranch
  with_reducible repeat'
    first
      | assumption | apply krnIssue_keeps | apply thrCost_keeps | apply thrJump_keeps | apply thrNext_keeps
      | refine keeps_ite ?_ ?_ | intro _ _ _

theorem execKBeq_keeps (e) (t) (rs1) (rs2) (off) (s : State) (h : Keeps o s) : KeepsNext o (execKBeq e t rs1 rs2 off s) := by
  unfold execKBeq
  with_reducible repeat' first | assumption | apply krnBranch_keeps

theorem execKBne_keeps (e) (t) (rs1) (rs2) (off) (s : State) (h : Keeps o s) : KeepsNext o (execKBne e t rs1 rs2 off s) := by
  unfold execKBne
  with_reducible repeat' first | assumption | apply krnBranch_keeps

theorem execKBlt_keeps (e) (t) (rs1) (rs2) (off) (s : State) (h : Keeps o s) : KeepsNext o (execKBlt e t rs1 rs2 off s) := by
  unfold execKBlt
  with_reducible repeat' first | assumption | apply krnBranch_keeps

theorem execKBge_keeps (e) (t) (rs1) (rs2) (off) (s : State) (h : Keeps o s) : KeepsNext o (execKBge e t rs1 rs2 off s) := by
  unfold execKBge
  with_reducible repeat' first | assumption | apply krnBranch_keeps

theorem execKBltu_keeps (e) (t) (rs1) (rs2) (off) (s : State) (h : Keeps o s) : KeepsNext o (execKBltu e t rs1 rs2 off s) := by
  unfold execKBltu
  with_reducible repeat' first | assumption | apply krnBranch_keeps

theorem execKBgeu_keeps (e) (t) (rs1) (rs2) (off) (s : State) (h : Keeps o s) : KeepsNext o (execKBgeu e t rs1 rs2 off s) := by
  unfold execKBgeu
  with_reducible repeat' first | assumption | apply krnBranch_keeps

theorem execKTcr_keeps (e) (t) (rd) (rs1) (write) (idx) (s : State) (h : Keeps o s) :
    KeepsNext o (execKTcr e t rd rs1 write idx s) := by
  unfold execKTcr
  with_reducible repeat'
    first
      | assumption | apply krnIssue_keeps | apply krnExc_keeps | apply thrNext_keeps | apply thrSet_keeps
      | apply thrWrite_keeps | split | dsimp only | intro _ _ _

theorem krnLoad_keeps (s : State) (e) (t) (op) (rd) (rs1) (imm) (n) (word) (signed) (big) (host) (h : Keeps o s) :
    KeepsNext o (krnLoad s e t op rd rs1 imm n word signed big host) := by
  unfold krnLoad
  with_reducible repeat'
    first
      | assumption | apply krnIssue_keeps | apply krnExc_keeps | apply farSend_keeps | apply thrCost_keeps | apply kLoad_keeps
      | apply thrWrite_keeps | refine keeps_ite ?_ ?_ | split | dsimp only | intro _ _ _
      | refine keeps_of_pair (by assumption) ?_

theorem execKLb_keeps (e) (t) (rd) (rs1) (imm) (host) (s : State) (h : Keeps o s) :
    KeepsNext o (execKLb e t rd rs1 imm host s) := by
  unfold execKLb
  with_reducible repeat' first | assumption | apply krnLoad_keeps

theorem execKLbu_keeps (e) (t) (rd) (rs1) (imm) (host) (s : State) (h : Keeps o s) :
    KeepsNext o (execKLbu e t rd rs1 imm host s) := by
  unfold execKLbu
  with_reducible repeat' first | assumption | apply krnLoad_keeps

theorem execKLh_keeps (e) (t) (rd) (rs1) (imm) (host) (s : State) (h : Keeps o s) :
    KeepsNext o (execKLh e t rd rs1 imm host s) := by
  unfold execKLh
  with_reducible repeat' first | assumption | apply krnLoad_keeps

theorem execKLhu_keeps (e) (t) (rd) (rs1) (imm) (host) (s : State) (h : Keeps o s) :
    KeepsNext o (execKLhu e t rd rs1 imm host s) := by
  unfold execKLhu
  with_reducible repeat' first | assumption | apply krnLoad_keeps

theorem execKLw_keeps (e) (t) (rd) (rs1) (imm) (host) (s : State) (h : Keeps o s) :
    KeepsNext o (execKLw e t rd rs1 imm host s) := by
  unfold execKLw
  with_reducible repeat' first | assumption | apply krnLoad_keeps

theorem execKLhbe_keeps (e) (t) (rd) (rs1) (imm) (host) (s : State) (h : Keeps o s) :
    KeepsNext o (execKLhbe e t rd rs1 imm host s) := by
  unfold execKLhbe
  with_reducible repeat' first | assumption | apply krnLoad_keeps

theorem execKLwbe_keeps (e) (t) (rd) (rs1) (imm) (host) (s : State) (h : Keeps o s) :
    KeepsNext o (execKLwbe e t rd rs1 imm host s) := by
  unfold execKLwbe
  with_reducible repeat' first | assumption | apply krnLoad_keeps

theorem krnStore_keeps (s : State) (e) (t) (op) (rs2) (rs1) (imm) (n) (word) (be) (h : Keeps o s) :
    KeepsNext o (krnStore s e t op rs2 rs1 imm n word be) := by
  unfold krnStore
  with_reducible repeat'
    first
      | assumption | apply krnIssue_keeps | apply krnExc_keeps | apply thrNext_keeps | apply farSend_keeps
      | apply kStore_keeps | refine keeps_ite ?_ ?_ | split | dsimp only | intro _ _ _
      | refine keeps_of_pair (by assumption) ?_

theorem execKSb_keeps (e) (t) (rs2) (rs1) (imm) (s : State) (h : Keeps o s) : KeepsNext o (execKSb e t rs2 rs1 imm s) := by
  unfold execKSb
  with_reducible repeat' first | assumption | apply krnStore_keeps

theorem execKSh_keeps (e) (t) (rs2) (rs1) (imm) (s : State) (h : Keeps o s) : KeepsNext o (execKSh e t rs2 rs1 imm s) := by
  unfold execKSh
  with_reducible repeat' first | assumption | apply krnStore_keeps

theorem execKSw_keeps (e) (t) (rs2) (rs1) (imm) (s : State) (h : Keeps o s) : KeepsNext o (execKSw e t rs2 rs1 imm s) := by
  unfold execKSw
  with_reducible repeat' first | assumption | apply krnStore_keeps

theorem execKShbe_keeps (e) (t) (rs2) (rs1) (imm) (s : State) (h : Keeps o s) : KeepsNext o (execKShbe e t rs2 rs1 imm s) := by
  unfold execKShbe
  with_reducible repeat' first | assumption | apply krnStore_keeps

theorem execKSwbe_keeps (e) (t) (rs2) (rs1) (imm) (s : State) (h : Keeps o s) : KeepsNext o (execKSwbe e t rs2 rs1 imm s) := by
  unfold execKSwbe
  with_reducible repeat' first | assumption | apply krnStore_keeps

theorem operandOrder_keeps (s : State) (e) (t) (a) (n) (h : Keeps o s) : Keeps o (operandOrder s e t a n) := by
  unfold operandOrder
  with_reducible repeat' first | assumption | apply farFlush_keeps | split

theorem accelOperand_keeps (s : State) (e) (t) (a) (n) (h : Keeps o s) : Keeps o (accelOperand s e t a n).2 := by
  unfold accelOperand
  with_reducible repeat'
    first
      | assumption | apply operandRead_keeps | apply thrCost_keeps | apply operandOrder_keeps | refine keeps_ite_snd ?_ ?_

theorem berDone_keeps (s : State) (e) (t) (rd) (last) (status) (h : Keeps o s) : Keeps o (berDone s e t rd last status) := by
  unfold berDone
  with_reducible repeat'
    first
      | assumption | apply krnCount_keeps | apply thrWrite_keeps | apply thrSet_keeps | refine keeps_ite ?_ ?_

theorem execKBerw_keeps (e) (t) (rd) (rs1) (rs2) (s : State) (h : Keeps o s) : KeepsNext o (execKBerw e t rd rs1 rs2 s) := by
  unfold execKBerw
  with_reducible repeat'
    first
      | assumption | apply krnIssue_keeps | apply krnExc_keeps | apply operandOrder_keeps | apply berDone_keeps
      | apply berWalk_keeps | refine keeps_ite ?_ ?_ | split | dsimp only | intro _ _ _
      | refine keeps_of_triple (by assumption) ?_

theorem execKCrc_keeps (e) (t) (rd) (rs1) (rs2) (s : State) (h : Keeps o s) : KeepsNext o (execKCrc e t rd rs1 rs2 s) := by
  unfold execKCrc
  with_reducible repeat'
    first
      | assumption | apply krnIssue_keeps | apply accelOperand_keeps | apply krnExc_keeps | apply thrWrite_keeps
      | apply thrSet_keeps | split | dsimp only | intro _ _ _ | refine keeps_of_pair (by assumption) ?_

theorem execKCsum_keeps (e) (t) (rd) (rs1) (rs2) (s : State) (h : Keeps o s) : KeepsNext o (execKCsum e t rd rs1 rs2 s) := by
  unfold execKCsum
  with_reducible repeat'
    first
      | assumption | apply krnIssue_keeps | apply krnExc_keeps | apply accelOperand_keeps | apply thrWrite_keeps
      | apply thrSet_keeps | refine keeps_ite ?_ ?_ | split | dsimp only | intro _ _ _
      | refine keeps_of_pair (by assumption) ?_

theorem execKAuth_keeps (e) (t) (rd) (rs1) (s : State) (h : Keeps o s) : KeepsNext o (execKAuth e t rd rs1 s) := by
  unfold execKAuth
  with_reducible repeat'
    first
      | assumption | apply krnIssue_keeps | apply krnExc_keeps | apply operandRead_keeps | apply authSubmit_keeps
      | apply thrWrite_keeps | refine keeps_ite ?_ ?_ | refine keeps_ite_snd ?_ ?_ | split | dsimp only | intro _ _ _
      | refine keeps_of_pair (by assumption) ?_

theorem execKLkacq_keeps (e) (t) (rd) (rs1) (s : State) (h : Keeps o s) : KeepsNext o (execKLkacq e t rd rs1 s) := by
  unfold execKLkacq
  with_reducible repeat' first | assumption | apply krnIssue_keeps | apply farSend_keeps | apply thrCost_keeps | intro _ _ _

theorem execKLkrel_keeps (e) (t) (rs1) (s : State) (h : Keeps o s) : KeepsNext o (execKLkrel e t rs1 s) := by
  unfold execKLkrel
  with_reducible repeat' first | assumption | apply krnIssue_keeps | apply farSend_keeps | apply thrCost_keeps | intro _ _ _

theorem krnFence_keeps (s : State) (e) (t) (fn) (tank) (host) (h : Keeps o s) : KeepsNext o (krnFence s e t fn tank host) := by
  unfold krnFence
  with_reducible repeat'
    first
      | assumption | apply krnIssue_keeps | apply thrNext_keeps | apply thrSet_keeps | apply emit_keeps
      | refine keeps_ite ?_ ?_ | split | dsimp only | intro _ _ _

theorem execKFenceTank_keeps (e) (t) (s : State) (h : Keeps o s) : KeepsNext o (execKFenceTank e t s) := by
  unfold execKFenceTank
  with_reducible repeat' first | assumption | apply krnFence_keeps

theorem execKFenceHost_keeps (e) (t) (s : State) (h : Keeps o s) : KeepsNext o (execKFenceHost e t s) := by
  unfold execKFenceHost
  with_reducible repeat' first | assumption | apply krnFence_keeps

theorem execKFenceAll_keeps (e) (t) (s : State) (h : Keeps o s) : KeepsNext o (execKFenceAll e t s) := by
  unfold execKFenceAll
  with_reducible repeat' first | assumption | apply krnFence_keeps

theorem execKEvwait_keeps (e) (t) (rd) (rs1) (s : State) (h : Keeps o s) : KeepsNext o (execKEvwait e t rd rs1 s) := by
  unfold execKEvwait
  with_reducible repeat'
    first
      | assumption | apply krnIssue_keeps | apply krnExc_keeps | apply eventAfter_keeps | apply thrWait_keeps
      | apply thrNext_keeps | refine keeps_ite ?_ ?_ | dsimp only | intro _ _ _

theorem execKEvwaitTimeout_keeps (e) (t) (s : State) (h : Keeps o s) : KeepsNext o (execKEvwaitTimeout e t s) := by
  unfold execKEvwaitTimeout
  with_reducible repeat'
    first
      | assumption | apply domEvent_keeps | apply thrSet_keeps | refine keeps_ite ?_ ?_ | split | dsimp only | intro _ _

theorem execKEvdoneCommit_keeps (e) (t) (s : State) (h : Keeps o s) : KeepsNext o (execKEvdoneCommit e t s) := by
  unfold execKEvdoneCommit
  with_reducible repeat' first | assumption | apply krnIssue_keeps | apply evDone_keeps | intro _ _ _

theorem execKEvdoneDiscard_keeps (e) (t) (s : State) (h : Keeps o s) : KeepsNext o (execKEvdoneDiscard e t s) := by
  unfold execKEvdoneDiscard
  with_reducible repeat' first | assumption | apply krnIssue_keeps | apply evDone_keeps | intro _ _ _

theorem execKReady_keeps (e) (t) (s : State) (h : Keeps o s) : KeepsNext o (execKReady e t s) := by
  unfold execKReady
  with_reducible repeat' first | assumption | apply krnIssue_keeps | apply engReadyNow_keeps | apply thrNext_keeps | intro _ _ _

theorem execKKeep_keeps (e) (t) (rd) (s : State) (h : Keeps o s) : KeepsNext o (execKKeep e t rd s) := by
  unfold execKKeep
  with_reducible repeat'
    first
      | assumption | apply krnIssue_keeps | apply krnExc_keeps | apply thrWrite_keeps | apply refAdd_keeps
      | apply engSet_keeps | refine keeps_ite ?_ ?_ | split | dsimp only | intro _ _ _

theorem execKRelease_keeps (e) (t) (rs1) (s : State) (h : Keeps o s) : KeepsNext o (execKRelease e t rs1 s) := by
  unfold execKRelease
  with_reducible repeat'
    first
      | assumption | apply krnIssue_keeps | apply pauseSweep_keeps | apply refDrop_keeps | apply thrNext_keeps
      | apply engSet_keeps | apply krnExc_keeps | refine keeps_ite ?_ ?_ | dsimp only | intro _ _ _

theorem execKBopen_keeps (e) (t) (rs1) (s : State) (h : Keeps o s) : KeepsNext o (execKBopen e t rs1 s) := by
  unfold execKBopen
  with_reducible repeat'
    first
      | assumption | apply krnIssue_keeps | apply krnExc_keeps | apply thrNext_keeps | apply thrSet_keeps
      | refine keeps_ite ?_ ?_ | dsimp only | intro _ _ _

theorem execKBabort_keeps (e) (t) (s : State) (h : Keeps o s) : KeepsNext o (execKBabort e t s) := by
  unfold execKBabort
  with_reducible repeat'
    first
      | assumption | apply krnIssue_keeps | apply krnExc_keeps | apply pauseSweep_keeps | apply thrNext_keeps
      | apply thrSet_keeps | refine keeps_ite ?_ ?_ | intro _ _ _

theorem execKSend_keeps (e) (t) (rs1) (s : State) (h : Keeps o s) : KeepsNext o (execKSend e t rs1 s) := by
  unfold execKSend
  with_reducible repeat'
    first
      | assumption | apply krnIssue_keeps | apply krnExc_keeps | apply pauseSweep_keeps | apply buildSend_keeps
      | apply thrNext_keeps | split | intro _ _ _

theorem execKTime_keeps (e) (t) (rd) (sel) (s : State) (h : Keeps o s) : KeepsNext o (execKTime e t rd sel s) := by
  unfold execKTime
  with_reducible repeat'
    first
      | assumption | apply krnIssue_keeps | apply thrWrite_keeps | apply thrSet_keeps | apply krnExc_keeps
      | refine keeps_ite ?_ ?_ | split | intro _ _ _

theorem timerAsk_keeps (s : State) (e) (t) (x) (r) (h : Keeps o s) : Keeps o (timerAsk s e t x r) := by
  unfold timerAsk
  with_reducible repeat'
    first
      | assumption | apply timerCommit_keeps | apply thrNext_keeps | apply krnExc_keeps | apply thrSet_keeps
      | refine keeps_ite ?_ ?_

theorem execKTmrset_keeps (e) (t) (rs1) (rs2) (s : State) (h : Keeps o s) : KeepsNext o (execKTmrset e t rs1 rs2 s) := by
  unfold execKTmrset
  with_reducible repeat' first | assumption | apply krnIssue_keeps | apply timerAsk_keeps | intro _ _ _

theorem execKTmrcan_keeps (e) (t) (rs1) (s : State) (h : Keeps o s) : KeepsNext o (execKTmrcan e t rs1 s) := by
  unfold execKTmrcan
  with_reducible repeat' first | assumption | apply krnIssue_keeps | apply timerAsk_keeps | intro _ _ _

theorem execKTrap_keeps (e) (t) (rs1) (s : State) (h : Keeps o s) : KeepsNext o (execKTrap e t rs1 s) := by
  unfold execKTrap
  with_reducible repeat' first | assumption | apply krnIssue_keeps | apply krnExc_keeps | apply thrSet_keeps | intro _ _ _

theorem execIllegalInstructionWord_keeps (e) (t) (w) (s : State) (h : Keeps o s) :
    KeepsNext o (execIllegalInstructionWord e t w s) := by
  unfold execIllegalInstructionWord
  with_reducible repeat'
    first
      | assumption | apply krnIssue_keeps | apply krnExc_keeps | refine keepsNext_next ?_ | refine keepsNext_ite ?_ ?_
      | intro _ _ _

theorem execTempSensorUpdate_keeps (n) (v) (s : State) (h : Keeps o s) : KeepsNext o (execTempSensorUpdate n v s) := by
  unfold execTempSensorUpdate
  with_reducible repeat'
    first
      | assumption | apply event_keeps | apply regSet_keeps | apply regSetFld_keeps | refine keeps_ite ?_ ?_ | dsimp only
      | intro _ _

theorem execAgeingMeasurement_keeps (i) (v) (s : State) (h : Keeps o s) : KeepsNext o (execAgeingMeasurement i v s) := by
  unfold execAgeingMeasurement
  with_reducible repeat' first | assumption | apply domEvent_keeps | apply regSetFld_keeps | refine keeps_ite ?_ ?_ | intro _ _

theorem tickClock_keeps (s : State) (h : Keeps o s) : Keeps o (tickClock s) := by
  unfold tickClock
  split
  · exact h
  · have h' : Keeps o { s with clk := { s.clk with wait := s.clk.wait - 1 } } := keeps_of_eq h rfl rfl rfl ⟨rfl, rfl, rfl, rfl⟩
    dsimp only
    split
    · exact keeps_clk h' (fun i => clkAdd_ok (h'.inv i).clock _)
    · split
      · exact furShift_keeps _ _ (keeps_clk h' (fun i => clkTick_ok (h'.inv i).clock))
      · exact keeps_clk h' (fun i => clkTick_ok (h'.inv i).clock)

theorem tickSen_keeps (s : State) (h : Keeps o s) : Keeps o (tickSen s) := by
  unfold tickSen
  with_reducible repeat'
    first
      | assumption | refine keeps_ite ?_ ?_ | fail_if_no_progress refine keeps_mk ?_ rfl rfl rfl ⟨rfl, rfl, rfl, rfl⟩

theorem tickClusters_keeps (s : State) (h : Keeps o s) : Keeps o (tickClusters s) := by
  unfold tickClusters
  with_reducible repeat'
    first
      | assumption | refine keeps_ite ?_ ?_ | fail_if_no_progress refine keeps_mk ?_ rfl rfl rfl ⟨rfl, rfl, rfl, rfl⟩
      | dsimp only | refine keeps_fold ?_ ?_ | intro _ _ _

theorem tickWire_keeps (s : State) (h : Keeps o s) : Keeps o (tickWire s) := by
  unfold tickWire
  with_reducible repeat'
    first
      | assumption | apply emit_keeps | refine keeps_ite ?_ ?_
      | fail_if_no_progress refine keeps_mk ?_ rfl rfl rfl ⟨rfl, rfl, rfl, rfl⟩

theorem tickSettle_keeps (s : State) (h : Keeps o s) : Keeps o (tickSettle s) := by
  unfold tickSettle
  with_reducible repeat'
    first
      | assumption | apply farTick_keeps | apply tickConflict_keeps | apply sluTick_keeps | apply pubSettle_keeps
      | apply firedPost_keeps | apply culSettle_keeps | refine keeps_ite ?_ ?_ | refine keeps_fold ?_ ?_

theorem tickStalls_keeps (s : State) (h : Keeps o s) : Keeps o (tickStalls s) := by
  unfold tickStalls
  with_reducible repeat' first | assumption | apply flmPass_keeps | refine keeps_ite ?_ ?_ | refine keeps_fold ?_ ?_

theorem tickFlume_keeps (s : State) (h : Keeps o s) : Keeps o (tickFlume s) := by
  unfold tickFlume
  with_reducible repeat' first | assumption | apply flmAct_keeps | refine keeps_ite ?_ ?_ | refine keeps_fold ?_ ?_

theorem tickIdle_keeps (s : State) (h : Keeps o s) : Keeps o (tickIdle s) := by
  unfold tickIdle
  with_reducible repeat' first | assumption | apply idleTick_keeps | refine keeps_fold ?_ ?_

theorem tickRun_keeps (s : State) (h : Keeps o s) : Keeps o (tickRun s) := by
  unfold tickRun
  with_reducible repeat'
    first
      | assumption | apply tickStalls_keeps | apply tickIdle_keeps | apply tickWire_keeps | apply tickSen_keeps
      | apply ppsBack_keeps | apply tickClock_keeps | apply tickSettle_keeps | apply tickFlume_keeps
      | apply tickClusters_keeps | refine keeps_ite ?_ ?_
      | fail_if_no_progress refine keeps_mk ?_ rfl rfl rfl ⟨rfl, rfl, rfl, rfl⟩

theorem tick_keeps (s : State) (h : Keeps o s) : Keeps o (tick s) := tickPins_keeps _ (tickRun_keeps s h)

end Sys2Proof.Machine
end

