-- ==== Sys2Proof/Laws/State.lean ====
section
/-!
SUPPORT. The fields of the state that each primitive update leaves as they were, and what the one it changes becomes.
-/
namespace Sys2Proof.Machine

/-! ### regSet -/

@[simp] theorem regSet_pending (s : State) (k : Nat) (v : Word) : (regSet s k v).pending = s.pending := rfl
@[simp] theorem regSet_now (s : State) (k : Nat) (v : Word) : (regSet s k v).now = s.now := rfl
@[simp] theorem regSet_run (s : State) (k : Nat) (v : Word) : (regSet s k v).run = s.run := rfl
@[simp] theorem regSet_freeCtr (s : State) (k : Nat) (v : Word) : (regSet s k v).freeCtr = s.freeCtr := rfl
@[simp] theorem regSet_rdata (s : State) (k : Nat) (v : Word) : (regSet s k v).rdata = s.rdata := rfl
@[simp] theorem regSet_out (s : State) (k : Nat) (v : Word) : (regSet s k v).out = s.out := rfl
@[simp] theorem regSet_arch (s : State) (k : Nat) (v : Word) : (regSet s k v).arch = s.arch := rfl
@[simp] theorem regSet_fuses (s : State) (k : Nat) (v : Word) : (regSet s k v).fuses = s.fuses := rfl
@[simp] theorem regSet_img (s : State) (k : Nat) (v : Word) : (regSet s k v).img = s.img := rfl
@[simp] theorem regSet_pwr (s : State) (k : Nat) (v : Word) : (regSet s k v).pwr = s.pwr := rfl
@[simp] theorem regSet_trk (s : State) (k : Nat) (v : Word) : (regSet s k v).trk = s.trk := rfl
@[simp] theorem regSet_clk (s : State) (k : Nat) (v : Word) : (regSet s k v).clk = s.clk := rfl
@[simp] theorem regSet_cntHi (s : State) (k : Nat) (v : Word) : (regSet s k v).cntHi = s.cntHi := rfl
@[simp] theorem regSet_prt (s : State) (k : Nat) (v : Word) : (regSet s k v).prt = s.prt := rfl
@[simp] theorem regSet_cis (s : State) (k : Nat) (v : Word) : (regSet s k v).cis = s.cis := rfl
@[simp] theorem regSet_slu (s : State) (k : Nat) (v : Word) : (regSet s k v).slu = s.slu := rfl
@[simp] theorem regSet_fur (s : State) (k : Nat) (v : Word) : (regSet s k v).fur = s.fur := rfl
@[simp] theorem regSet_cnf (s : State) (k : Nat) (v : Word) : (regSet s k v).cnf = s.cnf := rfl
@[simp] theorem regSet_pub (s : State) (k : Nat) (v : Word) : (regSet s k v).pub = s.pub := rfl
@[simp] theorem regSet_hdg (s : State) (k : Nat) (v : Word) : (regSet s k v).hdg = s.hdg := rfl
@[simp] theorem regSet_krn (s : State) (k : Nat) (v : Word) : (regSet s k v).krn = s.krn := rfl
@[simp] theorem regSet_rdr (s : State) (k : Nat) (v : Word) : (regSet s k v).rdr = s.rdr := rfl
@[simp] theorem regSet_tnk (s : State) (k : Nat) (v : Word) : (regSet s k v).tnk = s.tnk := rfl
@[simp] theorem regSet_mbx (s : State) (k : Nat) (v : Word) : (regSet s k v).mbx = s.mbx := rfl
@[simp] theorem regSet_flm (s : State) (k : Nat) (v : Word) : (regSet s k v).flm = s.flm := rfl
@[simp] theorem regSet_hst (s : State) (k : Nat) (v : Word) : (regSet s k v).hst = s.hst := rfl
@[simp] theorem regSet_cul (s : State) (k : Nat) (v : Word) : (regSet s k v).cul = s.cul := rfl
@[simp] theorem regSet_frz (s : State) (k : Nat) (v : Word) : (regSet s k v).frz = s.frz := rfl
@[simp] theorem regSet_sen (s : State) (k : Nat) (v : Word) : (regSet s k v).sen = s.sen := rfl

/-! ### regSetFld -/

@[simp] theorem regSetFld_pending (s : State) (k hi lo v : Nat) : (regSetFld s k hi lo v).pending = s.pending := rfl
@[simp] theorem regSetFld_now (s : State) (k hi lo v : Nat) : (regSetFld s k hi lo v).now = s.now := rfl
@[simp] theorem regSetFld_run (s : State) (k hi lo v : Nat) : (regSetFld s k hi lo v).run = s.run := rfl
@[simp] theorem regSetFld_freeCtr (s : State) (k hi lo v : Nat) : (regSetFld s k hi lo v).freeCtr = s.freeCtr := rfl
@[simp] theorem regSetFld_rdata (s : State) (k hi lo v : Nat) : (regSetFld s k hi lo v).rdata = s.rdata := rfl
@[simp] theorem regSetFld_out (s : State) (k hi lo v : Nat) : (regSetFld s k hi lo v).out = s.out := rfl
@[simp] theorem regSetFld_arch (s : State) (k hi lo v : Nat) : (regSetFld s k hi lo v).arch = s.arch := rfl
@[simp] theorem regSetFld_fuses (s : State) (k hi lo v : Nat) : (regSetFld s k hi lo v).fuses = s.fuses := rfl
@[simp] theorem regSetFld_img (s : State) (k hi lo v : Nat) : (regSetFld s k hi lo v).img = s.img := rfl
@[simp] theorem regSetFld_pwr (s : State) (k hi lo v : Nat) : (regSetFld s k hi lo v).pwr = s.pwr := rfl
@[simp] theorem regSetFld_trk (s : State) (k hi lo v : Nat) : (regSetFld s k hi lo v).trk = s.trk := rfl
@[simp] theorem regSetFld_clk (s : State) (k hi lo v : Nat) : (regSetFld s k hi lo v).clk = s.clk := rfl
@[simp] theorem regSetFld_cntHi (s : State) (k hi lo v : Nat) : (regSetFld s k hi lo v).cntHi = s.cntHi := rfl
@[simp] theorem regSetFld_prt (s : State) (k hi lo v : Nat) : (regSetFld s k hi lo v).prt = s.prt := rfl
@[simp] theorem regSetFld_cis (s : State) (k hi lo v : Nat) : (regSetFld s k hi lo v).cis = s.cis := rfl
@[simp] theorem regSetFld_slu (s : State) (k hi lo v : Nat) : (regSetFld s k hi lo v).slu = s.slu := rfl
@[simp] theorem regSetFld_fur (s : State) (k hi lo v : Nat) : (regSetFld s k hi lo v).fur = s.fur := rfl
@[simp] theorem regSetFld_cnf (s : State) (k hi lo v : Nat) : (regSetFld s k hi lo v).cnf = s.cnf := rfl
@[simp] theorem regSetFld_pub (s : State) (k hi lo v : Nat) : (regSetFld s k hi lo v).pub = s.pub := rfl
@[simp] theorem regSetFld_hdg (s : State) (k hi lo v : Nat) : (regSetFld s k hi lo v).hdg = s.hdg := rfl
@[simp] theorem regSetFld_krn (s : State) (k hi lo v : Nat) : (regSetFld s k hi lo v).krn = s.krn := rfl
@[simp] theorem regSetFld_rdr (s : State) (k hi lo v : Nat) : (regSetFld s k hi lo v).rdr = s.rdr := rfl
@[simp] theorem regSetFld_tnk (s : State) (k hi lo v : Nat) : (regSetFld s k hi lo v).tnk = s.tnk := rfl
@[simp] theorem regSetFld_mbx (s : State) (k hi lo v : Nat) : (regSetFld s k hi lo v).mbx = s.mbx := rfl
@[simp] theorem regSetFld_flm (s : State) (k hi lo v : Nat) : (regSetFld s k hi lo v).flm = s.flm := rfl
@[simp] theorem regSetFld_hst (s : State) (k hi lo v : Nat) : (regSetFld s k hi lo v).hst = s.hst := rfl
@[simp] theorem regSetFld_cul (s : State) (k hi lo v : Nat) : (regSetFld s k hi lo v).cul = s.cul := rfl
@[simp] theorem regSetFld_frz (s : State) (k hi lo v : Nat) : (regSetFld s k hi lo v).frz = s.frz := rfl
@[simp] theorem regSetFld_sen (s : State) (k hi lo v : Nat) : (regSetFld s k hi lo v).sen = s.sen := rfl

/-! ### emit -/

@[simp] theorem emit_pending (s : State) (o : Out) : (emit s o).pending = s.pending := rfl
@[simp] theorem emit_regs (s : State) (o : Out) : (emit s o).regs = s.regs := rfl
@[simp] theorem emit_now (s : State) (o : Out) : (emit s o).now = s.now := rfl
@[simp] theorem emit_run (s : State) (o : Out) : (emit s o).run = s.run := rfl
@[simp] theorem emit_freeCtr (s : State) (o : Out) : (emit s o).freeCtr = s.freeCtr := rfl
@[simp] theorem emit_rdata (s : State) (o : Out) : (emit s o).rdata = s.rdata := rfl
@[simp] theorem emit_arch (s : State) (o : Out) : (emit s o).arch = s.arch := rfl
@[simp] theorem emit_fuses (s : State) (o : Out) : (emit s o).fuses = s.fuses := rfl
@[simp] theorem emit_img (s : State) (o : Out) : (emit s o).img = s.img := rfl
@[simp] theorem emit_pwr (s : State) (o : Out) : (emit s o).pwr = s.pwr := rfl
@[simp] theorem emit_trk (s : State) (o : Out) : (emit s o).trk = s.trk := rfl
@[simp] theorem emit_clk (s : State) (o : Out) : (emit s o).clk = s.clk := rfl
@[simp] theorem emit_cntHi (s : State) (o : Out) : (emit s o).cntHi = s.cntHi := rfl
@[simp] theorem emit_prt (s : State) (o : Out) : (emit s o).prt = s.prt := rfl
@[simp] theorem emit_cis (s : State) (o : Out) : (emit s o).cis = s.cis := rfl
@[simp] theorem emit_slu (s : State) (o : Out) : (emit s o).slu = s.slu := rfl
@[simp] theorem emit_fur (s : State) (o : Out) : (emit s o).fur = s.fur := rfl
@[simp] theorem emit_cnf (s : State) (o : Out) : (emit s o).cnf = s.cnf := rfl
@[simp] theorem emit_pub (s : State) (o : Out) : (emit s o).pub = s.pub := rfl
@[simp] theorem emit_hdg (s : State) (o : Out) : (emit s o).hdg = s.hdg := rfl
@[simp] theorem emit_krn (s : State) (o : Out) : (emit s o).krn = s.krn := rfl
@[simp] theorem emit_rdr (s : State) (o : Out) : (emit s o).rdr = s.rdr := rfl
@[simp] theorem emit_tnk (s : State) (o : Out) : (emit s o).tnk = s.tnk := rfl
@[simp] theorem emit_mbx (s : State) (o : Out) : (emit s o).mbx = s.mbx := rfl
@[simp] theorem emit_flm (s : State) (o : Out) : (emit s o).flm = s.flm := rfl
@[simp] theorem emit_hst (s : State) (o : Out) : (emit s o).hst = s.hst := rfl
@[simp] theorem emit_cul (s : State) (o : Out) : (emit s o).cul = s.cul := rfl
@[simp] theorem emit_frz (s : State) (o : Out) : (emit s o).frz = s.frz := rfl
@[simp] theorem emit_sen (s : State) (o : Out) : (emit s o).sen = s.sen := rfl

/-! ### cntHiSet -/

@[simp] theorem cntHiSet_pending (s : State) (a v : Nat) : (cntHiSet s a v).pending = s.pending := rfl
@[simp] theorem cntHiSet_regs (s : State) (a v : Nat) : (cntHiSet s a v).regs = s.regs := rfl
@[simp] theorem cntHiSet_now (s : State) (a v : Nat) : (cntHiSet s a v).now = s.now := rfl
@[simp] theorem cntHiSet_run (s : State) (a v : Nat) : (cntHiSet s a v).run = s.run := rfl
@[simp] theorem cntHiSet_freeCtr (s : State) (a v : Nat) : (cntHiSet s a v).freeCtr = s.freeCtr := rfl
@[simp] theorem cntHiSet_rdata (s : State) (a v : Nat) : (cntHiSet s a v).rdata = s.rdata := rfl
@[simp] theorem cntHiSet_out (s : State) (a v : Nat) : (cntHiSet s a v).out = s.out := rfl
@[simp] theorem cntHiSet_arch (s : State) (a v : Nat) : (cntHiSet s a v).arch = s.arch := rfl
@[simp] theorem cntHiSet_fuses (s : State) (a v : Nat) : (cntHiSet s a v).fuses = s.fuses := rfl
@[simp] theorem cntHiSet_img (s : State) (a v : Nat) : (cntHiSet s a v).img = s.img := rfl
@[simp] theorem cntHiSet_pwr (s : State) (a v : Nat) : (cntHiSet s a v).pwr = s.pwr := rfl
@[simp] theorem cntHiSet_trk (s : State) (a v : Nat) : (cntHiSet s a v).trk = s.trk := rfl
@[simp] theorem cntHiSet_clk (s : State) (a v : Nat) : (cntHiSet s a v).clk = s.clk := rfl
@[simp] theorem cntHiSet_prt (s : State) (a v : Nat) : (cntHiSet s a v).prt = s.prt := rfl
@[simp] theorem cntHiSet_cis (s : State) (a v : Nat) : (cntHiSet s a v).cis = s.cis := rfl
@[simp] theorem cntHiSet_slu (s : State) (a v : Nat) : (cntHiSet s a v).slu = s.slu := rfl
@[simp] theorem cntHiSet_fur (s : State) (a v : Nat) : (cntHiSet s a v).fur = s.fur := rfl
@[simp] theorem cntHiSet_cnf (s : State) (a v : Nat) : (cntHiSet s a v).cnf = s.cnf := rfl
@[simp] theorem cntHiSet_pub (s : State) (a v : Nat) : (cntHiSet s a v).pub = s.pub := rfl
@[simp] theorem cntHiSet_hdg (s : State) (a v : Nat) : (cntHiSet s a v).hdg = s.hdg := rfl
@[simp] theorem cntHiSet_krn (s : State) (a v : Nat) : (cntHiSet s a v).krn = s.krn := rfl
@[simp] theorem cntHiSet_rdr (s : State) (a v : Nat) : (cntHiSet s a v).rdr = s.rdr := rfl
@[simp] theorem cntHiSet_tnk (s : State) (a v : Nat) : (cntHiSet s a v).tnk = s.tnk := rfl
@[simp] theorem cntHiSet_mbx (s : State) (a v : Nat) : (cntHiSet s a v).mbx = s.mbx := rfl
@[simp] theorem cntHiSet_flm (s : State) (a v : Nat) : (cntHiSet s a v).flm = s.flm := rfl
@[simp] theorem cntHiSet_hst (s : State) (a v : Nat) : (cntHiSet s a v).hst = s.hst := rfl
@[simp] theorem cntHiSet_cul (s : State) (a v : Nat) : (cntHiSet s a v).cul = s.cul := rfl
@[simp] theorem cntHiSet_frz (s : State) (a v : Nat) : (cntHiSet s a v).frz = s.frz := rfl
@[simp] theorem cntHiSet_sen (s : State) (a v : Nat) : (cntHiSet s a v).sen = s.sen := rfl

/-! ### portSet -/

@[simp] theorem portSet_pending (s : State) (p : Nat) (x : PortX) : (portSet s p x).pending = s.pending := rfl
@[simp] theorem portSet_regs (s : State) (p : Nat) (x : PortX) : (portSet s p x).regs = s.regs := rfl
@[simp] theorem portSet_now (s : State) (p : Nat) (x : PortX) : (portSet s p x).now = s.now := rfl
@[simp] theorem portSet_run (s : State) (p : Nat) (x : PortX) : (portSet s p x).run = s.run := rfl
@[simp] theorem portSet_freeCtr (s : State) (p : Nat) (x : PortX) : (portSet s p x).freeCtr = s.freeCtr := rfl
@[simp] theorem portSet_rdata (s : State) (p : Nat) (x : PortX) : (portSet s p x).rdata = s.rdata := rfl
@[simp] theorem portSet_out (s : State) (p : Nat) (x : PortX) : (portSet s p x).out = s.out := rfl
@[simp] theorem portSet_arch (s : State) (p : Nat) (x : PortX) : (portSet s p x).arch = s.arch := rfl
@[simp] theorem portSet_fuses (s : State) (p : Nat) (x : PortX) : (portSet s p x).fuses = s.fuses := rfl
@[simp] theorem portSet_img (s : State) (p : Nat) (x : PortX) : (portSet s p x).img = s.img := rfl
@[simp] theorem portSet_pwr (s : State) (p : Nat) (x : PortX) : (portSet s p x).pwr = s.pwr := rfl
@[simp] theorem portSet_trk (s : State) (p : Nat) (x : PortX) : (portSet s p x).trk = s.trk := rfl
@[simp] theorem portSet_clk (s : State) (p : Nat) (x : PortX) : (portSet s p x).clk = s.clk := rfl
@[simp] theorem portSet_cntHi (s : State) (p : Nat) (x : PortX) : (portSet s p x).cntHi = s.cntHi := rfl
@[simp] theorem portSet_cis (s : State) (p : Nat) (x : PortX) : (portSet s p x).cis = s.cis := rfl
@[simp] theorem portSet_slu (s : State) (p : Nat) (x : PortX) : (portSet s p x).slu = s.slu := rfl
@[simp] theorem portSet_fur (s : State) (p : Nat) (x : PortX) : (portSet s p x).fur = s.fur := rfl
@[simp] theorem portSet_cnf (s : State) (p : Nat) (x : PortX) : (portSet s p x).cnf = s.cnf := rfl
@[simp] theorem portSet_pub (s : State) (p : Nat) (x : PortX) : (portSet s p x).pub = s.pub := rfl
@[simp] theorem portSet_hdg (s : State) (p : Nat) (x : PortX) : (portSet s p x).hdg = s.hdg := rfl
@[simp] theorem portSet_krn (s : State) (p : Nat) (x : PortX) : (portSet s p x).krn = s.krn := rfl
@[simp] theorem portSet_rdr (s : State) (p : Nat) (x : PortX) : (portSet s p x).rdr = s.rdr := rfl
@[simp] theorem portSet_tnk (s : State) (p : Nat) (x : PortX) : (portSet s p x).tnk = s.tnk := rfl
@[simp] theorem portSet_mbx (s : State) (p : Nat) (x : PortX) : (portSet s p x).mbx = s.mbx := rfl
@[simp] theorem portSet_flm (s : State) (p : Nat) (x : PortX) : (portSet s p x).flm = s.flm := rfl
@[simp] theorem portSet_hst (s : State) (p : Nat) (x : PortX) : (portSet s p x).hst = s.hst := rfl
@[simp] theorem portSet_cul (s : State) (p : Nat) (x : PortX) : (portSet s p x).cul = s.cul := rfl
@[simp] theorem portSet_frz (s : State) (p : Nat) (x : PortX) : (portSet s p x).frz = s.frz := rfl
@[simp] theorem portSet_sen (s : State) (p : Nat) (x : PortX) : (portSet s p x).sen = s.sen := rfl

/-! ### fnSet -/

@[simp] theorem fnSet_pending (s : State) (f : Nat) (h : HostFn) : (fnSet s f h).pending = s.pending := rfl
@[simp] theorem fnSet_regs (s : State) (f : Nat) (h : HostFn) : (fnSet s f h).regs = s.regs := rfl
@[simp] theorem fnSet_now (s : State) (f : Nat) (h : HostFn) : (fnSet s f h).now = s.now := rfl
@[simp] theorem fnSet_run (s : State) (f : Nat) (h : HostFn) : (fnSet s f h).run = s.run := rfl
@[simp] theorem fnSet_freeCtr (s : State) (f : Nat) (h : HostFn) : (fnSet s f h).freeCtr = s.freeCtr := rfl
@[simp] theorem fnSet_rdata (s : State) (f : Nat) (h : HostFn) : (fnSet s f h).rdata = s.rdata := rfl
@[simp] theorem fnSet_out (s : State) (f : Nat) (h : HostFn) : (fnSet s f h).out = s.out := rfl
@[simp] theorem fnSet_arch (s : State) (f : Nat) (h : HostFn) : (fnSet s f h).arch = s.arch := rfl
@[simp] theorem fnSet_fuses (s : State) (f : Nat) (h : HostFn) : (fnSet s f h).fuses = s.fuses := rfl
@[simp] theorem fnSet_img (s : State) (f : Nat) (h : HostFn) : (fnSet s f h).img = s.img := rfl
@[simp] theorem fnSet_pwr (s : State) (f : Nat) (h : HostFn) : (fnSet s f h).pwr = s.pwr := rfl
@[simp] theorem fnSet_trk (s : State) (f : Nat) (h : HostFn) : (fnSet s f h).trk = s.trk := rfl
@[simp] theorem fnSet_clk (s : State) (f : Nat) (h : HostFn) : (fnSet s f h).clk = s.clk := rfl
@[simp] theorem fnSet_cntHi (s : State) (f : Nat) (h : HostFn) : (fnSet s f h).cntHi = s.cntHi := rfl
@[simp] theorem fnSet_prt (s : State) (f : Nat) (h : HostFn) : (fnSet s f h).prt = s.prt := rfl
@[simp] theorem fnSet_cis (s : State) (f : Nat) (h : HostFn) : (fnSet s f h).cis = s.cis := rfl
@[simp] theorem fnSet_slu (s : State) (f : Nat) (h : HostFn) : (fnSet s f h).slu = s.slu := rfl
@[simp] theorem fnSet_fur (s : State) (f : Nat) (h : HostFn) : (fnSet s f h).fur = s.fur := rfl
@[simp] theorem fnSet_cnf (s : State) (f : Nat) (h : HostFn) : (fnSet s f h).cnf = s.cnf := rfl
@[simp] theorem fnSet_pub (s : State) (f : Nat) (h : HostFn) : (fnSet s f h).pub = s.pub := rfl
@[simp] theorem fnSet_hdg (s : State) (f : Nat) (h : HostFn) : (fnSet s f h).hdg = s.hdg := rfl
@[simp] theorem fnSet_krn (s : State) (f : Nat) (h : HostFn) : (fnSet s f h).krn = s.krn := rfl
@[simp] theorem fnSet_rdr (s : State) (f : Nat) (h : HostFn) : (fnSet s f h).rdr = s.rdr := rfl
@[simp] theorem fnSet_tnk (s : State) (f : Nat) (h : HostFn) : (fnSet s f h).tnk = s.tnk := rfl
@[simp] theorem fnSet_mbx (s : State) (f : Nat) (h : HostFn) : (fnSet s f h).mbx = s.mbx := rfl
@[simp] theorem fnSet_flm (s : State) (f : Nat) (h : HostFn) : (fnSet s f h).flm = s.flm := rfl
@[simp] theorem fnSet_cul (s : State) (f : Nat) (h : HostFn) : (fnSet s f h).cul = s.cul := rfl
@[simp] theorem fnSet_frz (s : State) (f : Nat) (h : HostFn) : (fnSet s f h).frz = s.frz := rfl
@[simp] theorem fnSet_sen (s : State) (f : Nat) (h : HostFn) : (fnSet s f h).sen = s.sen := rfl

/-! ### engSet -/

@[simp] theorem engSet_pending (s : State) (e : Nat) (x : KrnEng) : (engSet s e x).pending = s.pending := rfl
@[simp] theorem engSet_regs (s : State) (e : Nat) (x : KrnEng) : (engSet s e x).regs = s.regs := rfl
@[simp] theorem engSet_now (s : State) (e : Nat) (x : KrnEng) : (engSet s e x).now = s.now := rfl
@[simp] theorem engSet_run (s : State) (e : Nat) (x : KrnEng) : (engSet s e x).run = s.run := rfl
@[simp] theorem engSet_freeCtr (s : State) (e : Nat) (x : KrnEng) : (engSet s e x).freeCtr = s.freeCtr := rfl
@[simp] theorem engSet_rdata (s : State) (e : Nat) (x : KrnEng) : (engSet s e x).rdata = s.rdata := rfl
@[simp] theorem engSet_out (s : State) (e : Nat) (x : KrnEng) : (engSet s e x).out = s.out := rfl
@[simp] theorem engSet_arch (s : State) (e : Nat) (x : KrnEng) : (engSet s e x).arch = s.arch := rfl
@[simp] theorem engSet_fuses (s : State) (e : Nat) (x : KrnEng) : (engSet s e x).fuses = s.fuses := rfl
@[simp] theorem engSet_img (s : State) (e : Nat) (x : KrnEng) : (engSet s e x).img = s.img := rfl
@[simp] theorem engSet_pwr (s : State) (e : Nat) (x : KrnEng) : (engSet s e x).pwr = s.pwr := rfl
@[simp] theorem engSet_trk (s : State) (e : Nat) (x : KrnEng) : (engSet s e x).trk = s.trk := rfl
@[simp] theorem engSet_clk (s : State) (e : Nat) (x : KrnEng) : (engSet s e x).clk = s.clk := rfl
@[simp] theorem engSet_cntHi (s : State) (e : Nat) (x : KrnEng) : (engSet s e x).cntHi = s.cntHi := rfl
@[simp] theorem engSet_prt (s : State) (e : Nat) (x : KrnEng) : (engSet s e x).prt = s.prt := rfl
@[simp] theorem engSet_cis (s : State) (e : Nat) (x : KrnEng) : (engSet s e x).cis = s.cis := rfl
@[simp] theorem engSet_slu (s : State) (e : Nat) (x : KrnEng) : (engSet s e x).slu = s.slu := rfl
@[simp] theorem engSet_fur (s : State) (e : Nat) (x : KrnEng) : (engSet s e x).fur = s.fur := rfl
@[simp] theorem engSet_cnf (s : State) (e : Nat) (x : KrnEng) : (engSet s e x).cnf = s.cnf := rfl
@[simp] theorem engSet_pub (s : State) (e : Nat) (x : KrnEng) : (engSet s e x).pub = s.pub := rfl
@[simp] theorem engSet_hdg (s : State) (e : Nat) (x : KrnEng) : (engSet s e x).hdg = s.hdg := rfl
@[simp] theorem engSet_rdr (s : State) (e : Nat) (x : KrnEng) : (engSet s e x).rdr = s.rdr := rfl
@[simp] theorem engSet_tnk (s : State) (e : Nat) (x : KrnEng) : (engSet s e x).tnk = s.tnk := rfl
@[simp] theorem engSet_mbx (s : State) (e : Nat) (x : KrnEng) : (engSet s e x).mbx = s.mbx := rfl
@[simp] theorem engSet_flm (s : State) (e : Nat) (x : KrnEng) : (engSet s e x).flm = s.flm := rfl
@[simp] theorem engSet_hst (s : State) (e : Nat) (x : KrnEng) : (engSet s e x).hst = s.hst := rfl
@[simp] theorem engSet_cul (s : State) (e : Nat) (x : KrnEng) : (engSet s e x).cul = s.cul := rfl
@[simp] theorem engSet_frz (s : State) (e : Nat) (x : KrnEng) : (engSet s e x).frz = s.frz := rfl
@[simp] theorem engSet_sen (s : State) (e : Nat) (x : KrnEng) : (engSet s e x).sen = s.sen := rfl

/-! ### thrSet -/

@[simp] theorem thrSet_pending (s : State) (e t : Nat) (x : KThread) : (thrSet s e t x).pending = s.pending := rfl
@[simp] theorem thrSet_regs (s : State) (e t : Nat) (x : KThread) : (thrSet s e t x).regs = s.regs := rfl
@[simp] theorem thrSet_now (s : State) (e t : Nat) (x : KThread) : (thrSet s e t x).now = s.now := rfl
@[simp] theorem thrSet_run (s : State) (e t : Nat) (x : KThread) : (thrSet s e t x).run = s.run := rfl
@[simp] theorem thrSet_freeCtr (s : State) (e t : Nat) (x : KThread) : (thrSet s e t x).freeCtr = s.freeCtr := rfl
@[simp] theorem thrSet_rdata (s : State) (e t : Nat) (x : KThread) : (thrSet s e t x).rdata = s.rdata := rfl
@[simp] theorem thrSet_out (s : State) (e t : Nat) (x : KThread) : (thrSet s e t x).out = s.out := rfl
@[simp] theorem thrSet_arch (s : State) (e t : Nat) (x : KThread) : (thrSet s e t x).arch = s.arch := rfl
@[simp] theorem thrSet_fuses (s : State) (e t : Nat) (x : KThread) : (thrSet s e t x).fuses = s.fuses := rfl
@[simp] theorem thrSet_img (s : State) (e t : Nat) (x : KThread) : (thrSet s e t x).img = s.img := rfl
@[simp] theorem thrSet_pwr (s : State) (e t : Nat) (x : KThread) : (thrSet s e t x).pwr = s.pwr := rfl
@[simp] theorem thrSet_trk (s : State) (e t : Nat) (x : KThread) : (thrSet s e t x).trk = s.trk := rfl
@[simp] theorem thrSet_clk (s : State) (e t : Nat) (x : KThread) : (thrSet s e t x).clk = s.clk := rfl
@[simp] theorem thrSet_cntHi (s : State) (e t : Nat) (x : KThread) : (thrSet s e t x).cntHi = s.cntHi := rfl
@[simp] theorem thrSet_prt (s : State) (e t : Nat) (x : KThread) : (thrSet s e t x).prt = s.prt := rfl
@[simp] theorem thrSet_cis (s : State) (e t : Nat) (x : KThread) : (thrSet s e t x).cis = s.cis := rfl
@[simp] theorem thrSet_slu (s : State) (e t : Nat) (x : KThread) : (thrSet s e t x).slu = s.slu := rfl
@[simp] theorem thrSet_fur (s : State) (e t : Nat) (x : KThread) : (thrSet s e t x).fur = s.fur := rfl
@[simp] theorem thrSet_cnf (s : State) (e t : Nat) (x : KThread) : (thrSet s e t x).cnf = s.cnf := rfl
@[simp] theorem thrSet_pub (s : State) (e t : Nat) (x : KThread) : (thrSet s e t x).pub = s.pub := rfl
@[simp] theorem thrSet_hdg (s : State) (e t : Nat) (x : KThread) : (thrSet s e t x).hdg = s.hdg := rfl
@[simp] theorem thrSet_rdr (s : State) (e t : Nat) (x : KThread) : (thrSet s e t x).rdr = s.rdr := rfl
@[simp] theorem thrSet_tnk (s : State) (e t : Nat) (x : KThread) : (thrSet s e t x).tnk = s.tnk := rfl
@[simp] theorem thrSet_mbx (s : State) (e t : Nat) (x : KThread) : (thrSet s e t x).mbx = s.mbx := rfl
@[simp] theorem thrSet_flm (s : State) (e t : Nat) (x : KThread) : (thrSet s e t x).flm = s.flm := rfl
@[simp] theorem thrSet_hst (s : State) (e t : Nat) (x : KThread) : (thrSet s e t x).hst = s.hst := rfl
@[simp] theorem thrSet_cul (s : State) (e t : Nat) (x : KThread) : (thrSet s e t x).cul = s.cul := rfl
@[simp] theorem thrSet_frz (s : State) (e t : Nat) (x : KThread) : (thrSet s e t x).frz = s.frz := rfl
@[simp] theorem thrSet_sen (s : State) (e t : Nat) (x : KThread) : (thrSet s e t x).sen = s.sen := rfl

/-! ### What an update writes -/

@[simp] theorem regSet_regs (s : State) (k : Nat) (v : Word) : (regSet s k v).regs = tabSet regReset s.regs k v := rfl
@[simp] theorem emit_out (s : State) (o : Out) : (emit s o).out = o :: s.out := rfl
@[simp] theorem portSet_prt (s : State) (p : Nat) (x : PortX) : (portSet s p x).prt = tabSet (fun _ => port0) s.prt p x := rfl
@[simp] theorem engSet_eng (s : State) (e : Nat) (x : KrnEng) : (engSet s e x).krn.eng = tabSet (fun _ => eng0) s.krn.eng e x := rfl

/-! ### When a command takes its effect -/

/-- A register access of the host that reaches its block has its effect. -/
theorem hostCmd_next {s : State} {f a : Nat} (h : HostSees s a) (k : State → State) : hostCmd s f a k = .next (k s) := by
  simp [hostCmd, hostAccess, h.1, h.2]

/-- An event comes about while the islands execute. -/
theorem event_next {s : State} (h : active s = true) (k : State → State) : event s k = .next (k s) := by simp [event, h]

/-- An event of a unit comes about while its domain is on. -/
theorem domEvent_next {s : State} {d : Nat} (h : UnitRuns s d) (k : State → State) : domEvent s d k = .next (k s) := by
  simp [domEvent, event, h.1, h.2]

/-- An event that moves frames ends with the pause thresholds evaluated. -/
theorem flowEvent_next {s : State} (h : active s = true) (k : State → State) : flowEvent s k = .next (pauseSweep (k s)) := by
  simp [flowEvent, event, h]

/-- An event in TIME. -/
theorem timeEvent_next {s : State} (h : TimeRuns s) (k : State → State) : timeEvent s k = .next (k s) := by
  unfold timeEvent
  rcases h with h | ⟨h, g⟩ <;> simp [*]

/-- A discipline write of the discipliner has its effect. -/
theorem timWrite_next {s : State} {m a : Nat} (h : Disciplines s m a) (k : State → State) : timWrite s m a k = .next (k s) := by
  obtain ⟨h1, h2, h3⟩ := h
  by_cases q : 36 ≤ m ∧ m < 40
  · simp only [timWrite, if_pos q, hostCmd_next (h2 q.1 q.2), disciplined, h1, if_true]
  · simp only [timWrite, if_neg q, event_next (h3 (by omega)), disciplined, h1, if_true]

/-- A master's access that reaches its block has its effect. -/
theorem masterCmd_next {s : State} {m a : Nat} (h : MasterReaches s m a) (k : State → State) : masterCmd s m a k = .next (k s) := by
  by_cases q : 36 ≤ m ∧ m < 40
  · simp only [masterCmd, if_pos q, hostCmd_next (h.1 q.1 q.2)]
  · simp only [masterCmd, if_neg q, domEvent_next (h.2 (by omega))]

/-- A thread that issues takes the slot and its cycles and carries out its instruction. -/
theorem krnIssue_next {s : State} {e t n : Nat} {w : Word} (h : ThreadIssues s e t w) (k : State → KThread → State) :
    krnIssue s e t w n k = .next (k (issueStart s e t n) (thrGet (issueStart s e t n) e t)) := by
  obtain ⟨a, b, c, d⟩ := h
  simp [krnIssue, event, a, b, c, d]

/-- A flume engine that issues carries out its instruction. -/
theorem flmIssue_next {s : State} {e : Nat} {w : BitVec 16} (h : FlumeIssues s e w) (k : State → State) :
    flmIssue s e w k = .next (k s) := by
  simp [flmIssue, domEvent_next h.1, h.2.1, h.2.2.1, h.2.2.2.1, h.2.2.2.2]

/-- An event of the host units has its effect, and queued pauses are swept. -/
theorem hostEvent_next {s : State} (h : HostUnitRuns s) (k : State → State) : hostEvent s k = .next (pauseSweep (k s)) := by
  simp [hostEvent, flowEvent_next h.1, h.2]

/-- An event of the culvert has its effect, and its consequences settle. -/
theorem culEvent_next {s : State} (h : UnitRuns s 16) (k : State → State) : culEvent s k = .next (culSettle (k s)) := by
  simp [culEvent, domEvent_next h]

/-- An operation of a TAP that answers has its effect. -/
theorem tapCmd_next {s : State} (h : TapAnswers s) (k : State → State) : tapCmd s k = .next (k s) := by
  simp [tapCmd, h]

end Sys2Proof.Machine
end

