-- ==== Sys2Proof/Laws/Tab.lean ====
section
/-!
SUPPORT. Reading a sparse table after setting an entry: another index always reads as before, the same index reads what was set
where the indices rise.
-/
namespace Sys2Proof.Machine

/-- Another index of a table reads as before. -/
theorem tabGet_tabSet_ne {α : Type} [DecidableEq α] {d : Nat → α} {t : Tab α} {i j : Nat} {v : α} (h : j ≠ i) :
    tabGet d (tabSet d t i v) j = tabGet d t j := by
  induction t with
  | nil =>
    unfold tabSet
    split
    · rfl
    · simp [tabGet, Ne.symm h]
  | cons e t ih =>
    obtain ⟨k, w⟩ := e
    unfold tabSet
    split
    · split
      · rfl
      · simp [tabGet, Ne.symm h]
    · split
      · subst_vars
        split <;> simp [tabGet, Ne.symm h]
      · simp only [tabGet, ih]

/-- An index below every listed one reads the default. -/
theorem tabGet_below {α : Type} {d : Nat → α} {t : Tab α} {i : Nat} (h : ∀ e ∈ t, i < e.1) : tabGet d t i = d i := by
  induction t with
  | nil => rfl
  | cons e t ih =>
    obtain ⟨k, w⟩ := e
    have hk : i < k := h (k, w) (List.mem_cons_self ..)
    simp only [tabGet]
    rw [if_neg (by omega)]
    exact ih (fun x hx => h x (List.mem_cons_of_mem _ hx))

/-- The index that was set reads the new value, where the indices of the table rise. -/
theorem tabGet_tabSet_same {α : Type} [DecidableEq α] {d : Nat → α} {t : Tab α} {i : Nat} {v : α}
    (h : t.Pairwise (fun a b => a.1 < b.1)) : tabGet d (tabSet d t i v) i = v := by
  induction t with
  | nil =>
    unfold tabSet
    split
    · simp [tabGet, *]
    · simp [tabGet]
  | cons e t ih =>
    obtain ⟨k, w⟩ := e
    rw [List.pairwise_cons] at h
    unfold tabSet
    split
    · rename_i hk
      split
      · rename_i hv
        rw [tabGet_below, hv]
        intro x hx
        rcases List.mem_cons.mp hx with rfl | hx
        · exact hk
        · exact Nat.lt_trans hk (h.1 x hx)
      · simp [tabGet]
    · split
      · rename_i hk
        subst hk
        split
        · rename_i hv
          rw [tabGet_below h.1, hv]
        · simp [tabGet]
      · rename_i hk
        simp only [tabGet]
        rw [if_neg (Ne.symm hk), ih h.2]

/-- The indices of a table in canonical form rise. -/
theorem tabWf_rising {α : Type} [DecidableEq α] {d : Nat → α} {t : Tab α} {lo : Nat} (h : tabWf d lo t = true) :
    t.Pairwise (fun a b => a.1 < b.1) ∧ ∀ e ∈ t, lo ≤ e.1 := by
  induction t generalizing lo with
  | nil => exact ⟨List.Pairwise.nil, fun e he => nomatch he⟩
  | cons e t ih =>
    obtain ⟨k, w⟩ := e
    simp only [tabWf, Bool.and_eq_true, decide_eq_true_eq] at h
    obtain ⟨p, q⟩ := ih h.2
    refine ⟨List.pairwise_cons.mpr ⟨fun x hx => ?_, p⟩, fun x hx => ?_⟩
    · have := q x hx
      simp only
      omega
    · rcases List.mem_cons.mp hx with rfl | hx
      · exact h.1.1
      · have := q x hx
        omega

/-- The index that was set in a table in canonical form reads the new value. -/
theorem tabGet_tabSet_wf {α : Type} [DecidableEq α] {d : Nat → α} {t : Tab α} {lo i : Nat} {v : α} (h : tabWf d lo t = true) :
    tabGet d (tabSet d t i v) i = v := tabGet_tabSet_same (tabWf_rising h).1

/-- A register other than the one written reads as before. -/
theorem regGet_regSet_ne {s : State} {k j : Nat} {v : Word} (h : j ≠ k) : regGet (regSet s k v) j = regGet s j := tabGet_tabSet_ne h

/-- A register written in a state that meets the invariant reads the new value. -/
theorem regGet_regSet_same {s : State} {k : Nat} {v : Word} (h : Inv s) : regGet (regSet s k v) k = v := tabGet_tabSet_wf h.regs

/-- A register whose field was not written reads as before. -/
theorem regGet_regSetFld_ne {s : State} {k j hi lo v : Nat} (h : j ≠ k) : regGet (regSetFld s k hi lo v) j = regGet s j :=
  tabGet_tabSet_ne h

end Sys2Proof.Machine
end

