-- ==== Sys2Proof/WellFormed.lean ====
section
/-!
DEFINITION. Which commands are well formed: the operands lie in the range the rule of the command's row gives them. What an
operand's type already says (a port, an engine, a queue number) is not said again.
-/
namespace Sys2Proof

/-- An aligned word of BAR0, whose window is 32 MiB (R4, R5). -/
def wordAddr (a : Nat) : Bool := decide (a < 0x2000000) && decide (a % 4 = 0)

/-- Bit 31 of a control word: EN of a queue's CTL (Table 17-5). -/
def enBit (v : Word) : Bool := v.getLsbD 31

/-- The place of a memory of Table 1-12: an engine memory is one of 64, a flume program one of 48, a tank offset one of 2²²; every other
memory is numbered by the entry it holds. -/
def eccIndex (m : EccMem) (i : Nat) : Bool :=
  match m with
  | .engine => decide (i < 64)
  | .flumeProgram => decide (i < 48)
  | .tank => decide (i < 0x400000)
  | .cistern | .forwarding | .stream | .vlan | .portRole | .node | .policer | .key | .reservoir | .confStream | .confBasin
  | .publication | .subscription | .supervisor | .loader | .queue | .calendar | .replay => true

/-- Whether a command's operands are ones its rule gives it. -/
def Instr.wf (c : Instr) : Bool :=
  match c with
  | .registerWrite _ a _ => wordAddr a
  | .unalignedAccess _ a _ => decide (a < 0x2000000)
  | .rcRead _ a => wordAddr a
  | .domainOffAccess _ a _ => wordAddr a
  | .correctableEccError m i => eccIndex m i
  | .uncorrectableEccError m i => eccIndex m i
  | .inbandStatus _ _ _ speed => decide (speed.val < 3)
  | .frameHeaderArrival _ bytes => decide (bytes ≠ [])
  | .pfcFrameRx _ _ quanta _ _ _ => decide (quanta.length = 8)
  | .fdbAgeRemove i => decide (i < 65536)
  | .quarantineTest _ c => decide (c < 98304)
  | .sluiceRequest i x => decide (i < 115) && decide (x.requester < 42)
  | .sluiceWithdraw i r => decide (i < 115) && decide (r < 42)
  | .arbitrationPhase x => decide (x.sluice < 115)
  | .sluSeedWrite _ i _ => decide (i < 115)
  | .sluConfigWrite _ a _ => wordAddr a && decide (a / 0x100000 = 8)
  | .cnfRingCtlWrite _ a _ => wordAddr a && decide (a / 0x100000 = 10)
  | .kShi _ _ _ _ sel _ => decide (sel ≠ 3)
  | .tankAccess _ x op bytes n => decide (n = 1 ∨ n = 2 ∨ n = 4 ∨ n = 8) && decide (x % n = 0) && decide (x + n ≤ 0x400000) && (decide (op = 0) || decide (bytes.length = n))
  | .fRecv _ n1 _ _ pins => decide (pins.length = n1.toNat + 1)
  | .flumeConfigWrite _ a _ => wordAddr a && decide (a / 0x100000 = 15)
  | .submissionDoorbell _ kind q _ => (decide (kind.val ≠ 0) || decide (q.val < 4))
  | .queueEnable _ kind q v => (decide (kind.val ≠ 0 ∧ kind.val ≠ 1) || decide (q.val < 4)) && enBit v
  | .queueDisable _ kind q v => (decide (kind.val ≠ 0 ∧ kind.val ≠ 1) || decide (q.val < 4)) && !enBit v
  | .queueFetch _ kind q entries => (decide (kind.val ≠ 0) || decide (q.val < 4)) && decide (entries.length ≤ 8)
  | .jtagBypass code => decide (code.toNat ∉ [1, 2, 3, 4, 5, 0x20, 0x21, 0x22])
  | .crossingWordDelivery .. | .scrubSlot .. | .imgLoad .. | .imgSwap .. | .imgAbort .. | .imgKeyRevoke ..
  | .revokeDone | .verifyComplete .. | .applySectionRead .. | .swapSafePointApply .. | .porstAssert ..
  | .porstRelease .. | .fuseSenseDone .. | .pllLocked .. | .pllLockTimeout .. | .srstAssert .. | .srstRelease
  | .glbResetSys .. | .systemResetHoldEnd .. | .pcieHotReset | .trickleServiceStart | .trickleFrameRx ..
  | .trickleAgeDrop | .trickleDrainEnd | .handoverComplete | .domainOnRequest .. | .domainOffRequest ..
  | .powerSequenceDone .. | .idleHoldExpiry .. | .pwrReqOn .. | .pwrReqOff .. | .pwrReqPolicy .. | .pwrOppointWrite ..
  | .oppointChangeDone .. | .deepStandbyEnter .. | .vddLowIsolate | .bootUsRead .. | .timIncrFracWrite ..
  | .timIncrIntWrite .. | .adjStep .. | .adjSlew .. | .adjCancel .. | .timSetCmd .. | .stepApply | .setApply
  | .slewEnd | .timNowRead .. | .cmpArm .. | .cmpDisarm .. | .compareFire .. | .ppsInEdge .. | .captureSnap ..
  | .captureRead .. | .ppsOutRise | .ppsOutFall | .replicaValid .. | .laneSyncAcquired .. | .laneSyncLost ..
  | .uplinkPcsUp .. | .uplinkPcsDown .. | .remoteFaultRx .. | .fecCodewordCorrected .. | .fecCodewordUncorrectable ..
  | .cellAdmission .. | .frameEnd .. | .pauseFrameRx .. | .macControlOtherRx .. | .pauseTimerExpiry ..
  | .pauseWdTrip .. | .pauseWdHoldEnd .. | .pauseFrameTx .. | .pauseRefreshExpiry .. | .loopbackTakeEffect ..
  | .egressSelect .. | .frameTxEnd .. | .underrun .. | .launchDue .. | .linkDown .. | .linkUp .. | .holdExpiry ..
  | .flushDone .. | .portDisable .. | .portEnable .. | .txstartWrite .. | .maxlenWrite .. | .counterLoRead ..
  | .authVerifyDone .. | .nodeForgetExpiry .. | .entryForgetExpiry .. | .tblRead .. | .tblWrite .. | .tblInsert ..
  | .tblDelete .. | .tblLookup .. | .tblCmdDone | .keyCommit .. | .keyClear .. | .keyCommitDone | .fdbRead ..
  | .fdbWrite .. | .fdbInsert .. | .fdbDelete .. | .fdbLookup .. | .fdbFlush .. | .fdbCmdDone | .mcgRead ..
  | .mcgWrite .. | .oqTransfer .. | .staleScan | .quarantineTestDone .. | .siphEnable .. | .pauseThWrite ..
  | .furrowRunSet .. | .furrowRunClear .. | .cycleStart .. | .coldstartDecision .. | .furrowStartReport ..
  | .starNullDeadline .. | .minislotBoundary .. | .modeEvaluation .. | .furModeCmd .. | .furPortContain ..
  | .furPortReadmit .. | .asduIngest | .rowDeadline .. | .rowSeal .. | .streamSilence .. | .basinRunSet ..
  | .basinRunClear .. | .streamEnable .. | .streamDisable .. | .pubUpdate .. | .pubUpdateLaunch .. | .pubTagDone ..
  | .gooseRetransmit .. | .subscriptionExpiry .. | .subscriptionEnable .. | .subscriptionDisable ..
  | .publicationDisable .. | .eventWatchdog .. | .timerFire .. | .initTimeout .. | .engineHalt .. | .engineRestart ..
  | .sendComplete .. | .authJobDone .. | .kAddi .. | .kAndi .. | .kOri .. | .kXori .. | .kSlti .. | .kSltiu ..
  | .kLui .. | .kExt .. | .kIns .. | .kJal .. | .kJalr .. | .kTcr .. | .kAdd .. | .kSub .. | .kAnd .. | .kOr ..
  | .kXor .. | .kSll .. | .kSrl .. | .kSra .. | .kSlt .. | .kSltu .. | .kMul .. | .kMulh .. | .kMulhu .. | .kDiv ..
  | .kDivu .. | .kRem .. | .kRemu .. | .kBswap .. | .kClz .. | .kMin .. | .kMax .. | .kMinu .. | .kMaxu .. | .kLb ..
  | .kLbu .. | .kLh .. | .kLhu .. | .kLw .. | .kLhbe .. | .kLwbe .. | .kSb .. | .kSh .. | .kSw .. | .kShbe ..
  | .kSwbe .. | .kBeq .. | .kBne .. | .kBlt .. | .kBge .. | .kBltu .. | .kBgeu .. | .kEvwait .. | .kEvwaitTimeout ..
  | .kEvdoneCommit .. | .kEvdoneDiscard .. | .kReady .. | .kKeep .. | .kRelease .. | .kBopen .. | .kBabort ..
  | .kSend .. | .kTime .. | .kTmrset .. | .kTmrcan .. | .kBerw .. | .kCrc .. | .kCsum .. | .kAuth .. | .kLkacq ..
  | .kLkrel .. | .kFenceTank .. | .kFenceHost .. | .kFenceAll .. | .kTrap .. | .riderIntervalEnd | .pageInComplete ..
  | .pageOutComplete .. | .migrationDrained .. | .migrateTimeout .. | .riderCreate .. | .riderRetire ..
  | .riderMove .. | .riderPin .. | .riderUnpin .. | .riderResident .. | .riderEvict .. | .riderRead ..
  | .riderWrite .. | .riderClearPoison .. | .riderMap .. | .riderRunPolicy .. | .leaseWrite .. | .leaseApply ..
  | .lockRead .. | .lockWrite .. | .lockForce .. | .mbxSend .. | .mbxAckWrite .. | .mbxAckRead .. | .mbxWakeLimit ..
  | .bankSupplyCheck .. | .flumeStart .. | .flumeResume .. | .flumeStartMatch .. | .flumeStop ..
  | .flumeMatchReached .. | .flumeStallResume .. | .fIdle .. | .fDrive .. | .fDir .. | .fFlumeSend .. | .fEmit ..
  | .fGather .. | .fWaitLevel .. | .fWaitEdge .. | .fWaitFlag .. | .fWaitMark .. | .fBr .. | .fLoop .. | .fFlagSet ..
  | .fFlagClear .. | .fFlagSetWait .. | .fSetk .. | .fAddk .. | .fLoadk .. | .fXferFetch .. | .fXferTryFetch ..
  | .fXferDeposit .. | .fXferTryDeposit .. | .fXferLoadm .. | .fXferStamp .. | .fXferNow .. | .fXferBranchSl ..
  | .fXferDirs .. | .fXferClear .. | .flumeDmaTxPoll .. | .flumeDmaRxWrite .. | .flmDmaCtlWrite .. | .flmTxqPush ..
  | .flmRxqPop .. | .flmFlagSetWrite .. | .flmFlagClrWrite .. | .cqDoorbell .. | .cmdNop .. | .fenceOrder ..
  | .fenceVisible .. | .twinWitness .. | .txDescriptor .. | .txHostReadDone .. | .rxDelivery ..
  | .functionLevelReset .. | .msixUnmask .. | .msixEnableSet .. | .resyncRequest .. | .resyncSnapshot | .resyncSigned
  | .resyncSummaryWritten .. | .resyncResume .. | .culvertLaneUp .. | .culvertLaneDown .. | .identTimer | .identRx ..
  | .heartbeatTimer | .heartbeatRx .. | .heartbeatLoss | .mirrorRx .. | .imageRx .. | .mirrorTimeTimer | .roleWireEdge
  | .roleWireSilence | .pairWaitExpiry | .takebackSettleExpiry | .handoverDone | .culFence .. | .culUnfence ..
  | .culBind .. | .culUnbind .. | .sentinelWriteDone | .freezeNAssert .. | .freezeNRelease | .frzCtlFreeze ..
  | .jtagFreeze .. | .jtagThaw .. | .autothawExpiry | .jtagIdcode | .jtagSamplePreload | .jtagExtest | .jtagClamp
  | .jtagHighz | .jtagFrzAddr .. | .jtagFrzData .. | .tapReset | .writeToken .. | .clearToken .. | .logAck ..
  | .ackVbat .. | .tamperCfg .. | .tamperDetect .. | .vbatLoss | .vbatRestore | .senRtcRead .. | .tempSensorUpdate ..
  | .ageingMeasurement .. | .illegalInstructionWord .. | .flumeIllegalInstruction .. | .busMasterEnableClear ..
  | .eventBoundaryTimeout => true

end Sys2Proof
end

