-- ==== Sys2Proof/Tests/Slice0.lean ====
section
/-! SUPPORT. Tests: for every statement with hypotheses, states and operands that meet them (witness_<statement>), an ill-formed term for each check of well-formedness, and single steps against the spec's own examples and rules (test_…). -/
open Sys2Proof Sys2Proof.Machine
namespace Sys2Proof.Tests
set_option maxRecDepth 8000
set_option Elab.async false

/-- A state with some registers set. -/
def put (s : State) (l : List (Nat × Word)) : State := l.foldl (fun u x => regSet u x.1 x.2) s

/-- A device in full service: PORST_N high, the link up, the loader started, every domain on (D1 is on at reset). -/
def live : State :=
  { State.reset with
    regs := (Reg.GLB_STATUS, 0x15#32) :: (List.range 15).map (fun d => (Reg.PWR_DOMAIN_STAT (d + 2), 2#32))
    pwr := { PwrState.reset with porstLow := false, linkUp := true, romStep := 10 } }

/-- A flat section of the structure image. -/
def sec (type : Nat) (b : List Byte) : ImgSection :=
  { type := type, cls := 0, inst := 0, offset := 0, generation := 0, crc := 0, payload := b }

/-- An image of some sections. -/
def imageOf (l : List ImgSection) : Image := { serial := 1, flags := 0, buildTime := 0, keySlot := 0, digest := 0, sections := l }

/-- A device in full service that runs some sections. -/
def runs (s : State) (l : List ImgSection) : State := { s with img := { s.img with running := some (imageOf l) } }

/-- A load command of function 0. -/
def cmd0 : LoadCmd := { swap := false, src := 0, func := 0, boot := false }

theorem live_inv : tabWf regReset 0 live.regs = true ∧ active live = true ∧ (∀ d ∈ List.range' 1 16, UnitRuns live d)
    ∧ HostSees live Reg.GLB_ENABLE ∧ MasterReaches live 36 Reg.TIM_INCR_INT ∧ fullService live = true := by decide +kernel

theorem witness_EmptyQueueLetsTimePass : live.pending = [] ∧ active live = true ∧ active State.reset = false
    ∧ State.reset.pending = [] ∧ State.reset.frz.frozen = false
    ∧ (let s := { live with frz := { live.frz with frozen := true, timeRun := false } }; active s = false ∧ s.frz.frozen = true ∧ s.frz.timeRun = false) := by
  decide +kernel

theorem witness_EveryStepKeepsTheInvariant : Inv State.reset ∧ ∃ t, step State.reset = .next t :=
  ⟨⟨rfl, rfl, ⟨by decide, by decide, fun _ h => nomatch h⟩⟩, _, rfl⟩

theorem witness_RegisterFieldTypes : ∃ r : RegRow, r.rw &&& r.rwl = 0 ∧ (r.rw ||| r.rwl) &&& r.w1c = 0 ∧ (r.rw ||| r.rwl) &&& r.w1s = 0
    ∧ r.w1c &&& r.w1s = 0 ∧ r.rw.testBit 0 = true ∧ r.rwl.testBit 31 = true ∧ r.w1c.testBit 1 = true ∧ r.w1s.testBit 2 = true
    ∧ r.rw.testBit 3 = false ∧ r.rwl.testBit 3 = false ∧ r.w1c.testBit 3 = false ∧ r.w1s.testBit 3 = false :=
  ⟨⟨"", 0, 0, 0, 0, 0, 1, 2 ^ 31, 2, 4, 0, 0⟩, by decide⟩

theorem witness_RegisterAccessEffects :
    (∀ a ∈ [Reg.GLB_ENABLE, Reg.TIM_INCR_INT], HostSees live a ∧ live.pwr.resetRun = false ∧ a % 4 = 0 ∧ (findReg a).isSome)
    ∧ Reg.GLB_ENABLE / 0x100000 ∈ [0, 2, 8, 9, 12, 14] ∧ inMailbox Reg.GLB_ENABLE = false ∧ Reg.GLB_ENABLE / 0x100000 ≠ 8
    ∧ findReg 0x0FFFFC = none ∧ HostSees live 0x0FFFFC ∧ 0x0FFFFC / 0x100000 ∈ [0, 2, 8, 9, 12, 14]
    ∧ hostReach live 1 = true ∧ inMailbox 1 = false ∧ counterAt Reg.GLB_ENABLE = none
    ∧ counterAt (Reg.PRT_CNT_LO 199 47) = some (199, 47) ∧ HostSees live (Reg.PRT_CNT_LO 199 47) ∧ inMailbox (Reg.PRT_CNT_LO 199 47) = false
    ∧ (let s := put live [(Reg.PWR_DOMAIN_STAT 16, 0)]; hostReach s Reg.CUL_CMD = true ∧ domOn s (addrDomain Reg.CUL_CMD) = false) := by
  decide +kernel

theorem witness_CrossingEccAndScrubEffects :
    active live = true ∧ (∀ ch : Fin 90, crossOn live (crossEnds ch).1 = true ∧ crossOn live (crossEnds ch).2 = true)
    ∧ (∀ m ∈ [EccMem.forwarding, .queue, .engine, .flumeProgram], (eccCounter m).isSome ∧ UnitRuns live (eccDomain m 0)) ∧ UnitRuns live 1 ∧ UnitRuns live 3 ∧ UnitRuns live 4 := by
  decide +kernel

/-- A device with an image in force. -/
def loaded : State := runs live []

/-- A device in the apply pass of a swap. -/
def aborting : State := { put loaded [(Reg.IMG_STATUS, 5)] with img := { loaded.img with cmd := some cmd0 } }

theorem witness_LoaderCommands :
    (∀ a ∈ [Reg.IMG_LOAD, Reg.IMG_SWAP, Reg.IMG_ABORT, Reg.IMG_KEY_REVOKE], HostSees live a)
    ∧ regBit live Reg.GLB_STATUS 4 = true ∧ regBit live Reg.IMG_LOCK 1 = false ∧ imgState live ∉ [1, 2, 4, 5, 8]
    ∧ (let s := put live [(Reg.IMG_STATUS, 3)]; imgState s = 3 ∧ regBit s Reg.IMG_LOCK 1 = false)
    ∧ (let s := put live [(Reg.GLB_STATUS, 1)]; HostSees s Reg.IMG_LOAD ∧ regBit s Reg.GLB_STATUS 4 = false)
    ∧ (let s := put live [(Reg.IMG_LOCK, 3)]; HostSees s Reg.IMG_LOAD ∧ regBit s Reg.IMG_LOCK 1 = true ∧ regBit s Reg.IMG_LOCK 0 = true)
    ∧ aborting.img.cmd = some cmd0 ∧ imgState aborting ∈ [1, 2, 4, 5] ∧ aborting.img.running.isSome = true
    ∧ fld 0xA5C30003 31 16 = 0xA5C3 ∧ live.img.running.isNone = true ∧ slotsLeft (put live [(Reg.IMG_KEYSLOT, 0x100)]) (fld 0xA5C30003 1 0) = true
    ∧ imgState live ∉ [1, 2, 4, 5]
    ∧ (let s := { live with img := { live.img with revoking := [3] } }; active s = true ∧ s.img.revoking = 3 :: []) := by
  decide +kernel
/-- A device in a pass of the loader. -/
def loading (st : Word) (held : List ImgSection) : State :=
  { put live [(Reg.IMG_STATUS, st)] with img := { live.img with cmd := some cmd0, held := some (imageOf held) } }

theorem witness_LoaderPassesAndSwapUnits :
    active (loading 1 []) = true ∧ (loading 1 []).img.cmd = some cmd0 ∧ imgState (loading 1 []) ∈ [1, 4] ∧ imgState (loading 4 []) ∈ [1, 4]
    ∧ 64 ≤ (zeros 64).length ∧ sourceUp (loading 1 []) cmd0 = true ∧ sourceServes cmd0 (zeros 64) = true ∧ headerBad (zeros 64) = some (1, 0xFF, 0)
    ∧ applyReads (loading 2 [sec 1 [], sec 2 []]) cmd0 (imageOf [sec 1 [], sec 2 []]) = [0, 1]
    ∧ (loading 2 [sec 1 [], sec 2 []]).img.applied = [] ∧ (imageOf [sec 1 [], sec 2 []]).sections[0]? = some (sec 1 [])
    ∧ applyReads (loading 2 [sec 1 []]) cmd0 (imageOf [sec 1 []]) = [0]
    ∧ (let s := { live with img := { live.img with units := [⟨5, 0, none⟩] } }; unitPends s 5 0 = true ∧ safePoint s 5 0 = true)
    ∧ unitPends live 5 0 = false := by
  decide +kernel

/-- A device in a system reset that ends at 10000. -/
def resetting : State := { live with now := 10000, pwr := { live.pwr with resetRun := true, holdEnd := some 10000 } }

theorem witness_ResetEffects :
    State.reset.pwr.porstLow = true ∧ live.pwr.porstLow = false ∧ live.pwr.deep = false ∧ live.pwr.resetRun = false
    ∧ live.pwr.porstFrom = none ∧ live.pwr.srstLow = false ∧ live.pwr.srstFrom = none
    ∧ (∀ n ∈ [100, 101], let s := { resetting with now := n, pwr := { resetting.pwr with porstFrom := some 1 } }; s.pending = []
        ∧ (tickRun s).pwr.porstFrom = some 1 ∧ (tickRun s).pwr.srstFrom = none ∧ 100 + 1 ≤ (tickRun s).now)
    ∧ (let s := { resetting with now := 99, pwr := { resetting.pwr with porstFrom := some 1 } };
        (tickRun s).pwr.porstFrom = some 1 ∧ (tickRun s).pwr.srstFrom = none ∧ (tickRun s).now < 100 + 1)
    ∧ (∀ n ∈ [99, 100], let s := { resetting with now := n, pwr := { resetting.pwr with srstFrom := some 1 } };
        (tickRun s).pwr.porstFrom = none ∧ (tickRun s).pwr.srstFrom = some 1 ∧ (tickRun s).pwr.porstLow = false ∧ (tickRun s).pwr.deep = false
        ∧ (100 + 1 ≤ (tickRun s).now ↔ n = 100))
    ∧ (let s := { live with pwr := { live.pwr with srstLow := true } }; s.pwr.porstLow = false ∧ s.pwr.deep = false ∧ s.pwr.srstLow = true)
    ∧ HostSees live Reg.GLB_RESET ∧ fld 0x5A3C0001 31 16 = 0x5A3C ∧ bitOf 0x5A3C0001 0 = true ∧ fld 1 31 16 ≠ 0x5A3C
    ∧ resetting.pwr.resetRun = true ∧ resetting.pwr.holdEnd = some 10000 ∧ 10000 ≤ resetting.now ∧ resetting.pwr.linkUp = true
    ∧ (let s := { resetting with now := 9999 }; s.pwr.holdEnd = some 10000 ∧ s.now < 10000) := by
  decide +kernel

/-- A device that has reached a step of the ROM. -/
def atStep (n : Nat) : State := { live with pwr := { live.pwr with romStep := n } }

/-- A device in trickle service on P000 to P007. -/
def trickling : State :=
  put { State.reset with
    now := 30000000
    prt := [(0, { port0 with phyLink := true, phyFull := true, phySpeed := 1 })]
    trk := { TrickleState.reset with portMask := 1 }
    pwr := { PwrState.reset with porstLow := false, linkUp := true, romStep := 8 } }
    [(Reg.GLB_STATUS, 0x13), (Reg.PWR_DOMAIN_STAT 3, 2), (Reg.PWR_DOMAIN_STAT 5, 2), (Reg.PRT_LANE_STAT 0, 1), (Reg.GLB_STRAP, 8)]

theorem witness_BringUpAndTrickleEffects :
    active (atStep 1) = true ∧ (atStep 1).pwr.romStep = 1
    ∧ (∀ p ∈ List.range 2, pllDue (atStep 2) p = true ∧ pllOver (atStep 2) p = false)
    ∧ pllDue (atStep 5) 9 = true ∧ pllOver (atStep 5) 9 = false
    ∧ (let s := put trickling [(Reg.GLB_STATUS, 0x11)]; UnitRuns s 3 ∧ domOn s 5 = true ∧ strapTrickle s = true ∧ s.img.running.isNone = true
        ∧ s.pwr.romStep = 8 ∧ 30000000 ≤ s.now ∧ trickleOn s = false)
    ∧ UnitRuns trickling 5 ∧ trickleOn trickling = true ∧ trkUp trickling 0 = true
    ∧ active (runs trickling []) = true ∧ trickleOn (runs trickling []) = true ∧ (runs trickling []).img.running.isSome = true
    ∧ (let s := put { live with trk := { live.trk with draining := true } } [(Reg.GLB_STATUS, 0x11)];
        active s = true ∧ s.trk.draining = true ∧ trickleOn s = false ∧ fullService s = false) := by
  decide +kernel

/-- A device whose domains all stand in one state, every PLL locked. -/
def domains (w : Word) : State :=
  put live ((Reg.PWR_CLK_STAT, 0x3FF) :: (List.range 16).map (fun d => (Reg.PWR_DOMAIN_STAT (d + 1), w)))

theorem witness_PowerDomainEffects :
    active (domains 1) = true ∧ (∀ d ∈ List.range' 1 16, tabGet (fun _ => 0) (domains 2).pwr.onAt d ≠ supCycle (domains 2) ∧ tabGet (fun _ => 0) (domains 3).pwr.offAt d ≠ supCycle (domains 3)
      ∧ domState (domains 3) d = 3 ∧ domState (domains 1) d = 1 ∧ active (domains 3) = true)
    ∧ (let s := { domains 2 with pwr := { (domains 2).pwr with onAt := [(13, supCycle (domains 2))] } };
        tabGet (fun _ => 0) s.pwr.onAt 13 = supCycle s ∧ domReqField s 13 ≠ 1 ∧ active s = true)
    ∧ (let s := { domains 11 with pwr := { (domains 11).pwr with pendingOn := [(13, true)] } };
        domState s 13 = 3 ∧ regBit s (Reg.PWR_DOMAIN_STAT 13) 3 = true ∧ tabGet (fun _ => false) s.pwr.pendingOn 13 = true)
    ∧ (∀ d ∈ List.range' 2 15, domReqField (domains 0) d ≠ 2 ∧ domClocked (domains 0) d = true ∧ domState (domains 0) d = 0)
    ∧ (∀ d ∈ List.range' 2 15, domReqField (domains 2) d ≠ 2 ∧ domClocked (domains 2) d = true ∧ domState (domains 2) d = 2)
    ∧ (∀ d ∈ List.range' 5 12, domReqField (domains 2) d ≠ 1) ∧ active (domains 0) = true ∧ active (domains 2) = true
    ∧ (∀ d ∈ List.range' 1 16, domState (domains 9) d = 1 ∧ regBit (domains 9) (Reg.PWR_DOMAIN_STAT d) 3 = true
        ∧ tabGet (fun _ => false) (domains 9).pwr.pendingOn d = false)
    ∧ (∀ d ∈ List.range' 1 16, domState (domains 1) d = 1 ∧ regBit (domains 1) (Reg.PWR_DOMAIN_STAT d) 3 = false)
    ∧ (∀ d ∈ List.range' 1 16, HostSees (domains 2) (Reg.PWR_DOMAIN_CTL d) ∧ locked (domains 2) (Reg.PWR_DOMAIN_CTL d) = false)
    ∧ (∀ d ∈ List.range' 1 16, domClocked live d = false) ∧ HostSees live (Reg.PWR_DOMAIN_CTL 16)
    ∧ HostSees live Reg.PWR_OPPOINT ∧ locked live Reg.PWR_OPPOINT = false
    ∧ (∀ c ∈ List.range 4, regBit (put live [(Reg.PWR_OPPOINT_STAT, 0xF0)]) Reg.PWR_OPPOINT_STAT (4 + c) = true)
    ∧ (let s := { live with run := 1000, pwr := { live.pwr with policy := [(13, ⟨2, false, 1⟩)], idleFrom := [(3, some 0)] } };
        tabGet (fun _ => none) (idleTick s 3).pwr.idleFrom 3 = some 0 ∧ 0 + (domPolicy s (10 + 3)).idleHold * 1000 ≤ s.run
        ∧ domState s (10 + 3) = 2 ∧ domReqField s (10 + 3) ≠ 1 ∧ tabGet (fun _ => 0) s.pwr.onAt (10 + 3) ≠ supCycle s)
    ∧ (let s := put live [(Reg.PWR_OPPOINT, 15)]; ∀ c ∈ List.range 4, domOn s (10 + c) = true ∧ regBit s Reg.PWR_OPPOINT_STAT (4 + c) = false
        ∧ regFld s Reg.PWR_OPPOINT_STAT c c = 0 ∧ regFld s Reg.PWR_OPPOINT c c = 1) := by
  decide +kernel

theorem witness_StandbyAndMonitorEffects :
    HostSees live Reg.PWR_DEEP ∧ fld 0xD5E70001 31 16 = 0xD5E7 ∧ bitOf 0xD5E70001 0 = true ∧ fld 1 31 16 ≠ 0xD5E7
    ∧ HostSees live Reg.GLB_BOOT_US_LO
    ∧ (let s := put live [(Reg.PWR_TEMP 0, 0x80000010), (Reg.PWR_TEMP_MAX, 0x10)]; active s = true ∧ (temps s).isEmpty = false
        ∧ ((16 : BitVec 12).toInt ≤ tempOf (regGet (regSet s (Reg.PWR_TEMP 7) ((16 : BitVec 12).setWidth 32 ||| 0x80000000)) Reg.PWR_TEMP_MAX))
        ∧ tempSpread (regSet s (Reg.PWR_TEMP 7) ((16 : BitVec 12).setWidth 32 ||| 0x80000000))
          ≤ regFld (regSet s (Reg.PWR_TEMP 7) ((16 : BitVec 12).setWidth 32 ||| 0x80000000)) Reg.PWR_TEMP_SPREAD 15 8)
    ∧ (∀ i ∈ [(0 : Nat), 8, 13, 16], UnitRuns live (islandDomain i)) := by
  decide +kernel

theorem witness_ClockTickAddsTheIncrement :
    ClockOk State.reset.clk ∧ State.reset.clk.slew = none
    ∧ ∃ c, ClockOk c ∧ c.slew = none ∧ c.sec = 0xFFFFFFFFFFFF ∧ c.ns = 999999999 ∧ c.incInt = 0 ∧ c.incFrac = 0 :=
  ⟨⟨by decide, by decide, fun _ h => nomatch h⟩, rfl,
    { State.reset.clk with sec := 0xFFFFFFFFFFFF, ns := 999999999, incInt := 0, ns32 := BitVec.ofNat 32 (0xFFFFFFFFFFFF * 1000000000 + 999999999) },
    ⟨by decide, by decide +kernel, fun _ h => nomatch h⟩, rfl, rfl, rfl, rfl, rfl⟩

/-- A device whose discipliner is host function 0. -/
def disciplined : State := put live [(Reg.TIM_DISC_OWNER, 36), (Reg.TIM_ADJ_NS, 5), (Reg.TIM_SET_NS, 999999999)]

/-- The same device while a step waits for its instant. -/
def stepping : State := { disciplined with clk := { disciplined.clk with held := [.step 1], wait := 32 } }

theorem witness_DisciplinerWrites :
    regGet live Reg.TIM_ADJ_NS = 0 ∧ isDiscipline (Reg.TIM_PDELAY 199) = true ∧ (findReg (Reg.TIM_PDELAY 199)).isSome = true
    ∧ (∀ m ∈ [0, 33, 41], regFld (put live [(Reg.TIM_DISC_OWNER, BitVec.ofNat 32 m)]) Reg.TIM_DISC_OWNER 5 0 = m)
    ∧ (∀ a ∈ [Reg.TIM_INCR_FRAC, Reg.TIM_INCR_INT, Reg.TIM_ADJ_CTL, Reg.TIM_SET_CMD], Disciplines disciplined 36 a
      ∧ Disciplines (put live [(Reg.TIM_DISC_OWNER, 41)]) 41 a)
    ∧ disciplined.clk.held = [] ∧ regGet disciplined Reg.TIM_ADJ_NS ≠ 0 := by
  decide +kernel

theorem witness_DisciplinerWrites_held :
    fld 0x5E7C0000 31 16 = 0x5E7C ∧ regFld disciplined Reg.TIM_SET_NS 29 0 ≤ 999999999
    ∧ Disciplines stepping 36 Reg.TIM_ADJ_CTL ∧ stepping.clk.held ≠ []
    ∧ (let s := put disciplined [(Reg.TIM_SET_NS, 1000000000)]; Disciplines s 36 Reg.TIM_SET_CMD ∧ 999999999 < regFld s Reg.TIM_SET_NS 29 0)
    ∧ active disciplined = true ∧ regFld disciplined Reg.TIM_DISC_OWNER 5 0 ≠ 35 ∧ regFld disciplined Reg.TIM_DISC_OWNER 5 0 ≠ 40 := by
  decide +kernel

theorem witness_ClockAdjustmentEffects :
    TimeRuns live ∧ TimeRuns { live with frz := { live.frz with frozen := true, timeRun := true } }
    ∧ (let s := { live with clk := { live.clk with held := [.step 5, .set 0 0] } }; TimeRuns s ∧ s.clk.held = .step 5 :: [.set 0 0] ∧ s.clk.wait = 0)
    ∧ (let s := { live with clk := { live.clk with held := [.set 0 999999999] } }; TimeRuns s ∧ s.clk.held = .set 0 999999999 :: [] ∧ s.clk.wait = 0)
    ∧ TimeRuns stepping ∧ stepping.clk.wait ≠ 0
    ∧ (let s := { live with clk := { live.clk with slew := some ⟨0, 1, true⟩ } }; active s = true ∧ s.clk.slew = some ⟨0, 1, true⟩)
    ∧ (let s := { live with clk := { live.clk with slew := some ⟨1, 65535, true⟩ } }; active s = true ∧ s.clk.slew = some ⟨1, 65535, true⟩) := by
  decide +kernel

theorem witness_TimeReadCompareAndCaptureEffects :
    HostSees live Reg.TIM_NOW_NS ∧ (∀ n ∈ List.range 8, HostSees live (Reg.TIM_CMP_CTL n))
    ∧ (let s := { live with clk := { live.clk with cmpArmed := 0x82 } }; TimeRuns s ∧ s.clk.cmpArmed.getLsbD 1 = true ∧ s.clk.cmpArmed.getLsbD 7 = true
        ∧ reached s.clk.ns32 (regGet s (Reg.TIM_CMP_TARGET 7)) = true ∧ regGet s (Reg.TIM_CMP_PERIOD 7) = 0 ∧ s.clk.cmpArmed.getLsbD 0 = false)
    ∧ (let s := put live [(Reg.TIM_CAP_CTL 1, 1)]; TimeRuns s ∧ regFld s (Reg.TIM_CAP_CTL 0) 1 0 = 0 ∧ regFld (capture s 0) (Reg.TIM_CAP_CTL 1) 1 0 = 1)
    ∧ (∀ c ∈ List.range 2, HostSees live (Reg.TIM_CAP_CTL c) ∧ HostSees live (Reg.TIM_CAP_NS c)) ∧ fld 6 1 0 = 2 ∧ bitOf 6 2 = true ∧ bitOf 6 4 = false
    ∧ (let s := { put live [(Reg.TIM_PPS_CTL, 1)] with clk := { live.clk with sec := 1 } };
        TimeRuns s ∧ regFld s Reg.TIM_PPS_CTL 1 0 = 1 ∧ s.clk.ppsSec < ppsIndex s ∧ (ppsAlign s).clk.ppsHigh = false)
    ∧ ppsIndex live ≤ live.clk.ppsSec
    ∧ (let s := { live with now := 7, clk := { live.clk with ppsFall := some 7 } }; TimeRuns s ∧ s.clk.ppsFall = some 7 ∧ 7 ≤ s.now)
    ∧ (∀ x ∈ [((4, 5) : Nat × Nat), (12, 13), (14, 15), (15, 16)], replicaDomain x.1 = some x.2 ∧ x.1 ≠ 13 ∧ domOn live x.2 = true) := by
  decide +kernel
/-- A PORTS section: lane 0 and lane 47 enabled, uplink 0 in mode 1 and uplink 7 in mode 3. -/
def ports : ImgSection := sec 1 ([1] ++ zeros 46 ++ [1, 1] ++ zeros 6 ++ [3])

/-- A device in full service with that section, P000 and P199 enabled and linked. -/
def linked : State :=
  put (runs live [ports]) [(Reg.PRT_CTL 0, 1), (Reg.PRT_STAT 0, 0x201), (Reg.PRT_CTL 199, 1), (Reg.PRT_STAT 199, 3), (Reg.PRT_LANE_STAT 0, 1)]

theorem witness_LaneAndPcsEffects :
    (∀ n ∈ [(0 : Nat), 47], UnitRuns linked (portDomain (4 * n)) ∧ laneEnabled linked n = true)
    ∧ (let s := put live [(Reg.GLB_STRAP, 8)]; laneEnabled s 1 = true ∧ laneEnabled s 2 = false)
    ∧ regBit linked (Reg.PRT_LANE_STAT 0) 0 = true ∧ UnitRuns linked (portDomain 191) ∧ UnitRuns linked 9
    ∧ uplinkMode linked 0 ≠ 0 ∧ uplinkMode linked 0 ≠ 3 ∧ uplinkMode linked 7 = 3 := by
  decide +kernel

/-- A header of 64 bytes with an IPv4 EtherType. -/
def header64 : List Byte := zeros 12 ++ [8, 0] ++ zeros 50

/-- A frame record. -/
def frame1 : Frame := frame0 header64 0 0

/-- The device with a frame in reception on P199, some of its cells offered. -/
def receivingOn (offered : Nat) : State :=
  { linked with
    prt := [(199, { port0 with rx := some (1, header64) })]
    cis := { live.cis with frames := [(1, some { frame1 with offered := offered, whole := false })] } }

theorem witness_FrameReceptionEffects :
    PortReceives linked 0 ∧ PortReceives linked 199 ∧ isMacControl header64 = false ∧ (portGet linked 0).rx = none
    ∧ active live = true ∧ portLink live 0 = false
    ∧ (let s := receivingOn 0; PortReceives s 199 ∧ (portGet s 199).rx = some (1, header64)
        ∧ ((frameGet s 1).map (fun f => (cellOver s 199 f, f.offered))) = some (false, 0))
    ∧ (let s := receivingOn 1; UnitRuns s (portDomain 199) ∧ (portGet s 199).rx = some (1, header64)
        ∧ ((frameGet s 1).map (fun f => (cellOver s 199 f, f.offered))) = some (false, 1)) := by
  decide +kernel

/-- The same device with received pause honoured on P000. -/
def pausing (mode : Word) : State := put linked [(Reg.PRT_FC 0, 0x00FF0004#32 ||| mode)]

/-- A port with pause state 8 held from 0 until an instant. -/
def heldUntil (n : Nat) : State := { put linked [(Reg.PRT_PAUSEWD 0, 1)] with
  run := 1001, prt := [(0, { port0 with pause := [(8, some { ends := n, since := 0 })] })] }

theorem witness_ReceivedPauseEffects :
    (let s := pausing 1; let u := controlCounted (receiveBroken s 0) 0 5 64 true false; PortReceives s 0
      ∧ (rxClass u 0 64 true false).isNone = true ∧ pauseMode u 0 = 1 ∧ regBit u (Reg.PRT_FC 0) 2 = true ∧ pauseTakes u 0 8 = true)
    ∧ (let s := pausing 2; let u := controlCounted (receiveBroken s 0) 0 6 64 true false; PortReceives s 0
      ∧ (rxClass u 0 64 true false).isNone = true ∧ pauseMode u 0 = 2 ∧ pauseMode (controlCounted (receiveBroken s 0) 0 5 64 true false) 0 ≠ 1
      ∧ regBit u (Reg.PRT_FC 0) 2 = true ∧ pauseTakes u 0 0 = true ∧ pauseTakes u 0 7 = true)
    ∧ ([1, 2] : List (BitVec 16))[1]? = some 2 := by
  decide +kernel

theorem witness_ReceivedPauseEffects_timers :
    (tabGet (fun _ => none) (portGet (heldUntil 100099) 0).pause 8 = some { ends := 100099, since := 0 }
      ∧ 100099 < runUnits (heldUntil 100099) ∧ UnitRuns (heldUntil 100099) (portDomain 0))
    ∧ (let s := heldUntil 200000; regFld s (Reg.PRT_PAUSEWD 0) 15 0 ≠ 0 ∧ pauseHolds s 0 8 = true
      ∧ 0 + regFld s (Reg.PRT_PAUSEWD 0) 15 0 * 1000 < s.run
      ∧ regFld (portRaise (portCount (pauseSet s 0 8 none) 0 45) 0 7) (Reg.PRT_PAUSEWD 0) 25 16 = 0)
    ∧ wdHolding live 0 0 = false ∧ UnitRuns live (portDomain 0) := by
  decide +kernel

/-- A device whose P000 has a stop frame to send in a pause mode, and a repeat of it due. -/
def stopping (fc : Word) (bits : BitVec 9) : State := { put linked [(Reg.PRT_FC 0, fc), (Reg.PRT_FC_TX 0, 1)] with
  prt := [(0, { port0 with stop := bits, pauseOut := [(bits, true)], refreshAt := some 0 })] }

theorem witness_ReceivedPauseEffects_sent : ∀ x ∈ [(0xFF000009#32, 256#9, 1), (0xFF00000A, 255, 2)],
    UnitRuns (stopping x.1 x.2.1) (portDomain 0) ∧ portIdle (stopping x.1 x.2.1) 0 = true ∧ pauseMaySend (stopping x.1 x.2.1) 0 = true
    ∧ pauseMode (stopping x.1 x.2.1) 0 = x.2.2 ∧ launchClear (stopping x.1 x.2.1) 0 64 = true
    ∧ pauseNames (stopping x.1 x.2.1) 0 x.2.1 true ≠ [] ∧ regFld (stopping x.1 x.2.1) (Reg.PRT_FC_TX 0) 15 0 ≠ 0
    ∧ (portGet (stopping x.1 x.2.1) 0).loop = false ∧ (portGet (stopping x.1 x.2.1) 0).refreshAt = some 0
    ∧ (portGet (stopping x.1 x.2.1) 0).stop ≠ 0 ∧ stopMaySend (stopping x.1 x.2.1) 0 = true := by
  decide +kernel

/-- A device that sends a frame on P199. -/
def sendingOn (whole : Bool) : State := { linked with
  prt := [(199, { port0 with tx := some { handle := 1, bytes := header64, ns32 := 0, frac := 0, late := false, siphon := false, twoStep := 0 } })]
  cis := { live.cis with frames := [(1, some { frame1 with whole := whole, origin := if whole then .wire else .goose 0 })] } }

theorem witness_TransmissionEffects :
    (active live = true ∧ trickleHas linked 0 = false ∧ portIdle linked 0 = true ∧ pauseReady linked 0 = false ∧ launchDue linked 0 = none
      ∧ trickleHas trickling 7 = true ∧ active trickling = true)
    ∧ (let s := sendingOn true; UnitRuns s (portDomain 199) ∧ (portGet s 199).tx.isSome = true ∧ (frameGet s 1).map (fun f => (f.whole, f.cut)) = some (true, none))
    ∧ (let s := sendingOn false; UnitRuns s (portDomain 199) ∧ (portGet s 199).tx.isSome = true
        ∧ (frameGet s 1).map (fun f => (f.whole, f.origin)) = some (false, .goose 0))
    ∧ (let s := { linked with
          clk := { live.clk with cal := [(portGroup 199, [⟨199, 1, 1, 0⟩])], replicaOk := [(portDomain 199 - 1, true)] }
          cis := { live.cis with frames := [(1, some frame1)] } };
        active s = true ∧ portIdle s 199 = true ∧ pauseReady s 199 = false ∧ launchDue s 199 = some ⟨199, 1, 1, 0⟩
        ∧ preamble256 s 199 + s.clk.frac.toNat / 2 ^ 24 ≤ (calPolicy s (portGroup 199)).tol * 256 + targetIn s 1 * 256
        ∧ tooLong s 199 { handle := 1, since := s.run, siphon := none } = false) := by
  decide +kernel

/-- Port P199's beside its registers, with the PCS up since 0. -/
def upPort : PortX := { port0 with pcsUp := true, upSince := 0 }

theorem witness_LinkAndFlushEffects :
    (portLink linked 0 = true ∧ (portGet linked 0).loop = false ∧ pcsReport linked 0 = false ∧ UnitRuns linked (portDomain 0))
    ∧ (let s := { put linked [(Reg.PRT_STAT 199, 2)] with prt := [(199, upPort)], run := 255000000 };
        UnitRuns s (portDomain 199) ∧ portEn s 199 = true ∧ portLink s 199 = false ∧ debounced s 199 = true)
    ∧ (let s := { linked with prt := [(199, { port0 with hold := some 5 })], run := 5 };
        UnitRuns s (portDomain 199) ∧ (portGet s 199).hold = some 5 ∧ 5 ≤ s.run ∧ debounced s 199 = false)
    ∧ portFlushing (put live [(Reg.PRT_STAT 0, 0x4000)]) 0 = true ∧ active (put live [(Reg.PRT_STAT 0, 0x4000)]) = true
    ∧ portFlushing live 0 = false
    ∧ (let s := { linked with prt := [(199, { upPort with hold := some 5 })], run := 255000000 };
        UnitRuns s (portDomain 199) ∧ (portGet s 199).hold = some 5 ∧ 5 ≤ s.run ∧ portEn s 199 = true ∧ debounced s 199 = true)
    ∧ (let s := { linked with prt := [(199, { port0 with loop := true })] };
        UnitRuns s (portDomain 199) ∧ regFld s (Reg.PRT_CTL 199) 3 2 ≠ 1 ∧ (portGet s 199).loop = true ∧ (portGet s 199).rx = none
        ∧ (portGet s 199).tx = none ∧ (portGet s 199).looped = []) := by
  decide +kernel

theorem witness_PortCommandEffects :
    (∀ p ∈ [(0 : Nat), 199], HostSees linked (Reg.PRT_CTL p) ∧ portEn (regSetFld linked (Reg.PRT_STAT p) 15 15 0) p = true)
    ∧ portEn live 0 = false ∧ portFlushing live 0 = false
    ∧ (let s := put live [(Reg.PRT_STAT 0, 0x4000)]; portEn s 0 = false ∧ portFlushing s 0 = true)
    ∧ HostSees live (Reg.PRT_TXSTART 199) ∧ HostSees live (Reg.PRT_MAXLEN 199) ∧ locked live (Reg.PRT_MAXLEN 199) = false
    ∧ fld 1517 13 0 < 1518 ∧ 9216 < fld 9217 13 0 ∧ 1518 ≤ fld 1518 13 0 ∧ fld 9216 13 0 ≤ 9216
    ∧ HostSees live (Reg.PRT_CNT_LO 199 47) ∧ isOctets 47 = false ∧ isOctets 1 = true := by
  decide +kernel

/-- A node of the table. -/
def node1 : Node :=
  { mac := 1, set := 0, proxy := false, top := 0, window := 0, send := 0, last := 0, forgotten := false, pendA := none, pendB := none }

theorem witness_HeadgateCommandEffects :
    HostSees live Reg.HDG_TBL_CMD ∧ regBit live Reg.HDG_TBL_STAT 8 = false ∧ regBit (put live [(Reg.HDG_TBL_STAT, 0x100)]) Reg.HDG_TBL_STAT 8 = true
    ∧ (let s := { live with hdg := { live.hdg with tblCmd := some (1, 7, 0, []) } }; UnitRuns s 3 ∧ s.hdg.tblCmd = some (1, 7, 0, []))
    ∧ HostSees live Reg.HDG_KEY_CTL ∧ regBit live Reg.HDG_KEY_STAT 8 = false
    ∧ (bitOf 0x85 7 = true ∧ bitOf 0x85 6 = false ∧ 1 ≤ fld 0x81 2 0 ∧ fld 0x85 2 0 ≤ 5) ∧ bitOf 0x40 7 = false ∧ bitOf 0x40 6 = true
    ∧ (HostSees (put live [(Reg.HDG_KEY_STAT, 0x100)]) Reg.HDG_KEY_CTL ∧ regBit (put live [(Reg.HDG_KEY_STAT, 0x100)]) Reg.HDG_KEY_STAT 8 = true)
    ∧ (let s := { live with hdg := { live.hdg with keyCmd := some (511, none) } }; UnitRuns s 3 ∧ s.hdg.keyCmd = some (511, none)) := by
  decide +kernel

/-- A device with one node and one frame under verification. -/
def verifying (run : Nat) : State := { put live [(Reg.HDG_NODE_CFG, 0x00010001)] with
  run := run
  hdg := { live.hdg with nodes := [(8191, some node1)], authRun := [{ handle := 4, key := none, next := none }] }
  cis := { live.cis with frames := [(4, some frame1)] } }

theorem witness_HeadgateCommandEffects_nodes :
    (let s := verifying 1000000000; UnitRuns s 3 ∧ tabGet (fun _ => none) s.hdg.nodes 8191 = some node1
      ∧ node1.last + regFld s Reg.HDG_NODE_CFG 15 0 * 1000000000 ≤ s.run ∧ node1.last + regFld s Reg.HDG_NODE_CFG 31 16 * 1000000 ≤ s.run)
    ∧ (let s := verifying 999999999; s.run < node1.last + regFld s Reg.HDG_NODE_CFG 15 0 * 1000000000)
    ∧ (let s := verifying 0; s.run < node1.last + regFld s Reg.HDG_NODE_CFG 31 16 * 1000000 ∧ active s = true
        ∧ s.hdg.authRun.find? (fun i => decide (i.handle = 4) && jobIsGmac i.key i.next == false) = some { handle := 4, key := none, next := none }
      ∧ frameGet s 4 = some frame1) := by
  decide +kernel

/-- A forwarding entry. -/
def entry1 : FdbEntry := { mac := 1, fid := 0, dest := 0, district := 0, dynamic := true, seen := 0 }

/-- A device with one forwarding entry, a command, a quarantined cell and its test. -/
def switching : State := { put live [(Reg.CIS_PAUSE_TH 0, 0)] with cis := { live.cis with
  fdb := [(65535, some entry1)], fdbCmd := some (1, 65535, []), quarantined := [(98303, 0)], quarTest := some 98303 } }

theorem witness_CisternCommandEffects :
    HostSees switching Reg.CIS_FDB_CMD ∧ regBit switching Reg.CIS_FDB_STAT 8 = false
    ∧ regBit (put live [(Reg.CIS_FDB_STAT, 0x100)]) Reg.CIS_FDB_STAT 8 = true ∧ HostSees (put live [(Reg.CIS_FDB_STAT, 0x100)]) Reg.CIS_FDB_CMD
    ∧ UnitRuns switching 3 ∧ switching.cis.fdbCmd = some (1, 65535, []) ∧ fdbGet switching 65535 = some entry1
    ∧ fdbExpired switching entry1 = false ∧ fdbExpired (put { switching with run := 1000000000 } [(Reg.CIS_FDB_AGE, 1)]) entry1 = true
    ∧ (let s := { live with cis := { live.cis with xfer := [(199, [1])] } }; UnitRuns s 3 ∧ tabGet (fun _ => []) s.cis.xfer 199 = [1]
        ∧ tabGet (fun _ => []) live.cis.xfer 199 = [])
    ∧ (let s := put live [(Reg.CIS_SIPH_SRC_OUT 7 6, 0x80)]; siphonOut s 7 199 = true ∧ HostSees s (Reg.CIS_SIPH_CTL 7)
        ∧ siphonOut live 7 203 = false ∧ siphonOn live 7 = false ∧ fld 0x8CB00000 27 20 = 203)
    ∧ HostSees live Reg.CIS_MCG_CMD ∧ HostSees switching Reg.CIS_QUAR_CTL ∧ regBit switching Reg.CIS_QUAR_CTL 29 = false
    ∧ switching.cis.quarantined.any (fun q => decide (q.1 = 98303)) = true ∧ switching.cis.quarTest = some 98303
    ∧ HostSees live (Reg.CIS_SIPH_CTL 7) ∧ bitOf 0x8CC00000 31 = true ∧ 204 ≤ fld 0x8CC00000 27 20 ∧ bitOf 0 31 = false
    ∧ HostSees live (Reg.CIS_PAUSE_TH 199) ∧ fld 0x00010001 31 16 ≠ 0 ∧ fld 0x00010001 31 16 ≤ fld 0x00010001 15 0 ∧ fld 0x00010000 15 0 < fld 0x00010000 31 16 := by
  decide +kernel
/-- A section with one array: its identifier, record size and records. -/
def arr (type id : Nat) (recs : List (List Byte)) : ImgSection :=
  sec type ([1] ++ zeros 15 ++ leBytes 2 id ++ leBytes 2 (recs.headD []).length ++ leBytes 4 recs.length ++ leBytes 4 32 ++ zeros 4 ++ recs.flatten)

/-- Two arrays of one section, of one record each. -/
def arr2 (type id1 id2 : Nat) (r1 r2 : List Byte) : ImgSection :=
  sec type ([2] ++ zeros 15 ++ leBytes 2 id1 ++ leBytes 2 r1.length ++ leBytes 4 1 ++ leBytes 4 48 ++ zeros 4
    ++ leBytes 2 id2 ++ leBytes 2 r2.length ++ leBytes 4 1 ++ leBytes 4 (48 + r1.length) ++ zeros 4 ++ r1 ++ r2)

/-- A sluice request raised at 0, at instant 1. -/
def asking (i r : Nat) : State := { live with run := 1, slu := { live.slu with raised := [(64 * i + r, some (0, 0))] } }

theorem witness_SluiceCommandEffects :
    (∀ x ∈ [((0, 0) : Nat × Nat), (114, 41)], UnitRuns live 3 ∧ x.1 < 115 ∧ x.2 < sluRequesters x.1 ∧ domOn live (sluReqDomain x.1 x.2) = true
      ∧ sluGet live x.1 x.2 = none ∧ (sluGet (asking x.1 x.2) x.1 x.2).isSome = true ∧ (sluWinner (asking x.1 x.2) x.1).1 = some x.2
      ∧ sluOpen live x.1 false = true ∧ sluOpen (asking x.1 x.2) x.1 false = true ∧ UnitRuns (asking x.1 x.2) 3
      ∧ (sluChoose { live with slu := { live.slu with phase := [(x.1, 1)] } } x.1).1 = none
      ∧ (sluChoose { asking x.1 x.2 with slu := { (asking x.1 x.2).slu with phase := [(x.1, 2)] } } x.1).1 = some x.2
      ∧ HostSees live (Reg.SLU_SEED x.1) ∧ locked live (Reg.SLU_SEED x.1) = false
      ∧ HostSees live (Reg.SLU_POOL x.1) ∧ locked live (Reg.SLU_POOL x.1) = false)
    ∧ (32 ≤ 95 ∧ 95 < 96 ∧ sluGet live 95 7 = none ∧ 7 < sluRequesters 95 ∧ domOn live (sluReqDomain 95 7) = true)
    ∧ (regBit (put live [(Reg.SLU_STAT 0, 0x80000000)]) (Reg.SLU_STAT 0) 31 = true ∧ UnitRuns (put live [(Reg.SLU_STAT 0, 0x80000000)]) 3)
    ∧ (let s := { live with slu := { live.slu with phase := [(0, 1)] } }; coreCycle s < tabGet (fun _ => 0) s.slu.phase 0)
    ∧ HostSees live (Reg.SLU_PRIV 0 3) ∧ locked live (Reg.SLU_PRIV 0 3) = false ∧ sluRequesters 0 ≤ fld 0x003F0000 21 16
    ∧ fld 0 21 16 < sluRequesters 0 ∧ (∀ j ∈ List.range 4, (sluSlot live 0 j).1 = false)
    ∧ UnitRuns (asking 114 41) 3 ∧ fld 1 15 0 ≠ 0 ∧ fld 0x10000 15 0 = 0 := by
  decide +kernel

theorem witness_ArbitrationPicksARaisedRequest :
    sluStarted (asking 114 41) 114 ≠ [] ∧ (∀ k ∈ List.range 4, (sluSlot (asking 114 41) 114 k).1 = false)
    ∧ (sluWinner (asking 114 41) 114).1 = some 41 ∧ 41 ∈ sluStarted (asking 114 41) 114 ∧ (1 : BitVec 16) ≠ 0 := by
  decide +kernel

/-- A FURROW section with one mode. -/
def modes : ImgSection := arr 6 0x0602 [[1] ++ zeros 23]

/-- Domain 0 in a state, with P000 in its channel A. -/
def furrowed (st pst : Word) : State :=
  put (runs live [modes]) [(Reg.FUR_STAT 0, st), (Reg.FUR_PORT_STAT 0, 0x80000000#32 ||| pst)]

theorem witness_FurrowCommandEffects :
    (let u := regSetFld (furrowed 0 3) (Reg.FUR_CTL 0) 0 0 1; furState u 0 = 0 ∧ (furSection u 0).isSome = true)
    ∧ furState (regSetFld (furrowed 3 3) (Reg.FUR_CTL 0) 0 0 1) 0 ≠ 0 ∧ (∀ d ∈ List.range 4, HostSees live (Reg.FUR_CTL d)
      ∧ HostSees live (Reg.FUR_MODE_CMD d) ∧ furState live d ≠ 3)
    ∧ UnitRuns live 3 ∧ (∀ p ∈ [(0 : Nat), 199], UnitRuns live (portDomain p) ∧ HostSees live (Reg.FUR_PORT_CMD p) ∧ furMember live p = none)
    ∧ bitOf 0x80000001 31 = true
    ∧ (let s := furrowed 3 3; furState s 0 = 3 ∧ (furModeRec s 0 (fld 0x80000001 2 0)).isSome = true ∧ fld 0x80000001 2 0 ≠ furMode s 0
        ∧ regBit s (Reg.FUR_STAT 0) 11 = false ∧ furMember s 0 = some (0, false) ∧ furPortState s 0 = 3) := by
  decide +kernel

/-- A device whose domain 0, with CYCLE_NS 1000 and FREE or ANCHORED, stands in a state, at a time of its cycle. -/
def cycling (free st : Word) (ns : BitVec 30) (x : FurDom) : State :=
  { put (runs live [arr2 6 0x0601 0x0602 ([BitVec.ofNat 8 free.toNat] ++ zeros 3 ++ leBytes 4 1000 ++ zeros 24) (zeros 8 ++ leBytes 4 100 ++ leBytes 4 500 ++ zeros 8)])
      [(Reg.FUR_STAT 0, st)] with
    clk := { live.clk with ns := ns, ns32 := ns.setWidth 32 }, fur := { live.fur with dom := [(0, x)] } }

/-- A coldstart of node 1 on P000, stamped 0. -/
def cold1 : ColdStart := { port := 0, chanB := false, node := 1, stamp := 0, handle := noFrame, lost := false, done := none }

theorem witness_FurrowCommandEffects_cycles :
    (let s := cycling 0 2 1000 furDom0; UnitRuns s 3 ∧ (furNext s 0).isSome = true ∧ furState s 0 = 2)
    ∧ (let s := cycling 2 3 1000 furDom0; UnitRuns s 3 ∧ (furNext s 0).isSome = true ∧ furState s 0 = 3)
    ∧ (let s := cycling 2 3 999 furDom0; UnitRuns s 3 ∧ furNext s 0 = none)
    ∧ (let s := cycling 2 1 40 { furDom0 with cold := [cold1] }; UnitRuns s 3 ∧ furState s 0 = 1 ∧ (furGet s 0).coldWin = none
        ∧ coldWinner ((furGet s 0).cold.filter (fun c => !c.lost)) = some cold1
        ∧ 40 * 256 ≤ (BitVec.ofNat 40 ((nowNs32 s + regGet s (Reg.FUR_OFFSET 0)).toNat * 256 + s.clk.frac.toNat / 2 ^ 24) - BitVec.ofNat 40 cold1.stamp).toInt)
    ∧ (let s := cycling 2 3 500 { furDom0 with forced := some 2 }; UnitRuns s 3 ∧ furState s 0 = 3 ∧ (furGet s 0).evaluated = false
        ∧ (furGet s 0).coldWin = none ∧ ((furSeg s 0 12 * 256 : Nat) : Int) ≤ furNow s 0 ∧ (furGet s 0).forced = some 2
        ∧ regBit (furSet s 0 { furGet s 0 with evaluated := true, forced := none }) (Reg.FUR_STAT 0) 11 = false) := by
  decide +kernel

/-- A RUNNING domain 0 with one furrow of node 1 on P000, or one dynamic sender, with minislots of 100 ns from 0. -/
def slotting (id2 : Nat) (kind : Byte) (r2 : List Byte) (ns : BitVec 30) (x : FurDom) : State :=
  { put (runs live [arr2 6 0x0603 id2 ([0, kind, 7, 1, 0, 0xFF] ++ zeros 10) r2]) [(Reg.FUR_STAT 0, 3)] with
    clk := { live.clk with ns := ns, ns32 := ns.setWidth 32 }, fur := { live.fur with dom := [(0, x)] } }

theorem witness_FurrowCommandEffects_slots :
    (let s := slotting 0x0604 1 ([0, 0] ++ leBytes 2 8 ++ leBytes 2 100 ++ zeros 10) 100 furDom0;
      UnitRuns s 3 ∧ furState s 0 = 3 ∧ (furDyn s 0 false).admitted = false ∧ furSlotField s 0 4 ≠ 0 ∧ (furPointed s 0 false).isSome = true
      ∧ furSeg s 0 8 ≤ (furNow s 0 / 256).toNat
      ∧ (furDyn s 0 false).at_ + furSlotField s 0 6 + (furGet s 0).guard + 40
        ≤ furSeg s 0 8 + ((furNow s 0 / 256).toNat - furSeg s 0 8) / furSlotField s 0 4 * furSlotField s 0 4)
    ∧ (let x := FurSlot.mk 7 false false false false false false; let s := slotting 0x0602 0 (zeros 24) 40 { furDom0 with slots := [x] };
        UnitRuns s 3 ∧ slotGet s 0 7 false = some x ∧ furState s 0 = 3 ∧ x.started = false
        ∧ (furEntries s 0).find? (fun r => decide (entryKind r = 0) && decide (leAt r 2 1 = 7)) = some ([0, 0, 7, 1, 0, 0xFF] ++ zeros 10)
        ∧ (((leAt (zeros 16) 8 4 + entryGuard s 0 (zeros 16) + 40) * 256 : Nat) : Int) ≤ furNow s 0)
    ∧ furState live 0 ≠ 3
    ∧ (let s := put (runs live [arr 6 0x0603 [[0, 0x80, 7, 1, 0, 0xFF] ++ zeros 10]]) [(Reg.FUR_STAT 0, 1), (Reg.FUR_PORT_STAT 0, 0x80000002)];
        let t := portSet s 0 { portGet s 0 with furStart := some 0 }
        UnitRuns s (portDomain 0) ∧ furMember s 0 = some (0, false) ∧ regBit t (Reg.FUR_PORT_STAT 0) 3 = false ∧ furState t 0 = 1
        ∧ (furGet s 0).coldWin = none ∧ furColdPort t 0 0 false = true ∧ (furGet s 0).cold = [])
    ∧ (let s := put live [(Reg.FUR_PORT_STAT 0, 0x8000000A)]; UnitRuns s (portDomain 0) ∧ furMember s 0 = some (0, false)
        ∧ regBit (portSet s 0 { portGet s 0 with furStart := some 0 }) (Reg.FUR_PORT_STAT 0) 3 = true) := by
  decide +kernel

/-- A sample, and a computed row. -/
def asdu1 : Asdu :=
  { stream := 0, pos := 0, num := 1, svid := 0, smpCnt := 0, confRev := 0, smpSynch := 0, pairs := [], auth := 0, ns32 := 0, frac := 0 }
def row1 : CnfRow := { sec := 0, ns := 0, frac := 0, k := 0, flags := 0, fills := 0, status := [], cols := [], deadline := 0 }

/-- A device with an ASDU, a computed row of basin 15 and a healthy stream 0 whose silence is 1 ms. -/
def confluent : State :=
  { put (runs live [arr 7 0x0702 [zeros 18 ++ [1] ++ zeros 13]]) [(Reg.CNF_STR_STAT 0, 0x20000000)] with
    run := 1000001
    cnf := { live.cnf with ingest := [asdu1], basin := [(15, { cnfBas0 with rows := [row1] })], order := [15] } }

theorem witness_ConfluenceCommandEffects :
    UnitRuns confluent 14 ∧ confluent.cnf.ingest = asdu1 :: [] ∧ confluent.cnf.order.head? = some 15 ∧ (rowSeal confluent 15).1 = some row1
    ∧ strState confluent 0 = 2 ∧ (cnfStr confluent 0).lastAt + strField confluent 0 18 2 * 1000000 < confluent.run
    ∧ (let s := { put live [(Reg.CNF_BASIN_STAT 15, 0x10000), (Reg.CNF_BASIN_STAT 14, 0x10000)] with
          clk := { live.clk with replicaOk := [(13, true)] }
          cnf := { live.cnf with basin := [(14, cnfBas0), (15, { cnfBas0 with next := some (0, 0) })] } };
        UnitRuns s 14 ∧ cnfReady s = true ∧ rowFirst s (List.range 16) = some 15)
    ∧ cnfReady live = false
    ∧ (let s := { confluent with run := 1000000 }; UnitRuns s 14 ∧ s.run ≤ (cnfStr s 0).lastAt + strField s 0 18 2 * 1000000)
    ∧ (∀ b ∈ [(0 : Nat), 15], HostSees live (Reg.CNF_BASIN_CTL b) ∧ locked live (Reg.CNF_BASIN_CTL b) = false)
    ∧ (let s := put confluent [(Reg.CNF_STR_STAT 0, 0)]; HostSees s (Reg.CNF_STR_CTL 0) ∧ locked s (Reg.CNF_STR_CTL 0) = false
        ∧ strState (regSetFld s (Reg.CNF_STR_CTL 0) 0 0 1) 0 = 0 ∧ (strRec (regSetFld s (Reg.CNF_STR_CTL 0) 0 0 1) 0).isSome = true)
    ∧ (HostSees live (Reg.CNF_STR_CTL 1023) ∧ locked live (Reg.CNF_STR_CTL 1023) = false)
    ∧ HostSees live (Reg.CNF_RING_BASE_LO 0) ∧ bitOf (regGet live (Reg.CNF_RING_CTL 0)) 31 = false
    ∧ bitOf (regGet (put live [(Reg.CNF_RING_CTL 0, 0x80000000)]) (Reg.CNF_RING_CTL 0)) 31 = true := by
  decide +kernel

/-- A frame to tag. -/
def key1 : Key := { id := 1, alg := 1, key := zeros 32 }
def tagJob : LaneRun := { job := .frame header64 0 false none 0 1, key := some key1 }

/-- A device with an update at channel 0 for the publisher, a frame on a lane, and subscription 8191 healthy. -/
def publishing (op : Byte) : State :=
  { put live [(Reg.MBX_CH_STAT 0, 1), (Reg.MBX_BIND 0, 0x2300), (Reg.PUB_SUB_STAT 8191, 0x08000000)] with
    mbx := [(0, { staging := [], msg := [op] ++ zeros 63, wakeLimit := none, since := 0 })]
    krn := { live.krn with laneRun := [tagJob] } }

theorem witness_PublisherCommandEffects :
    HostSees live Reg.PUB_UPD_W0 ∧ fld 0x01000000 31 24 ≠ 2 ∧ fld 0x02000000 31 24 = 2 ∧ live.pub.waits = []
    ∧ mailFirst (regSetFld live (regKey 0 Reg.PUB_UPD_STAT) 31 31 1) live.run = false
    ∧ (let s := { put live [(Reg.PUB_GP_STAT 511, 0x80000000)] with pub := { live.pub with goose := [(511, { goose0 with due := some 0 })] } };
        UnitRuns s 3 ∧ (gpGet s 511).launch = none ∧ (gpGet s 511).due = some 0 ∧ 0 ≤ pubNow s ∧ gpEn s 511 = true ∧ pubGated s = false)
    ∧ (UnitRuns (publishing 1) 3 ∧ mbxOldest (publishing 1) 35 = some 0 ∧ mbxOldest (publishing 2) 35 = some 0
      ∧ (updateOfMsg (mbxGet (publishing 1) 0).msg).op ≠ 2 ∧ (updateOfMsg (mbxGet (publishing 2) 0).msg).op = 2)
    ∧ (publishing 1).krn.laneRun[0]? = some tagJob
    ∧ (subState (publishing 1) 8191 = 2
      ∧ (let s := { publishing 1 with clk := { live.clk with ns := 1 } };
          (subGet s 8191).deadline + (((subField s 8191 2 2 * 1000 : Nat) : Int) + 1) * tNano ≤ clkTime s.clk)
      ∧ clkTime (publishing 1).clk
        < (subGet (publishing 1) 8191).deadline + (((subField (publishing 1) 8191 2 2 * 1000 : Nat) : Int) + 1) * tNano)
    ∧ subState live 0 ≠ 2 ∧ HostSees live (Reg.PUB_SUB_STAT 8191) ∧ subState (regSetFld live (Reg.PUB_SUB_STAT 8191) 31 31 1) 8191 = 0
    ∧ HostSees live (Reg.PUB_GP_STAT 511) := by
  decide +kernel
/-- A device whose engine 31 runs, with thread 15 as given and an instruction word at its PC. -/
def kuern (w : Word) (x : KThread) : State :=
  { put live [(Reg.KRN_ENG_STAT 31, 2)] with
    krn := { live.krn with eng := [(31, { eng0 with imem := [(x.pc.toNat, w)], threads := [(15, { x with started := true })] })] }
    clk := { live.clk with replicaOk := (List.range 32).map (fun i => (i, true)) } }

/-- The same device with bytes at the start of the engine's data memory. -/
def kuernMem (w : Word) (b : List Byte) (x : KThread) : State := dmemWrite (kuern w x) 31 0 b

/-- The state in which an instruction of the thread that takes n cycles acts. -/
def atWork (n : Nat) (s : State) : State := issueStart s 31 15 n

theorem kuern_issues (w : Word) (x : KThread) (hr : x.refused = none) (hm : krnMay (kuern 0 x) 31 15 = true) :
    ThreadIssues (kuern w x) 31 15 w :=
  ⟨rfl, hm, hr, by simp [krnWord, kuern, engGet, thrGet, tabGet]⟩

theorem witness_KuernRegisterArithmetic (w : Word) : ThreadIssues (kuern w thread0) 31 15 w := kuern_issues w thread0 rfl (by decide +kernel)

theorem witness_DivisionNeverRaisesAnException : ∀ fn ∈ [0, 1, 10, 13, 14, 15, 16],
    (let s := kuern (kR 1 3 1 2 fn) { thread0 with regs := [(1, 0x80000000), (2, 0xFFFFFFFF)] }; let w := (thrGet (atWork 18 s) 31 15).regs
      ThreadIssues s 31 15 (kR 1 3 1 2 fn) ∧ wGet w 0 = 0 ∧ wGet w 1 = 0x80000000 ∧ wGet w 2 = 0xFFFFFFFF) := by
  decide +kernel

theorem witness_KuernImmediatesJumpsAndBranches (w : Word) : ThreadIssues (kuern w { thread0 with pc := 0x7FFF }) 31 15 w :=
  kuern_issues w _ rfl (by decide +kernel)

theorem witness_KuernRegisterWritesAndTheirFrame :
    (let s := kuern 0 { thread0 with regs := [(1, 5), (31, 7)] };
      s.krn.eng.Pairwise (fun a b => a.1 < b.1) ∧ (engGet s 31).threads.Pairwise (fun a b => a.1 < b.1)
      ∧ (thrGet s 31 15).regs.Pairwise (fun a b => a.1 < b.1)) := by
  decide +kernel

theorem witness_KuernLoadsAndStores :
    (let u := atWork 2 (put (kuern 0 thread0) [(Reg.KRN_HWIN_CTL 31, 0x80000000)]); 0xFFFD % 2 ≠ 0 ∧ 0xFFFD % 4 ≠ 0
      ∧ farLoad u 31 0xFFFC 4 = false ∧ (kLoad u 31 15 0xFFFC 4 true none).1 = .ok [0, 0, 0, 0]
      ∧ farLoad u 31 0x10000 4 = false ∧ (kLoad u 31 15 0x10000 4 true none).1 = .exc 3
      ∧ farStore u 31 0xFFFC 4 = false ∧ (kStore u 31 15 0xFFFC [1, 2, 3, 4] true).1 = .done
      ∧ farStore u 31 0x10000 4 = false ∧ (kStore u 31 15 0x10000 [1, 2, 3, 4] true).1 = .exc 3
      ∧ farLoad u 31 0x40000000 4 = true ∧ farStore u 31 0x40000000 4 = true ∧ farLoad u 31 0x80000000 4 = true) := by
  decide +kernel

theorem witness_KuernDataMemory :
    (let s := kuernMem 0 [1, 2] thread0; 0xFFFF + [(1 : Byte)].length ≤ 0x10000
      ∧ s.krn.eng.Pairwise (fun a b => a.1 < b.1) ∧ (engGet s 31).dmem.Pairwise (fun a b => a.1 < b.1)) := by
  decide +kernel

/-- An event with a frame. -/
def event1 : KEvent :=
  { kind := 1, replay := false, first := true, ctx := some 0, frame := 4, port := 0, ns32 := 0, frac := 0, auth := 0, len := 64, stream := 0
    arg0 := 0, arg1 := 0, payload := [] }

/-- An empty build. -/
def build1 : Build := { district := 0, bytes := [], written := 0, cells := [], failed := false }

theorem witness_KuernEventInstructions :
    (let s := kuern (kR 0x30 1 2 0 0) thread0; ThreadIssues s 31 15 (kR 0x30 1 2 0 0) ∧ (thrGet (atWork 1 s) 31 15).event = none)
    ∧ (let s := { kuern 0 { thread0 with wait := some { order := 0, rd := 1, ends := some 4, after := none } } with
          krn := { (kuern 0 { thread0 with wait := some { order := 0, rd := 1, ends := some 4, after := none } }).krn with half := [(3, 10)] } };
        UnitRuns s (engDomain 31) ∧ (thrGet s 31 15).wait = some { order := 0, rd := 1, ends := some 4, after := none } ∧ 4 < clusterCyc s 31)
    ∧ clusterCyc (kuern 0 thread0) 31 ≤ 0
    ∧ (∀ c ∈ [none, some 0], let s := kuern (kR 0x30 0 0 0 1) { thread0 with event := some { event1 with ctx := c } };
        ThreadIssues s 31 15 (kR 0x30 0 0 0 1) ∧ (thrGet (atWork (engCost s 31 24 15) s) 31 15).event = some { event1 with ctx := c })
    ∧ (let s := kuern (kR 0x30 0 0 0 2) { thread0 with event := some event1 }; ThreadIssues s 31 15 (kR 0x30 0 0 0 2)
        ∧ (thrGet (atWork 2 s) 31 15).event.isSome = true)
    ∧ ThreadIssues (kuern (kR 0x30 0 0 0 3) thread0) 31 15 (kR 0x30 0 0 0 3)
    ∧ (∀ f ∈ [4, noFrame], let s := kuern (kR 0x30 1 0 0 4) { thread0 with event := some { event1 with frame := f } };
        ThreadIssues s 31 15 (kR 0x30 1 0 0 4) ∧ (thrGet (atWork 2 s) 31 15).event = some { event1 with frame := f }
        ∧ (engGet (atWork 2 s) 31).kept.length < 256)
    ∧ event1.frame ≠ noFrame
    ∧ (let s := kuern (kR 0x30 0 2 0 5) thread0; ThreadIssues s 31 15 (kR 0x30 0 2 0 5) ∧ (engGet (atWork 2 s) 31).kept.contains 0 = false)
    ∧ (let s := engSet (kuern (kR 0x30 0 2 0 5) thread0) 31 { engGet (kuern (kR 0x30 0 2 0 5) thread0) 31 with kept := [0] };
        ThreadIssues s 31 15 (kR 0x30 0 2 0 5) ∧ (engGet (atWork 2 s) 31).kept.contains 0 = true)
    ∧ (let s := runs (kuern (kR 0x30 0 2 0 6) thread0) [sec 2 [1]]; ThreadIssues s 31 15 (kR 0x30 0 2 0 6) ∧ (thrGet (atWork 1 s) 31 15).build = none
        ∧ fld 0 2 0 < districtCount (atWork 1 s) ∧ districtCount (atWork 1 s) ≤ fld 7 2 0)
    ∧ (∀ fn ∈ [7, 8], let s := kuern (kR 0x30 0 (if fn = 7 then 0 else 2) 0 fn) { thread0 with build := some build1 };
        ThreadIssues s 31 15 (kR 0x30 0 (if fn = 7 then 0 else 2) 0 fn) ∧ (thrGet (atWork 8 s) 31 15).build = some build1
        ∧ localDesc (atWork 8 s) 31 0 32 8 = .ok (zeros 32)) := by
  decide +kernel

theorem witness_KuernEventInstructions_full :
    (let s := engSet (kuern (kR 0x30 1 0 0 4) { thread0 with event := some event1 }) 31
        { engGet (kuern (kR 0x30 1 0 0 4) { thread0 with event := some event1 }) 31 with kept := List.range 256 };
      ThreadIssues s 31 15 (kR 0x30 1 0 0 4) ∧ (thrGet (atWork 2 s) 31 15).event = some event1 ∧ 256 ≤ (engGet (atWork 2 s) 31).kept.length) := by
  decide +kernel

/-- Thread 15 with an event and an open build. -/
def engaged : KThread := { thread0 with event := some event1, build := some build1 }

theorem witness_KuernStateExceptions (w : Word) : ThreadIssues (kuern w engaged) 31 15 w := kuern_issues w _ rfl (by decide +kernel)

theorem witness_KuernStateExceptions_states :
    (thrGet (atWork 1 (kuern 0 engaged)) 31 15).event.isSome = true ∧ (thrGet (atWork 1 (kuern 0 engaged)) 31 15).build.isSome = true
    ∧ (thrGet (atWork 8 (kuern 0 thread0)) 31 15).event = none ∧ (thrGet (atWork 8 (kuern 0 thread0)) 31 15).build = none
    ∧ localDesc (atWork 8 (kuern 0 thread0)) 31 0 32 8 = .ok (zeros 32) ∧ krnLegal 0 = false ∧ krnLegal (kR 1 1 2 3 0) = true := by
  decide +kernel

theorem witness_TrapAndExceptions :
    (let w := farDrop (krnCount (kuern 0 { thread0 with event := some event1 }) 31 2) 31 15;
      let v := thrSet w 31 15 { thrGet w 31 15 with lastExc := BitVec.ofNat 32 (0x0C * 2 ^ 24 + (3 : BitVec 15).toNat) };
      (engGet v 31).abortHalts = false ∧ (thrGet v 31 15).event = some event1 ∧ event1.ctx = some 0)
    ∧ (let s := engSet (kuern 0 thread0) 31 { engGet (kuern 0 thread0) 31 with abortHalts := true };
        (engGet (farDrop (krnCount s 31 2) 31 15) 31).abortHalts = true) := by
  decide +kernel

theorem witness_KuernTimeTimersAndControlRegisters :
    engReplica (atWork 2 (kuern 0 thread0)) 31 = true
    ∧ (let s := { kuern (kR 0x30 1 0 0 9) thread0 with clk := live.clk }; ThreadIssues s 31 15 (kR 0x30 1 0 0 9) ∧ engReplica (atWork 2 s) 31 = false)
    ∧ (∀ n ∈ [15, 16], let s := kuern (kR 0x30 0 1 2 10) { thread0 with event := some event1, reqs := List.replicate n ⟨true, 0, 0⟩ };
        ThreadIssues s 31 15 (kR 0x30 0 1 2 10) ∧ (thrGet (atWork 1 s) 31 15).event.isSome = true ∧ (thrGet (atWork 1 s) 31 15).reqs.length = n)
    ∧ 5 ≤ (31 : BitVec 5).toNat ∧ (0 : BitVec 5) ≠ 5 ∧ (0 : BitVec 5) ≠ 7 ∧ 8 ≤ (8 : BitVec 5).toNat := by
  decide +kernel

/-- The descriptor of a job over the 4 bytes at 0, with its tag at 64. -/
def authDesc : List Byte := [0, 0, 1, 0] ++ leBytes 4 0 ++ leBytes 4 4 ++ leBytes 4 64 ++ zeros 16

theorem witness_KuernAcceleratorsLocksAndFences :
    (let u := atWork 2 (kuern 0 thread0); (accelOperand u 31 15 0xFFFF 1).1 = .ok [0] ∧ (accelOperand u 31 15 0xFFFF 2).1 = .exc 3
        ∧ bitOf (thrGet u 31 15).csumCfg 0 = false)
    ∧ (let u := atWork 2 (kuern 0 { thread0 with csumCfg := 1, regs := [(2, 3)] }); bitOf (thrGet u 31 15).csumCfg 0 = true
        ∧ (wGet (thrGet u 31 15).regs 2).toNat % 4 ≠ 0)
    ∧ (let u := atWork 4 (kuern 0 thread0); localDesc u 31 0 22 4 = .ok (zeros 22) ∧ operandRegion 0 0 = true ∧ berPath (zeros 22) = none)
    ∧ (let u := thrNext (issueStart (kuern 0 thread0) 31 15 1) 31 15; (farOf u 31 15).any (fenceHolds true true) = false)
    ∧ (let s := kuern (kR 0x30 0 0 0 18) thread0;
        let t := { s with krn := { s.krn with far := [{ eng := 31, thr := 15, op := .store 0x40000000 [1], pc := 0, ctx := none, ended := 0, arrive := some 9 }] } };
        ThreadIssues t 31 15 (kR 0x30 0 0 0 18) ∧ (farOf (thrNext (issueStart t 31 15 1) 31 15) 31 15).any (fenceHolds true false) = true) := by
  decide +kernel

/-- Path descriptors over 4 bytes at 32: a tag that stands there, and one that does not. -/
def berDesc (tag : Byte) : List Byte := leBytes 4 4 ++ [1, 0] ++ [tag, 0] ++ zeros 24 ++ [0x81, 2, 7, 7]

theorem witness_KuernAcceleratorsLocksAndFences_ber :
    (let u := atWork 4 (kuernMem 0 (berDesc 0x81) { thread0 with regs := [(1, 32)] }); localDesc u 31 0 22 4 = .ok ((berDesc 0x81).take 22)
      ∧ leAt ((berDesc 0x81).take 22) 0 4 = 4 ∧ operandRegion 32 4 = true ∧ berPath ((berDesc 0x81).take 22) = some [0x81]
      ∧ (berWalk 31 15 [0x81] u 32 36 none).1 = .found 0 0 0)
    ∧ (let u := atWork 4 (kuernMem 0 (berDesc 0x82) { thread0 with regs := [(1, 32)] }); berPath ((berDesc 0x82).take 22) = some [0x82]
      ∧ (berWalk 31 15 [0x82] u 32 36 none).1 = .notFound)
    ∧ (let u := atWork 8 (kuernMem 0 authDesc thread0); localDesc u 31 0 32 8 = .ok authDesc ∧ authBad authDesc = false
      ∧ (operandRead u 31 15 (leAt authDesc 4 4) (leAt authDesc 8 4)).1 = .ok (authDesc.take 4) ∧ leAt authDesc 3 1 ≠ 1) := by
  decide +kernel

/-- A finished send, and a finished job. -/
def send1 : SendDone := { eng := 31, ctx := none, tag := 0, status := 0, ns32 := 0, frac := 0, stamped := false, port := none }
def engJob : LaneRun := { job := .engine 31 15 none 0 0 1 [] none 0 0, key := none }

theorem witness_EngineEffects :
    (let s := put (kuern 0 { thread0 with event := some event1, since := 0 }) [(Reg.KRN_WDOG 31, 5)];
      (regGet s (Reg.KRN_WDOG 31)).toNat ≠ 0 ∧ (thrGet s 31 15).event.isSome = true ∧ clusterCyc s 31 ≤ 0 + 5 ∧ UnitRuns s (engDomain 31))
    ∧ (let s := { put (kuern 0 { thread0 with event := some event1 }) [(Reg.KRN_WDOG 31, 5)] with
          krn := { (kuern 0 { thread0 with event := some event1 }).krn with half := [(3, 12)] } };
      0 + (regGet s (Reg.KRN_WDOG 31)).toNat < clusterCyc s 31)
    ∧ (let s := engSet (kuern 0 thread0) 31 { engGet (kuern 0 thread0) 31 with timers := [⟨0, 0, none⟩] };
        (engGet s 31).timers[0]? = some ⟨0, 0, none⟩ ∧ engReplica s 31 = true ∧ reached s.clk.ns32 0 = true ∧ UnitRuns s (engDomain 31))
    ∧ (let s := put (engSet { live with run := 1 } 31 { eng0 with initEnds := some 0 }) [(Reg.KRN_ENG_STAT 31, 1)]; (engGet s 31).initEnds = some 0
        ∧ engState s 31 = 1 ∧ 0 < s.run ∧ UnitRuns s (engDomain 31))
    ∧ (let s := put (engSet live 31 { eng0 with initEnds := some 0 }) [(Reg.KRN_ENG_STAT 31, 1)]; engState s 31 = 1 ∧ s.run ≤ 0)
    ∧ engReplica live 31 = false ∧ HostSees live (Reg.KRN_ENG_CTL 31) := by
  decide +kernel

theorem witness_EngineEffects_control :
    (fld 0x4B520001 31 16 = 0x4B52 ∧ bitOf 0x4B520001 0 = true ∧ bitOf 0x4B520001 1 = false ∧ fld 0x4B520002 31 16 = 0x4B52
      ∧ bitOf 0x4B520002 0 = false ∧ bitOf 0x4B520002 1 = true ∧ fld 1 31 16 ≠ 0x4B52)
    ∧ engState (kuern 0 thread0) 31 = 2 ∧ engState (put (kuern 0 thread0) [(Reg.KRN_ENG_STAT 31, 3)]) 31 = 3
    ∧ (engGet (kuern 0 thread0) 31).memHalt = false ∧ HostSees (kuern 0 thread0) (Reg.KRN_ENG_CTL 31)
    ∧ (let s := { live with krn := { live.krn with sends := [send1], laneRun := [engJob] } }; UnitRuns s 3 ∧ s.krn.sends[0]? = some send1
        ∧ s.krn.laneRun[0]? = some engJob) := by
  decide +kernel
/-- A HOT context on engine 31. -/
def hot : Ctx := { ctx0 with mode := .hot, owner := 31, pinned := true }

/-- A device with context 65535 as given. -/
def riding (c : Ctx) : State := { live with rdr := { live.rdr with ctx := [(65535, some c)] } }

/-- The same context with an event in thread 15 of engine 31. -/
def handling : State := { kuern 0 { thread0 with event := some { event1 with ctx := some 65535 } } with
  rdr := { live.rdr with ctx := [(65535, some hot)] } }

/-- A command of the rider. -/
def rider (op : Nat) : RiderWait :=
  { src := .register 0, op := op, ctx := 65535, engine := 0, flags := 0, addr := 0, data := zeros 512, since := 0 }

/-- A RIDER section with an interval of 1 µs and a migration limit of 2 µs. -/
def rdrPolicy : ImgSection := arr 10 0x0A01 [zeros 4 ++ [1] ++ zeros 11 ++ [2] ++ zeros 15]

/-- A rider command of a submission queue. -/
def queuedCmd (op : Byte) : HostCmd := { index := 0, bytes := [2] ++ zeros 7 ++ [op] ++ zeros 55, started := false }

theorem witness_RiderCommandEffects_sources : ∀ op ∈ List.range' 1 12,
    (let s := { put live [(Reg.MBX_CH_STAT 63, 1), (Reg.MBX_BIND 63, 0x2100)] with
        mbx := [(63, { mbx0 with msg := [BitVec.ofNat 8 op] ++ zeros 63 })] };
      UnitRuns s 3 ∧ mbxState s 63 = 1 ∧ mbxReceiver s 63 = 33 ∧ mbxWakeWait s 63 = false ∧ s.rdr.waits = []
      ∧ (riderOfMsg 63 (mbxGet s 63).msg).op = op)
    ∧ (let s := { live with hst := { live.hst with fn := [(3, { hostFn0 with sq := [(3, [queuedCmd (BitVec.ofNat 8 op)])] })] } };
        UnitRuns s 3 ∧ sqNext s 3 3 = some (queuedCmd (BitVec.ofNat 8 op)) ∧ leAt (queuedCmd (BitVec.ofNat 8 op)).bytes 0 1 = 2
        ∧ sqStatus (queuedCmd (BitVec.ofNat 8 op)).bytes = 0 ∧ (riderOfSq 3 3 (queuedCmd (BitVec.ofNat 8 op)) []).op = op) := by
  decide +kernel

theorem witness_RiderCommandEffects :
    HostSees live Reg.RDR_CMD ∧ regBit live Reg.RDR_CMD_STAT 31 = false ∧ live.rdr.waits = []
    ∧ (riderRun (regSet live Reg.RDR_CMD_STAT 0x80000000) (riderOfRegs live 0 2 [])).1 = some (2, 0)
    ∧ (let s := put handling [(Reg.RDR_CMD_ARG 0, 0xFFFF)]; HostSees s Reg.RDR_CMD ∧ s.rdr.waits = []
        ∧ (riderRun (regSet s Reg.RDR_CMD_STAT 0x80000000) (riderOfRegs s 3 2 [])).1 = none)
    ∧ (let s := put live [(Reg.RDR_CMD_STAT, 0x80000000)]; HostSees s Reg.RDR_CMD ∧ regBit s Reg.RDR_CMD_STAT 31 = true)
    ∧ (let s := runs live [rdrPolicy]; s.run < s.rdr.intervalFrom + riderPolicy s 4 4 * 1000 ∧ UnitRuns s 3 ∧ riderPolicy s 4 4 * 1000 ≠ 0)
    ∧ (let s := { runs live [rdrPolicy] with run := 1000 }; s.rdr.intervalFrom + riderPolicy s 4 4 * 1000 ≤ s.run ∧ UnitRuns s 3)
    ∧ riderPolicy live 4 4 * 1000 = 0 := by
  decide +kernel

theorem witness_RiderCommandEffects_migration :
    (let s := riding { hot with moving := some (0, 0, 0) }; UnitRuns s 3 ∧ (ctxGet s 65535).moving.isSome = true
      ∧ engHolds s (ctxGet s 65535).owner 65535 = false ∧ (ctxGet s 65535).moving = some (0, 0, 0) )
    ∧ (ctxGet (riding hot) 65535).moving = none
    ∧ (let s := { runs (riding { hot with moving := some (0, 0, 0) }) [rdrPolicy] with run := 2001 }; 0 + riderPolicy s 16 4 * 1000 < s.run)
    ∧ (let s := runs (riding { hot with moving := some (0, 0, 0) }) [rdrPolicy]; s.run ≤ 0 + riderPolicy s 16 4 * 1000)
    ∧ (∀ op ∈ [3, 4, 2], let s := { runs live [rdrPolicy] with run := 2001, rdr := { live.rdr with waits := [rider op] } };
        UnitRuns s 3 ∧ s.rdr.waits = [rider op] ∧ (rider op).since + riderPolicy s 16 4 * 1000 < s.run ∧ (rider op).op = op)
    ∧ (let s := { runs live [rdrPolicy] with run := 2000 }; s.run ≤ (rider 4).since + riderPolicy s 16 4 * 1000)
    ∧ (let s := { live with rdr := { live.rdr with waits := [rider 4] } }; HostSees s Reg.RDR_CMD ∧ regBit s Reg.RDR_CMD_STAT 31 = false
        ∧ s.rdr.waits ≠ []) := by
  decide +kernel

theorem witness_RiderRefusals :
    (ctxGet (riding hot) 65535).mode ≠ .dormant ∧ (ctxGet live 65535).mode = .dormant ∧ (ctxGet (riding hot) 65535).pinned = true
    ∧ (ctxGet live 65535).mode ≠ .hot ∧ (ctxGet live 65535).mode ≠ .cold ∧ (ctxGet live 65535).pinned = false
    ∧ (ctxGet live 65535).mode ≠ .poisoned ∧ (rider 1).op = 1 ∧ (rider 10).op = 10 := by
  decide +kernel

/-- A device whose lock 255 host function 0 owns. -/
def owning : State := put live [(Reg.TNK_LK_OWNER 255, 0x64)]

theorem witness_LockReads :
    (∀ m ∈ [(0 : Nat), 36, 41], MasterReaches owning m (Reg.TNK_LK 255) ∧ MasterReaches owning m (Reg.TNK_LK 0))
    ∧ bitOf (regGet owning (Reg.TNK_LK_OWNER 0)) 6 = false ∧ bitOf (regGet owning (Reg.TNK_LK_OWNER 255)) 6 = true
    ∧ fld (regGet owning (Reg.TNK_LK_OWNER 255)) 5 0 = 36 ∧ fld (regGet owning (Reg.TNK_LK_OWNER 255)) 5 0 ≠ 41 := by
  decide +kernel

theorem witness_LockWrites :
    Inv owning ∧ MasterReaches owning 36 (Reg.TNK_LK 255) ∧ bitOf (regGet owning (Reg.TNK_LK_OWNER 255)) 6 = true
    ∧ fld (regGet owning (Reg.TNK_LK_OWNER 255)) 5 0 = 36 ∧ bitOf (regGet owning (Reg.TNK_LK_OWNER 0)) 6 = false
    ∧ ∃ t, exec (.lockWrite 36 255) owning = .next t :=
  ⟨⟨by decide +kernel, by decide +kernel, ⟨by decide, by decide +kernel, fun _ h => nomatch h⟩⟩, by decide +kernel, by decide +kernel,
    by decide +kernel, by decide +kernel, _, rfl⟩

/-- A device with a handover of bank 63 to engine 31 pending, asked for by the supervisor, and a mailbox channel 63. -/
def leasing : State :=
  { put live [(Reg.TNK_LEASE_STAT, 0x83F003), (Reg.MBX_BIND 63, 0x2423), (Reg.TNK_HOST_RIGHTS, 0xF), (Reg.TNK_BANK 0, 0x12900)] with
    tnk := { live.tnk with pend := [(63, some { leased := true, owner := 31, master := 32 })] } }

theorem witness_TankLeaseAndMailboxEffects :
    (tankAllowed leasing 32 0x3FFFF8 8 false = true ∧ poisonOf leasing 0x3FFFF8 = none ∧ tankOld leasing 32 0x3FFFF8 = none
      ∧ (let s := { leasing with tnk := { leasing.tnk with poison := [(0x3FFFF8 / 8, some 1)] } }; UnitRuns s 3 ∧ tankAllowed s 32 0x3FFFF8 8 false = true
          ∧ tankOld s 32 0x3FFFF8 = none ∧ poisonOf s 0x3FFFF8 ≠ none) ∧ tankAllowed leasing 32 0 1 true = true
      ∧ tankAllowed leasing 0 0 8 false = false ∧ UnitRuns leasing 3)
    ∧ (∀ m ∈ [(0 : Nat), 32, 36, 41], MasterReaches leasing m Reg.TNK_LEASE ∧ m ≠ 33 ∧ m ≠ 35)
    ∧ tabGet (fun _ => none) leasing.tnk.pend 63 = some { leased := true, owner := 31, master := 32 }
    ∧ (let u := regSet { leasing with tnk := { leasing.tnk with pend := [] } } (Reg.TNK_BANK 63) (BitVec.ofNat 32 (b2n true * 65536 + 31 * 256));
        fld (regGet u Reg.TNK_LEASE_STAT) 17 12 = 63 ∧ fld (regGet u Reg.TNK_LEASE_STAT) 1 0 = 3 ∧ fld (regGet u Reg.TNK_LEASE_STAT) 23 18 = 32)
    ∧ HostSees leasing Reg.TNK_LK_FORCE ∧ fld 0x4C4B00FF 31 16 = 0x4C4B ∧ regBit leasing Reg.TNK_HOST_RIGHTS 3 = true ∧ fld 1 31 16 ≠ 0x4C4B := by
  decide +kernel

theorem witness_TankLeaseAndMailboxEffects_mailbox :
    (∀ m ∈ [(0 : Nat), 35, 36], MasterReaches leasing m (0xF00040 + 0x80 * 63) ∧ MasterReaches leasing m (0xF00044 + 0x80 * 63))
    ∧ mbxSender leasing 63 = 35 ∧ mbxReceiver leasing 63 = 36 ∧ mbxSender leasing 63 ≠ 36 ∧ mbxReceiver leasing 63 ≠ 35
    ∧ (let s := { put leasing [(Reg.MBX_CH_STAT 63, 5), (Reg.PWR_DOMAIN_STAT 2, 0)] with
          mbx := [(63, { mbx0 with wakeLimit := some 9 })], run := 9 };
        UnitRuns s 3 ∧ (mbxGet s 63).wakeLimit = some 9 ∧ mbxState s 63 = 1 ∧ 9 ≤ s.run ∧ domOn s (masterDomain (mbxReceiver s 63)) = false
        ∧ mbxOrphan s 63 = false ∧ mbxOrphan (put s [(Reg.MBX_CH_STAT 63, 13)]) 63 = true
        ∧ domOn (put s [(Reg.PWR_DOMAIN_STAT 2, 2)]) (masterDomain (mbxReceiver s 63)) = true ∧ { s with run := 8 }.run < 9) := by
  decide +kernel

/-- A device whose flume engine 47 is as given, with OUT_COUNT 4 and an instruction word at address 0. -/
def flume (w : Nat) (x : FlumeEng) : State :=
  { put live [(Reg.FLM_ENG_PINS 47, 0x400), (Reg.FLM_PROG 47 0, BitVec.ofNat 32 w)] with
    clk := { live.clk with replicaOk := [(14, true)] }, flm := { live.flm with cycle := 1, eng := [(47, x)] } }

/-- A running engine, and a thing it may wait for. -/
def running : FlumeEng := { flumeEng0 with mode := .running }
def stalledOn (op : FlumeOp) : FlumeEng := { flumeEng0 with mode := .stalled, rest := some (rest0 op 0 []) }

theorem witness_FlumeControlEffects :
    HostSees live (Reg.FLM_ENG_CTL 47) ∧ bitOf 0 1 = false ∧ bitOf 0 0 = false ∧ flmBusy (flume 0 running) 47 = true ∧ flmBusy live 47 = false
    ∧ HostSees (flume 0 running) (Reg.FLM_ENG_CTL 47) ∧ replicaReady live 14 = false ∧ replicaReady (flume 0 flumeEng0) 14 = true
    ∧ flmBusy (flume 0 flumeEng0) 47 = false
    ∧ 2000000000 < (regGet (put live [(Reg.FLM_ENG_MATCH 47, 2000000001)]) (Reg.FLM_ENG_MATCH 47) - live.clk.ns32).toInt
    ∧ ((regGet (put live [(Reg.FLM_ENG_MATCH 47, 2000000000)]) (Reg.FLM_ENG_MATCH 47) - live.clk.ns32).toInt ≤ 2000000000
      ∧ reached live.clk.ns32 2000000000 = false ∧ reached live.clk.ns32 0 = true)
    ∧ (let s := flume 0 { flumeEng0 with mode := .armed }; UnitRuns s 15 ∧ (fluGet s 47).mode = .armed ∧ replicaReady s 14 = true
        ∧ reached s.clk.ns32 (fluGet s 47).target = true)
    ∧ reached live.clk.ns32 (fluGet (flume 0 { flumeEng0 with mode := .armed, target := 1 }) 47).target = false
    ∧ (let s := put { live with flm := { live.flm with decl := [(1, some 0)] } } [(Reg.FLM_BANK_STAT, 0x8)]; UnitRuns s 15
        ∧ tabGet (fun _ => none) s.flm.decl 1 = some 0 ∧ regFld s Reg.FLM_BANK_STAT 4 3 = 0 + 1
        ∧ regFld live Reg.FLM_BANK_STAT 4 3 ≠ 0 + 1 ∧ regBit live Reg.FLM_BANK_STAT 5 = false) := by
  decide +kernel

theorem witness_FlumeControlEffects_queues :
    HostSees live (Reg.FLM_TXQ 47) ∧ HostSees live (Reg.FLM_RXQ 47) ∧ ringLog2 live 47 true = 0 ∧ (fluGet live 47).txq.length < txCap live 47
    ∧ txCap live 47 ≤ (fluGet (flume 0 { running with txq := List.replicate 8 0 }) 47).txq.length ∧ (fluGet live 47).rxq = []
    ∧ (fluGet (flume 0 { running with rxq := [5] }) 47).rxq = 5 :: [] ∧ ringLog2 live 47 false = 0
    ∧ ringLog2 (put live [(Reg.FLM_DMA_CTL 47, 0x44)]) 47 false ≠ 0 ∧ HostSees live Reg.FLM_FLAG_SET ∧ HostSees live Reg.FLM_FLAG_CLR
    ∧ (flume 0 running).flm.cycle ≠ (flume 0 running).run / 4
    ∧ (HostSees live (Reg.FLM_ENG_SHIFT 47) ∧ flmConfig live (Reg.FLM_ENG_SHIFT 47) = some (some 47, 0x3F3F3F7E, true)
      ∧ (true && locked live (Reg.FLM_ENG_SHIFT 47)) = false ∧ 0xF04200 ≤ Reg.FLM_ENG_SHIFT 47
      ∧ (true && locked (put live [(Reg.FLM_LOCK, 1)]) (Reg.FLM_ENG_SHIFT 47)) = true)
    ∧ (let s := put live [(Reg.FLM_PIN_CFG 63, 0x2F000000)]; HostSees s (Reg.FLM_PIN_CFG 63)
        ∧ flmConfig s (Reg.FLM_PIN_CFG 63) = some (some 47, 0xFF033F03, true) ∧ 0xF04100 ≤ Reg.FLM_PIN_CFG 63 ∧ Reg.FLM_PIN_CFG 63 < 0xF04200)
    ∧ HostSees live (Reg.FLM_DMA_CTL 47) := by
  decide +kernel

theorem witness_FlumeInstructionsThatEnd :
    (∀ w ∈ [0x0FFF, (fWord 1 15 15 15).toNat, (fWord 2 15 15 0).toNat, (fWord2 8 2 0x33F).toNat, (fWord2 9 3 0x3F).toNat,
        (fWord2 10 0 (fFlag 0 true 31)).toNat, (fWord2 10 1 (fFlag 0 false 31)).toNat, (fWord2 11 3 0x3FF).toNat, (fWord2 12 3 0x200).toNat,
        (fWord 13 9 0 0).toNat, (fWord 13 1 0 0).toNat, (fWord 13 3 0 0).toNat, 0x2001, 0xF000],
      FlumeIssues (flume w running) 47 (BitVec.ofNat 16 w))
    ∧ brHolds { flume 0 running with flm := { (flume 0 running).flm with ball := 0 } } 47 0 = true
    ∧ brHolds { flume 0 running with flm := { (flume 0 running).flm with ball := 0 } } 47 9 = false
    ∧ flmK running 3 - 1 ≠ 0 ∧ flmK (flmSetK running 3 1) 3 - 1 = 0
    ∧ txqSeen (flume 0 running) 47 = [] ∧ txqSeen (flume 0 { running with txq := [1], txNew := (9, 1) }) 47 = 1 :: []
    ∧ txCap (flume 0 running) 47 ≠ 0 ∧ rxCap (flume 0 running) 47 ≠ 0 ∧ rxqRoom (flume 0 running) 47 = true
    ∧ rxqRoom (flume 0 { running with rxq := List.replicate 8 0 }) 47 = false
    ∧ flumeIllegal (outCount (flume 0 running) 47) 0x2001 = true ∧ flumeIllegal (outCount (flume 0 running) 47) 0x2000 = false := by
  decide +kernel

theorem witness_FlumeInstructionsThatMayStall :
    (∀ w ∈ [(fWord 13 0 0 0).toNat, (fWord 13 4 0 0).toNat, (fWord 13 2 0 0).toNat, (fWord 13 5 0 0).toNat, (fWord 13 6 0 0).toNat,
        (fWord 3 15 3 (invBits true)).toNat, (fWord 3 0 4 0).toNat, (fWord 5 15 15 0).toNat, (fWord 13 8 0 0).toNat, (fWord2 14 3 0).toNat,
        (fWord 13 7 0 0).toNat, (fWord 6 15 0 0).toNat, (fWord 4 15 15 (invBits true)).toNat, (fWord 7 (waitBits 0 true false) 0 15).toNat,
        (fWord 7 (waitBits 1 true false) 0 15).toNat, (fWord2 7 2 (fFlag 12 true 31)).toNat, (fWord2 7 3 0).toNat, (fWord2 10 2 (fFlag 0 true 31)).toNat],
      FlumeIssues (flume w running) 47 (BitVec.ofNat 16 w))
    ∧ (let s := put (flume 0 running) [(Reg.FLM_ENG_SHIFT 47, 0x40)]; txCap s 47 = 0 ∧ rxCap s 47 ≠ 0)
    ∧ (let s := put (flume 0 running) [(Reg.FLM_ENG_SHIFT 47, 0x20)]; txCap s 47 ≠ 0 ∧ rxCap s 47 = 0)
    ∧ outCount (flume 0 running) 47 ≤ 4 ∧ 3 < outCount (flume 0 running) 47
    ∧ (let s := put (flume 0xE000 running) [(Reg.FLM_ENG_SHIFT 47, 8)]; (fluGet s 47).sc = 0 ∧ regBit s (Reg.FLM_ENG_SHIFT 47) 3 = true
        ∧ txCap s 47 ≠ 0 ∧ txqSeen s 47 = [] ∧ FlumeIssues s 47 0xE000)
    ∧ ((fluGet (flume 0 running) 47).sc = 0 ∧ regBit (flume 0 running) (Reg.FLM_ENG_SHIFT 47) 3 = false)
    ∧ (fluGet (flume 0 running) 47).k3.toNat / 2 = 0 ∧ (fluGet (flume 0 { running with k3 := 2 }) 47).k3.toNat / 2 ≠ 0 := by
  decide +kernel

theorem witness_FlumeInstructionsThatMayStall_waits :
    pinRead { flume 0 running with flm := { (flume 0 running).flm with ball := 0 } } (inPin (flume 0 running) 47 0) = false
    ∧ (-4 ≤ (0xFFFFFFFC - (flume 0 running).clk.ns32 : Word).toInt ∧ (4 - (flume 0 running).clk.ns32 : Word).toInt ≤ 4)
    ∧ flagReady (flume 0 running) 47 true false 31 = false ∧ flagReady (flume 0 running) 47 false true 31 = true
    ∧ markReached (flume 0 running) 47 = true ∧ markReached (flume 0 { running with mark := 1 }) 47 = false
    ∧ (let s := flume 0 (stalledOn .deposit); UnitRuns s 15 ∧ (fluGet s 47).rest = some (rest0 .deposit 0 []) ∧ (fluGet s 47).mode = .stalled
        ∧ atTick s 47 = true)
    ∧ (let s := flume 0 { stalledOn .waitMark with due := 1 }; (fluGet s 47).rest = some (rest0 .waitMark 0 []) ∧ markReached s 47 = true)
    ∧ atTick (flume 0 { stalledOn .deposit with due := 1 }) 47 = false ∧ (FlumeOp.deposit ≠ .waitMark) := by
  decide +kernel

/-- Engine 47 with its rings in banks 0 to 2 of tank memory, leased to the flume DMA or not. -/
def ringing (lease : Word) : State :=
  put (flume 0 { running with rxq := [1] }) [(Reg.FLM_DMA_CTL 47, 0x44), (Reg.TNK_BANK 0, lease), (Reg.TNK_BANK 1, lease), (Reg.TNK_BANK 2, lease)]

theorem witness_FlumeDmaEffects :
    UnitRuns (ringing 0) 15 ∧ ringLog2 (flume 0 running) 47 true = 0 ∧ ringLog2 (flume 0 running) 47 false = 0
    ∧ (let s := ringing 0; ringLog2 s 47 true ≠ 0 ∧ (fluGet s 47).txStopped = false ∧ (fluGet s 47).txq.length < txCap s 47
        ∧ (dmaRead s (ringBase s 47 true)).1 = none ∧ (dmaRead s (ringBase s 47 false + 8)).1 = none)
    ∧ (let s := ringing 0x12900; (dmaRead s (ringBase s 47 true)).1 = some 0 ∧ (dmaRead s (ringBase s 47 false + 8)).1 = some 0
        ∧ ringLog2 s 47 false ≠ 0 ∧ (fluGet s 47).rxStopped = false ∧ (fluGet s 47).rxq ≠ []
        ∧ (fluGet s 47).txGet ≠ 1 ∧ (dmaRead s (ringBase s 47 true + 16 + 4 * ((fluGet s 47).txGet.toNat % 16))).1 = some 0) := by
  decide +kernel

theorem witness_IncrementWritesTakeEffectTogether :
    Disciplines disciplined 36 Reg.TIM_INCR_FRAC ∧ Disciplines disciplined 36 Reg.TIM_INCR_INT ∧ ClockOk disciplined.clk
    ∧ disciplined.clk.slew = none ∧ ((1 : Word).setWidth 8 = disciplined.clk.incInt) ∧ (0 : Word).setWidth 8 = 0#8 :=
  ⟨by decide +kernel, by decide +kernel, ⟨by decide, by decide +kernel, fun _ h => nomatch h⟩, rfl, by decide +kernel, rfl⟩
/-- A device whose host function 3 has registers of a queue set. -/
def queued (kind q : Nat) (ctl doorbell count : Word) : State :=
  put live [(qCtl 3 kind q, ctl), (qDoorbell 3 kind q, doorbell), (qCount 3 kind q, count)]

theorem witness_HostQueueEffects :
    (HostSees live (hostQ 0 2 7 12) ∧ queueExists 2 7 = true ∧ queueExists 0 3 = true ∧ HostSees live (hostQ 0 1 3 12))
    ∧ (let s := queued 2 7 0x84000000 0 0; qDiff 16 (regGet s (qCount 3 2 7)) ≤ qSize s 3 2 7
        ∧ qDiff (regGet s (qDoorbell 3 2 7)) (regGet s (qCount 3 2 7)) ≤ qDiff 16 (regGet s (qCount 3 2 7))
        ∧ qSize s 3 2 7 < qDiff 17 (regGet s (qCount 3 2 7)))
    ∧ (let s := queued 1 3 0x84000000 0 16; qDiff (regGet s (qCount 3 1 3)) 0 ≤ qSize s 3 1 3
        ∧ qDiff (regGet s (qCount 3 1 3)) 0 ≤ qDiff (regGet s (qCount 3 1 3)) (regGet s (qDoorbell 3 1 3))
        ∧ qSize s 3 1 3 < qDiff (regGet s (qCount 3 1 3)) 0xFFFFFFFF)
    ∧ (HostSees live (hostQ 0 3 7 8) ∧ queueExists 3 7 = true ∧ fld 0x83000000 27 24 < 4 ∧ fld 0x84000000 23 16 = 0 ∧ 4 ≤ fld 0x84010000 27 24
      ∧ fld 0x84010000 23 16 ≠ 0 ∧ qLocked live 3 3 7 = false ∧ bitOf (regGet live (qCtl 3 1 3)) 31 = false)
    ∧ (let s := queued 2 7 0x84000000 4 0; fetchTurn s = some (3, subKind 1, 7)) ∧ fetchTurn live ≠ some (3, subKind 1, 7) := by
  decide +kernel

/-- Function 3 with a command in SQ 3. -/
def commanded (b : List Byte) : State := fnSet live 3 { hostFn0 with sq := [(3, [{ index := 0, bytes := b, started := false }])] }

theorem witness_HostQueueEffects_commands :
    (sqNext (commanded (zeros 64)) 3 3 = some { index := 0, bytes := zeros 64, started := false } ∧ sqStatus (zeros 64) = 0 ∧ leAt (zeros 64) 0 1 = 0
      ∧ HostUnitRuns (commanded (zeros 64)))
    ∧ (let b := [3] ++ zeros 7 ++ [0x49, 0x57, 1] ++ zeros 53; sqStatus b = 0 ∧ leAt b 0 1 = 3)
    ∧ (let b := [1] ++ zeros 63; sqList (commanded b) 3 3 = { index := 0, bytes := b, started := false } :: [] ∧ leAt b 0 1 = 1 ∧ sqStatus b = 0
        ∧ cqHeld (commanded b) 3 (qCq (commanded b) 3 0 3) = [] ∧ qOn (commanded b) 3 1 (qCq (commanded b) 3 0 3) = false ∧ leAt b 8 1 = 0)
    ∧ (let b := [1] ++ zeros 7 ++ [1] ++ zeros 55; sqStatus b = 0 ∧ leAt b 8 1 = 1) ∧ sqNext live 3 3 = none
    ∧ (let s := put live [(qCtl 3 1 0, 0x84010000)]; qOn s 3 1 0 = true ∧ cqRoom s 3 0 = true) := by
  decide +kernel

/-- Function 3 with a descriptor in TX ring 7. -/
def sending (d : TxDesc) (bm : Bool) : State := runs (fnSet live 3 { hostFn0 with tx := [(7, [d])], busMaster := bm }) [sec 2 [1]]

/-- A descriptor of 60 bytes. -/
def desc1 : TxDesc := { index := 0, bytes := zeros 8 ++ leBytes 2 60 ++ zeros 22, reading := false, old := false }

/-- A frame waits at the host port of function 0. -/
def receiving : State := { live with cis := { live.cis with
  frames := [(4, some { frame1 with inHand := false, refs := 1 })], queues := [(queueKey 200 0 0, [{ handle := 4, since := 0, siphon := none }])] } }

theorem witness_HostFunctionEffects :
    (let s := sending desc1 true; HostUnitRuns s ∧ txRing s 3 7 = desc1 :: [] ∧ txDescBad s desc1.bytes = false ∧ (fnGet s 3).busMaster = true)
    ∧ (let s := sending desc1 false; HostUnitRuns s ∧ txDescBad s desc1.bytes = false ∧ (fnGet s 3).busMaster = false)
    ∧ txDescBad (sending desc1 true) (zeros 32) = true ∧ txRing (sending { desc1 with reading := true } true) 3 7 = { desc1 with reading := true } :: []
    ∧ HostUnitRuns receiving
    ∧ (rxPick 0 ((List.range 8).map (fun i => (tabGet (fun _ => 0) receiving.cis.turn (200 + 0) + i) % 8)) receiving).1
      = some (0, 0, { handle := 4, since := 0, siphon := none })
    ∧ hostReach live 0 = true ∧ resyncOf live 3 = false
    ∧ resyncOf { put live [(Reg.HST_RESYNC_STATUS, 1)] with hst := { live.hst with resyncFunc := 3 } } 3 = true := by
  decide +kernel

theorem witness_HostFunctionEffects_msix :
    (let s := put (fnSet live 3 { hostFn0 with msixEnable := true }) [(msixPba 3 255, 0x80000000)]
     let t := regSetFld s (msixCtl 3 255) 0 0 0
     HostSees s (Reg.MSIX_CTL 255) ∧ (fnGet t 3).msixEnable = true ∧ regBit t (msixPba 3 255) (255 % 32) = true)
    ∧ (fnGet (regSetFld live (msixCtl 3 255) 0 0 0) 3).msixEnable = false ∧ HostSees live (Reg.MSIX_CTL 255) := by
  decide +kernel

/-- A device in a state of RESYNC. -/
def resync (st : Word) : State := put live [(Reg.HST_RESYNC_STATUS, st)]

theorem witness_ResyncEffects :
    HostSees live Reg.HST_RESYNC ∧ resyncState live ≠ 1 ∧ resyncState live ≠ 2 ∧ (1 : Word) ≠ 0x5253594E ∧ (1 : Word) ≠ 0x5245534D
    ∧ (HostSees (resync 1) Reg.HST_RESYNC ∧ resyncState (resync 1) = 1 ∧ UnitRuns (resync 1) 2 ∧ resyncQuiet (resync 1) = true)
    ∧ resyncState (resync 2) = 2 ∧ 3 ≤ resyncState (resync 3) ∧ resyncState (resync 2) < 3
    ∧ (resync 1).hst.resyncAt = (resync 1).run / 2 ∧ (resync 1).hst.resyncFunc ≤ 3
    ∧ (let s := { resync 1 with hst := { live.hst with resyncFunc := 3 } }; resyncState s = 1 ∧ s.hst.resyncAt = s.run / 2 ∧ 2 < s.hst.resyncFunc)
    ∧ (let s := { sending desc1 true with regs := (resync 1).regs }; resyncState s = 1 ∧ resyncQuiet s = false ∧ UnitRuns s 2) := by
  decide +kernel

theorem witness_ResyncEffects_summary :
    (let s := { resync 2 with hst := { live.hst with summary := zeros 16320 } }; UnitRuns s 2 ∧ resyncState s = 2 ∧ s.hst.summary.length = 16320)
    ∧ (let s := { resync 2 with hst := { live.hst with summary := zeros 16384 } }; HostUnitRuns s ∧ resyncState s = 2 ∧ s.hst.summary.length = 16384) :=
  ⟨⟨by decide +kernel, by decide +kernel, List.length_replicate⟩, by decide +kernel, by decide +kernel, List.length_replicate⟩

/-- A twin whose culvert runs, with CUL_STAT as given. -/
def twin (stat : Word) (c : CulState) : State :=
  { put (runs live [sec 14 ([1, 1, 0, 15] ++ leBytes 4 1 ++ zeros 24), sec 1 (zeros 56 ++ [15])]) [(Reg.CUL_STAT, stat)] with cul := { c with started := true } }

theorem witness_CulvertLinkEffects :
    (∀ n ∈ [(0 : Nat), 3], let s := twin 0 live.cul; UnitRuns s 16 ∧ culRuns s = true ∧ nbit (culLanes s) n = true ∧ culBit s (24 + n) = false
      ∧ culLinkUp s = false ∧ culPaired (culRaise (culBitSet s (24 + n) true) 10) = false)
    ∧ (let s := twin 0x07000000 live.cul; culLinkUp s = true ∧ culBit s 26 = true ∧ culBit s 27 = false ∧ culPaired s = false)
    ∧ (let s := { twin 0x01000000 live.cul with run := 10000000 }; s.cul.identFrom + 10000000 ≤ s.run ∧ culLinkUp s = true ∧ culRuns s = true
        ∧ culPaired s = false)
    ∧ (let s := { twin 0x01001000 live.cul with run := 99900 }; culPaired s = true ∧ s.cul.hbFrom + 99900 ≤ s.run)
    ∧ ((zeros 4).length < 5 ∧ zeros 128 ≠ culSeal ((zeros 128).take 124))
    ∧ (let m := culSeal ([1] ++ zeros 123); 5 ≤ m.length ∧ m = culSeal (m.take (m.length - 4)) ∧ leAt m 0 1 = 1 ∧ m.length = 128)
    ∧ (let m := culSeal ([2] ++ zeros 59); m = culSeal (m.take (m.length - 4)) ∧ leAt m 0 1 = 2 ∧ m.length = 64) := by
  decide +kernel

theorem witness_CulvertLinkEffects_messages :
    (let m := culSeal ([3] ++ zeros 3 ++ [2] ++ zeros 11); 5 ≤ m.length ∧ m = culSeal (m.take (m.length - 4)) ∧ leAt m 0 1 = 3
      ∧ leAt m 4 4 ≠ (live.cul.lseqIn + 1) % 2 ^ 32)
    ∧ (let m := culSeal ([4] ++ zeros 3 ++ [1] ++ zeros 11); m = culSeal (m.take (m.length - 4)) ∧ leAt m 0 1 = 4
      ∧ leAt m 4 4 = (live.cul.lseqIn + 1) % 2 ^ 32)
    ∧ (let s := { twin 0x01001000 live.cul with run := 300001 }; UnitRuns s 16 ∧ culRuns s = true ∧ culPaired s = true ∧ culLinkUp s = true
      ∧ s.cul.lossFrom + 300000 < s.run ∧ { s with run := 300000 }.run ≤ s.cul.lossFrom + 300000) := by
  decide +kernel

theorem witness_TwinRoleEffects :
    (∀ x ∈ [((2999, 3) : Nat × Nat), (3000, 1), (8000, 1), (14000, 2), (28000, 2), (28001, 3), (60001, 3)],
      (if 3000 ≤ x.1 - 0 ∧ x.1 - 0 ≤ 8000 then 1 else if 14000 ≤ x.1 - 0 ∧ x.1 - 0 ≤ 28000 then 2 else 3) = x.2)
    ∧ (let s := twin 0 { live.cul with wireEdge := some 0, wireLast := 1 }; UnitRuns s 16 ∧ s.cul.wireEdge = some 0 ∧ 1 = s.cul.wireLast
      ∧ 2 ≠ s.cul.wireLast ∧ 0 + 60000 < { s with run := 60001 }.run ∧ { s with run := 60000 }.run ≤ 0 + 60000)
    ∧ (let s := { twin 1 { live.cul with wireClaim := some 0 } with run := 5000000000 }; culRole s = 1 ∧ culPaired s = false ∧ s.cul.wireClaim = some 0
      ∧ max 0 s.cul.pairFrom + pairWait s ≤ s.run)
    ∧ (let s := { twin 1 live.cul with run := 5000000000 }; culRole s = 1 ∧ s.cul.wireClaim = none ∧ s.cul.pairRaised = false
      ∧ s.cul.pairFrom + pairWait s ≤ s.run)
    ∧ (let s := put { twin 0x01001A03 { live.cul with settleFrom := some 0 } with run := 1000000 } [(Reg.TIM_SYNC_STATE, 2)]; s.cul.settleFrom = some 0
      ∧ culRole s = 3 ∧ culBit s 11 = true ∧ healthy s = true ∧ regBit s Reg.CUL_CTL 1 = false
      ∧ flatByte s 14 1 ≠ 0 ∧ 0 + flatField s 14 4 4 * 1000000 ≤ s.run ∧ { s with run := 999999 }.run < 0 + flatField s 14 4 4 * 1000000)
    ∧ (let s := { twin 2 { live.cul with handover := some 0, replay := [] } with run := 1000000 }; UnitRuns s 16 ∧ s.cul.handover = some 0
      ∧ s.cul.replay = [])
    ∧ (let s := { twin 2 { live.cul with handover := some 0, replay := [{ bytes := [], lseq := 0 }] } with run := 999999 };
        s.cul.replay ≠ [] ∧ s.run < 0 + 1000000) := by
  decide +kernel

theorem witness_TwinRoleEffects_commands :
    HostSees live Reg.CUL_CMD ∧ fld 0x43550001 31 16 = 0x4355 ∧ fld 1 31 16 ≠ 0x4355
    ∧ (culRole (regSetFld (twin 2 live.cul) Reg.CUL_CMD_STAT 2 0 1) ≠ 0 ∧ culRole (regSetFld live Reg.CUL_CMD_STAT 2 0 1) = 0)
    ∧ (culRole (twin 5 live.cul) = 5 ∧ culRole live ≠ 5) ∧ live.sen.busy = none ∧ live.cul.identSeen = false
    ∧ (let s := twin 5 { live.cul with identSeen := true }; s.cul.identSeen = true ∧ s.sen.busy = none ∧ HostSees s Reg.CUL_CMD)
    ∧ { live.sen with busy := some .unbind }.busy ≠ none
    ∧ (let s := { twin 0x1002 live.cul with run := 10000000 }; culRole s = 2 ∧ culPaired s = true ∧ s.cul.timeFrom + 10000000 ≤ s.run) := by
  decide +kernel

/-- A frozen device. -/
def frozen (t : Word) (start : Nat) (pin due : Bool) : State :=
  { put live [(Reg.FRZ_AUTOTHAW, t)] with now := 1000000, frz := { live.frz with frozen := true, startAt := start, pinLow := pin, autoDue := due } }

theorem witness_FreezeAndJtagEffects :
    (live.frz.frozen = false ∧ live.pwr.porstLow = false ∧ live.pwr.deep = false ∧ regBit live Reg.GLB_STATUS 0 = true)
    ∧ (HostSees live Reg.FRZ_CTL ∧ locked live Reg.FRZ_CTL = false ∧ fld 0x465A0002 31 16 = 0x465A) ∧ live.frz.trigger = none
    ∧ (let s := put live [(Reg.GLB_STATUS, 0)]; regBit s Reg.GLB_STATUS 0 = false)
    ∧ ((frozen 1 0 true true).frz.frozen = true ∧ (frozen 1 0 true true).frz.autoDue = true ∧ live.frz.autoDue = false)
    ∧ (let s := tapSelect (emit (frozen 1 0 false false) (.jtag 32 0)) .frzCtrl; s.frz.frozen = true ∧ s.frz.pinLow = false)
    ∧ (let s := tapSelect (emit (frozen 1 0 true false) (.jtag 32 0)) .frzCtrl; s.frz.frozen = true ∧ s.frz.pinLow = true)
    ∧ (let s := frozen 1 0 false false; s.frz.frozen = true ∧ regFld s Reg.FRZ_AUTOTHAW 15 0 ≠ 0
      ∧ s.frz.startAt + regFld s Reg.FRZ_AUTOTHAW 15 0 * 1000000 ≤ s.now ∧ s.frz.pinLow = false ∧ frzReads s = true)
    ∧ (let s := frozen 1 1 true false; s.now < s.frz.startAt + regFld s Reg.FRZ_AUTOTHAW 15 0 * 1000000 ∧ s.frz.pinLow = true)
    ∧ TapAnswers live ∧ TapAnswers (frozen 1 0 true false) ∧ live.frz.ir ≠ .highz ∧ frzReads live = false
    ∧ (0xFF : BitVec 8).toNat ∉ [1, 2, 3, 4, 5, 0x20, 0x21, 0x22]
    ∧ ((tapSelect (emit live (.jtag 32 (frzCapture live))) .frzCtrl).frz.frozen = false
      ∧ (tapSelect (emit (frozen 1 0 false false) (.jtag 32 0)) .frzCtrl).frz.frozen = true) := by
  decide +kernel

theorem witness_SentinelEffects :
    (HostSees live Reg.SEN_CMD ∧ fld 0x534E0001 31 16 = 0x534E ∧ live.sen.busy = none ∧ regBit live Reg.SEN_LOCK 0 = false ∧ fld 1 31 16 ≠ 0x534E)
    ∧ regBit (put live [(Reg.SEN_LOCK, 1)]) Reg.SEN_LOCK 0 = true
    ∧ (let s := { live with sen := { live.sen with vbat := true, isolated := false, busy := some .ackVbat } }; senUp s = true
      ∧ s.pwr.porstLow = false ∧ s.pwr.deep = false ∧ s.sen.busy = some .ackVbat
      ∧ (senApply { s with sen := { s.sen with busy := none } } .ackVbat).frz.frozen = false
      ∧ (senApply { s with sen := { s.sen with busy := none }, frz := { s.frz with frozen := true } } .ackVbat).frz.frozen = true)
    ∧ { live.sen with vbat := false }.vbat = false
    ∧ (let s := { live with sen := { live.sen with vbat := true, cfg := 0x3 <<< 8, ticks := 100000 } }; s.sen.vbat = true
      ∧ bitOf s.sen.cfg (4 * (2 * 1)) = true ∧ bitOf s.sen.cfg (4 * (2 * 1) + 1) = true ∧ tamperMay s 1 = true
      ∧ bitOf s.sen.cfg (4 * (2 * 1) + 2) = false ∧ bitOf s.sen.cfg (4 * (2 * 1) + 3) = false ∧ bitOf s.sen.cfg 0 = false)
    ∧ HostSees live Reg.SEN_RTC_LO := by
  decide +kernel
/-- What a command leaves, seen through a function. -/
def after {α : Type} (o : Host.Outcome State Fault Refusal) (d : α) (p : State → α) : α :=
  match o with
  | .next t => p t
  | _ => d

/-! ### Ill-formed terms that the checks refuse -/

theorem test_wf_word_addresses :
    (Instr.registerWrite 0 2 0).wf = false ∧ (Instr.registerWrite 0 0x2000000 0).wf = false ∧ (Instr.rcRead 0 1).wf = false
    ∧ (Instr.domainOffAccess 0 3 true).wf = false ∧ (Instr.unalignedAccess 0 0x2000000 true).wf = false
    ∧ (Instr.sluConfigWrite 0 0x900000 0).wf = false ∧ (Instr.cnfRingCtlWrite 0 0x800000 0).wf = false
    ∧ (Instr.flumeConfigWrite 0 0xE00000 0).wf = false ∧ (Instr.registerWrite 0 4 0).wf = true := by decide

theorem test_wf_indices :
    (Instr.correctableEccError .engine 64).wf = false ∧ (Instr.correctableEccError .flumeProgram 48).wf = false
    ∧ (Instr.uncorrectableEccError .tank 0x400000).wf = false ∧ (Instr.fdbAgeRemove 65536).wf = false ∧ (Instr.quarantineTest 0 98304).wf = false
    ∧ (Instr.sluiceRequest 115 ⟨0, 0⟩).wf = false ∧ (Instr.sluiceRequest 0 ⟨42, 0⟩).wf = false ∧ (Instr.sluiceWithdraw 115 0).wf = false
    ∧ (Instr.arbitrationPhase ⟨115, false⟩).wf = false ∧ (Instr.sluSeedWrite 0 115 1).wf = false ∧ (Instr.arbitrationPhase ⟨114, true⟩).wf = true := by decide

theorem test_wf_lengths_and_codes :
    (Instr.inbandStatus 0 true true 3).wf = false ∧ (Instr.frameHeaderArrival 0 []).wf = false
    ∧ (Instr.pfcFrameRx 0 0 [1] true ⟨true, false⟩ 64).wf = false ∧ (Instr.kShi 0 0 1 1 3 0).wf = false
    ∧ (Instr.fRecv 0 1 0 false [0]).wf = false ∧ (Instr.jtagBypass 3).wf = false ∧ (Instr.jtagBypass 0x3F).wf = true
    ∧ (Instr.fRecv 0 1 0 false [0, 0]).wf = true := by decide

theorem test_wf_tank_access :
    (Instr.tankAccess 0 0 0 [] 3).wf = false ∧ (Instr.tankAccess 0 2 0 [] 4).wf = false ∧ (Instr.tankAccess 0 0x400000 0 [] 1).wf = false
    ∧ (Instr.tankAccess 0 0 1 [1] 2).wf = false ∧ (Instr.tankAccess 0 0x3FFFF8 1 [1, 2, 3, 4, 5, 6, 7, 8] 8).wf = true := by decide

theorem test_wf_queues :
    (Instr.submissionDoorbell 0 0 4 0).wf = false ∧ (Instr.queueEnable 0 1 4 0x80000000).wf = false ∧ (Instr.queueEnable 0 0 0 0).wf = false
    ∧ (Instr.queueDisable 0 0 0 0x80000000).wf = false ∧ (Instr.queueFetch 0 0 4 []).wf = false
    ∧ (Instr.queueFetch 0 1 0 (List.replicate 9 [])).wf = false ∧ (Instr.queueEnable 0 3 7 0x80000000).wf = true := by decide

/-! ### One step each, against the spec -/

/-- The front command runs on the rest of the queue. -/
theorem test_step_takes_the_front :
    after (step { State.reset with pending := [.porstRelease 5, .tapReset] }) 0 (fun t => t.pwr.romStep + t.pending.length) = 2 := by decide

/-- R68: the straps are latched. -/
theorem test_porstRelease_straps : after (exec (.porstRelease 9) State.reset) 0 (fun t => regGet t Reg.GLB_STRAP) = 9 := by decide

/-- R5: a misaligned access reads 0 and sets ACCESS_ERR. -/
theorem test_unalignedAccess : after (exec (.unalignedAccess 0 6 true) live) 0 (fun t => regGet t Reg.GLB_CAUSE) = 1 := by decide +kernel

/-- R67: GLB_RESET without its code does nothing. -/
theorem test_glbResetSys_code : after (exec (.glbResetSys 0 1) live) true (fun t => t.pwr.resetRun) = false := by decide +kernel

/-- R50: a revocation without its code is refused. -/
theorem test_imgKeyRevoke_code : after (exec (.imgKeyRevoke 0 1) live) 0 (fun t => regGet t Reg.IMG_CAUSE) = 0x20 := by decide +kernel

/-- Table 3-6: an ON request of an OFF domain starts its sequence and counts a wake. -/
theorem test_domainOnRequest :
    after (exec (.domainOnRequest 10) (domains 0)) 0 (fun t => regGet t (Reg.PWR_DOMAIN_STAT 10)) = 0x10001 := by decide +kernel

/-- R85: PWR_DEEP without its code is refused. -/
theorem test_deepStandbyEnter_code : after (exec (.deepStandbyEnter 0 1) live) true (fun t => t.pwr.deep) = false := by decide +kernel

/-- Table 4-6: a step of 37,000 ns at 812 s 999,980,000 ns, with its carry into SEC and its ns32. -/
theorem test_stepApply :
    after (exec .stepApply { live with clk := { live.clk with
        sec := 812, ns := 999980000, ns32 := 1251161056, held := [.step 37000], wait := 0, frac := 7 } }) (0, 0, 0, 0)
      (fun t => (t.clk.sec.toNat, t.clk.ns.toNat, t.clk.ns32.toNat, t.clk.frac.toNat)) = (813, 17000, 1251198056, 7) := by decide +kernel

/-- R91: the fraction of Table 4-6's example is held until the integer is written. -/
theorem test_timIncrFracWrite :
    after (exec (.timIncrFracWrite 36 0xFFFF2E4A) disciplined) (0, 0) (fun t => (t.clk.staged.toNat, t.clk.incFrac.toNat)) = (0xFFFF2E4A, 0) := by
  decide +kernel

theorem test_timIncrIntWrite :
    after (exec (.timIncrIntWrite 36 0) { disciplined with clk := { disciplined.clk with staged := 0xFFFF2E4A } }) (1, 0)
      (fun t => (t.clk.incInt.toNat, t.clk.incFrac.toNat)) = (0, 0xFFFF2E4A) := by decide +kernel

/-- R93: a set loads SEC and NS and clears FRAC. -/
theorem test_setApply :
    after (exec .setApply { live with clk := { live.clk with frac := 9, held := [.set 5 999999999] } }) (0, 0, 1)
      (fun t => (t.clk.sec.toNat, t.clk.ns.toNat, t.clk.frac.toNat)) = (5, 999999999, 0) := by decide +kernel

/-- R65: a low pulse of 99 ns at PORST_N is ignored, one of 100 ns is taken. -/
theorem test_reset_pulse :
    let low : State := { resetting with now := 98, pwr := { resetting.pwr with porstFrom := some 0 } }
    (tick low).pwr.porstLow = false ∧ (tick { low with now := 99 }).pwr.porstLow = true
    ∧ (match exec (.porstRelease 0) low with | .next s => s.pwr.porstFrom | _ => some 0) = none := by
  decide +kernel

/-- R89: a tick carries from NS into SEC. -/
theorem test_tick_carries :
    (let c := clkTick { State.reset.clk with ns := 999999999, ns32 := 999999999 }; (c.sec.toNat, c.ns.toNat, c.ns32.toNat)) = (1, 0, 1000000000) := by
  decide +kernel

/-- R95: a read of NS latches SEC for its function. -/
theorem test_timNowRead :
    after (exec (.timNowRead 2) { live with clk := { live.clk with sec := 0x300000004, ns := 5 } }) (0, 0, 0)
      (fun t => (t.rdata.toNat, (regGet t (regKey 2 Reg.TIM_NOW_SEC_LO)).toNat, (regGet t (regKey 2 Reg.TIM_NOW_SEC_HI)).toNat)) = (5, 4, 3) := by
  decide +kernel

/-- R123: a lost lane is counted. -/
theorem test_laneSyncLost :
    after (exec (.laneSyncLost 0) linked) 0 (fun t => regGet t (Reg.PRT_LANE_STAT 0)) = 0x10000 := by decide +kernel

/-- R136: MAX_LEN out of range is refused. -/
theorem test_maxlenWrite_range : after (exec (.maxlenWrite 0 3 1517) live) 0 (fun t => regGet t (Reg.PRT_CAUSE 3)) = 0x400 := by decide +kernel

theorem test_maxlenWrite : after (exec (.maxlenWrite 0 3 9216) live) 0 (fun t => regFld t (Reg.PRT_MAXLEN 3) 13 0) = 9216 := by decide +kernel

/-- R147: the read of a counter clears it. -/
theorem test_counterLoRead :
    after (exec (.counterLoRead 1 0 5) (put live [(Reg.PRT_CNT_LO 0 5, 77)])) (0, 1)
      (fun t => (t.rdata.toNat, (regGet t (Reg.PRT_CNT_LO 0 5)).toNat)) = (77, 0) := by decide +kernel

/-- R159: a table command that finds one running is refused. -/
theorem test_tblRead_busy :
    after (exec (.tblRead 0 1) (put live [(Reg.HDG_TBL_STAT, 0x100)])) 0 (fun t => regGet t Reg.HDG_CAUSE) = 0x20 := by decide +kernel

/-- The LFSR of the worked example of chapter 8. -/
theorem test_lfsr : lfsrStep 0x1D2B = 0x8E95 ∧ lfsrStep 0x8E95 = 0x474A ∧ lfsrStep 0x474A = 0xA3A5 ∧ lfsrStep 0xA3A5 = 0xD1D2 := by decide

/-- Phase 1 of that example: confluence wins slot 0 of instance 112. -/
theorem test_arbitrationPhase :
    (sluWinner (put { live with run := 1, slu := { live.slu with raised := [(64 * 112, some (0, 0)), (64 * 112 + 2, some (0, 0))] } }
      [(Reg.SLU_PRIV 112 0, 0x800200C0), (Reg.SLU_POOL 112, 64)]) 112).1 = some 2 := by decide +kernel

/-- Phase 4 of it: the pool wins, and in it the host queue unit. -/
theorem test_arbitrationPhase_pool :
    (sluWinner (put { live with run := 1, slu := { live.slu with raised := [(64 * 112, some (0, 0)), (64 * 112 + 2, some (0, 0))] } }
      [(Reg.SLU_PRIV 112 0, 0x800200C0), (Reg.SLU_POOL 112, 64), (Reg.SLU_SEED 112, 0xA3A5)]) 112).1 = some 0 := by decide +kernel

/-- Register 3 of the thread after an instruction. -/
def w3 (o : Host.Outcome State Fault Refusal) : Word := after o 0xDEAD (fun t => wGet (thrGet t 31 15).regs 3)

/-- A thread with an instruction word and two registers. -/
def two (w a b : Word) : State := kuern w { thread0 with regs := [(1, a), (2, b)] }

theorem test_kSub_wraps : w3 (exec (.kSub 31 15 3 1 2) (two (kR 1 3 1 2 1) 0 1)) = 0xFFFFFFFF := by decide +kernel
theorem test_kSra_keeps_the_sign : w3 (exec (.kSra 31 15 3 1 2) (two (kR 1 3 1 2 7) 0x80000000 33)) = 0xC0000000 := by decide +kernel
theorem test_kMulh_signs : w3 (exec (.kMulh 31 15 3 1 2) (two (kR 1 3 1 2 11) 0xFFFFFFFF 1)) = 0xFFFFFFFF := by decide +kernel
theorem test_kMulhu : w3 (exec (.kMulhu 31 15 3 1 2) (two (kR 1 3 1 2 12) 0xFFFFFFFF 0xFFFFFFFF)) = 0xFFFFFFFE := by decide +kernel
theorem test_kDiv_overflow : w3 (exec (.kDiv 31 15 3 1 2) (two (kR 1 3 1 2 13) 0x80000000 0xFFFFFFFF)) = 0x80000000 := by decide +kernel
theorem test_kRem_sign : w3 (exec (.kRem 31 15 3 1 2) (two (kR 1 3 1 2 15) 0xFFFFFFF9 2)) = 0xFFFFFFFF := by decide +kernel
theorem test_kDivu_by_zero : w3 (exec (.kDivu 31 15 3 1 2) (two (kR 1 3 1 2 14) 7 0)) = 0xFFFFFFFF := by decide +kernel
theorem test_kBswap : w3 (exec (.kBswap 31 15 3 1) (two (kR 1 3 1 0 17) 0x12345678 0)) = 0x78563412 := by decide +kernel
theorem test_kClz_of_zero : w3 (exec (.kClz 31 15 3 1) (two (kR 1 3 1 0 18) 0 0)) = 32 := by decide +kernel
theorem test_kSlt_signed : w3 (exec (.kSlt 31 15 3 1 2) (two (kR 1 3 1 2 8) 0xFFFFFFFF 1)) = 1 := by decide +kernel
theorem test_kAddi_sign_extends : w3 (exec (.kAddi 31 15 3 1 0xFFFF) (two (kI 2 3 1 0xFFFF) 5 0)) = 4 := by decide +kernel
theorem test_kLui : w3 (exec (.kLui 31 15 3 0x4000) (two (kI 9 3 0 0x4000) 0 0)) = 0x40000000 := by decide +kernel
theorem test_kExt : w3 (exec (.kExt 31 15 3 1 8 7) (two (kI 10 3 1 (kPosLen 8 7)) 0x12345678 0)) = 0x56 := by decide +kernel
theorem test_kIns : w3 (exec (.kIns 31 15 3 1 28 7) (two (kI 11 3 1 (kPosLen 28 7)) 0xFF 0)) = 0xF0000000 := by decide +kernel
theorem test_kLhbe : w3 (exec (.kLhbe 31 15 3 0 0 none) (kuernMem (kI 0x16 3 0 0) [0x12, 0x34] thread0)) = 0x1234 := by decide +kernel
theorem test_kLb_sign : w3 (exec (.kLb 31 15 3 0 1 none) (kuernMem (kI 0x10 3 0 1) [0, 0x80] thread0)) = 0xFFFFFF80 := by decide +kernel

/-- R331: a command whose word does not stand at the thread's PC has no effect. -/
theorem test_kAdd_other_word :
    after (exec (.kAdd 31 15 3 1 2) (two (kR 1 3 1 2 1) 1 2)) (1, 9)
      (fun t => ((wGet (thrGet t 31 15).regs 3).toNat, (thrGet t 31 15).pc.toNat)) = (0, 0) := by decide +kernel

/-- Table 13-13: the words of its program. -/
theorem test_words_of_the_example :
    [kI 9 5 0 0x4000, kI 2 6 0 7, kR 0x30 4 6 0 16, kI 0x21 4 0 0xFFFF, kI 0x14 8 5 0x1000, kI 2 8 8 1, kI 0x1A 8 5 0x1000, kR 0x30 0 6 0 17]
      = [0x24A04000, 0x08C00007, 0xC0860010, 0x8480FFFF, 0x51051000, 0x09080001, 0x69051000, 0xC0060011] := by decide +kernel

/-- R328: a write of w0 is discarded and PC advances. -/
theorem test_kAdd_to_w0 :
    after (exec (.kAdd 31 15 0 1 2) (two (kR 1 0 1 2 0) 1 2)) (1, 0)
      (fun t => ((wGet (thrGet t 31 15).regs 0).toNat, (thrGet t 31 15).pc.toNat)) = (0, 1) := by
  decide +kernel

/-- Table 13-13, word 3: BNE w4, w0, −1 is taken when w4 is 4. -/
theorem test_kBne_taken :
    after (exec (.kBne 31 15 4 0 0xFFFF) (kuern (kI 0x21 4 0 0xFFFF) { thread0 with regs := [(4, 4)], pc := 3 })) 0
      (fun t => (thrGet t 31 15).pc.toNat) = 2 := by
  decide +kernel

/-- R335: a jump links the next instruction. -/
theorem test_kJal : w3 (exec (.kJal 31 15 3 0x1FFFFE) (kuern (kJ 0x26 3 0x1FFFFE) { thread0 with pc := 9 })) = 10 := by decide +kernel

/-- Table 13-14: the free lock 7 answers 0, and the held one its owner's number plus 1. -/
theorem test_lockRead_free : after (exec (.lockRead 3 7) live) 9 (fun t => t.rdata.toNat) = 0 := by decide +kernel
theorem test_lockRead_held : after (exec (.lockRead 20 7) (put live [(Reg.TNK_LK_OWNER 7, 0x43)])) 9 (fun t => t.rdata.toNat) = 4 := by
  decide +kernel

/-- R384: the owner's write frees the lock. -/
theorem test_lockWrite : after (exec (.lockWrite 3 7) (put live [(Reg.TNK_LK_OWNER 7, 0x43)])) 9 (fun t => regGet t (Reg.TNK_LK_OWNER 7)) = 0 := by
  decide +kernel

/-- R378: the supervisor's store lands in little-endian order of its bytes. -/
theorem test_tankAccess_store :
    after (exec (.tankAccess 32 0x1000 1 [1, 2] 2) live) [] (fun t => t.tnk.mem) = [(0x1000, 1), (0x1001, 2)] := by decide +kernel

/-- Table 15-8 at 2017: the ACK of MB21 with CODE 0 and VALUE 1 is read as 0x0001_0100, and the channel is EMPTY. -/
theorem test_mbxAckRead :
    after (exec (.mbxAckRead 12 21) (put live [(Reg.MBX_BIND 21, 0x050C), (Reg.MBX_CH_STAT 21, 0x00010043)])) (0, 9)
      (fun t => (t.rdata.toNat, mbxState t 21)) = (0x00010100, 0) := by decide +kernel

/-- R402: SETK and LOOP of a flume engine. -/
theorem test_fSetk : after (exec (.fSetk 47 2 0x3FF) (flume (fWord2 11 2 0x3FF).toNat running)) 0 (fun t => (fluGet t 47).k2.toNat) = 0x3FF := by decide +kernel
theorem test_fLoop :
    after (exec (.fLoop 47 0 9) (flume (fWord2 9 0 9).toNat { running with k0 := 2 })) (0, 0) (fun t => ((fluGet t 47).k0.toNat, (fluGet t 47).pc.toNat)) = (1, 9) := by
  decide +kernel

/-- R413: a word is pushed to TXQ. -/
theorem test_flmTxqPush : after (exec (.flmTxqPush 0 47 5) live) [] (fun t => (fluGet t 47).txq) = [5] := by decide +kernel

/-- R425: a doorbell beyond N entries is refused and counted. -/
theorem test_submissionDoorbell_beyond :
    after (exec (.submissionDoorbell 3 1 7 17) (queued 2 7 0x84000000 0 0)) (1, 0)
      (fun t => ((regGet t (qDoorbell 3 2 7)).toNat, (regGet t (regKey 3 (Reg.HST_FCNT 6))).toNat)) = (0, 1) := by decide +kernel

/-- R437: an unknown key has no effect. -/
theorem test_resyncRequest_key : after (exec (.resyncRequest 0 1) live) 9 (fun t => resyncState t) = 0 := by decide +kernel

/-- R450: an edge after 14 µs to 28 µs is a YIELD interval, but one interval alone changes nothing. -/
theorem test_roleWireEdge :
    after (exec .roleWireEdge { live with run := 20000, cul := { live.cul with wireEdge := some 0 } }) (0, 9)
      (fun t => (t.cul.wireLast, wireIn t)) = (2, 0) := by decide +kernel

/-- Table 19-3: IDCODE. -/
theorem test_jtagIdcode : after (exec .jtagIdcode State.reset) [] (fun t => t.out) = [] := by decide
theorem test_jtagIdcode_powered : after (exec .jtagIdcode live) [] (fun t => t.out) = [.jtag 32 0x19192E6B] := by decide +kernel

/-- R466: a pulse below 20 ns does not freeze, and one of 50 ns does. -/
theorem test_freezeNAssert_short : after (exec (.freezeNAssert 19) live) true (fun t => t.frz.frozen) = false := by decide +kernel
theorem test_freezeNAssert : after (exec (.freezeNAssert 50) live) false (fun t => t.frz.frozen) = true := by decide +kernel

/-- R480: the token is written with its code only. -/
theorem test_writeToken_code : after (exec (.writeToken 0 1) live) 0 (fun t => regGet t Reg.SEN_CAUSE) = 0x10 := by decide +kernel

/-- Table 20-17: the highest spread of the sensors follows, in K. -/
theorem test_tempSensorUpdate :
    after (exec (.tempSensorUpdate 1 (80 : BitVec 12)) (put live [(Reg.PWR_TEMP 0, 0x80000010)])) 0 (fun t => regFld t Reg.PWR_TEMP_MAX 11 0) = 80 := by
  decide +kernel

end Sys2Proof.Tests
end

namespace Sys2Proof.Machine

/-!
PROOFS. The increment of the PTP clock (R89, R91): what a TIME cycle without a slew does to the clock, what the two writes of the
discipliner do to the increment, and O53, which joins them.
-/

/-! ### A TIME cycle without a slew -/

/-- Without a slew a TIME cycle adds the increment alone (R89). -/
theorem clkTick_of_slew_none {c : Clock} (hs : c.slew = none) :
    clkTick c = clkAdd c ((c.incInt.toNat * 2 ^ 32 + c.incFrac.toNat : Nat) : Int) := by
  simp only [clkTick, hs]

/-- An addition of `n` 2⁻³² ns moves the time by `n`, modulo the range of SEC. -/
theorem clkAdd_time {c : Clock} (hn : c.ns.toNat < 1000000000) (n : Nat) :
    (((clkAdd c n).sec.toNat * 1000000000 + (clkAdd c n).ns.toNat) * 2 ^ 32 + (clkAdd c n).frac.toNat) % (2 ^ 48 * 1000000000 * 2 ^ 32)
      = ((c.sec.toNat * 1000000000 + c.ns.toNat) * 2 ^ 32 + c.frac.toNat + n) % (2 ^ 48 * 1000000000 * 2 ^ 32) := by
  obtain ⟨t, ht⟩ : ∃ t, c.ns.toNat * 2 ^ 32 + c.frac.toNat + n = t := ⟨_, rfl⟩
  obtain ⟨w, hw⟩ : ∃ w, w = t / 2 ^ 32 := ⟨_, rfl⟩
  rw [clkAdd_nat c n t w ht hw]
  simp only [BitVec.toNat_add, BitVec.toNat_ofNat]
  exact time_after_add _ _ _ n t w c.sec.isLt hn c.frac.isLt ht hw

/-- The time in 2⁻³² ns grows by the increment, modulo the range of SEC (R89). -/
theorem clkTick_time {c : Clock} (hc : ClockOk c) (hs : c.slew = none) :
    (((clkTick c).sec.toNat * 1000000000 + (clkTick c).ns.toNat) * 2 ^ 32 + (clkTick c).frac.toNat) % (2 ^ 48 * 1000000000 * 2 ^ 32)
      = ((c.sec.toNat * 1000000000 + c.ns.toNat) * 2 ^ 32 + c.frac.toNat + (c.incInt.toNat * 2 ^ 32 + c.incFrac.toNat))
          % (2 ^ 48 * 1000000000 * 2 ^ 32) := by
  rw [clkTick_of_slew_none hs]
  exact clkAdd_time hc.ns _

/-- Adding nothing to a clock whose NS is below one second leaves it as it is. -/
theorem clkAdd_zero {c : Clock} (hn : c.ns.toNat < 1000000000) : clkAdd c 0 = c := by
  have hw : c.ns.toNat = (c.ns.toNat * 2 ^ 32 + c.frac.toNat) / 2 ^ 32 := by have := c.frac.isLt; omega
  have hfrac : BitVec.ofNat 32 (c.ns.toNat * 2 ^ 32 + c.frac.toNat) = c.frac := by
    apply BitVec.eq_of_toNat_eq
    rw [BitVec.toNat_ofNat]
    have := c.frac.isLt
    omega
  have h := clkAdd_nat c 0 _ _ (Nat.add_zero _) hw
  rw [hfrac, Nat.div_eq_of_lt hn, Nat.mod_eq_of_lt hn] at h
  simpa using h

/-- An increment of 0.0 stops the clock (R91). -/
theorem clkTick_of_increment_zero {c : Clock} (hc : ClockOk c) (hs : c.slew = none) (hi : c.incInt = 0) (hf : c.incFrac = 0) :
    clkTick c = c := by
  rw [clkTick_of_slew_none hs, hi, hf]
  exact clkAdd_zero hc.ns

/-! ### The writes of the increment -/

/-- Who the discipliner is, and whether its write reaches the time block, does not depend on the clock. -/
theorem Disciplines.of_clk {s : State} {m a : Nat} (h : Disciplines s m a) (c : Clock) : Disciplines { s with clk := c } m a := h

/-- The discipliner's write of TIM_INCR_FRAC stages the fraction and changes nothing else (R91). -/
theorem exec_timIncrFracWrite {m : Fin 42} {s : State} (h : Disciplines s m.val Reg.TIM_INCR_FRAC) (v : Word) :
    exec (.timIncrFracWrite m v) s = .next { s with clk := { s.clk with staged := v } } :=
  timWrite_next h _

/-- The discipliner's write of TIM_INCR_INT makes the written integer and the staged fraction the increment, and the twin is told (R91). -/
theorem exec_timIncrIntWrite {m : Fin 42} {s : State} (h : Disciplines s m.val Reg.TIM_INCR_INT) (v : Word) :
    exec (.timIncrIntWrite m v) s = .next (culTime { s with clk := { s.clk with incInt := v.setWidth 8, incFrac := s.clk.staged } }) :=
  timWrite_next h _

/-- Settles O53: the first write changes the staged fraction, in which a TIME cycle has no part, and the second makes the pair the increment,
which the next TIME cycle adds. -/
theorem incrementWritesTakeEffectTogether : Obligations.IncrementWritesTakeEffectTogether := by
  intro m v w s hfrac hint hok hslew
  have htick := clkTick_staged s.clk v
  refine ⟨_, exec_timIncrFracWrite hfrac v, rfl, ?_, ?_, ?_, _, exec_timIncrIntWrite (hint.of_clk _) w, culTime_clk _, ?_⟩
  · rw [htick]
  · rw [htick]
  · rw [htick]
  rw [culTime_clk]
  have hok' : ClockOk { s.clk with staged := v, incInt := w.setWidth 8, incFrac := v } := ⟨hok.ns, hok.ns32, hok.held⟩
  exact ⟨clkTick_time hok' hslew, id, fun hi hf => clkTick_of_increment_zero hok' hslew hi hf⟩

end Sys2Proof.Machine

namespace Sys2Proof.Machine

/-!
PROOFS. Arithmetic and division of a Kuern thread (R330, R332): how an instruction that computes rd ends, the values of the divisions over all
words, arithmetic modulo 2³², and O33, which joins them.
-/

/-- An instruction that computes rd from the thread's registers writes it and raises nothing. -/
theorem krnAlu_next {s : State} {e t n : Nat} {w : Word} (h : ThreadIssues s e t w) (rd : Nat) (f : Tab Word → Word) :
    krnAlu s e t w n rd f = .next (thrWrite (issueStart s e t n) e t rd (f (thrGet (issueStart s e t n) e t).regs)) :=
  krnIssue_next h _

/-! ### What each instruction computes (Tables 13-4 and 13-5) -/

section
variable (e : Fin 32) (t : Fin 16) (rd r1 r2 : Fin 32) (k : BitVec 16) (s : State)

theorem exec_kDiv : exec (.kDiv e t rd r1 r2) s = krnAlu s e t (kR 1 rd r1 r2 13) 18 rd (fun w => kDiv (wGet w r1) (wGet w r2)) := rfl
theorem exec_kDivu : exec (.kDivu e t rd r1 r2) s = krnAlu s e t (kR 1 rd r1 r2 14) 18 rd (fun w => kDivu (wGet w r1) (wGet w r2)) := rfl
theorem exec_kRem : exec (.kRem e t rd r1 r2) s = krnAlu s e t (kR 1 rd r1 r2 15) 18 rd (fun w => kRem (wGet w r1) (wGet w r2)) := rfl
theorem exec_kRemu : exec (.kRemu e t rd r1 r2) s = krnAlu s e t (kR 1 rd r1 r2 16) 18 rd (fun w => kRemu (wGet w r1) (wGet w r2)) := rfl
theorem exec_kAdd : exec (.kAdd e t rd r1 r2) s = krnAlu s e t (kR 1 rd r1 r2 0) 1 rd (fun w => wGet w r1 + wGet w r2) := rfl
theorem exec_kSub : exec (.kSub e t rd r1 r2) s = krnAlu s e t (kR 1 rd r1 r2 1) 1 rd (fun w => wGet w r1 - wGet w r2) := rfl
theorem exec_kMul : exec (.kMul e t rd r1 r2) s = krnAlu s e t (kR 1 rd r1 r2 10) 3 rd (fun w => wGet w r1 * wGet w r2) := rfl
theorem exec_kAddi : exec (.kAddi e t rd r1 k) s = krnAlu s e t (kI 2 rd r1 k) 1 rd (fun w => wGet w r1 + sext k) := rfl

end

/-! ### Division by zero -/

@[simp] theorem kDiv_zero (a : Word) : kDiv a 0 = 0xFFFFFFFF := if_pos rfl
@[simp] theorem kDivu_zero (a : Word) : kDivu a 0 = 0xFFFFFFFF := if_pos rfl
@[simp] theorem kRem_zero (a : Word) : kRem a 0 = a := if_pos rfl
@[simp] theorem kRemu_zero (a : Word) : kRemu a 0 = a := if_pos rfl

/-! ### Division by another divisor: the divisions of bit vectors, whose laws the library has -/

theorem kDiv_of_ne_zero (a : Word) {b : Word} (hb : b ≠ 0) : kDiv a b = a.sdiv b := by
  apply BitVec.eq_of_toInt_eq
  rw [kDiv, if_neg hb, BitVec.toInt_ofInt, BitVec.toInt_sdiv]

theorem kRem_of_ne_zero (a : Word) {b : Word} (hb : b ≠ 0) : kRem a b = a.srem b := by
  rw [kRem, if_neg hb, ← BitVec.toInt_srem, BitVec.ofInt_toInt]

theorem kDivu_of_ne_zero (a : Word) {b : Word} (hb : b ≠ 0) : kDivu a b = a / b := by
  rw [kDivu, if_neg hb, ← BitVec.toNat_udiv, BitVec.ofNat_toNat, BitVec.setWidth_eq]

theorem kRemu_of_ne_zero (a : Word) {b : Word} (hb : b ≠ 0) : kRemu a b = a % b := by
  rw [kRemu, if_neg hb, ← BitVec.toNat_umod, BitVec.ofNat_toNat, BitVec.setWidth_eq]

/-- The signed quotient rounds toward zero, save for the one pair whose quotient no word holds (R332). -/
theorem toInt_kDiv {a b : Word} (hb : b ≠ 0) (h : a ≠ 0x80000000 ∨ b ≠ 0xFFFFFFFF) : (kDiv a b).toInt = a.toInt.tdiv b.toInt := by
  rw [kDiv_of_ne_zero a hb]
  exact BitVec.toInt_sdiv_of_ne_or_ne a b h

/-- The signed remainder has the dividend's sign (R332). -/
theorem toInt_kRem (a : Word) {b : Word} (hb : b ≠ 0) : (kRem a b).toInt = a.toInt.tmod b.toInt := by
  rw [kRem_of_ne_zero a hb, BitVec.toInt_srem]

theorem toNat_kDivu (a : Word) {b : Word} (hb : b ≠ 0) : (kDivu a b).toNat = a.toNat / b.toNat := by
  rw [kDivu_of_ne_zero a hb, BitVec.toNat_udiv]

theorem toNat_kRemu (a : Word) {b : Word} (hb : b ≠ 0) : (kRemu a b).toNat = a.toNat % b.toNat := by
  rw [kRemu_of_ne_zero a hb, BitVec.toNat_umod]

/-- The quotient 2³¹ wraps to the dividend (R332). -/
theorem kDiv_overflow : kDiv 0x80000000 0xFFFFFFFF = 0x80000000 := by decide

theorem kRem_overflow : kRem 0x80000000 0xFFFFFFFF = 0 := by decide

/-! ### Arithmetic modulo 2³² -/

theorem word_add_eq (a b : Word) : a + b = BitVec.ofNat 32 ((a.toNat + b.toNat) % 2 ^ 32) := by
  rw [← BitVec.toNat_add, BitVec.ofNat_toNat, BitVec.setWidth_eq]

theorem word_sub_eq (a b : Word) : a - b = BitVec.ofNat 32 ((2 ^ 32 + a.toNat - b.toNat) % 2 ^ 32) := by
  have hb : 2 ^ 32 + a.toNat - b.toNat = 2 ^ 32 - b.toNat + a.toNat := by have := b.isLt; omega
  rw [hb, ← BitVec.toNat_sub, BitVec.ofNat_toNat, BitVec.setWidth_eq]

theorem word_mul_eq (a b : Word) : a * b = BitVec.ofNat 32 (a.toNat * b.toNat % 2 ^ 32) := by
  rw [← BitVec.toNat_mul, BitVec.ofNat_toNat, BitVec.setWidth_eq]

/-- A sign-extended immediate adds its signed value. -/
theorem word_add_sext_eq (a : Word) (k : BitVec 16) : a + sext k = BitVec.ofInt 32 (((a.toNat : Int) + k.toInt) % 2 ^ 32) := by
  apply BitVec.eq_of_toInt_eq
  have hk : (sext k).toInt = k.toInt := BitVec.toInt_signExtend_of_le (by decide)
  calc (a + sext k).toInt = ((a.toNat : Int).bmod (2 ^ 32) + k.toInt).bmod (2 ^ 32) := by
        rw [BitVec.toInt_add, hk, BitVec.toInt_eq_toNat_bmod a]
    _ = ((a.toNat : Int) + k.toInt).bmod (2 ^ 32) := Int.bmod_add_bmod
    _ = (((a.toNat : Int) + k.toInt) % (2 ^ 32 : Nat)).bmod (2 ^ 32) := (Int.emod_bmod ..).symm
    _ = (BitVec.ofInt 32 (((a.toNat : Int) + k.toInt) % 2 ^ 32)).toInt := (BitVec.toInt_ofInt _).symm

/-- Settles O33: each value of R332 is the value of the division the instruction computes, which it writes to rd like any other arithmetic. -/
theorem divisionNeverRaisesAnException : Obligations.DivisionNeverRaisesAnException := by
  refine ⟨?_, ?_⟩
  · rintro e t rd r1 r2 s _ _ a b rfl rfl ha hb
    refine ⟨kDiv a b, kDivu a b, kRem a b, kRemu a b, ?_, ?_, ?_, ?_, ?_, ?_, ?_, ?_⟩
    · intro h; rw [exec_kDiv, krnAlu_next h, ← ha, ← hb]
    · intro h; rw [exec_kDivu, krnAlu_next h, ← ha, ← hb]
    · intro h; rw [exec_kRem, krnAlu_next h, ← ha, ← hb]
    · intro h; rw [exec_kRemu, krnAlu_next h, ← ha, ← hb]
    · intro hz
      rw [hz]
      exact ⟨kDiv_zero a, kDivu_zero a, kRem_zero a, kRemu_zero a⟩
    · intro hmin hneg
      rw [hmin, hneg]
      exact ⟨kDiv_overflow, kRem_overflow⟩
    · exact fun hz => ⟨toNat_kDivu a hz, toNat_kRemu a hz⟩
    · exact fun hz hfits => ⟨toInt_kDiv hz hfits, toInt_kRem a hz⟩
  · rintro e t rd r1 r2 k s _ _ _ _ _ _ rfl rfl rfl rfl rfl rfl
    refine ⟨?_, ?_, ?_, ?_⟩
    · intro h; rw [exec_kAdd, krnAlu_next h, word_add_eq]
    · intro h; rw [exec_kSub, krnAlu_next h, word_sub_eq]
    · intro h; rw [exec_kMul, krnAlu_next h, word_mul_eq]
    · intro h; rw [exec_kAddi, krnAlu_next h, word_add_sext_eq]

end Sys2Proof.Machine

namespace Sys2Proof.Machine

/-!
PROOFS. Locks of the tank (R383, R384): the two outcomes of a lock write, the read of a freed lock, and O47, which joins them.
-/

/-! ### The two outcomes of a lock write -/

/-- The owner's write frees the lock (R384). -/
theorem lockWrite_of_owner {s : State} {m i : Nat} (held : bitOf (regGet s (Reg.TNK_LK_OWNER i)) 6 = true)
    (mine : fld (regGet s (Reg.TNK_LK_OWNER i)) 5 0 = m) : lockWrite s m i = lockFree s i := by
  simp only [lockWrite, held, mine, decide_true, Bool.and_self, if_true]

/-- A write to a free lock, or by a master that does not own it, is counted and recorded as foreign (R384). -/
theorem lockWrite_of_foreign {s : State} {m i : Nat}
    (foreign : bitOf (regGet s (Reg.TNK_LK_OWNER i)) 6 = false ∨ fld (regGet s (Reg.TNK_LK_OWNER i)) 5 0 ≠ m) :
    lockWrite s m i = lockEvent (count s Reg.TNK_LK_FOREIGN Reg.TNK_CAUSE) i m 6 := by
  have notOwner : (bitOf (regGet s (Reg.TNK_LK_OWNER i)) 6 && decide (fld (regGet s (Reg.TNK_LK_OWNER i)) 5 0 = m)) = false := by
    rcases foreign with free | other
    · rw [free, Bool.false_and]
    · rw [decide_eq_false other, Bool.and_false]
  simp only [lockWrite, notOwner, Bool.false_eq_true, if_false]

/-- A lock write that reaches the tank is the tank's lock write and nothing else. -/
theorem exec_lockWrite {m : Fin 42} {i : Fin 256} {s : State} (h : MasterReaches s m (Reg.TNK_LK i)) :
    exec (.lockWrite m i) s = .next (lockWrite s m i) := masterCmd_next h _

/-! ### A read of a free lock -/

/-- A read of a free lock answers 0: it acquires the lock (R383). -/
theorem lockRead_of_free {s : State} {i : Nat} (m : Nat) (free : bitOf (regGet s (Reg.TNK_LK_OWNER i)) 6 = false) :
    (lockRead s m i).1 = 0 := by
  simp only [lockRead, free, Bool.not_false, if_true]

/-- A freed lock is not held (R384). -/
theorem bitOf_owner_lockFree {s : State} (h : Inv s) (i : Nat) : bitOf (regGet (lockFree s i) (Reg.TNK_LK_OWNER i)) 6 = false := by
  rw [lockFree, regGet_regSet_same h]
  exact BitVec.getLsbD_zero

/-- Settles O47: the owner's write frees the lock and any other is recorded; whoever reads a freed lock finds it free. -/
theorem lockWrites : Obligations.LockWrites := by
  refine ⟨?_, ?_⟩
  · rintro m i s reaches w rfl
    refine ⟨fun held mine => ?_, fun foreign => ⟨_, rfl, ?_⟩⟩
    · rw [exec_lockWrite reaches, lockWrite_of_owner held mine, lockFree]
    · rw [exec_lockWrite reaches, lockWrite_of_foreign foreign, lockEvent]
  · intro m n i s t inv reaches held mine released
    rw [exec_lockWrite reaches, lockWrite_of_owner held mine] at released
    cases released
    exact lockRead_of_free n (bitOf_owner_lockFree inv i)

end Sys2Proof.Machine

namespace Sys2Proof.Machine

/-!
PROOFS. The step: every command answers a next state, leaves the queue alone and keeps the invariant (O3, O4).
-/

/-- Every command answers a next state, with the queue as it was and the invariant kept: the law of each command's meaning, by its arm. -/
theorem exec_keeps {o : State} (c : Instr) (s : State) (h : Keeps o s) : KeepsNext o (exec c s) := by
  cases c with
  | registerWrite => exact execRegisterWrite_keeps (h := h) ..
  | unalignedAccess f a w => exact execUnalignedAccess_keeps f a w s h
  | rcRead => exact execRcRead_keeps (h := h) ..
  | domainOffAccess f a w => exact execDomainOffAccess_keeps f a w s h
  | crossingWordDelivery => exact execCrossingWordDelivery_keeps (h := h) ..
  | correctableEccError => exact execCorrectableEccError_keeps (h := h) ..
  | uncorrectableEccError => exact execUncorrectableEccError_keeps (h := h) ..
  | scrubSlot => exact execScrubSlot_keeps (h := h) ..
  | imgLoad => exact execImgLoad_keeps (h := h) ..
  | imgSwap => exact execImgSwap_keeps (h := h) ..
  | imgAbort => exact execImgAbort_keeps (h := h) ..
  | imgKeyRevoke => exact execImgKeyRevoke_keeps (h := h) ..
  | revokeDone => exact execRevokeDone_keeps (h := h) ..
  | verifyComplete => exact execVerifyComplete_keeps (h := h) ..
  | applySectionRead => exact execApplySectionRead_keeps (h := h) ..
  | swapSafePointApply => exact execSwapSafePointApply_keeps (h := h) ..
  | porstAssert => exact execPorstAssert_keeps (h := h) ..
  | porstRelease => exact execPorstRelease_keeps (h := h) ..
  | fuseSenseDone => exact execFuseSenseDone_keeps (h := h) ..
  | pllLocked => exact execPllLocked_keeps (h := h) ..
  | pllLockTimeout => exact execPllLockTimeout_keeps (h := h) ..
  | srstAssert => exact execSrstAssert_keeps (h := h) ..
  | srstRelease => exact execSrstRelease_keeps (h := h) ..
  | glbResetSys => exact execGlbResetSys_keeps (h := h) ..
  | systemResetHoldEnd => exact execSystemResetHoldEnd_keeps (h := h) ..
  | pcieHotReset => exact execPcieHotReset_keeps (h := h) ..
  | trickleServiceStart => exact execTrickleServiceStart_keeps (h := h) ..
  | trickleFrameRx => exact execTrickleFrameRx_keeps (h := h) ..
  | trickleAgeDrop => exact execTrickleAgeDrop_keeps (h := h) ..
  | trickleDrainEnd => exact execTrickleDrainEnd_keeps (h := h) ..
  | handoverComplete => exact execHandoverComplete_keeps (h := h) ..
  | domainOnRequest => exact execDomainOnRequest_keeps (h := h) ..
  | domainOffRequest => exact execDomainOffRequest_keeps (h := h) ..
  | powerSequenceDone => exact execPowerSequenceDone_keeps (h := h) ..
  | idleHoldExpiry => exact execIdleHoldExpiry_keeps (h := h) ..
  | pwrReqOn => exact execPwrReqOn_keeps (h := h) ..
  | pwrReqOff => exact execPwrReqOff_keeps (h := h) ..
  | pwrReqPolicy => exact execPwrReqPolicy_keeps (h := h) ..
  | pwrOppointWrite => exact execPwrOppointWrite_keeps (h := h) ..
  | oppointChangeDone => exact execOppointChangeDone_keeps (h := h) ..
  | deepStandbyEnter => exact execDeepStandbyEnter_keeps (h := h) ..
  | vddLowIsolate => exact execVddLowIsolate_keeps (h := h) ..
  | bootUsRead => exact execBootUsRead_keeps (h := h) ..
  | timIncrFracWrite => exact execTimIncrFracWrite_keeps (h := h) ..
  | timIncrIntWrite => exact execTimIncrIntWrite_keeps (h := h) ..
  | adjStep => exact execAdjStep_keeps (h := h) ..
  | adjSlew => exact execAdjSlew_keeps (h := h) ..
  | adjCancel => exact execAdjCancel_keeps (h := h) ..
  | timSetCmd => exact execTimSetCmd_keeps (h := h) ..
  | stepApply => exact execStepApply_keeps (h := h) ..
  | setApply => exact execSetApply_keeps (h := h) ..
  | slewEnd => exact execSlewEnd_keeps (h := h) ..
  | timNowRead => exact execTimNowRead_keeps (h := h) ..
  | cmpArm => exact execCmpArm_keeps (h := h) ..
  | cmpDisarm => exact execCmpDisarm_keeps (h := h) ..
  | compareFire => exact execCompareFire_keeps (h := h) ..
  | ppsInEdge => exact execPpsInEdge_keeps (h := h) ..
  | captureSnap => exact execCaptureSnap_keeps (h := h) ..
  | captureRead => exact execCaptureRead_keeps (h := h) ..
  | ppsOutRise => exact execPpsOutRise_keeps (h := h) ..
  | ppsOutFall => exact execPpsOutFall_keeps (h := h) ..
  | replicaValid => exact execReplicaValid_keeps (h := h) ..
  | laneSyncAcquired => exact execLaneSyncAcquired_keeps (h := h) ..
  | laneSyncLost => exact execLaneSyncLost_keeps (h := h) ..
  | inbandStatus => exact execInbandStatus_keeps (h := h) ..
  | uplinkPcsUp => exact execUplinkPcsUp_keeps (h := h) ..
  | uplinkPcsDown => exact execUplinkPcsDown_keeps (h := h) ..
  | remoteFaultRx => exact execRemoteFaultRx_keeps (h := h) ..
  | fecCodewordCorrected => exact execFecCodewordCorrected_keeps (h := h) ..
  | fecCodewordUncorrectable => exact execFecCodewordUncorrectable_keeps (h := h) ..
  | frameHeaderArrival => exact execFrameHeaderArrival_keeps (h := h) ..
  | cellAdmission => exact execCellAdmission_keeps (h := h) ..
  | frameEnd => exact execFrameEnd_keeps (h := h) ..
  | pauseFrameRx => exact execPauseFrameRx_keeps (h := h) ..
  | pfcFrameRx => exact execPfcFrameRx_keeps (h := h) ..
  | macControlOtherRx => exact execMacControlOtherRx_keeps (h := h) ..
  | pauseTimerExpiry => exact execPauseTimerExpiry_keeps (h := h) ..
  | pauseWdTrip => exact execPauseWdTrip_keeps (h := h) ..
  | pauseWdHoldEnd => exact execPauseWdHoldEnd_keeps (h := h) ..
  | pauseFrameTx => exact execPauseFrameTx_keeps (h := h) ..
  | pauseRefreshExpiry => exact execPauseRefreshExpiry_keeps (h := h) ..
  | loopbackTakeEffect => exact execLoopbackTakeEffect_keeps (h := h) ..
  | egressSelect => exact execEgressSelect_keeps (h := h) ..
  | frameTxEnd => exact execFrameTxEnd_keeps (h := h) ..
  | underrun => exact execUnderrun_keeps (h := h) ..
  | launchDue => exact execLaunchDue_keeps (h := h) ..
  | linkDown => exact execLinkDown_keeps (h := h) ..
  | linkUp => exact execLinkUp_keeps (h := h) ..
  | holdExpiry => exact execHoldExpiry_keeps (h := h) ..
  | flushDone => exact execFlushDone_keeps (h := h) ..
  | portDisable => exact execPortDisable_keeps (h := h) ..
  | portEnable => exact execPortEnable_keeps (h := h) ..
  | txstartWrite => exact execTxstartWrite_keeps (h := h) ..
  | maxlenWrite => exact execMaxlenWrite_keeps (h := h) ..
  | counterLoRead => exact execCounterLoRead_keeps (h := h) ..
  | authVerifyDone => exact execAuthVerifyDone_keeps (h := h) ..
  | nodeForgetExpiry => exact execNodeForgetExpiry_keeps (h := h) ..
  | entryForgetExpiry => exact execEntryForgetExpiry_keeps (h := h) ..
  | tblRead => exact execTblRead_keeps (h := h) ..
  | tblWrite => exact execTblWrite_keeps (h := h) ..
  | tblInsert => exact execTblInsert_keeps (h := h) ..
  | tblDelete => exact execTblDelete_keeps (h := h) ..
  | tblLookup => exact execTblLookup_keeps (h := h) ..
  | tblCmdDone => exact execTblCmdDone_keeps (h := h) ..
  | keyCommit => exact execKeyCommit_keeps (h := h) ..
  | keyClear => exact execKeyClear_keeps (h := h) ..
  | keyCommitDone => exact execKeyCommitDone_keeps (h := h) ..
  | fdbAgeRemove => exact execFdbAgeRemove_keeps (h := h) ..
  | fdbRead => exact execFdbRead_keeps (h := h) ..
  | fdbWrite => exact execFdbWrite_keeps (h := h) ..
  | fdbInsert => exact execFdbInsert_keeps (h := h) ..
  | fdbDelete => exact execFdbDelete_keeps (h := h) ..
  | fdbLookup => exact execFdbLookup_keeps (h := h) ..
  | fdbFlush => exact execFdbFlush_keeps (h := h) ..
  | fdbCmdDone => exact execFdbCmdDone_keeps (h := h) ..
  | mcgRead => exact execMcgRead_keeps (h := h) ..
  | mcgWrite => exact execMcgWrite_keeps (h := h) ..
  | oqTransfer => exact execOqTransfer_keeps (h := h) ..
  | staleScan => exact execStaleScan_keeps (h := h) ..
  | quarantineTest => exact execQuarantineTest_keeps (h := h) ..
  | quarantineTestDone => exact execQuarantineTestDone_keeps (h := h) ..
  | siphEnable => exact execSiphEnable_keeps (h := h) ..
  | pauseThWrite => exact execPauseThWrite_keeps (h := h) ..
  | sluiceRequest => exact execSluiceRequest_keeps (h := h) ..
  | sluiceWithdraw => exact execSluiceWithdraw_keeps (h := h) ..
  | arbitrationPhase => exact execArbitrationPhase_keeps (h := h) ..
  | sluSeedWrite => exact execSluSeedWrite_keeps (h := h) ..
  | sluConfigWrite => exact execSluConfigWrite_keeps (h := h) ..
  | furrowRunSet => exact execFurrowRunSet_keeps (h := h) ..
  | furrowRunClear => exact execFurrowRunClear_keeps (h := h) ..
  | cycleStart => exact execCycleStart_keeps (h := h) ..
  | coldstartDecision => exact execColdstartDecision_keeps (h := h) ..
  | furrowStartReport => exact execFurrowStartReport_keeps (h := h) ..
  | starNullDeadline => exact execStarNullDeadline_keeps (h := h) ..
  | minislotBoundary => exact execMinislotBoundary_keeps (h := h) ..
  | modeEvaluation => exact execModeEvaluation_keeps (h := h) ..
  | furModeCmd => exact execFurModeCmd_keeps (h := h) ..
  | furPortContain => exact execFurPortContain_keeps (h := h) ..
  | furPortReadmit => exact execFurPortReadmit_keeps (h := h) ..
  | asduIngest => exact execAsduIngest_keeps (h := h) ..
  | rowDeadline => exact execRowDeadline_keeps (h := h) ..
  | rowSeal => exact execRowSeal_keeps (h := h) ..
  | streamSilence => exact execStreamSilence_keeps (h := h) ..
  | basinRunSet => exact execBasinRunSet_keeps (h := h) ..
  | basinRunClear => exact execBasinRunClear_keeps (h := h) ..
  | streamEnable => exact execStreamEnable_keeps (h := h) ..
  | streamDisable => exact execStreamDisable_keeps (h := h) ..
  | cnfRingCtlWrite => exact execCnfRingCtlWrite_keeps (h := h) ..
  | pubUpdate => exact execPubUpdate_keeps (h := h) ..
  | pubUpdateLaunch => exact execPubUpdateLaunch_keeps (h := h) ..
  | pubTagDone => exact execPubTagDone_keeps (h := h) ..
  | gooseRetransmit => exact execGooseRetransmit_keeps (h := h) ..
  | subscriptionExpiry => exact execSubscriptionExpiry_keeps (h := h) ..
  | subscriptionEnable => exact execSubscriptionEnable_keeps (h := h) ..
  | subscriptionDisable => exact execSubscriptionDisable_keeps (h := h) ..
  | publicationDisable => exact execPublicationDisable_keeps (h := h) ..
  | eventWatchdog => exact execEventWatchdog_keeps (h := h) ..
  | timerFire => exact execTimerFire_keeps (h := h) ..
  | initTimeout => exact execInitTimeout_keeps (h := h) ..
  | engineHalt => exact execEngineHalt_keeps (h := h) ..
  | engineRestart => exact execEngineRestart_keeps (h := h) ..
  | sendComplete => exact execSendComplete_keeps (h := h) ..
  | authJobDone => exact execAuthJobDone_keeps (h := h) ..
  | kAddi => exact execKAddi_keeps (h := h) ..
  | kAndi => exact execKAndi_keeps (h := h) ..
  | kOri => exact execKOri_keeps (h := h) ..
  | kXori => exact execKXori_keeps (h := h) ..
  | kShi => exact execKShi_keeps (h := h) ..
  | kSlti => exact execKSlti_keeps (h := h) ..
  | kSltiu => exact execKSltiu_keeps (h := h) ..
  | kLui => exact execKLui_keeps (h := h) ..
  | kExt => exact execKExt_keeps (h := h) ..
  | kIns => exact execKIns_keeps (h := h) ..
  | kJal => exact execKJal_keeps (h := h) ..
  | kJalr => exact execKJalr_keeps (h := h) ..
  | kTcr => exact execKTcr_keeps (h := h) ..
  | kAdd => exact execKAdd_keeps (h := h) ..
  | kSub => exact execKSub_keeps (h := h) ..
  | kAnd => exact execKAnd_keeps (h := h) ..
  | kOr => exact execKOr_keeps (h := h) ..
  | kXor => exact execKXor_keeps (h := h) ..
  | kSll => exact execKSll_keeps (h := h) ..
  | kSrl => exact execKSrl_keeps (h := h) ..
  | kSra => exact execKSra_keeps (h := h) ..
  | kSlt => exact execKSlt_keeps (h := h) ..
  | kSltu => exact execKSltu_keeps (h := h) ..
  | kMul => exact execKMul_keeps (h := h) ..
  | kMulh => exact execKMulh_keeps (h := h) ..
  | kMulhu => exact execKMulhu_keeps (h := h) ..
  | kDiv => exact execKDiv_keeps (h := h) ..
  | kDivu => exact execKDivu_keeps (h := h) ..
  | kRem => exact execKRem_keeps (h := h) ..
  | kRemu => exact execKRemu_keeps (h := h) ..
  | kBswap => exact execKBswap_keeps (h := h) ..
  | kClz => exact execKClz_keeps (h := h) ..
  | kMin => exact execKMin_keeps (h := h) ..
  | kMax => exact execKMax_keeps (h := h) ..
  | kMinu => exact execKMinu_keeps (h := h) ..
  | kMaxu => exact execKMaxu_keeps (h := h) ..
  | kLb => exact execKLb_keeps (h := h) ..
  | kLbu => exact execKLbu_keeps (h := h) ..
  | kLh => exact execKLh_keeps (h := h) ..
  | kLhu => exact execKLhu_keeps (h := h) ..
  | kLw => exact execKLw_keeps (h := h) ..
  | kLhbe => exact execKLhbe_keeps (h := h) ..
  | kLwbe => exact execKLwbe_keeps (h := h) ..
  | kSb => exact execKSb_keeps (h := h) ..
  | kSh => exact execKSh_keeps (h := h) ..
  | kSw => exact execKSw_keeps (h := h) ..
  | kShbe => exact execKShbe_keeps (h := h) ..
  | kSwbe => exact execKSwbe_keeps (h := h) ..
  | kBeq => exact execKBeq_keeps (h := h) ..
  | kBne => exact execKBne_keeps (h := h) ..
  | kBlt => exact execKBlt_keeps (h := h) ..
  | kBge => exact execKBge_keeps (h := h) ..
  | kBltu => exact execKBltu_keeps (h := h) ..
  | kBgeu => exact execKBgeu_keeps (h := h) ..
  | kEvwait => exact execKEvwait_keeps (h := h) ..
  | kEvwaitTimeout => exact execKEvwaitTimeout_keeps (h := h) ..
  | kEvdoneCommit => exact execKEvdoneCommit_keeps (h := h) ..
  | kEvdoneDiscard => exact execKEvdoneDiscard_keeps (h := h) ..
  | kReady => exact execKReady_keeps (h := h) ..
  | kKeep => exact execKKeep_keeps (h := h) ..
  | kRelease => exact execKRelease_keeps (h := h) ..
  | kBopen => exact execKBopen_keeps (h := h) ..
  | kBabort => exact execKBabort_keeps (h := h) ..
  | kSend => exact execKSend_keeps (h := h) ..
  | kTime => exact execKTime_keeps (h := h) ..
  | kTmrset => exact execKTmrset_keeps (h := h) ..
  | kTmrcan => exact execKTmrcan_keeps (h := h) ..
  | kBerw => exact execKBerw_keeps (h := h) ..
  | kCrc => exact execKCrc_keeps (h := h) ..
  | kCsum => exact execKCsum_keeps (h := h) ..
  | kAuth => exact execKAuth_keeps (h := h) ..
  | kLkacq => exact execKLkacq_keeps (h := h) ..
  | kLkrel => exact execKLkrel_keeps (h := h) ..
  | kFenceTank => exact execKFenceTank_keeps (h := h) ..
  | kFenceHost => exact execKFenceHost_keeps (h := h) ..
  | kFenceAll => exact execKFenceAll_keeps (h := h) ..
  | kTrap => exact execKTrap_keeps (h := h) ..
  | riderIntervalEnd => exact execRiderIntervalEnd_keeps (h := h) ..
  | pageInComplete => exact execPageInComplete_keeps (h := h) ..
  | pageOutComplete => exact execPageOutComplete_keeps (h := h) ..
  | migrationDrained => exact execMigrationDrained_keeps (h := h) ..
  | migrateTimeout => exact execMigrateTimeout_keeps (h := h) ..
  | riderCreate => exact execRiderCreate_keeps (h := h) ..
  | riderRetire => exact execRiderRetire_keeps (h := h) ..
  | riderMove => exact execRiderMove_keeps (h := h) ..
  | riderPin => exact execRiderPin_keeps (h := h) ..
  | riderUnpin => exact execRiderUnpin_keeps (h := h) ..
  | riderResident => exact execRiderResident_keeps (h := h) ..
  | riderEvict => exact execRiderEvict_keeps (h := h) ..
  | riderRead => exact execRiderRead_keeps (h := h) ..
  | riderWrite => exact execRiderWrite_keeps (h := h) ..
  | riderClearPoison => exact execRiderClearPoison_keeps (h := h) ..
  | riderMap => exact execRiderMap_keeps (h := h) ..
  | riderRunPolicy => exact execRiderRunPolicy_keeps (h := h) ..
  | tankAccess => exact execTankAccess_keeps (h := h) ..
  | leaseWrite => exact execLeaseWrite_keeps (h := h) ..
  | leaseApply => exact execLeaseApply_keeps (h := h) ..
  | lockRead => exact execLockRead_keeps (h := h) ..
  | lockWrite => exact execLockWrite_keeps (h := h) ..
  | lockForce => exact execLockForce_keeps (h := h) ..
  | mbxSend => exact execMbxSend_keeps (h := h) ..
  | mbxAckWrite => exact execMbxAckWrite_keeps (h := h) ..
  | mbxAckRead => exact execMbxAckRead_keeps (h := h) ..
  | mbxWakeLimit => exact execMbxWakeLimit_keeps (h := h) ..
  | bankSupplyCheck => exact execBankSupplyCheck_keeps (h := h) ..
  | flumeStart => exact execFlumeStart_keeps (h := h) ..
  | flumeResume => exact execFlumeResume_keeps (h := h) ..
  | flumeStartMatch => exact execFlumeStartMatch_keeps (h := h) ..
  | flumeStop => exact execFlumeStop_keeps (h := h) ..
  | flumeMatchReached => exact execFlumeMatchReached_keeps (h := h) ..
  | flumeStallResume => exact execFlumeStallResume_keeps (h := h) ..
  | fIdle => exact execFIdle_keeps (h := h) ..
  | fDrive => exact execFDrive_keeps (h := h) ..
  | fDir => exact execFDir_keeps (h := h) ..
  | fFlumeSend => exact execFFlumeSend_keeps (h := h) ..
  | fRecv => exact execFRecv_keeps (h := h) ..
  | fEmit => exact execFEmit_keeps (h := h) ..
  | fGather => exact execFGather_keeps (h := h) ..
  | fWaitLevel => exact execFWaitLevel_keeps (h := h) ..
  | fWaitEdge => exact execFWaitEdge_keeps (h := h) ..
  | fWaitFlag => exact execFWaitFlag_keeps (h := h) ..
  | fWaitMark => exact execFWaitMark_keeps (h := h) ..
  | fBr => exact execFBr_keeps (h := h) ..
  | fLoop => exact execFLoop_keeps (h := h) ..
  | fFlagSet => exact execFFlagSet_keeps (h := h) ..
  | fFlagClear => exact execFFlagClear_keeps (h := h) ..
  | fFlagSetWait => exact execFFlagSetWait_keeps (h := h) ..
  | fSetk => exact execFSetk_keeps (h := h) ..
  | fAddk => exact execFAddk_keeps (h := h) ..
  | fLoadk => exact execFLoadk_keeps (h := h) ..
  | fXferFetch => exact execFXferFetch_keeps (h := h) ..
  | fXferTryFetch => exact execFXferTryFetch_keeps (h := h) ..
  | fXferDeposit => exact execFXferDeposit_keeps (h := h) ..
  | fXferTryDeposit => exact execFXferTryDeposit_keeps (h := h) ..
  | fXferLoadm => exact execFXferLoadm_keeps (h := h) ..
  | fXferStamp => exact execFXferStamp_keeps (h := h) ..
  | fXferNow => exact execFXferNow_keeps (h := h) ..
  | fXferBranchSl => exact execFXferBranchSl_keeps (h := h) ..
  | fXferDirs => exact execFXferDirs_keeps (h := h) ..
  | fXferClear => exact execFXferClear_keeps (h := h) ..
  | flumeDmaTxPoll => exact execFlumeDmaTxPoll_keeps (h := h) ..
  | flumeDmaRxWrite => exact execFlumeDmaRxWrite_keeps (h := h) ..
  | flmDmaCtlWrite => exact execFlmDmaCtlWrite_keeps (h := h) ..
  | flmTxqPush => exact execFlmTxqPush_keeps (h := h) ..
  | flmRxqPop => exact execFlmRxqPop_keeps (h := h) ..
  | flmFlagSetWrite => exact execFlmFlagSetWrite_keeps (h := h) ..
  | flmFlagClrWrite => exact execFlmFlagClrWrite_keeps (h := h) ..
  | flumeConfigWrite => exact execFlumeConfigWrite_keeps (h := h) ..
  | submissionDoorbell => exact execSubmissionDoorbell_keeps (h := h) ..
  | cqDoorbell => exact execCqDoorbell_keeps (h := h) ..
  | queueEnable => exact execQueueEnable_keeps (h := h) ..
  | queueDisable => exact execQueueDisable_keeps (h := h) ..
  | queueFetch => exact execQueueFetch_keeps (h := h) ..
  | cmdNop => exact execCmdNop_keeps (h := h) ..
  | fenceOrder => exact execFenceOrder_keeps (h := h) ..
  | fenceVisible => exact execFenceVisible_keeps (h := h) ..
  | twinWitness => exact execTwinWitness_keeps (h := h) ..
  | txDescriptor => exact execTxDescriptor_keeps (h := h) ..
  | txHostReadDone => exact execTxHostReadDone_keeps (h := h) ..
  | rxDelivery => exact execRxDelivery_keeps (h := h) ..
  | functionLevelReset => exact execFunctionLevelReset_keeps (h := h) ..
  | msixUnmask => exact execMsixUnmask_keeps (h := h) ..
  | msixEnableSet => exact execMsixEnableSet_keeps (h := h) ..
  | resyncRequest => exact execResyncRequest_keeps (h := h) ..
  | resyncSnapshot => exact execResyncSnapshot_keeps (h := h) ..
  | resyncSigned => exact execResyncSigned_keeps (h := h) ..
  | resyncSummaryWritten => exact execResyncSummaryWritten_keeps (h := h) ..
  | resyncResume => exact execResyncResume_keeps (h := h) ..
  | culvertLaneUp => exact execCulvertLaneUp_keeps (h := h) ..
  | culvertLaneDown => exact execCulvertLaneDown_keeps (h := h) ..
  | identTimer => exact execIdentTimer_keeps (h := h) ..
  | identRx => exact execIdentRx_keeps (h := h) ..
  | heartbeatTimer => exact execHeartbeatTimer_keeps (h := h) ..
  | heartbeatRx => exact execHeartbeatRx_keeps (h := h) ..
  | heartbeatLoss => exact execHeartbeatLoss_keeps (h := h) ..
  | mirrorRx => exact execMirrorRx_keeps (h := h) ..
  | imageRx => exact execImageRx_keeps (h := h) ..
  | mirrorTimeTimer => exact execMirrorTimeTimer_keeps (h := h) ..
  | roleWireEdge => exact execRoleWireEdge_keeps (h := h) ..
  | roleWireSilence => exact execRoleWireSilence_keeps (h := h) ..
  | pairWaitExpiry => exact execPairWaitExpiry_keeps (h := h) ..
  | takebackSettleExpiry => exact execTakebackSettleExpiry_keeps (h := h) ..
  | handoverDone => exact execHandoverDone_keeps (h := h) ..
  | culFence => exact execCulFence_keeps (h := h) ..
  | culUnfence => exact execCulUnfence_keeps (h := h) ..
  | culBind => exact execCulBind_keeps (h := h) ..
  | culUnbind => exact execCulUnbind_keeps (h := h) ..
  | sentinelWriteDone => exact execSentinelWriteDone_keeps (h := h) ..
  | freezeNAssert => exact execFreezeNAssert_keeps (h := h) ..
  | freezeNRelease => exact execFreezeNRelease_keeps (h := h) ..
  | frzCtlFreeze => exact execFrzCtlFreeze_keeps (h := h) ..
  | jtagFreeze => exact execJtagFreeze_keeps (h := h) ..
  | jtagThaw => exact execJtagThaw_keeps (h := h) ..
  | autothawExpiry => exact execAutothawExpiry_keeps (h := h) ..
  | jtagIdcode => exact execJtagIdcode_keeps (h := h) ..
  | jtagSamplePreload => exact execJtagSamplePreload_keeps (h := h) ..
  | jtagExtest => exact execJtagExtest_keeps (h := h) ..
  | jtagClamp => exact execJtagClamp_keeps (h := h) ..
  | jtagHighz => exact execJtagHighz_keeps (h := h) ..
  | jtagBypass => exact execJtagBypass_keeps (h := h) ..
  | jtagFrzAddr => exact execJtagFrzAddr_keeps (h := h) ..
  | jtagFrzData => exact execJtagFrzData_keeps (h := h) ..
  | tapReset => exact execTapReset_keeps (h := h) ..
  | writeToken => exact execWriteToken_keeps (h := h) ..
  | clearToken => exact execClearToken_keeps (h := h) ..
  | logAck => exact execLogAck_keeps (h := h) ..
  | ackVbat => exact execAckVbat_keeps (h := h) ..
  | tamperCfg => exact execTamperCfg_keeps (h := h) ..
  | tamperDetect => exact execTamperDetect_keeps (h := h) ..
  | vbatLoss => exact execVbatLoss_keeps (h := h) ..
  | vbatRestore => exact execVbatRestore_keeps (h := h) ..
  | senRtcRead => exact execSenRtcRead_keeps (h := h) ..
  | tempSensorUpdate => exact execTempSensorUpdate_keeps (h := h) ..
  | ageingMeasurement => exact execAgeingMeasurement_keeps (h := h) ..
  | illegalInstructionWord => exact execIllegalInstructionWord_keeps (h := h) ..
  | flumeIllegalInstruction => exact execFlumeIllegalInstruction_keeps (h := h) ..
  | busMasterEnableClear => exact execBusMasterEnableClear_keeps (h := h) ..
  | eventBoundaryTimeout => exact execEventBoundaryTimeout_keeps (h := h) ..

/-- Settles O3. -/
theorem everyCommandAnswersANextState : Obligations.EveryCommandAnswersANextState := fun c s =>
  have ⟨t, answered, kept⟩ := (exec_keeps c s (.refl s)).next
  ⟨t, answered, kept.pending⟩

/-- Settles O4: the step is the passing of one TIME cycle or a command, and either keeps what it starts from. -/
theorem everyStepKeepsTheInvariant : Obligations.EveryStepKeepsTheInvariant := by
  intro s t inv stepped
  unfold step at stepped
  split at stepped
  · cases stepped
    exact (tick_keeps s (.refl s)).inv inv
  · next c rest _ =>
    obtain ⟨u, answered, kept⟩ := (exec_keeps c _ (.refl { s with pending := rest })).next
    rw [answered] at stepped
    cases stepped
    exact kept.inv ⟨inv.regs, inv.mem, inv.clock⟩
end Sys2Proof.Machine

namespace Sys2Proof.Machine

/-!
PROOFS. The field types of a register write, bit by bit (R7), and the clock's TIME cycle (R89, R97): O6 and O15.
-/

/-- Bit `i` of what a write leaves, from the bits of the masks (R7). -/
theorem getLsbD_writeByType (r : RegRow) (l : Bool) (old v : Word) {i : Nat} (hi : i < 32) :
    (writeByType r l old v).getLsbD i =
      ((if r.rw.testBit i || (!l && r.rwl.testBit i) then v.getLsbD i else old.getLsbD i) && !(v.getLsbD i && r.w1c.testBit i)
        || (v.getLsbD i && r.w1s.testBit i)) := by
  have mask (n : Nat) : (BitVec.ofNat 32 n).getLsbD i = n.testBit i := by rw [BitVec.getLsbD_ofNat, decide_eq_true hi, Bool.true_and]
  simp only [writeByType, BitVec.getLsbD_or, BitVec.getLsbD_and, BitVec.getLsbD_not, mask, hi, decide_true, Bool.true_and]
  cases hrw : r.rw.testBit i <;> cases hrwl : r.rwl.testBit i <;> cases l <;> simp [hrw, hrwl]

/-- Two masks that share no bit do not both have bit `i`. -/
theorem testBit_disjoint {a b : Nat} (h : a &&& b = 0) (i : Nat) : (a.testBit i && b.testBit i) = false := by
  rw [← Nat.testBit_and, h, Nat.zero_testBit]

/-- Settles O6: each field type, with the masks of the others clear at its bit. -/
theorem registerFieldTypes : Obligations.RegisterFieldTypes := by
  intro r old v i hi hlock hclear hset hw1
  simp only [getLsbD_writeByType r _ old v hi]
  have lock := testBit_disjoint hlock i
  have clear := testBit_disjoint hclear i
  have set := testBit_disjoint hset i
  have w1 := testBit_disjoint hw1 i
  rw [Nat.testBit_or] at clear set
  refine ⟨fun h l => ?_, fun h => ⟨?_, ?_⟩, fun h l => ?_, fun h l => ?_, fun h₁ h₂ h₃ h₄ l => ?_⟩
  all_goals simp_all

/-- Settles O15, from the laws of a TIME cycle without a slew. -/
theorem clockTickAddsTheIncrement : Obligations.ClockTickAddsTheIncrement := fun _ hc hs =>
  ⟨clkTick_time hc hs, clkTick_ok hc, clkTick_of_increment_zero hc hs⟩

end Sys2Proof.Machine

namespace Sys2Proof.Machine

/-!
PROOFS. The choice of a sluice phase (R208 to R213): who may win a lottery, what the oldest request is, and O28.
-/

/-! ### The ticket draw -/

/-- A draw below the ticket sum falls on an entrant. -/
theorem sluWalk_some {r : Nat} : ∀ {l : List (Nat × Nat)} {acc : Nat}, r < acc + (l.map Prod.snd).sum → acc ≤ r →
    ∃ x ∈ l, sluWalk r acc l = some x.1
  | [], acc, h, h' => by simp at h; omega
  | (x, t) :: l, acc, h, _ => by
    rw [sluWalk]
    split
    · exact ⟨(x, t), List.mem_cons_self .., rfl⟩
    · next hr =>
      rw [List.map_cons, List.sum_cons] at h
      obtain ⟨y, hy, e⟩ := sluWalk_some (l := l) (acc := acc + t) (by rwa [Nat.add_assoc]) (Nat.le_of_not_lt hr)
      exact ⟨y, List.mem_cons_of_mem _ hy, e⟩

/-- The fraction of a ticket sum that a 16-bit draw takes lies below it. -/
theorem draw_lt (x : BitVec 16) {t : Nat} (ht : 0 < t) : x.toNat * t / 2 ^ 16 < t := by
  rw [Nat.div_lt_iff_lt_mul (by decide), Nat.mul_comm t]
  exact Nat.mul_lt_mul_of_pos_right x.isLt ht

/-- The draw among entrants that all hold tickets falls on one of them. -/
theorem sluWalk_draw {l : List (Nat × Nat)} (hl : l ≠ []) (tickets : ∀ e ∈ l, e.2 ≠ 0) (x : BitVec 16) :
    ∃ e ∈ l, sluWalk (x.toNat * (l.map (fun e => e.2)).foldl (· + ·) 0 / 2 ^ 16) 0 l = some e.1 := by
  have hsum : (l.map (fun e => e.2)).foldl (· + ·) 0 = (l.map Prod.snd).sum := List.sum_eq_foldl_nat.symm
  have hpos : 0 < (l.map Prod.snd).sum := by
    obtain ⟨e, l', rfl⟩ := List.exists_cons_of_ne_nil hl
    have := tickets e (List.mem_cons_self ..)
    rw [List.map_cons, List.sum_cons]
    omega
  rw [hsum]
  exact sluWalk_some (by rw [Nat.zero_add]; exact draw_lt x hpos) (Nat.zero_le _)

/-- A lottery with an entrant has a winner among the entrants, and touches the seed of its arbiter at most (R212, R213). -/
theorem sluLottery_some {s : State} {i : Nat} {l : List (Nat × Nat)} (hl : l ≠ []) :
    ∃ e ∈ l, ∃ t, sluLottery s i l = (some e.1, t) ∧ (t = s ∨ ∃ v, t = regSetFld s (Reg.SLU_SEED i) 15 0 v) := by
  unfold sluLottery
  dsimp only
  split
  · obtain ⟨e, l', rfl⟩ := List.exists_cons_of_ne_nil hl
    exact ⟨e, List.mem_cons_self .., s, rfl, .inl rfl⟩
  · next e he =>
    have : e ∈ l := (List.mem_filter.mp (he ▸ List.mem_singleton_self e)).1
    exact ⟨e, this, s, rfl, .inl rfl⟩
  · next hne _ =>
    obtain ⟨e, he, draw⟩ := sluWalk_draw (hne) (fun e he => by simpa using (List.mem_filter.mp he).2)
      (lfsrStep (BitVec.ofNat 16 (regFld s (Reg.SLU_SEED i) 15 0)))
    exact ⟨e, (List.mem_filter.mp he).1, _, by rw [draw], .inr ⟨_, rfl⟩⟩

/-! ### The oldest request -/

/-- One step of the search for the oldest request (R210). -/
def sluOlder (s : State) (i : Nat) (a : Option Nat) (r : Nat) : Option Nat :=
  match a with
  | none => some r
  | some b => if sluAge s i b < sluAge s i r then some r else some b

theorem sluOldest_eq (s : State) (i : Nat) (l : List Nat) : sluOldest s i l = l.foldl (sluOlder s i) none := rfl

/-- `b` is at least as old as `q`, and of equal ages the lower index. -/
def SluBefore (s : State) (i b q : Nat) : Prop := sluAge s i q < sluAge s i b ∨ (sluAge s i q = sluAge s i b ∧ b ≤ q)

/-- Over rising indices the search keeps a request that no earlier one goes before. -/
theorem sluOlder_fold {s : State} {i : Nat} : ∀ {l : List Nat} {b : Nat}, (b :: l).Pairwise (· < ·) →
    ∃ r ∈ b :: l, l.foldl (sluOlder s i) (some b) = some r ∧ ∀ q ∈ b :: l, SluBefore s i r q
  | [], b, _ => ⟨b, List.mem_cons_self .., rfl, fun q hq => by rw [List.mem_singleton.mp hq]; exact .inr ⟨rfl, Nat.le_refl _⟩⟩
  | c :: l, b, h => by
    obtain ⟨hb, hc⟩ := List.pairwise_cons.mp h
    have hbc := hb c (List.mem_cons_self ..)
    rw [List.foldl_cons, sluOlder]
    split
    · next older =>
      obtain ⟨r, hr, e, first⟩ := sluOlder_fold hc
      refine ⟨r, List.mem_cons_of_mem _ hr, e, List.forall_mem_cons.mpr ⟨?_, first⟩⟩
      have := first c (List.mem_cons_self ..)
      unfold SluBefore at this ⊢
      omega
    · next older =>
      have hbl : (b :: l).Pairwise (· < ·) :=
        List.pairwise_cons.mpr ⟨fun x hx => hb x (List.mem_cons_of_mem _ hx), (List.pairwise_cons.mp hc).2⟩
      obtain ⟨r, hr, e, first⟩ := sluOlder_fold hbl
      obtain ⟨firstb, firstl⟩ := List.forall_mem_cons.mp first
      refine ⟨r, ?_, e, List.forall_mem_cons.mpr ⟨firstb, List.forall_mem_cons.mpr ⟨?_, firstl⟩⟩⟩
      · rcases List.mem_cons.mp hr with rfl | hr
        · exact List.mem_cons_self ..
        · exact List.mem_cons_of_mem _ (List.mem_cons_of_mem _ hr)
      · unfold SluBefore at firstb ⊢
        omega

/-- Of requests in rising order the search finds one that is oldest, of equal ages the lowest index (R210). -/
theorem sluOldest_some {s : State} {i : Nat} {l : List Nat} (hl : l ≠ []) (rising : l.Pairwise (· < ·)) :
    ∃ r ∈ l, sluOldest s i l = some r ∧ ∀ q ∈ l, SluBefore s i r q := by
  obtain ⟨b, l, rfl⟩ := List.exists_cons_of_ne_nil hl
  rw [sluOldest_eq, List.foldl_cons]
  exact sluOlder_fold rising

/-- The requests of a phase come in rising order. -/
theorem sluStarted_rising (s : State) (i : Nat) : (sluStarted s i).Pairwise (· < ·) :=
  (List.pairwise_lt_range.filter _).filter _

/-! ### The phase -/

/-- A request without a privileged slot. -/
def sluUnslotted (slots : List (Bool × Nat × Nat)) (r : Nat) : Bool := !slots.any (fun x => decide (x.2.1 = r))

/-- The entrants of the privileged slots whose request is raised. -/
def sluPrivs (slots : List (Bool × Nat × Nat)) (l : List Nat) : List (Nat × Nat) :=
  (slots.filter (fun x => l.contains x.2.1)).map (fun x => (x.2.1, x.2.2))

theorem mem_of_mem_sluPrivs {slots : List (Bool × Nat × Nat)} {l : List Nat} {e : Nat × Nat} (he : e ∈ sluPrivs slots l) : e.1 ∈ l := by
  obtain ⟨x, hx, rfl⟩ := List.mem_map.mp he
  simpa using (List.mem_filter.mp hx).2

/-- Where every request has a slot, one of the slots enters. -/
theorem sluPrivs_ne_nil {slots : List (Bool × Nat × Nat)} {l : List Nat} (hl : l ≠ []) (slotted : l.filter (sluUnslotted slots) = []) :
    sluPrivs slots l ≠ [] := by
  obtain ⟨r, l, rfl⟩ := List.exists_cons_of_ne_nil hl
  have hr : sluUnslotted slots r = false := by simpa using List.filter_eq_nil_iff.mp slotted r (List.mem_cons_self ..)
  obtain ⟨x, hx, rfl⟩ : ∃ x ∈ slots, x.2.1 = r := by simpa [sluUnslotted] using hr
  exact List.ne_nil_of_mem (List.mem_map_of_mem (List.mem_filter.mpr ⟨hx, by simp⟩))

/-- A phase with a request has a winner among its requests (R208, R212): the oldest of those without a slot enters with the pool's tickets, each
request with a slot with the slot's. -/
theorem sluWinner_some {s : State} {i : Nat} (raised : sluStarted s i ≠ []) :
    ∃ r t, sluWinner s i = (some r, t) ∧ r ∈ sluStarted s i ∧ (t = s ∨ ∃ v, t = regSetFld s (Reg.SLU_SEED i) 15 0 v) := by
  have rising := sluStarted_rising s i
  obtain ⟨slots, hslots⟩ : ∃ slots, slots = ((List.range 4).map (sluSlot s i)).filter (fun x => x.1) := ⟨_, rfl⟩
  have winner : sluWinner s i = match sluOldest s i ((sluStarted s i).filter (sluUnslotted slots)) with
      | none => sluLottery s i (sluPrivs slots (sluStarted s i))
      | some r => if slots.isEmpty then (some r, s)
        else sluLottery s i (sluPrivs slots (sluStarted s i) ++ [(r, regFld s (Reg.SLU_POOL i) 7 0)]) := by
    rw [hslots]; rfl
  rw [winner]
  by_cases slotted : (sluStarted s i).filter (sluUnslotted slots) = []
  · rw [slotted]
    obtain ⟨e, he, t, lottery, ht⟩ := sluLottery_some (s := s) (i := i) (sluPrivs_ne_nil raised slotted)
    exact ⟨e.1, t, lottery, mem_of_mem_sluPrivs he, ht⟩
  · obtain ⟨r, hr, oldest, -⟩ := sluOldest_some (s := s) (i := i) slotted (rising.filter _)
    have hr := (List.mem_filter.mp hr).1
    rw [oldest]
    dsimp only
    split
    · exact ⟨r, s, rfl, hr, .inl rfl⟩
    · obtain ⟨e, he, t, lottery, ht⟩ := sluLottery_some (s := s) (i := i)
        (l := sluPrivs slots (sluStarted s i) ++ [(r, regFld s (Reg.SLU_POOL i) 7 0)]) (by simp)
      refine ⟨e.1, t, lottery, ?_, ht⟩
      rcases List.mem_append.mp he with he | he
      · exact mem_of_mem_sluPrivs he
      · rw [List.mem_singleton.mp he]
        exact hr

/-- Without a privileged slot the winner is the oldest request (R210). -/
theorem sluWinner_of_no_slot {s : State} {i : Nat} (noSlot : ∀ k < 4, (sluSlot s i k).1 = false) (raised : sluStarted s i ≠ []) :
    sluWinner s i = (sluOldest s i (sluStarted s i), s) := by
  have hslots : ((List.range 4).map (sluSlot s i)).filter (fun x => x.1) = [] := by
    simpa [List.filter_eq_nil_iff] using noSlot
  obtain ⟨r, -, oldest, -⟩ := sluOldest_some (s := s) (i := i) raised (sluStarted_rising s i)
  simp [sluWinner, hslots, oldest]

/-- A phase without a request has no winner. -/
theorem sluWinner_of_nil {s : State} {i : Nat} (raised : sluStarted s i = []) : (sluWinner s i).1 = none := by
  simp [sluWinner, raised, sluOldest, sluLottery]

/-- The step of the LFSR shifts a bit out that it feeds back where no other is set (R213). -/
theorem lfsrStep_ne_zero {l : BitVec 16} (hl : l ≠ 0) : lfsrStep l ≠ 0 := by
  intro h
  obtain ⟨shifted, fed⟩ := BitVec.or_eq_zero_iff.mp h
  have hone : l = 1 := by
    have : (l >>> 1).toNat = 0 := by rw [shifted]; rfl
    rw [BitVec.toNat_ushiftRight, Nat.shiftRight_eq_div_pow] at this
    have : l.toNat ≠ 0 := fun h => hl (BitVec.eq_of_toNat_eq h)
    exact BitVec.eq_of_toNat_eq (show l.toNat = 1 by omega)
  rw [hone] at fed
  exact absurd fed (by decide)

/-- Settles O28. -/
theorem arbitrationPicksARaisedRequest : Obligations.ArbitrationPicksARaisedRequest := by
  refine ⟨fun i s raised => sluWinner_some raised, fun i r s t noSlot won => ?_, fun l hl => lfsrStep_ne_zero hl⟩
  have raised : sluStarted s i ≠ [] := fun none => by simpa [won] using sluWinner_of_nil none
  obtain ⟨r', -, oldest, first⟩ := sluOldest_some (s := s) (i := i) raised (sluStarted_rising s i)
  rw [sluWinner_of_no_slot noSlot raised, oldest] at won
  cases won
  exact first

end Sys2Proof.Machine

namespace Sys2Proof.Machine

/-!
PROOFS. The registers of a thread and the data memory of an engine: what a write gives back and what it leaves alone, O35 and O37.
-/

/-! ### Tables with rising indices -/

/-- The indices that setting an entry leaves in a table: its own and the old ones. -/
theorem mem_tabSet {α : Type} [DecidableEq α] {d : Nat → α} {t : Tab α} {i : Nat} {v : α} {e : Nat × α} (he : e ∈ tabSet d t i v) :
    e = (i, v) ∨ e ∈ t := by
  induction t with
  | nil =>
    rw [tabSet] at he
    split at he
    · exact .inr he
    · exact .inl (List.mem_singleton.mp he)
  | cons x t ih =>
    obtain ⟨k, w⟩ := x
    rw [tabSet] at he
    grind

/-- Setting an entry keeps the indices rising. -/
theorem tabSet_rising {α : Type} [DecidableEq α] {d : Nat → α} {t : Tab α} {i : Nat} {v : α} (h : t.Pairwise (fun a b => a.1 < b.1)) :
    (tabSet d t i v).Pairwise (fun a b => a.1 < b.1) := by
  induction t with
  | nil =>
    rw [tabSet]
    split
    · exact .nil
    · exact List.pairwise_singleton ..
  | cons x t ih =>
    obtain ⟨k, w⟩ := x
    obtain ⟨hk, ht⟩ := List.pairwise_cons.mp h
    rw [tabSet]
    split
    · next below =>
      split
      · exact h
      · exact List.pairwise_cons.mpr ⟨List.forall_mem_cons.mpr ⟨below, fun y hy => Nat.lt_trans below (hk y hy)⟩, h⟩
    · split
      · next _ same =>
        subst same
        split
        · exact ht
        · exact List.pairwise_cons.mpr ⟨hk, ht⟩
      · refine List.pairwise_cons.mpr ⟨fun y hy => ?_, ih ht⟩
        rcases mem_tabSet hy with rfl | hy
        · show k < i
          omega
        · exact hk y hy

/-! ### Engines and threads -/

theorem engGet_engSet_same {s : State} {e : Nat} {x : KrnEng} (h : s.krn.eng.Pairwise (fun a b => a.1 < b.1)) : engGet (engSet s e x) e = x :=
  tabGet_tabSet_same h

theorem engGet_engSet_ne {s : State} {e e' : Nat} {x : KrnEng} (h : e' ≠ e) : engGet (engSet s e x) e' = engGet s e' := tabGet_tabSet_ne h

theorem thrGet_thrSet_same {s : State} {e t : Nat} {x : KThread} (h : s.krn.eng.Pairwise (fun a b => a.1 < b.1))
    (ht : (engGet s e).threads.Pairwise (fun a b => a.1 < b.1)) : thrGet (thrSet s e t x) e t = x := by
  rw [thrGet, thrSet, engGet_engSet_same h]
  exact tabGet_tabSet_same ht

theorem thrGet_thrSet_ne {s : State} {e t e' t' : Nat} {x : KThread} (h : s.krn.eng.Pairwise (fun a b => a.1 < b.1))
    (hne : e' ≠ e ∨ t' ≠ t) : thrGet (thrSet s e t x) e' t' = thrGet s e' t' := by
  by_cases he : e' = e
  · subst he
    rw [thrGet, thrSet, engGet_engSet_same h]
    exact tabGet_tabSet_ne (hne.resolve_left (fun h => h rfl))
  · rw [thrGet, thrSet, engGet_engSet_ne he]
    rfl

/-! ### The registers of a thread -/

@[simp] theorem wGet_zero (l : Tab Word) : wGet l 0 = 0 := rfl

theorem wGet_wSet_same {l : Tab Word} {r : Nat} {v : Word} (h : l.Pairwise (fun a b => a.1 < b.1)) (hr : r ≠ 0) : wGet (wSet l r v) r = v := by
  rw [wGet, wSet, if_neg hr, if_neg hr]
  exact tabGet_tabSet_same h

theorem wGet_wSet_ne {l : Tab Word} {r q : Nat} {v : Word} (h : q ≠ r) : wGet (wSet l r v) q = wGet l q := by
  unfold wGet wSet
  split
  · rfl
  · split
    · rfl
    · exact tabGet_tabSet_ne h

/-- Settles O35: rd and PC of one thread are all that a register write of a thread touches. -/
theorem kuernRegisterWritesAndTheirFrame : Obligations.KuernRegisterWritesAndTheirFrame := by
  rintro u e t rd v heng hthr hregs _ rfl
  have here : thrGet (thrWrite u e t rd v) e t = { thrGet u e t with regs := wSet (thrGet u e t).regs rd v, pc := (thrGet u e t).pc + 1 } :=
    thrGet_thrSet_same heng hthr
  rw [here]
  refine ⟨BitVec.toNat_add .., fun hrd => wGet_wSet_same hregs hrd, rfl, fun r hr => wGet_wSet_ne hr, ?_, rfl⟩
  exact fun e' t' hne => thrGet_thrSet_ne heng hne

/-! ### The data memory of an engine -/

/-- The state with a byte of an engine's data memory stored. -/
def dmemPut (u : State) (e a : Nat) (b : Byte) : State :=
  engSet u e { engGet u e with dmem := tabSet (fun _ => 0) (engGet u e).dmem a b }

theorem dmemWrite_cons (u : State) (e a : Nat) (b : Byte) (l : List Byte) : dmemWrite u e a (b :: l) = dmemWrite (dmemPut u e a b) e (a + 1) l := rfl

theorem dmemRead_one (u : State) (e a : Nat) : dmemRead u e a 1 = [tabGet (fun _ => 0) (engGet u e).dmem a] := rfl

/-- The engines stay in rising order. -/
theorem dmemPut_rising {u : State} (h : u.krn.eng.Pairwise (fun x y => x.1 < y.1)) (e a : Nat) (b : Byte) :
    (dmemPut u e a b).krn.eng.Pairwise (fun x y => x.1 < y.1) := tabSet_rising h

theorem dmem_dmemPut {u : State} (h : u.krn.eng.Pairwise (fun x y => x.1 < y.1)) (e a : Nat) (b : Byte) :
    (engGet (dmemPut u e a b) e).dmem = tabSet (fun _ => 0) (engGet u e).dmem a b := by
  rw [dmemPut, engGet_engSet_same h]

/-- A byte outside those stored reads as before. -/
theorem dmemByte_dmemWrite_of_outside {l : List Byte} : ∀ {u : State} {e a b : Nat}, u.krn.eng.Pairwise (fun x y => x.1 < y.1) →
    (b < a ∨ a + l.length ≤ b) →
    tabGet (fun _ => 0) (engGet (dmemWrite u e a l) e).dmem b = tabGet (fun _ => 0) (engGet u e).dmem b := by
  induction l with
  | nil => exact fun _ _ => rfl
  | cons x l ih =>
    intro u e a b h hb
    rw [List.length_cons] at hb
    rw [dmemWrite_cons, ih (dmemPut_rising h e a x) (by omega), dmem_dmemPut h]
    exact tabGet_tabSet_ne (by omega)

/-- The bytes stored are read back. -/
theorem dmemRead_dmemWrite {l : List Byte} : ∀ {u : State} {e a : Nat}, u.krn.eng.Pairwise (fun x y => x.1 < y.1) →
    (engGet u e).dmem.Pairwise (fun x y => x.1 < y.1) → dmemRead (dmemWrite u e a l) e a l.length = l := by
  induction l with
  | nil => exact fun _ _ => rfl
  | cons x l ih =>
    intro u e a h hd
    have hput := dmemPut_rising h e a x
    have hdput : (engGet (dmemPut u e a x) e).dmem.Pairwise (fun x y => x.1 < y.1) := dmem_dmemPut h e a x ▸ tabSet_rising hd
    rw [dmemWrite_cons, List.length_cons, dmemRead, ih hput hdput,
      dmemByte_dmemWrite_of_outside hput (.inl (Nat.lt_succ_self a)), dmem_dmemPut h, tabGet_tabSet_same hd]

/-- The bytes below 2¹⁶ are the engine's data memory (Table 12-1). -/
theorem kRegion_localData {a n : Nat} (h : a + n ≤ 0x10000) : kRegion a n = some (.localData, a) := if_pos h

/-- Settles O37. -/
theorem kuernDataMemory : Obligations.KuernDataMemory := by
  refine ⟨fun u e t a n word host h => ?_, fun u e t a l word h => ?_, fun u e a l => dmemRead_dmemWrite, fun u e a b l heng hb => ?_⟩
  · simp only [kLoad, kRegion_localData h]
  · simp only [kStore, kRegion_localData h]
  · rw [dmemRead_one, dmemRead_one, dmemByte_dmemWrite_of_outside heng hb]

end Sys2Proof.Machine

namespace Sys2Proof.Machine

/-!
PROOFS. The step's two branches, the state after reset, register accesses of the host, crossings and ECC: O1, O2, O5, O7 and O8.
-/

/-! ### The step and the passing of time -/

/-- Settles O1. -/
theorem stepRunsTheFrontCommand : Obligations.StepRunsTheFrontCommand := fun _ _ _ => rfl

theorem step_of_empty {s : State} (h : s.pending = []) : step s = .next (tickPins (tickRun s)) := by
  rw [step, h]
  rfl

/-- A clock that does not run keeps its state. -/
theorem tickClock_of_stopped {s : State} (h : clockRuns s = false) : tickClock s = s := by
  rw [tickClock, h]
  rfl

/-- Settles O2. -/
theorem emptyQueueLetsTimePass : Obligations.EmptyQueueLetsTimePass := by
  refine ⟨?_, ?_, ?_, ?_⟩
  · rintro s _ hq ha rfl
    rw [step_of_empty hq]
    simp only [tickRun, ha, if_true]
  · intro s hq ha
    rw [step_of_empty hq]
    simp only [tickRun, ha, Bool.false_eq_true, if_false]
  · intro s ha hf
    exact tickClock_of_stopped (by simp [clockRuns, ha, hf])
  · intro s hf ht
    exact tickClock_of_stopped (by simp [clockRuns, active, hf, ht])

/-- Settles O5. -/
theorem resetMeetsTheInvariant : Obligations.ResetMeetsTheInvariant :=
  ⟨⟨rfl, rfl, ⟨by decide, by decide, fun _ h => nomatch h⟩⟩, rfl, rfl, rfl, rfl, rfl, rfl, rfl, rfl, rfl⟩

/-! ### Register accesses of the host -/

/-- The islands run: none of what stops them holds. -/
theorem active_iff {s : State} : active s = true ↔
    s.pwr.porstLow = false ∧ s.pwr.resetRun = false ∧ s.frz.frozen = false ∧ s.pwr.deep = false := by
  simp [active, and_assoc]

/-- A write of the host to one of the windows without an effect of their own acts by the field types. -/
theorem regWrite_of_plain {s : State} {f a : Nat} {v : Word} (h : a / 0x100000 ∈ [0, 2, 8, 9, 12, 14]) : regWrite s f a v = plainWrite s f a v := by
  simp only [List.mem_cons, List.not_mem_nil, or_false] at h
  rcases h with h | h | h | h | h | h <;> rw [regWrite, h] <;> rfl

/-- A host function's register write that reaches its block. -/
theorem exec_registerWrite {f : Fin 4} {m : Fin 42} {a : Nat} {s : State} (hm : m.val = 36 + f.val) (h : HostSees s a) (v : Word) :
    exec (.registerWrite m a v) s = .next (if s.pwr.resetRun || decide (a % 4 ≠ 0) then s else regWrite s f a v) := by
  have hf : m.val - 36 = f.val := by omega
  have hr : 36 ≤ m.val ∧ m.val < 40 := by omega
  show execRegisterWrite m a v s = _
  rw [execRegisterWrite, if_pos hr, hf]
  exact hostCmd_next h _

/-- What a read of RC fields leaves (R7, R8). -/
theorem rcClear_of_row {s : State} {f a : Nat} {r : RegRow} (h : findReg a = some r) : rcClear s f a =
    regSet s (regKey f a) ((regGet s (regKey f a) &&& ~~~BitVec.ofNat 32 r.rc) ||| (highNow s a &&& BitVec.ofNat 32 r.rc)) := by
  rw [rcClear, h]

/-- Settles O7. -/
theorem registerAccessEffects : Obligations.RegisterAccessEffects := by
  refine ⟨?_, ?_, ?_, ?_, ?_, ?_⟩
  · intro f m a v s r hm h hrun ha hw hr
    rw [exec_registerWrite hm h, hrun, regWrite_of_plain hw, plainWrite, hr]
    simp [ha]
  · intro f m a v s hm h hw hr
    rw [exec_registerWrite hm h, regWrite_of_plain hw, plainWrite, hr]
    split <;> rfl
  · intro f a w s h hmb
    show execUnalignedAccess f a w s = _
    simp [execUnalignedAccess, h, hmb]
  · intro f a w s h hoff
    show execDomainOffAccess f a w s = _
    simp [execDomainOffAccess, domainOff, h, hoff]
  · intro f a s r h ha hmb hslu hc hr
    refine (hostCmd_next h _).trans ?_
    simp [ha, hmb, hc, hslu, rcClear_of_row hr]
  · intro f a p n s h ha hmb hc
    refine (hostCmd_next h _).trans ?_
    simp [ha, hmb, hc]

/-! ### Crossings, ECC and scrubbing -/

/-- The block of a memory with a counter counts a corrected error and raises its cause at the threshold (R25). -/
theorem eccCount_of_counter {s : State} {m : EccMem} {cnt th cause bit : Nat} (h : eccCounter m = some (cnt, th, cause, bit)) :
    eccCount s m = if regGet (count s cnt cause) th ≤ regGet (count s cnt cause) cnt then raise (count s cnt cause) cause bit
      else count s cnt cause := by
  rw [eccCount, h]

/-- Settles O8. -/
theorem crossingEccAndScrubEffects : Obligations.CrossingEccAndScrubEffects := by
  refine ⟨?_, ?_, ?_, ?_, ?_, ?_, ?_⟩
  · intro ch w s ha hnear hfar
    refine ⟨_, rfl, ?_⟩
    show execCrossingWordDelivery ch w s = _
    obtain ⟨-, -, hfrozen, -⟩ := active_iff.mp ha
    simp [execCrossingWordDelivery, hfrozen, event_next ha, hnear, hfar, crossDeliver]
  · intro m i s cnt th cause bit h hm
    refine ⟨_, rfl, ?_⟩
    show execCorrectableEccError m i s = _
    rw [execCorrectableEccError, domEvent_next h, eccCount_of_counter hm]
  · intro i s h
    show execUncorrectableEccError .forwarding i s = _
    exact domEvent_next h _
  · intro i s h
    show execUncorrectableEccError .stream i s = _
    refine (domEvent_next h _).trans ?_
    simp [eccFail, hdgEcc, wordN]
  · intro i s h hi
    show execUncorrectableEccError .tank i s = _
    refine (domEvent_next h _).trans ?_
    simp [eccFail, hi]
  · intro i s h
    show execUncorrectableEccError .supervisor i s = _
    exact domEvent_next h _
  · intro bank s h
    refine ⟨_, rfl, ?_⟩
    show execScrubSlot 0 bank s = _
    simp [execScrubSlot, event_next h.1, scrubShape, h.2]

end Sys2Proof.Machine

namespace Sys2Proof.Machine

/-!
PROOFS. The image loader: its commands (R50, R58, R59), its passes (R54, R55) and the units of a swap (R62): O9 and O10.
-/

/-! ### Commands -/

/-- The loader is busy in the four states that a command passes through (Table 2-16). -/
theorem imgBusy_iff {s : State} : imgBusy s = true ↔ imgState s ∈ [1, 2, 4, 5] := by
  simp [imgBusy, or_assoc]

/-- A command before the loader has started is refused (R58). -/
theorem imgCommand_not_started {s : State} (f : Nat) (swap : Bool) (v : Word) (h : regBit s Reg.GLB_STATUS 4 = false) :
    imgCommand s f swap v = raise s Reg.IMG_CAUSE 2 := by
  rw [imgCommand, h]
  rfl

/-- A command while LOAD_LOCK is set is refused with its error (R58). -/
theorem imgCommand_locked {s : State} (f : Nat) (swap : Bool) (v : Word) (h : regBit s Reg.GLB_STATUS 4 = true)
    (hl : regBit s Reg.IMG_LOCK 1 = true) : imgCommand s f swap v =
      raise (regSetFld (regSetFld s Reg.IMG_STATUS 15 8 0x14) Reg.IMG_STATUS 23 16 0xFF) Reg.IMG_CAUSE 2 := by
  rw [imgCommand, h, hl]
  rfl

/-- Past those two refusals a command starts, unless the loader is busy or stopped, or a swap finds no running image (R58). -/
theorem imgCommand_unlocked {s : State} (f : Nat) (swap : Bool) (v : Word) (h : regBit s Reg.GLB_STATUS 4 = true)
    (hl : regBit s Reg.IMG_LOCK 1 = false) : imgCommand s f swap v =
      if imgState s ∈ [1, 2, 4, 5] ∨ imgState s = 8 ∨ (swap = true ∧ imgState s ≠ 3) then raise s Reg.IMG_CAUSE 2
      else imgStart { s with img := { s.img with bootNext := [] } } { swap := swap, src := fld v 1 0, func := f, boot := false } := by
  simp only [imgCommand, h, hl, Bool.not_true, Bool.false_eq_true, if_false, Bool.or_eq_true, imgBusy_iff, decide_eq_true_eq,
    Bool.and_eq_true, or_assoc]
  rfl

/-- An aborted command ends with ABORTED, and the running image keeps running (R59). -/
theorem imgFail_aborted {s : State} (c : LoadCmd) (hrun : s.img.running.isSome = true) : imgFail s c (0x15, 0xFF, 0) =
    raise { imgTo (regSet (regSetFld (regSetFld s Reg.IMG_STATUS 15 8 0x15) Reg.IMG_STATUS 23 16 0xFF) Reg.IMG_ERR_OFFSET 0) 3 with
      img := { s.img with bootNext := [], cmd := none, held := none, applied := [] } } Reg.IMG_CAUSE 1 := by
  simp only [imgFail, imgBack, imgRaise, imgError, regSet_img, regSetFld_img, hrun]
  rw [if_neg (by decide), if_neg (by simp)]
  rfl

/-- Settles O9. -/
theorem loaderCommands : Obligations.LoaderCommands := by
  refine ⟨?_, ?_, ?_, ?_, ?_, ?_, ?_, ?_, ?_⟩
  · intro f v s h hs hl hst
    refine ⟨_, _, rfl, rfl, (hostCmd_next h _).trans ?_⟩
    have ready : ¬(imgState s ∈ [1, 2, 4, 5] ∨ imgState s = 8 ∨ (false = true ∧ imgState s ≠ 3)) := by
      simp at hst ⊢
      omega
    rw [imgCommand_unlocked f false v hs hl, if_neg ready]
    rfl
  · intro f v s h hs hl hst
    refine ⟨_, _, rfl, rfl, (hostCmd_next h _).trans ?_⟩
    rw [imgCommand_unlocked f true v hs hl, if_neg (by simp [hst])]
    rfl
  · intro f v s h hs hl hst
    refine (hostCmd_next h _).trans ?_
    rw [imgCommand_unlocked f true v hs hl, if_pos (.inr (.inr ⟨rfl, hst⟩))]
  · intro f v s h hs
    refine ⟨(hostCmd_next h _).trans ?_, (hostCmd_next (a := Reg.IMG_SWAP) h _).trans ?_⟩ <;> rw [imgCommand_not_started _ _ _ hs]
  · intro f v s h hs hl
    refine ⟨_, rfl, (hostCmd_next h _).trans ?_, (hostCmd_next (a := Reg.IMG_SWAP) h _).trans ?_⟩ <;> rw [imgCommand_locked _ _ _ hs hl]
  · intro f v s c h hc hv hst hrun
    refine ⟨_, _, rfl, rfl, (hostCmd_next h _).trans ?_⟩
    rw [hc]
    dsimp only
    rw [if_pos (by simp [hv, imgBusy_iff.mpr hst, hrun])]
    exact congrArg _ (imgFail_aborted c hrun)
  · intro f v s h hcode hl hrun hleft hst
    refine (hostCmd_next h _).trans ?_
    have idle : imgBusy s = false := by rw [← Bool.not_eq_true, imgBusy_iff]; exact hst
    simp [hcode, hl, Option.isNone_iff_eq_none.mp hrun, hleft, idle]
  · intro f v s h hbad
    refine (hostCmd_next h _).trans ?_
    rw [if_pos (by rcases hbad with h | h <;> simp [h])]
    rfl
  · intro k l s ha hk
    refine ⟨_, rfl, ?_⟩
    show execRevokeDone s = _
    rw [execRevokeDone, event_next ha, hk]
    rfl

/-! ### Passes -/

/-- The loader waits for the end of its verify pass. -/
theorem verifying {s : State} (h : imgState s ∈ [1, 4]) : ¬(imgState s ≠ 1 ∧ imgState s ≠ 4) := by
  simp at h
  omega

/-- A verify pass whose source was read ends as `verify` decides (R54). -/
theorem exec_verifyComplete_read {r : ImageRead} {s : State} {c : LoadCmd} (ha : active s = true) (hc : s.img.cmd = some c)
    (hst : imgState s ∈ [1, 4]) (hr : r.answered = true) (hlen : 64 ≤ r.bytes.length) (hup : sourceUp s c = true)
    (hserve : sourceServes c r.bytes = true) :
    ∀ p v w t, p = imgProgress s 0 (min r.bytes.length (leAt r.bytes 8 4)) → v = verify p r.bytes c.swap →
    w = v.2.1.elim p (bindShow p) → t = imgProgress (imgTo w (if c.swap then 5 else 2)) 1 0 →
    exec (.verifyComplete r) s
      = .next (v.1.elim (v.2.2.elim w (fun i => { t with img := { t.img with held := some i, applied := [] } })) (imgFail w c)) := by
  rintro p v w t rfl rfl rfl rfl
  show execVerifyComplete r s = _
  rw [execVerifyComplete, event_next ha, hc]
  dsimp only
  rw [if_neg (verifying hst), if_neg (by simp [hr, hup, hserve, hlen])]
  obtain ⟨e, b, i⟩ := verify (imgProgress s 0 (min r.bytes.length (leAt r.bytes 8 4))) r.bytes c.swap
  cases e <;> cases b <;> cases i <;> rfl

/-- A header that fails its check ends the verification with that error. -/
theorem verify_headerBad {s : State} {b : List Byte} {swap : Bool} {e : ImgError} (h : headerBad b = some e) :
    verify s b swap = (some e, none, none) := by
  rw [verify, h]

/-- Settles O10. -/
theorem loaderPassesAndSwapUnits : Obligations.LoaderPassesAndSwapUnits := by
  refine ⟨?_, ?_, ?_, ?_, ?_, ?_⟩
  · intro r s c ha hc hst hr
    show execVerifyComplete r s = _
    rw [execVerifyComplete, event_next ha, hc]
    dsimp only
    rw [if_neg (verifying hst), if_pos (by simp [hr])]
  · exact fun r s c ha hc hst hr hlen hup hserve => exec_verifyComplete_read ha hc hst hr hlen hup hserve
  · intro r s c e ha hc hst hr hlen hup hserve hbad
    rw [exec_verifyComplete_read ha hc hst hr hlen hup hserve _ _ _ _ rfl rfl rfl rfl, verify_headerBad hbad]
    rfl
  · rintro n b s c i x rest ha hc hheld hx hup htodo t u rfl rfl
    show execApplySectionRead n b s = _
    have last : (n :: rest).length = 1 ↔ rest = [] := by simp
    rw [execApplySectionRead, event_next ha, hc, hheld]
    dsimp only
    rw [hx, htodo]
    dsimp only
    simp only [List.head?_cons, ne_eq, not_true_eq_false, if_false, hup, Bool.not_true, Bool.false_eq_true, last, ite_not]
  · intro t u s ha ht hp hsafe
    show execSwapSafePointApply t u s = _
    simp [execSwapSafePointApply, event_next ha, hp, ht, hsafe]
  · intro t u s ha hp
    show execSwapSafePointApply t u s = _
    simp [execSwapSafePointApply, event_next ha, hp]

end Sys2Proof.Machine

namespace Sys2Proof.Machine

/-!
PROOFS. Resets (R64 to R67): when a pin is taken, what a power-on and a system reset leave, and O11.
-/

/-! ### The reset pins -/

theorem pinTaken_of_due {s : State} {n : Nat} (h : 100 + n ≤ s.now) : pinTaken s (some n) = true :=
  decide_eq_true (show n + 100 ≤ s.now by omega)

theorem pinTaken_of_not_due {s : State} {n : Nat} (h : s.now < 100 + n) : pinTaken s (some n) = false :=
  decide_eq_false (show ¬n + 100 ≤ s.now by omega)

theorem pinTaken_none (s : State) : pinTaken s none = false := rfl

/-- A system reset can begin: PORST_N is high, and the device is not in deep standby. -/
theorem srstMay_iff {s : State} : srstMay s = true ↔ s.pwr.porstLow = false ∧ s.pwr.deep = false := by simp [srstMay]

theorem tickPins_of_porst {s : State} (h : pinTaken s s.pwr.porstFrom = true) : tickPins s = porstState s := by
  rw [tickPins, if_pos h]

theorem tickPins_of_srst {s : State} (hp : pinTaken s s.pwr.porstFrom = false) (h : pinTaken s s.pwr.srstFrom = true) (hm : srstMay s = true) :
    tickPins s = srstTaken s := by
  rw [tickPins, hp, h, hm]
  rfl

theorem tickPins_of_none_taken {s : State} (hp : pinTaken s s.pwr.porstFrom = false) (h : pinTaken s s.pwr.srstFrom = false) : tickPins s = s := by
  rw [tickPins, hp, h]
  rfl

/-! ### What a reset leaves -/

/-- A power-on reset puts the machine at its reset values, but for the fuses, the sentinel, the balls of the flume and the level of FREEZE_N. -/
theorem porstState_effect (u : State) : (porstState u).regs = [] ∧ (porstState u).tnk = State.reset.tnk ∧ (porstState u).img = State.reset.img
    ∧ (porstState u).krn = State.reset.krn ∧ (porstState u).clk = State.reset.clk ∧ (porstState u).pwr = State.reset.pwr
    ∧ (porstState u).hst = State.reset.hst ∧ (porstState u).fuses = u.fuses ∧ (porstState u).flm.ball = u.flm.ball
    ∧ (porstState u).frz.pinLow = u.frz.pinLow ∧ (porstState u).sen = senKeep u.sen :=
  ⟨rfl, rfl, rfl, rfl, rfl, rfl, rfl, rfl, rfl, rfl, rfl⟩

/-- A system reset taken from its pin lasts while the pin is low, and keeps the link, the fuses and the sentinel (R64, R67). -/
theorem srstTaken_effect (u : State) : (srstTaken u).pwr.resetRun = true ∧ (srstTaken u).pwr.srstLow = true ∧ (srstTaken u).pwr.holdEnd = none
    ∧ (srstTaken u).pwr.linkUp = u.pwr.linkUp ∧ (srstTaken u).tnk = State.reset.tnk ∧ (srstTaken u).img = State.reset.img
    ∧ (srstTaken u).krn = State.reset.krn ∧ (srstTaken u).fuses = u.fuses ∧ (srstTaken u).sen = senKeep u.sen
    ∧ (srstTaken u).frz.frozen = false :=
  ⟨rfl, rfl, rfl, rfl, rfl, rfl, rfl, rfl, rfl, rfl⟩

/-- Settles O11. -/
theorem resetEffects : Obligations.ResetEffects := by
  refine ⟨?_, ?_, ?_, ?_, ?_, ?_, ?_, ?_, ?_, ?_, ?_, ?_, ?_, ?_⟩
  · intro s hp hf
    show execPorstAssert s = _
    simp [execPorstAssert, hp, hf]
  · intro k s hp
    show execPorstRelease k s = _
    simp [execPorstRelease, hp]
  · rintro n s _ hq rfl hn
    rw [step_of_empty hq]
    refine ⟨fun due => ?_, fun notDue hs => ?_⟩
    · rw [tickPins_of_porst (hn ▸ pinTaken_of_due due)]
      exact ⟨_, rfl, porstState_effect _⟩
    · rw [tickPins_of_none_taken (hn ▸ pinTaken_of_not_due notDue) (hs ▸ pinTaken_none _)]
  · intro k s hp
    show execPorstRelease k s = _
    rw [execPorstRelease, hp]
    rfl
  · intro s hp hd hl hf
    show execSrstAssert s = _
    rw [execSrstAssert, srstMay_iff.mpr ⟨hp, hd⟩, hl, hf]
    rfl
  · intro s hl
    show execSrstRelease s = _
    rw [execSrstRelease, hl, Bool.and_false]
    rfl
  · rintro n s _ hq rfl hp hn
    have noPorst : pinTaken (tickRun s) (tickRun s).pwr.porstFrom = false := hp ▸ pinTaken_none _
    rw [step_of_empty hq]
    refine ⟨fun due hl hd => ?_, fun notDue => ?_⟩
    · rw [tickPins_of_srst noPorst (hn ▸ pinTaken_of_due due) (srstMay_iff.mpr ⟨hl, hd⟩)]
      exact ⟨_, rfl, srstTaken_effect _⟩
    · rw [tickPins_of_none_taken noPorst (hn ▸ pinTaken_of_not_due notDue)]
  · intro s hp hd hl
    show execSrstRelease s = _
    rw [execSrstRelease, srstMay_iff.mpr ⟨hp, hd⟩, hl]
    rfl
  · intro s hp
    have may : srstMay s = false := by simp [srstMay, hp]
    refine ⟨?_, ?_⟩
    · show execPorstAssert s = _
      rw [execPorstAssert, hp]
      rfl
    · show execSrstAssert s = _
      rw [execSrstAssert, may]
      rfl
  · intro f v s h hr hc hb
    refine (hostCmd_next h _).trans ?_
    rw [if_pos ⟨hc, hb, by rw [hr]; rfl⟩]
  · intro f v s h hc
    refine (hostCmd_next h _).trans ?_
    rw [if_neg (fun hw => hc hw.1)]
  · intro k s t hr he ht
    refine ⟨_, rfl, ?_⟩
    show execSystemResetHoldEnd k s = _
    rw [execSystemResetHoldEnd, he]
    exact if_pos ⟨hr, ht⟩
  · intro k s t he ht
    show execSystemResetHoldEnd k s = _
    rw [execSystemResetHoldEnd, he]
    exact if_neg (fun hw => Nat.not_le_of_lt ht hw.2)
  · intro s hl hd
    show execPcieHotReset s = _
    rw [execPcieHotReset, if_pos ⟨hl, by rw [hd]; rfl⟩]

end Sys2Proof.Machine

namespace Sys2Proof.Machine

/-!
PROOFS. Bring-up and trickle service (R69 to R76): O12.
-/

/-- A PLL that fails stops the ROM where the early steps need it, and else lets the ROM go on (R70, R512). -/
theorem exec_pllLockTimeout {p : Fin 10} {s t u : State} (ha : active s = true) (hd : pllDue s p = true) (ho : pllOver s p = false)
    (ht : t = { s with pwr := { s.pwr with pllFailed := s.pwr.pllFailed ||| (1#10 <<< p.val) } })
    (hu : u = if p.val = 9 then linkSet t false else t) :
    exec (.pllLockTimeout p) s
      = .next (if (p.val ≤ 1 ∧ s.pwr.romStep = 2) ∨ (p.val = 9 ∧ s.pwr.romStep = 5) then bootFault u else romNext (romPll u)) := by
  subst ht hu
  show execPllLockTimeout p s = _
  simp only [execPllLockTimeout, event_next ha, hd, ho, Bool.not_false, Bool.and_self, if_true, Bool.or_eq_true, decide_eq_true_eq]

/-- Settles O12. -/
theorem bringUpAndTrickleEffects : Obligations.BringUpAndTrickleEffects := by
  refine ⟨?_, ?_, ?_, ?_, ?_, ?_, ?_, ?_⟩
  · intro s ha hr
    refine ⟨?_, ?_⟩
    · show execFuseSenseDone true s = _
      rw [execFuseSenseDone, event_next ha, if_neg (fun h => h hr), if_pos rfl]
    · show execFuseSenseDone false s = _
      rw [execFuseSenseDone, event_next ha, if_neg (fun h => h hr), if_neg Bool.false_ne_true]
  · intro p s ha hd ho
    show execPllLocked p s = _
    rw [execPllLocked, event_next ha, hd, ho]
    rfl
  · exact fun p s t u ha hd ho ht hu => exec_pllLockTimeout ha hd ho ht hu
  · intro s ha h3 h5 hs hi hr hn ht
    show execTrickleServiceStart s = _
    rw [execTrickleServiceStart, event_next ha, hs, hi, h3, h5, ht, decide_eq_true hr, decide_eq_true hn]
    rfl
  · intro p b g s h ht hu
    show execTrickleFrameRx p b g s = _
    rw [execTrickleFrameRx, domEvent_next h, ht, hu]
    rfl
  · intro s ha
    show execTrickleAgeDrop s = _
    exact event_next ha _
  · intro s ha ht hi
    refine ⟨_, rfl, ?_⟩
    show execTrickleDrainEnd s = _
    rw [execTrickleDrainEnd, event_next ha, ht, hi]
    rfl
  · intro s ha hd ht hf
    refine ⟨_, _, rfl, rfl, ?_⟩
    show execHandoverComplete s = _
    rw [execHandoverComplete, event_next ha, hd, ht, hf]
    rfl

end Sys2Proof.Machine

namespace Sys2Proof.Machine

/-!
PROOFS. Power domains (R79 to R84, Table 3-6): what a request does in each state of a domain, how a sequence ends, the operating points, and
O13.
-/

/-! ### Requests -/

/-- The SUP cycle of an ON request, and of an OFF request, is noted (R80). -/
def onNoted (s : State) (d : Nat) : State := { s with pwr := { s.pwr with onAt := tabSet (fun _ => 0) s.pwr.onAt d (supCycle s) } }
def offNoted (s : State) (d : Nat) : State := { s with pwr := { s.pwr with offAt := tabSet (fun _ => 0) s.pwr.offAt d (supCycle s) } }

theorem domOn1_of_off {s : State} {d : Nat} (h : domState s d = 0) : domOn1 s d = startOn (onNoted s d) d := by
  rw [domOn1, h]
  rfl

theorem domOn1_of_on {s : State} {d : Nat} (h : domState s d = 2) : domOn1 s d = onNoted s d := by
  rw [domOn1, h]
  rfl

theorem domOn1_of_onSeq {s : State} {d : Nat} (h : domState s d = 1) : domOn1 s d = domPend (onNoted s d) d (some true) := by
  rw [domOn1, h]
  rfl

/-- An ON request in an off-sequence that no OFF request of this SUP cycle has started is held. -/
theorem domOn1_of_offSeq {s : State} {d : Nat} (h : domState s d = 3) (hoff : tabGet (fun _ => 0) s.pwr.offAt d ≠ supCycle s) :
    domOn1 s d = domPend (onNoted s d) d (some true) := by
  rw [domOn1, h, decide_eq_false hoff]
  rfl

/-- In the SUP cycle of an ON request an OFF request restarts the idle timer alone (R80). -/
theorem domOff1_of_sameCycle {s : State} {d : Nat} (h : tabGet (fun _ => 0) s.pwr.onAt d = supCycle s) : domOff1 s d = idleRestart s d := by
  rw [domOff1, if_pos h]

theorem domOff1_of_off {s : State} {d : Nat} (hon : tabGet (fun _ => 0) s.pwr.onAt d ≠ supCycle s) (h : domState s d = 0) : domOff1 s d = s := by
  rw [domOff1, if_neg hon, h]
  rfl

theorem domOff1_of_on {s : State} {d : Nat} (hon : tabGet (fun _ => 0) s.pwr.onAt d ≠ supCycle s) (h : domState s d = 2) :
    domOff1 s d = startOff (offNoted s d) d := by
  rw [domOff1, if_neg hon, h]
  rfl

theorem domOff1_of_seq {s : State} {d : Nat} (hon : tabGet (fun _ => 0) s.pwr.onAt d ≠ supCycle s) (h : domState s d = 1 ∨ domState s d = 3) :
    domOff1 s d = domPend s d (some false) := by
  rw [domOff1, if_neg hon]
  exact if_pos h

/-- An ON request of the policy that the host does not hold off, with the PLL locked, reaches the table. -/
theorem exec_domainOnRequest {d : Fin 17} {s : State} (ha : active s = true) (hd : 2 ≤ d.val) (hr : domReqField s d ≠ 2)
    (hc : domClocked s d = true) : exec (.domainOnRequest d) s = .next (domOn1 s d) := by
  show execDomainOnRequest d s = _
  rw [execDomainOnRequest, event_next ha, if_neg (Nat.not_lt.mpr hd), domOnRequest, if_neg hr, hc]
  rfl

/-- An OFF request of the policy that the host does not hold on reaches the table. -/
theorem domOffRequest_of_ne {s : State} {d : Nat} (hr : domReqField s d ≠ 1) : domOffRequest s d = domOff1 s d := by
  rw [domOffRequest, if_neg hr]
  rfl

theorem domOffRequest_of_on {s : State} {d : Nat} (hr : domReqField s d ≠ 1) (hon : tabGet (fun _ => 0) s.pwr.onAt d ≠ supCycle s)
    (h : domState s d = 2) : domOffRequest s d = startOff (offNoted s d) d :=
  (domOffRequest_of_ne hr).trans (domOff1_of_on hon h)

theorem exec_domainOffRequest {d : Fin 17} {s : State} (ha : active s = true) (hd : 5 ≤ d.val) (hr : domReqField s d ≠ 1) :
    exec (.domainOffRequest d) s = .next (domOff1 s d) := by
  show execDomainOffRequest d s = _
  rw [execDomainOffRequest, event_next ha, if_neg (Nat.not_lt.mpr hd), domOffRequest_of_ne hr]

/-! ### Requests of the host -/

/-- PWR_DOMAIN_CTL with REQ and RETAIN stored. -/
def ctlStored (s : State) (d : Nat) (v : Word) (req : Nat) : State :=
  regSetFld (regSetFld s (Reg.PWR_DOMAIN_CTL d) 4 4 (fld v 4 4)) (Reg.PWR_DOMAIN_CTL d) 1 0 req

/-- The state of a domain is not in its control register. -/
@[simp] theorem domState_ctlStored (s : State) (d : Nat) (v : Word) (req : Nat) : domState (ctlStored s d v req) d = domState s d := by
  have hne : Reg.PWR_DOMAIN_STAT d ≠ Reg.PWR_DOMAIN_CTL d := by simp only [Reg.PWR_DOMAIN_STAT, Reg.PWR_DOMAIN_CTL]; omega
  rw [domState, regFld, ctlStored, regGet_regSetFld_ne hne, regGet_regSetFld_ne hne]
  rfl

/-- A write of PWR_DOMAIN_CTL that reaches its register. -/
theorem powerCmd_next {f : Fin 4} {d : Fin 17} {s : State} (h : HostSees s (Reg.PWR_DOMAIN_CTL d)) (hd : 1 ≤ d.val)
    (hl : locked s (Reg.PWR_DOMAIN_CTL d) = false) (req : Nat) (v : Word) :
    powerCmd f d req v s = .next (
      if req = 3 ∨ (req = 2 ∧ d.val < 5) ∨ (req = 1 ∧ !domClocked s d) then pwrRefuse s d
      else if req = 1 then domOn1 (ctlStored s d v req) d
      else if req = 2 then domOff1 (ctlStored s d v req) d
      else policyRequest (ctlStored s d v req) d) := by
  rw [powerCmd, hostCmd_next h, if_neg (by omega), powerWrite, hl]
  rfl

theorem pwrReqOn_next {f : Fin 4} {d : Fin 17} {s : State} (h : HostSees s (Reg.PWR_DOMAIN_CTL d)) (hd : 1 ≤ d.val)
    (hl : locked s (Reg.PWR_DOMAIN_CTL d) = false) (hc : domClocked s d = true) (v : Word) :
    exec (.pwrReqOn f d v) s = .next (domOn1 (ctlStored s d v 1) d) := by
  show powerCmd f d 1 v s = _
  rw [powerCmd_next h hd hl, if_neg (by simp [hc]), if_pos rfl]

theorem pwrReqOff_next {f : Fin 4} {d : Fin 17} {s : State} (h : HostSees s (Reg.PWR_DOMAIN_CTL d)) (hd : 5 ≤ d.val)
    (hl : locked s (Reg.PWR_DOMAIN_CTL d) = false) (v : Word) : exec (.pwrReqOff f d v) s = .next (domOff1 (ctlStored s d v 2) d) := by
  show powerCmd f d 2 v s = _
  rw [powerCmd_next h (by omega) hl, if_neg (by simp; omega), if_neg (by decide), if_pos rfl]

/-! ### Sequences -/

/-- A sequence that ends without a failed supply of D2. -/
theorem exec_powerSequenceDone {d : Fin 17} {s : State} (ha : active s = true) (hd : 1 ≤ d.val) :
    exec (.powerSequenceDone ⟨d, true⟩) s = .next (romNext (sequenceDone s d)) := by
  show execPowerSequenceDone ⟨d, true⟩ s = _
  rw [execPowerSequenceDone, event_next ha]
  dsimp only
  rw [if_neg (by omega), if_neg (by simp)]

theorem and_not_eq_false {p q : Bool} (h : p = false ∨ q = true) : (p && !q) = false := by
  rcases h with rfl | rfl <;> simp

theorem and_eq_false {p q : Bool} (h : p = false ∨ q = false) : (p && q) = false := by
  rcases h with rfl | rfl <;> simp

/-- An on-sequence with an OFF request pending turns into an off-sequence (Table 3-6). -/
theorem sequenceDone_on_then_off {s : State} {d : Nat} (h : domState s d = 1) (hp : regBit s (Reg.PWR_DOMAIN_STAT d) 3 = true)
    (ho : tabGet (fun _ => false) s.pwr.pendingOn d = false) : sequenceDone s d =
      raise (regSetFld (regSetFld (domPend s d none) (Reg.PWR_DOMAIN_STAT d) 5 4 2) (Reg.PWR_DOMAIN_STAT d) 2 0 3) Reg.PWR_CAUSE 2 := by
  rw [sequenceDone, h, hp, ho]
  rfl

/-- An on-sequence without one ends in ON (log entry 94). -/
theorem sequenceDone_on {s : State} {d : Nat} (h : domState s d = 1)
    (hp : regBit s (Reg.PWR_DOMAIN_STAT d) 3 = false ∨ tabGet (fun _ => false) s.pwr.pendingOn d = true) : sequenceDone s d =
      raise (domainUp (regSetFld (regSetFld (regSetFld (domPend s d none) (Reg.PWR_DOMAIN_STAT d) 5 4 0)
          (Reg.PWR_DOMAIN_STAT d) 2 0 2) (Reg.PWR_DOMAIN_STAT d) 8 8 0) d (regBit s (Reg.PWR_DOMAIN_STAT d) 8)) Reg.PWR_CAUSE 0 := by
  rw [sequenceDone, h, and_not_eq_false hp]
  rfl

/-- RETAINED as the end of an off-sequence leaves it. -/
def keepsRetained (s : State) (d : Nat) : Bool := domRetain s d && decide (10 ≤ d) && decide (d ≤ 15)

/-- An off-sequence with an ON request pending turns into an on-sequence. -/
theorem sequenceDone_off_then_on {s : State} {d : Nat} (h : domState s d = 3) (hp : regBit s (Reg.PWR_DOMAIN_STAT d) 3 = true)
    (ho : tabGet (fun _ => false) s.pwr.pendingOn d = true) : sequenceDone s d =
      raise (startOn (regSetFld (regSetFld (domPend (domainDown s d) d none) (Reg.PWR_DOMAIN_STAT d) 5 4 1)
        (Reg.PWR_DOMAIN_STAT d) 8 8 (b2n (keepsRetained s d))) d) Reg.PWR_CAUSE 1 := by
  rw [sequenceDone, h, hp, ho]
  rfl

/-- An off-sequence without one ends in OFF (log entry 94). -/
theorem sequenceDone_off {s : State} {d : Nat} (h : domState s d = 3)
    (hp : regBit s (Reg.PWR_DOMAIN_STAT d) 3 = false ∨ tabGet (fun _ => false) s.pwr.pendingOn d = false) : sequenceDone s d =
      raise (regSetFld (regSetFld (regSetFld (domPend (domainDown s d) d none) (Reg.PWR_DOMAIN_STAT d) 5 4 0) (Reg.PWR_DOMAIN_STAT d) 2 0 0)
        (Reg.PWR_DOMAIN_STAT d) 8 8 (b2n (keepsRetained s d))) Reg.PWR_CAUSE 0 := by
  rw [sequenceDone, h, and_eq_false hp]
  rfl

/-- A restarted idle timer is all that `idleRestart` and `idleTick` touch of the power state. -/
theorem idleRestart_idleTick (s : State) (c d : Nat) : ∃ x, idleRestart (idleTick s c) d = { s with pwr := { s.pwr with idleFrom := x } } := by
  unfold idleRestart
  split <;> exact ⟨_, rfl⟩

/-- An expired idle timer of a cluster that is on, and not held on, starts its off-sequence (R81). -/
theorem exec_idleHoldExpiry {c : Fin 4} {s : State} {t : Nat} (ha : active s = true)
    (hfrom : tabGet (fun _ => none) (idleTick s c.val).pwr.idleFrom c.val = some t)
    (ht : t + (domPolicy s (10 + c.val)).idleHold * 1000 ≤ s.run) (hon : domState s (10 + c.val) = 2)
    (hr : domReqField s (10 + c.val) ≠ 1) (hcyc : tabGet (fun _ => 0) s.pwr.onAt (10 + c.val) ≠ supCycle s) :
    exec (.idleHoldExpiry c) s = .next (startOff (offNoted (idleRestart (idleTick s c.val) (10 + c.val)) (10 + c.val)) (10 + c.val)) := by
  show execIdleHoldExpiry c s = _
  obtain ⟨x, hx⟩ := idleRestart_idleTick s c (10 + c.val)
  rw [execIdleHoldExpiry, event_next ha]
  dsimp only
  rw [hfrom]
  dsimp only
  refine congrArg _ ((if_pos ht).trans ?_)
  rw [hx]
  exact domOffRequest_of_on hr hcyc hon

/-! ### Operating points -/

/-- A cluster at FULL that is asked for LOW switches its clock at once (R84). -/
theorem pointStart_low {s : State} {c : Nat} (hon : domOn s (10 + c) = true) (hb : regBit s Reg.PWR_OPPOINT_STAT (4 + c) = false)
    (hfull : regFld s Reg.PWR_OPPOINT_STAT c c = 0) (hask : regFld s Reg.PWR_OPPOINT c c = 1) :
    pointStart s c = regSetFld { regSetFld s Reg.PWR_OPPOINT_STAT (4 + c) (4 + c) 1 with
      pwr := { s.pwr with toFull := s.pwr.toFull &&& ~~~(1#4 <<< c) } } Reg.PWR_OPPOINT_STAT c c 1 := by
  rw [pointStart, hon, hb, hfull, hask]
  rfl

/-- Settles O13. -/
theorem powerDomainEffects : Obligations.PowerDomainEffects := by
  refine ⟨?_, ?_, ?_, ?_, ?_, ?_, ?_, ?_, ?_, ?_, ?_, ?_⟩
  · rintro d s _ ha hd hr hc rfl
    rw [exec_domainOnRequest ha hd hr hc]
    refine ⟨fun h => ?_, fun h => ?_, fun h => ?_, fun h hoff => ?_⟩
    · rw [domOn1_of_off h]; rfl
    · rw [domOn1_of_onSeq h]; rfl
    · rw [domOn1_of_on h]; rfl
    · rw [domOn1_of_offSeq h hoff]; rfl
  · rintro d s _ ha hd hr hcyc rfl
    rw [exec_domainOffRequest ha hd hr]
    refine ⟨fun h => ?_, fun h => ?_, fun h => ?_⟩
    · rw [domOff1_of_off hcyc h]
    · rw [domOff1_of_seq hcyc h]
    · rw [domOff1_of_on hcyc h]; rfl
  · intro d s ha hd hr hcyc
    rw [exec_domainOffRequest ha hd hr, domOff1_of_sameCycle hcyc]
  · intro d s ha hd
    show execDomainOffRequest d s = _
    rw [execDomainOffRequest, event_next ha, if_pos hd]
  · rintro d s _ ha hd h rfl
    rw [exec_powerSequenceDone ha hd]
    refine ⟨fun hp ho => ?_, fun hp => ?_⟩
    · rw [sequenceDone_on_then_off h hp ho]
    · rw [sequenceDone_on h hp]
  · rintro s _ ha h rfl
    show execPowerSequenceDone ⟨2, false⟩ s = _
    rw [execPowerSequenceDone, event_next ha]
    exact congrArg _ ((if_neg (by decide)).trans (if_pos ⟨rfl, rfl, h⟩))
  · rintro d s _ _ ha hd h rfl rfl
    rw [exec_powerSequenceDone ha hd]
    refine ⟨fun hp ho => ?_, fun hp => ?_⟩
    · rw [sequenceDone_off_then_on h hp ho]; rfl
    · rw [sequenceDone_off h hp]; rfl
  · rintro c s _ t ha rfl hfrom ht hon hr hcyc
    obtain ⟨x, hx⟩ := idleRestart_idleTick s c (10 + c.val)
    rw [exec_idleHoldExpiry ha hfrom ht hon hr hcyc, hx]
    rfl
  · rintro f d v s _ _ h hd hl rfl rfl
    refine ⟨fun hc hs => ?_, fun hc hs => ?_, fun hc hs => ?_, fun hc hs hoff => ?_, fun hc => ?_, fun h5 hs hcyc => ?_, fun h5 hs hcyc => ?_,
      fun h5 hs hcyc => ?_, fun h5 => ?_, ?_⟩
    · rw [pwrReqOn_next h hd hl hc, domOn1_of_off ((domState_ctlStored ..).trans hs)]; rfl
    · rw [pwrReqOn_next h hd hl hc, domOn1_of_onSeq ((domState_ctlStored ..).trans hs)]; rfl
    · rw [pwrReqOn_next h hd hl hc, domOn1_of_on ((domState_ctlStored ..).trans hs)]; rfl
    · rw [pwrReqOn_next h hd hl hc, domOn1_of_offSeq ((domState_ctlStored ..).trans hs) hoff]; rfl
    · exact (powerCmd_next h hd hl 1 v).trans (by rw [if_pos (.inr (.inr ⟨rfl, by rw [hc]; rfl⟩))])
    · rw [pwrReqOff_next h h5 hl, domOff1_of_off (s := ctlStored s d v 2) hcyc ((domState_ctlStored ..).trans hs)]; rfl
    · rw [pwrReqOff_next h h5 hl, domOff1_of_on (s := ctlStored s d v 2) hcyc ((domState_ctlStored ..).trans hs)]; rfl
    · rw [pwrReqOff_next h h5 hl, domOff1_of_seq (s := ctlStored s d v 2) hcyc (by rwa [domState_ctlStored])]; rfl
    · exact (powerCmd_next h hd hl 2 v).trans (by rw [if_pos (.inr (.inl ⟨rfl, h5⟩))])
    · exact powerCmd_next h hd hl 0 v
  · intro f v s h hl
    refine (hostCmd_next h _).trans ?_
    rw [hl]
    rfl
  · exact fun c s hon hb hfull hask => ⟨_, rfl, pointStart_low hon hb hfull hask⟩
  · rintro c s _ _ ha hb rfl rfl
    show execOppointChangeDone c s = _
    rw [execOppointChangeDone, event_next ha, hb]
    rfl

end Sys2Proof.Machine

namespace Sys2Proof.Machine

/-!
PROOFS. Deep standby, rail loss, boot time and the monitors (R85 to R87, R506, R508): O14.
-/

/-- With its code PWR_DEEP takes the device down (R85). -/
theorem exec_deepStandbyEnter {f : Fin 4} {v : Word} {s : State} (h : HostSees s Reg.PWR_DEEP) (hc : fld v 31 16 = 0xD5E7)
    (hb : bitOf v 0 = true) : ∃ t, exec (.deepStandbyEnter f v) s = .next t ∧ t.pwr.deep = true := by
  refine ⟨_, (hostCmd_next h _).trans (congrArg _ ((if_neg (fun hw => hw hc)).trans (if_neg (by rw [hb]; decide)))), rfl⟩

/-- A reading that is neither the highest nor widens the spread is stored, and nothing else changes. -/
theorem exec_tempSensorUpdate {n : Fin 8} {v : BitVec 12} {s t : State} (ha : active s = true) (hany : (temps s).isEmpty = false)
    (ht : t = regSet s (Reg.PWR_TEMP n.val) (v.setWidth 32 ||| 0x80000000)) (hmax : v.toInt ≤ tempOf (regGet t Reg.PWR_TEMP_MAX))
    (hspread : tempSpread t ≤ regFld t Reg.PWR_TEMP_SPREAD 15 8) : exec (.tempSensorUpdate n v) s = .next t := by
  subst ht
  show execTempSensorUpdate n v s = _
  rw [execTempSensorUpdate, event_next ha]
  dsimp only
  rw [hany, Bool.false_or, decide_eq_false (Int.not_lt.mpr hmax), if_neg Bool.false_ne_true, if_neg (Nat.not_lt.mpr hspread)]

/-- Settles O14. -/
theorem standbyAndMonitorEffects : Obligations.StandbyAndMonitorEffects := by
  refine ⟨?_, ?_, ?_, ?_, ?_, ?_⟩
  · intro f v s h hc hb
    obtain ⟨t, ht, deep⟩ := exec_deepStandbyEnter (f := f) h hc hb
    exact ⟨t, ht, deep, by simp [active, deep]⟩
  · intro f v s h hc
    refine (hostCmd_next h _).trans ?_
    rw [if_pos hc]
  · exact fun s => rfl
  · exact fun f s h => hostCmd_next h _
  · exact fun n v s ha hany t ht hmax hspread => exec_tempSensorUpdate ha hany ht hmax hspread
  · intro i v s h hi
    show execAgeingMeasurement i v s = _
    rw [execAgeingMeasurement, domEvent_next h, if_neg (by omega)]

end Sys2Proof.Machine

namespace Sys2Proof.Machine

/-!
PROOFS. The time base: writes of the discipliner (R90 to R94), the instants of steps, sets and slews, and reads, compares, captures, PPS_OUT
and replicas (R95, R100, R114 to R116): O16, O17 and O18.
-/

/-! ### Writes of the discipliner -/

/-- A write of an engine or a unit that is not the discipliner is refused (R90). -/
theorem timWrite_refused {s : State} {m a : Nat} (k : State → State) (hm : m < 36 ∨ 40 ≤ m) (ha : active s = true)
    (ho : regFld s Reg.TIM_DISC_OWNER 5 0 ≠ m) :
    timWrite s m a k = .next (raise (regSet s Reg.TIM_REFUSED (BitVec.ofNat 32 m)) Reg.TIM_CAUSE 3) := by
  rw [timWrite, if_neg (by omega), event_next ha, disciplined, if_neg ho]

/-- The discipliner's slew, by whether a command waits and whether there is anything to add (R92, R94). -/
theorem exec_adjSlew {m : Fin 42} {r : BitVec 16} {s : State} (h : Disciplines s m Reg.TIM_ADJ_CTL) (hr : r ≠ 0) :
    exec (.adjSlew m r) s = .next (if s.clk.held.isEmpty then slewBegin s (regGet s Reg.TIM_ADJ_NS) r.toNat
      else clkHold s (.slew (regGet s Reg.TIM_ADJ_NS) r.toNat)) := by
  refine (timWrite_next h _).trans ?_
  rw [if_neg hr]

/-- The discipliner's set, once its code is right (R93). -/
theorem exec_timSetCmd {m : Fin 42} {v : Word} {s : State} (h : Disciplines s m Reg.TIM_SET_CMD) (hc : fld v 31 16 = 0x5E7C) :
    exec (.timSetCmd m v) s = .next (if 999999999 < regFld s Reg.TIM_SET_NS 29 0 then raise s Reg.TIM_CAUSE 3
      else clkHold s (.set (BitVec.ofNat 48 (regFld s Reg.TIM_SET_SEC_HI 15 0 * 2 ^ 32 + (regGet s Reg.TIM_SET_SEC_LO).toNat))
        (regFld s Reg.TIM_SET_NS 29 0))) := by
  refine (timWrite_next h _).trans ?_
  rw [if_neg (fun hw => hw hc)]

theorem plainWrite_of_row {s : State} {f a : Nat} {v : Word} {r : RegRow} (h : findReg a = some r) : plainWrite s f a v =
    blockIrq (irqStatus s) (regSet s (regKey f a) (writeByType r (locked s a) (regGet s (regKey f a)) v)) := by
  rw [plainWrite, h]

/-- Settles O16. -/
theorem disciplinerWrites : Obligations.DisciplinerWrites := by
  refine ⟨?_, ?_, ?_, ?_, ?_, ?_, ?_, ?_, ?_, ?_, ?_⟩
  · exact fun m v s h => exec_timIncrFracWrite h v
  · exact fun m v s h => exec_timIncrIntWrite h v
  · exact fun m s h => ⟨_, _, rfl, rfl, timWrite_next h _⟩
  · intro m r s h hr hheld hadj
    rw [exec_adjSlew h hr, hheld, List.isEmpty_nil, if_pos rfl, slewBegin, if_neg hadj]
  · intro m r s h hr hheld hadj
    rw [exec_adjSlew h hr, hheld, List.isEmpty_nil, if_pos rfl, slewBegin, if_pos hadj]
  · intro m r s h hr hheld
    have waits : s.clk.held.isEmpty = false := by simpa using hheld
    refine ⟨_, rfl, ?_⟩
    rw [exec_adjSlew h hr, waits, if_neg Bool.false_ne_true, clkHold, waits]
    rfl
  · intro m s h
    refine ⟨timWrite_next h _, (timWrite_next h _).trans ?_⟩
    rw [if_pos rfl]
  · intro m v s h hc hns
    refine ⟨_, _, _, rfl, rfl, rfl, ?_⟩
    rw [exec_timSetCmd h hc, if_neg (Nat.not_lt.mpr hns)]
    rfl
  · intro m v s h hc hns
    rw [exec_timSetCmd h hc, if_pos hns]
  · intro m a v s r hm ha ho hd hne hr
    show execRegisterWrite m a v s = _
    rw [execRegisterWrite, if_neg (by omega), event_next ha, hd, if_pos rfl, writeDiscipline, disciplined, if_pos ho, if_neg hne,
      plainWrite_of_row hr]
  · intro m v r s hm ha ho c hc
    simp only [List.mem_cons, List.not_mem_nil, or_false] at hc
    rcases hc with rfl | rfl | rfl | rfl | rfl | rfl <;> exact timWrite_refused _ hm ha ho

/-! ### Steps, sets and slews at their instant -/

/-- A step or a set waits for its 32 cycles. -/
theorem exec_apply_waits {s : State} (h : TimeRuns s) (hw : s.clk.wait ≠ 0) : exec .stepApply s = .next s ∧ exec .setApply s = .next s := by
  refine ⟨?_, ?_⟩
  · show execStepApply s = _
    rw [execStepApply, timeEvent_next h]
    split
    · exact congrArg _ (if_pos hw)
    · rfl
  · show execSetApply s = _
    rw [execSetApply, timeEvent_next h]
    split
    · exact congrArg _ (if_pos hw)
    · rfl

/-- A step adds whole nanoseconds, so that FRAC stays (R92). -/
theorem clkStep_frac (c : Clock) (adj : Word) : (clkStep c adj).frac = c.frac := by
  apply BitVec.eq_of_toNat_eq
  simp only [clkStep, clkAdd, BitVec.toNat_ofNat]
  have := c.frac.isLt
  omega

/-- Settles O17. -/
theorem clockAdjustmentEffects : Obligations.ClockAdjustmentEffects := by
  refine ⟨?_, ?_, ?_, ?_, ?_⟩
  · intro adj l s h hheld hw
    refine ⟨_, rfl, ?_, ?_⟩
    · show execStepApply s = _
      rw [execStepApply, timeEvent_next h, hheld]
      exact congrArg _ (if_neg (fun hne => hne hw))
    · exact clkStep_frac s.clk adj
  · intro sec ns l s h hheld hw
    refine ⟨_, rfl, ?_, rfl, rfl, rfl⟩
    show execSetApply s = _
    rw [execSetApply, timeEvent_next h, hheld]
    exact congrArg _ (if_neg (fun hne => hne hw))
  · exact fun s h hw => exec_apply_waits h hw
  · intro w s ha hs hr
    show execSlewEnd s = _
    rw [execSlewEnd, event_next ha, hs]
    exact congrArg _ (if_pos hr)
  · intro w s ha hs hr
    show execSlewEnd s = _
    rw [execSlewEnd, event_next ha, hs]
    exact congrArg _ (if_neg hr)

/-! ### Compares, captures, PPS_OUT and replicas -/

/-- A channel without a period disarms as it fires (R114). -/
theorem cmpFire_once {s : State} {n : Nat} (hn : n ≠ 0) (hp : regGet s (Reg.TIM_CMP_PERIOD n) = 0) :
    cmpFire s n = { raiseTim (regSetFld s (Reg.TIM_CMP_STAT n) 0 0 1) (16 + n) with
      clk := { (raiseTim (regSetFld s (Reg.TIM_CMP_STAT n) 0 0 1) (16 + n)).clk with
        cmpArmed := (raiseTim (regSetFld s (Reg.TIM_CMP_STAT n) 0 0 1) (16 + n)).clk.cmpArmed &&& ~~~(1#8 <<< n) } } := by
  rw [cmpFire, hp]
  dsimp only
  rw [if_neg (by simp), if_neg (fun h => hn h.1)]

/-- Settles O18. -/
theorem timeReadCompareAndCaptureEffects : Obligations.TimeReadCompareAndCaptureEffects := by
  refine ⟨?_, ?_, ?_, ?_, ?_, ?_, ?_, ?_, ?_, ?_, ?_⟩
  · exact fun f s h => ⟨_, rfl, hostCmd_next h _⟩
  · exact fun f n s h => ⟨hostCmd_next h _, hostCmd_next h _⟩
  · intro n s h hn harm hr hp
    refine ⟨_, rfl, ?_⟩
    show execCompareFire n s = _
    rw [execCompareFire, timeEvent_next h, nowNs32, harm, hr, cmpFire_once (by omega) hp]
    rfl
  · intro n s h harm
    show execCompareFire n s = _
    rw [execCompareFire, timeEvent_next h, harm]
    rfl
  · intro s h h0 h1
    show execPpsInEdge true s = _
    rw [execPpsInEdge, timeEvent_next h]
    dsimp only
    rw [if_pos rfl, if_pos h0, if_neg (by rw [h1]; decide)]
  · intro f c v s h hsrc hsnap hovr
    refine (hostCmd_next h _).trans ?_
    rw [hsrc, hsnap, hovr]
    rfl
  · exact fun f c s h => hostCmd_next h _
  · intro s h hm hsec hlow
    refine ⟨_, _, rfl, rfl, ?_⟩
    show execPpsOutRise s = _
    rw [execPpsOutRise, timeEvent_next h, if_pos ⟨hm, hsec⟩, ppsRise]
    dsimp only
    rw [hlow]
    rfl
  · intro s h hsec
    show execPpsOutRise s = _
    rw [execPpsOutRise, timeEvent_next h, if_neg (fun hw => Int.not_lt.mpr hsec hw.2)]
  · intro e s h hf he
    show execPpsOutFall s = _
    rw [execPpsOutFall, timeEvent_next h, hf]
    exact congrArg _ (if_pos he)
  · intro i d s ha hd hi hon
    refine ⟨_, rfl, ?_⟩
    show execReplicaValid i s = _
    rw [execReplicaValid, event_next ha, hd]
    dsimp only
    rw [if_pos hon, if_neg hi]

end Sys2Proof.Machine

namespace Sys2Proof.Machine

/-!
PROOFS. Ports: lanes and uplinks (R120 to R124), reception (R125, R126), received pause (R129 to R134), links and flushes (R137 to R142), host
commands (R136, R147, R148): O19, O20, O21, O23 and O24.
-/

/-! ### Lanes and uplinks -/

/-- Settles O19. -/
theorem laneAndPcsEffects : Obligations.LaneAndPcsEffects := by
  refine ⟨?_, ?_, ?_, ?_, ?_, ?_, ?_, ?_⟩
  · intro n s h he
    show execLaneSyncAcquired n s = _
    rw [execLaneSyncAcquired, domEvent_next h, if_pos he]
  · intro n s h hs
    show execLaneSyncLost n s = _
    rw [execLaneSyncLost, domEvent_next h, if_pos hs]
  · intro p link full v s h
    refine ⟨_, rfl, ?_⟩
    show execInbandStatus p link full v s = _
    exact domEvent_next h _
  · intro u s h hm
    show execUplinkPcsUp u s = _
    exact (domEvent_next h _).trans (congrArg _ (if_neg hm))
  · intro u lock s h
    show execUplinkPcsDown u lock s = _
    exact domEvent_next h _
  · intro u on s h
    show execRemoteFaultRx u on s = _
    exact domEvent_next h _
  · intro u s h hm
    refine ⟨?_, ?_⟩
    · show execFecCodewordCorrected u s = _
      exact (domEvent_next h _).trans (congrArg _ (if_pos hm))
    · show execFecCodewordUncorrectable u s = _
      exact (domEvent_next h _).trans (congrArg _ (if_pos hm))
  · intro u s h hm
    refine ⟨?_, ?_⟩
    · show execFecCodewordCorrected u s = _
      exact (domEvent_next h _).trans (congrArg _ (if_neg hm))
    · show execFecCodewordUncorrectable u s = _
      exact (domEvent_next h _).trans (congrArg _ (if_neg hm))

/-! ### Reception -/

/-- A port that receives from its wire takes a MAC control frame as the wire has it, and breaks a reception that has not ended (R125). -/
theorem controlTake_of_wire {s : State} {p : Nat} (h : PortReceives s p) (kind : Nat) (line : ControlRx) :
    controlTake s p kind line = (some line, receiveBroken s p) := by
  obtain ⟨⟨-, hon⟩, hserved, hen, hlink, hloop⟩ := h
  rw [controlTake, hserved, hon, hen, hlink, hloop]
  rfl

theorem receiveFrame_of_wire {s : State} {p : Nat} {b : List Byte} (h : PortReceives s p) (hb : isMacControl b = false) :
    receiveFrame s p b = receiveStart s p b none := by
  obtain ⟨⟨-, hon⟩, hserved, hen, hlink, hloop⟩ := h
  rw [receiveFrame, hserved, hon, hen, hlink, hloop, hb]
  rfl

theorem receiveFrame_without_link {s : State} {p : Nat} (b : List Byte) (h : portLink s p = false) : receiveFrame s p b = s := by
  rw [receiveFrame, h]
  simp

/-- A cell of a frame within the longest length is admitted; the first one may start a cut-through (R180, R187). -/
theorem receiveCell_of_fits {s : State} {p h : Nat} {f : Frame} (hf : frameGet s h = some f) (ho : cellOver s p f = false) :
    receiveCell s p h = if f.offered = 0 then cutStart (cellAdmit s p h) p h else cellAdmit s p h := by
  rw [receiveCell, hf]
  dsimp only
  rw [ho, if_neg Bool.false_ne_true]

/-- A cell offered by the frame in reception. -/
theorem exec_cellAdmission {p : Fin 200} {h : Nat} {b : List Byte} {s : State} (hrun : UnitRuns s (portDomain p))
    (hrx : (portGet s p).rx = some (h, b)) : exec (.cellAdmission p) s = .next (pauseSweep (receiveCell s p h)) := by
  show execCellAdmission p s = _
  rw [execCellAdmission, flowEvent_next hrun.1, hrx]
  exact congrArg (fun t => Host.Outcome.next (pauseSweep t)) (if_pos hrun.2)

/-- Settles O20. -/
theorem frameReceptionEffects : Obligations.FrameReceptionEffects := by
  refine ⟨?_, ?_, ?_, ?_, ?_, ?_⟩
  · intro p b s h hb
    show execFrameHeaderArrival p b s = _
    rw [execFrameHeaderArrival, flowEvent_next h.1.1, receiveFrame_of_wire h hb]
  · intro p b s ha hlink
    show execFrameHeaderArrival p b s = _
    rw [execFrameHeaderArrival, flowEvent_next ha, receiveFrame_without_link b hlink]
  · intro p h b f s hrun hrx hf ho hoff
    rw [exec_cellAdmission hrun hrx, receiveCell_of_fits hf ho, if_neg hoff]
  · intro p h b f s hrun hrx hf ho hoff
    rw [exec_cellAdmission hrun hrx, receiveCell_of_fits hf ho, if_pos hoff]
  · rintro p fcs code n h b s _ _ hp hrx rfl rfl
    obtain ⟨⟨ha, hon⟩, -, -, -, hloop⟩ := hp
    show execFrameEnd p fcs code n s = _
    rw [execFrameEnd, flowEvent_next ha, hrx]
    dsimp only
    rw [if_neg (by rw [hon]; decide), if_neg (by rw [hloop]; decide), receiveEnd, hrx]
  · intro p good code n s h
    show execMacControlOtherRx p ⟨good, code⟩ n s = _
    rw [execMacControlOtherRx, flowEvent_next h.1.1, controlTake_of_wire h]

/-! ### Received pause -/

/-- A good PAUSE at a port that receives is counted, and loads the port's state where the port honours it. -/
theorem exec_pauseFrameRx {p : Fin 200} {q : BitVec 16} {n : Nat} {s u : State} (h : PortReceives s p)
    (hu : u = controlCounted (receiveBroken s p) p 5 n true false) :
    exec (.pauseFrameRx p q true ⟨true, false⟩ n) s = .next (pauseSweep (
      if (rxClass u p n true false).isNone ∧ pauseMode u p = 1 ∧ regBit u (Reg.PRT_FC p) 2 = true then
        (if pauseTakes u p 8 then pauseLoad u p 8 q.toNat else portCount u p 46)
      else u)) := by
  subst hu
  show execPauseFrameRx p q true ⟨true, false⟩ n s = _
  rw [execPauseFrameRx, flowEvent_next h.1.1, controlTake_of_wire h]
  simp only [pauseHonoured, Bool.and_true, Bool.and_eq_true, decide_eq_true_eq, and_assoc]

/-- The one class that a vector with a single bit names. -/
theorem classes_of_bit (c : Fin 8) : (List.range 8).filter (fun d => nbit (1#8 <<< c.val).toNat d) = [c.val] := by
  revert c
  decide

/-- Settles O21. -/
theorem receivedPauseEffects : Obligations.ReceivedPauseEffects := by
  refine ⟨?_, ?_, ?_, ?_, ?_, ?_, ?_, ?_⟩
  · intro p q n s u h hu hc hm hfc ht
    rw [exec_pauseFrameRx h hu, if_pos ⟨hc, hm, hfc⟩, if_pos ht]
  · intro p q n s u h hu hm
    rw [exec_pauseFrameRx h hu, if_neg (fun hw => hm hw.2.1)]
  · rintro p c qs q n s _ h hq rfl hc hm hfc ht
    show execPfcFrameRx p (1#8 <<< c.val) qs true ⟨true, false⟩ n s = _
    rw [execPfcFrameRx, flowEvent_next h.1.1]
    dsimp only
    rw [controlTake_of_wire h]
    dsimp only
    rw [if_pos (by simp [pauseHonoured, hc, hm, hfc]), classes_of_bit]
    simp [ht, hq]
  · intro p st h s hrun hp he
    show execPauseTimerExpiry p st s = _
    rw [execPauseTimerExpiry, domEvent_next hrun, hp]
    exact congrArg _ (if_pos he)
  · rintro p st h s _ hrun hp hlim hholds hover rfl hms
    show execPauseWdTrip p st s = _
    rw [execPauseWdTrip, domEvent_next hrun, hp]
    exact congrArg _ ((if_pos ⟨hlim, hholds, hover⟩).trans (if_pos hms))
  · intro p st s hrun hw
    refine ⟨_, rfl, ?_⟩
    show execPauseWdHoldEnd p st s = _
    rw [execPauseWdHoldEnd, domEvent_next hrun, hw]
    rfl
  · rintro p bits stop rest s _ _ _ _ _ hrun hout hidle hsend hmode hclear rfl hnames hq hloop rfl rfl rfl rfl
    show execPauseFrameTx p s = _
    rw [execPauseFrameTx, domEvent_next hrun, pauseSend, hout]
    dsimp only
    rw [if_neg (by simp [hidle]), if_neg (by simp [hsend]; omega), if_neg (by simp [hclear]), if_neg (by simpa [hnames] using hq)]
    simp only [hloop, Bool.false_eq_true, if_false]
  · rintro p d s _ hrun hr hd hstop hsend rfl
    show execPauseRefreshExpiry p s = _
    rw [execPauseRefreshExpiry, domEvent_next hrun, pauseRepeat, hr]
    exact congrArg _ (if_pos ⟨hd, hstop, hsend⟩)

/-! ### Links, holds, flushes and loopback -/

/-- A hold that runs out brings the link back where the port has come back, and else flushes it (R140). -/
theorem exec_holdExpiry {p : Fin 200} {t : Nat} {s : State} (hrun : UnitRuns s (portDomain p)) (hh : (portGet s p).hold = some t) (ht : t ≤ s.run) :
    exec (.holdExpiry p) s = .next (pauseSweep (if portEn s p && debounced s p then linkUp s p else portRaise (portFlush s p) p 3)) := by
  show execHoldExpiry p s = _
  rw [execHoldExpiry, flowEvent_next hrun.1, hh]
  dsimp only
  rw [hrun.2, decide_eq_true ht]
  rfl

/-- Settles O23. -/
theorem linkAndFlushEffects : Obligations.LinkAndFlushEffects := by
  refine ⟨?_, ?_, ?_, ?_, ?_, ?_, ?_⟩
  · intro p n s hrun hl hloop hpcs
    show execLinkDown p n s = _
    rw [execLinkDown, flowEvent_next hrun.1, hrun.2, hl, hloop, hpcs]
    rfl
  · intro p s hrun hen hl hd
    show execLinkUp p s = _
    rw [execLinkUp, flowEvent_next hrun.1, hrun.2, hen, hl, hd]
    rfl
  · intro p t s hrun hh ht hd
    rw [exec_holdExpiry hrun hh ht, hd, Bool.and_false, if_neg Bool.false_ne_true]
  · intro p t s hrun hh ht hen hd
    rw [exec_holdExpiry hrun hh ht, hen, hd, Bool.and_self, if_pos rfl]
  · rintro p s _ ha hf rfl
    show execFlushDone p s = _
    rw [execFlushDone, event_next ha, if_pos hf]
  · intro p s ha hf
    show execFlushDone p s = _
    rw [execFlushDone, event_next ha, hf, if_neg Bool.false_ne_true]
  · rintro p s _ hrun hctl hloop hrx htx hlooped rfl
    show execLoopbackTakeEffect p s = _
    rw [execLoopbackTakeEffect, domEvent_next hrun]
    dsimp only
    rw [if_neg (by simp [hloop, hctl, hrx, htx, hlooped]), if_neg (by simpa using hctl)]
    simp only [Bool.and_eq_true, Bool.not_eq_true']

/-! ### Host commands -/

/-- Settles O24. -/
theorem portCommandEffects : Obligations.PortCommandEffects := by
  refine ⟨?_, ?_, ?_, ?_, ?_⟩
  · rintro f p s _ _ h rfl hen rfl
    exact (hostCmd_next h _).trans (congrArg _ (if_pos hen))
  · intro f p s h hen
    refine ⟨fun hf => (hostCmd_next h _).trans ?_, fun hf => (hostCmd_next h _).trans ?_⟩
    · rw [hen, hf, if_neg Bool.false_ne_true, if_neg Bool.false_ne_true]
    · rw [hen, hf, if_neg Bool.false_ne_true, if_pos rfl]
  · rintro f p v s _ _ h rfl rfl
    exact hostCmd_next h _
  · intro f p v s h
    refine ⟨fun hbad => (hostCmd_next h _).trans (congrArg _ (if_pos hbad)), fun hlo hhi hl => (hostCmd_next h _).trans ?_⟩
    dsimp only
    rw [if_neg (by omega), hl, if_neg Bool.false_ne_true]
  · intro f p n s h
    refine ⟨fun ho => (hostCmd_next h _).trans ?_, fun ho => ⟨_, rfl, (hostCmd_next h _).trans ?_⟩⟩
    · rw [counterRead, ho]
      rfl
    · rw [counterRead, ho]
      rfl

end Sys2Proof.Machine

namespace Sys2Proof.Machine

/-!
PROOFS. Commands of the headgate (R160, R164, R170, R171) and of the cistern (R179, R184 to R186, R194, R198, R199, R203): O25 and O26.
-/

/-! ### The headgate -/

/-- A table command finds none running and is taken, or is refused (R160). -/
theorem tblStart_idle {s : State} (op table : Nat) (h : regBit s Reg.HDG_TBL_STAT 8 = false) : tblStart s op table =
    regSetFld { s with hdg := { s.hdg with tblCmd := some (op, table, regFld s Reg.HDG_TBL_INDEX 16 0, tblData s) } } Reg.HDG_TBL_STAT 8 8 1 := by
  rw [tblStart, h]
  rfl

theorem tblStart_busy {s : State} (op table : Nat) (h : regBit s Reg.HDG_TBL_STAT 8 = true) : tblStart s op table = raise s Reg.HDG_CAUSE 5 := by
  rw [tblStart, if_pos h]

/-- A key command is refused while one runs (R171). -/
theorem keyStart_busy {s : State} (v : Word) (h : regBit s Reg.HDG_KEY_STAT 8 = true) : keyStart s v = raise s Reg.HDG_CAUSE 5 := by
  rw [keyStart, h]
  rfl

/-- A commit with an algorithm of 1 to 5 is taken with the key of the data registers (R171). -/
theorem keyStart_commit {s : State} {v : Word} (h : regBit s Reg.HDG_KEY_STAT 8 = false) (hc : bitOf v 7 = true) (hcl : bitOf v 6 = false)
    (hlo : 1 ≤ fld v 2 0) (hhi : fld v 2 0 ≤ 5) : keyStart s v =
      regSetFld { s with hdg := { s.hdg with keyCmd := some (2 * fld v 15 8 + fld v 5 5, some {
        id := regGet s Reg.HDG_KEY_ID, alg := fld v 2 0
        key := (List.range 8).flatMap (fun i => leBytes 4 (regGet s (Reg.HDG_KEY_DATA i)).toNat) }) } } Reg.HDG_KEY_STAT 8 8 1 := by
  rw [keyStart, h, hc, hcl]
  dsimp only
  rw [if_neg (by simp; omega), if_pos rfl]

/-- A clear is taken without a key. -/
theorem keyStart_clear {s : State} {v : Word} (h : regBit s Reg.HDG_KEY_STAT 8 = false) (hc : bitOf v 7 = false) : keyStart s v =
    regSetFld { s with hdg := { s.hdg with keyCmd := some (2 * fld v 15 8 + fld v 5 5, none) } } Reg.HDG_KEY_STAT 8 8 1 := by
  rw [keyStart, h, hc]
  rfl

/-- The table commands, each by its operation. -/
theorem exec_tblCommand {f : Fin 4} {table : Fin 8} {s : State} (h : HostSees s Reg.HDG_TBL_CMD) :
    ∀ x ∈ [(Instr.tblRead f table, 1), (Instr.tblWrite f table, 2), (Instr.tblInsert f table, 3), (Instr.tblDelete f table, 4),
      (Instr.tblLookup f table, 5)], exec x.1 s = .next (tblStart s x.2 table) := by
  intro x hx
  simp only [List.mem_cons, List.not_mem_nil, or_false] at hx
  rcases hx with rfl | rfl | rfl | rfl | rfl <;> exact hostCmd_next h _

/-- A node that has sent nothing for its time is removed, and not before (R164). -/
theorem exec_nodeForgetExpiry {i : Fin 8192} {n : Node} {s : State} (h : UnitRuns s 3) (hn : tabGet (fun _ => none) s.hdg.nodes i.val = some n) :
    exec (.nodeForgetExpiry i) s =
      .next (if n.last + regFld s Reg.HDG_NODE_CFG 15 0 * 1000000000 ≤ s.run then nodeSet s i none else s) := by
  show execNodeForgetExpiry i s = _
  rw [execNodeForgetExpiry, domEvent_next h, hn]

theorem exec_entryForgetExpiry {i : Fin 8192} {n : Node} {s : State} (h : UnitRuns s 3) (hn : tabGet (fun _ => none) s.hdg.nodes i.val = some n) :
    exec (.entryForgetExpiry i) s =
      .next (if n.last + regFld s Reg.HDG_NODE_CFG 31 16 * 1000000 ≤ s.run then nodeSet s i (some { n with forgotten := true }) else s) := by
  show execEntryForgetExpiry i s = _
  rw [execEntryForgetExpiry, domEvent_next h, hn]

/-- Settles O25. -/
theorem headgateCommandEffects : Obligations.HeadgateCommandEffects := by
  refine ⟨?_, ?_, ?_, ?_, ?_, ?_, ?_, ?_, ?_⟩
  · intro f table s h x hx
    rw [exec_tblCommand h x hx]
    exact ⟨fun idle => ⟨_, rfl, by rw [tblStart_idle _ _ idle]⟩, fun busy => by rw [tblStart_busy _ _ busy]⟩
  · intro op table i d s h hc
    refine ⟨_, rfl, ?_⟩
    show execTblCmdDone s = _
    rw [execTblCmdDone, domEvent_next h, hc]
  · intro f v s h idle hc hcl hlo hhi
    refine ⟨_, _, rfl, rfl, (hostCmd_next h _).trans ?_⟩
    rw [if_pos hc, keyStart_commit idle hc hcl hlo hhi]
  · intro f v s h idle hc hcl
    refine ⟨_, rfl, (hostCmd_next h _).trans ?_⟩
    rw [if_pos hcl, keyStart_clear idle hc]
  · intro f v s h busy
    refine ⟨fun hc => (hostCmd_next h _).trans ?_, fun hcl => (hostCmd_next h _).trans ?_⟩
    · rw [if_pos hc, keyStart_busy v busy]
    · rw [if_pos hcl, keyStart_busy v busy]
  · intro i k s h hc
    refine ⟨_, rfl, ?_⟩
    show execKeyCommitDone s = _
    rw [execKeyCommitDone, domEvent_next h, hc]
  · intro i n s h hn
    refine ⟨fun due => ?_, fun early => ?_, fun due => ?_⟩
    · rw [exec_nodeForgetExpiry h hn, if_pos due]
    · rw [exec_nodeForgetExpiry h hn, if_neg (Nat.not_le_of_lt early)]
    · rw [exec_entryForgetExpiry h hn, if_pos due]
  · intro i n s h hn early
    rw [exec_entryForgetExpiry h hn, if_neg (Nat.not_le_of_lt early)]
  · intro h j fr s ha hj hf
    refine ⟨_, _, rfl, rfl, ?_⟩
    show execAuthVerifyDone h (jobIsGmac j.key j.next) s = _
    rw [execAuthVerifyDone, flowEvent_next ha, hj, hf]

/-! ### The cistern -/

theorem fdbStart_idle {s : State} (op : Nat) (h : regBit s Reg.CIS_FDB_STAT 8 = false) : fdbStart s op =
    regSetFld { s with cis := { s.cis with fdbCmd := some (op, regFld s Reg.CIS_FDB_INDEX 15 0, fdbData s) } } Reg.CIS_FDB_STAT 8 8 1 := by
  rw [fdbStart, h]
  rfl

theorem fdbStart_busy {s : State} (op : Nat) (h : regBit s Reg.CIS_FDB_STAT 8 = true) : fdbStart s op = raise s Reg.CIS_CAUSE 5 := by
  rw [fdbStart, if_pos h]

/-- The commands of the forwarding database, each by its operation. -/
theorem exec_fdbCommand {f : Fin 4} {s : State} (h : HostSees s Reg.CIS_FDB_CMD) :
    ∀ x ∈ [(Instr.fdbRead f, 1), (Instr.fdbWrite f, 2), (Instr.fdbInsert f, 3), (Instr.fdbDelete f, 4), (Instr.fdbLookup f, 5),
      (Instr.fdbFlush f, 6)], exec x.1 s = .next (fdbStart s x.2) := by
  intro x hx
  simp only [List.mem_cons, List.not_mem_nil, or_false] at hx
  rcases hx with rfl | rfl | rfl | rfl | rfl | rfl <;> exact hostCmd_next h _

/-- A learned entry goes where it has aged out, and not before (R184). -/
theorem exec_fdbAgeRemove {i : Nat} {e : FdbEntry} {s : State} (h : UnitRuns s 3) (he : fdbGet s i = some e) :
    exec (.fdbAgeRemove i) s = .next (if fdbExpired s e then fdbSet s i none else s) := by
  show execFdbAgeRemove i s = _
  rw [execFdbAgeRemove, domEvent_next h, he]

theorem exec_oqTransfer {p : Fin 200} {s : State} (h : UnitRuns s 3) : exec (.oqTransfer p) s = .next (pauseSweep (oqTransfer s p)) := by
  show execOqTransfer p s = _
  rw [execOqTransfer, flowEvent_next h.1, if_pos h.2]

theorem oqTransfer_of_nil {p : Nat} {s : State} (h : tabGet (fun _ => []) s.cis.xfer p = []) : oqTransfer s p = s := by
  rw [oqTransfer, h]

/-- A test of a quarantined cell ends: the cell goes free where it is good (R203). -/
theorem exec_quarantineTestDone {good : Bool} {c : Nat} {s : State} (h : UnitRuns s 3) (hc : s.cis.quarTest = some c) :
    exec (.quarantineTestDone good) s = .next (raise (regSetFld { s with cis := { s.cis with
      quarTest := none, quarantined := if good then s.cis.quarantined.filter (fun q => decide (q.1 ≠ c)) else s.cis.quarantined } }
      Reg.CIS_QUAR_CTL 31 29 (if good then 2 else 4)) Reg.CIS_CAUSE 7) := by
  show execQuarantineTestDone good s = _
  rw [execQuarantineTestDone, domEvent_next h, hc]

/-- Settles O26. -/
theorem cisternCommandEffects : Obligations.CisternCommandEffects := by
  refine ⟨?_, ?_, ?_, ?_, ?_, ?_, ?_, ?_, ?_, ?_, ?_, ?_⟩
  · intro f s h x hx
    rw [exec_fdbCommand h x hx]
    exact ⟨fun idle => ⟨_, rfl, by rw [fdbStart_idle _ idle]⟩, fun busy => by rw [fdbStart_busy _ busy]⟩
  · intro op i d s h hc
    refine ⟨_, rfl, ?_⟩
    show execFdbCmdDone s = _
    rw [execFdbCmdDone, domEvent_next h, hc]
  · intro i e s h he
    rw [exec_fdbAgeRemove h he]
    exact ⟨fun old => by rw [if_pos old], fun young => by rw [young, if_neg Bool.false_ne_true]⟩
  · exact fun f g s h => ⟨_, rfl, hostCmd_next h _⟩
  · exact fun f g s h => ⟨_, rfl, hostCmd_next h _⟩
  · exact fun p h rest s hrun _ => exec_oqTransfer hrun
  · intro p s h hx
    rw [exec_oqTransfer h, oqTransfer_of_nil hx]
  · intro s h
    refine ⟨_, rfl, ?_⟩
    show execStaleScan s = _
    rw [execStaleScan, flowEvent_next h.1, h.2]
    rfl
  · intro f c s h idle
    refine ⟨fun hq => (hostCmd_next h _).trans ?_, fun hq => (hostCmd_next h _).trans ?_⟩
    · rw [idle, hq]
      rfl
    · rw [idle, hq]
      rfl
  · intro c s h hc
    exact ⟨_, _, rfl, rfl, exec_quarantineTestDone h hc, exec_quarantineTestDone h hc⟩
  · intro f x v s h
    refine ⟨fun off => (hostCmd_next h _).trans ?_, fun on bad => (hostCmd_next h _).trans ?_,
      fun on hp hout hoff => ⟨_, rfl, (hostCmd_next h _).trans ?_⟩⟩
    · rw [siphWrite, off]
      rfl
    · rw [siphWrite, on, if_pos (by simpa using bad)]
    · rw [siphWrite, on, hout, hoff, decide_eq_false (Nat.not_le_of_lt hp)]
      rfl
  · intro f p v s h
    refine ⟨fun hne hle => (hostCmd_next h _).trans ?_, fun ok => (hostCmd_next h _).trans ?_⟩
    · rw [if_pos ⟨hne, hle⟩]
    · rw [if_neg (by omega)]

end Sys2Proof.Machine

namespace Sys2Proof.Machine

/-!
PROOFS. Commands of a sluice (R208 to R214) and of a Furrow domain (R225 to R241): O27 and O29.
-/

/-! ### Sluices -/

/-- A request of a requester that exists, whose domain is on and that has none raised. -/
theorem exec_sluiceRequest {i r : Nat} {f : Fin 4} {s : State} (h : UnitRuns s 3) (hi : i < 115) (hr : r < sluRequesters i)
    (hd : domOn s (sluReqDomain i r) = true) (hn : sluGet s i r = none) : exec (.sluiceRequest i ⟨r, f⟩) s = .next (sluSet
      (if 32 ≤ i ∧ i < 96 ∧ r = 7 then { s with slu := { s.slu with fn := tabSet (fun _ => 0) s.slu.fn i f } } else s)
      i r (some (coreCycle s, coreCycle s))) := by
  show execSluiceRequest i ⟨r, f⟩ s = _
  rw [execSluiceRequest, domEvent_next h]
  dsimp only
  rw [if_pos ⟨hi, hr, hd, by rw [hn]; rfl⟩]
  split
  · exact congrArg _ (if_pos (by show (sluGet s i r).isNone = true; rw [hn]; rfl))
  · exact congrArg _ (if_pos (by rw [hn]; rfl))

/-- A phase that may be held (R208). -/
theorem exec_arbitrationPhase {i : Nat} {last : Bool} {s : State} (h : UnitRuns s 3) (ho : sluOpen s i last = true) :
    exec (.arbitrationPhase ⟨i, last⟩) s = .next (match sluChoose
        { s with slu := { s.slu with phase := tabSet (fun _ => 0) s.slu.phase i (coreCycle s + 1) } } i with
      | (some r, t) => farServe (sluGrant t i r) i r
      | (none, t) => regSetFld t (Reg.SLU_STAT i) 31 31 0) := by
  show execArbitrationPhase ⟨i, last⟩ s = _
  rw [execArbitrationPhase, domEvent_next h]
  exact congrArg _ (if_pos ho)

/-- The owner keeps the resource, or the CORE cycle has had its phase. -/
theorem sluOpen_eq_false {s : State} {i : Nat} {last : Bool}
    (h : (regBit s (Reg.SLU_STAT i) 31 = true ∧ last = false) ∨ coreCycle s < tabGet (fun _ => 0) s.slu.phase i) : sluOpen s i last = false := by
  rcases h with ⟨owned, rfl⟩ | held
  · simp [sluOpen, owned]
  · simp [sluOpen, held]

/-- The arbiter and the slot of an address of the SLUICE block. -/
theorem sluPriv_instance {i k : Nat} (hk : k < 4) : (Reg.SLU_PRIV i k - 0x800000) / 0x1000 = i := by
  simp only [Reg.SLU_PRIV]
  omega

theorem sluPool_instance (i : Nat) : (Reg.SLU_POOL i - 0x800000) / 0x1000 = i := by
  simp only [Reg.SLU_POOL]
  omega

theorem sluPriv_find {i k : Nat} (hk : k < 4) : (List.range 4).find? (fun j => decide (Reg.SLU_PRIV i k = Reg.SLU_PRIV i j)) = some k := by
  have same (j : Nat) : decide (Reg.SLU_PRIV i k = Reg.SLU_PRIV i j) = decide (k = j) :=
    decide_eq_decide.mpr (by simp only [Reg.SLU_PRIV]; omega)
  simp only [same]
  match k, hk with
  | 0, _ => rfl
  | 1, _ => rfl
  | 2, _ => rfl
  | 3, _ => rfl

/-- A write of a privileged slot that is not locked (R214). -/
theorem exec_sluConfigWrite_priv {f : Fin 4} {i k : Nat} {v : Word} {s : State} (h : HostSees s (Reg.SLU_PRIV i k)) (hi : i < 115) (hk : k < 4)
    (hl : locked s (Reg.SLU_PRIV i k) = false) : exec (.sluConfigWrite f (Reg.SLU_PRIV i k) v) s = .next (sluPrivWrite s i k v) := by
  have inBlock : ¬(Reg.SLU_PRIV i k < 0x800000 ∨ 115 ≤ i ∨ locked s (Reg.SLU_PRIV i k) = true) := by
    rw [hl]
    simp only [Reg.SLU_PRIV, Bool.false_eq_true, or_false]
    omega
  have notPool : Reg.SLU_PRIV i k ≠ Reg.SLU_POOL i := by
    simp only [Reg.SLU_PRIV, Reg.SLU_POOL]
    omega
  refine (hostCmd_next h _).trans ?_
  dsimp only
  rw [sluPriv_instance hk, if_neg inBlock, if_neg notPool, sluPriv_find hk]

/-- Settles O27. -/
theorem sluiceCommandEffects : Obligations.SluiceCommandEffects := by
  refine ⟨?_, ?_, ?_, ?_, ?_, ?_, ?_⟩
  · intro i r f s h hi hr hd hn
    rw [exec_sluiceRequest h hi hr hd hn]
    exact ⟨fun other => by rw [if_neg other], fun tank => ⟨_, rfl, by rw [if_pos tank]⟩⟩
  · intro i r s h hr hsome
    show execSluiceWithdraw i r s = _
    rw [execSluiceWithdraw, domEvent_next h, if_pos ⟨hsome, hr⟩, sluDrop]
  · rintro i last s _ h ho rfl
    rw [exec_arbitrationPhase h ho]
    exact ⟨fun r t won => by rw [won], fun t idle => by rw [idle]⟩
  · intro i last s h hno
    show execArbitrationPhase ⟨i, last⟩ s = _
    rw [execArbitrationPhase, domEvent_next h]
    exact congrArg _ (if_neg (by rw [sluOpen_eq_false hno]; decide))
  · intro f i v s h hi hl
    have open_ : ¬(115 ≤ i ∨ locked s (Reg.SLU_SEED i) = true) := by
      simp only [hl, Bool.false_eq_true, or_false]
      omega
    refine ⟨fun seed => (hostCmd_next h _).trans ?_, fun zero => (hostCmd_next h _).trans ?_⟩
    · rw [if_neg open_, if_neg seed]
    · rw [if_neg open_, if_pos zero, sluRefuse]
  · intro f i v s h hi hl
    have inBlock : ¬(Reg.SLU_POOL i < 0x800000 ∨ 115 ≤ i ∨ locked s (Reg.SLU_POOL i) = true) := by
      rw [hl]
      simp only [Reg.SLU_POOL, Bool.false_eq_true, or_false]
      omega
    refine (hostCmd_next h _).trans ?_
    dsimp only
    rw [sluPool_instance, if_neg inBlock, if_pos rfl]
  · intro f i k v s h hi hk hl
    rw [exec_sluConfigWrite_priv h hi hk hl]
    refine ⟨fun none => ?_, fun some free => ?_⟩
    · rw [sluPrivWrite, if_pos (.inl none), sluRefuse]
    · rw [sluPrivWrite, if_neg]
      rintro (none | ⟨-, clash⟩)
      · exact Nat.not_le_of_lt some none
      · obtain ⟨j, hj, hjk⟩ := List.any_eq_true.mp clash
        simp only [Bool.and_eq_true, decide_eq_true_eq] at hjk
        exact free j (List.mem_range.mp hj) hjk.1.1 hjk.1.2 hjk.2

/-! ### Furrow domains -/

/-- A cycle start whose instant has come (R226). -/
theorem exec_cycleStart {d : Fin 4} {start number : Word} {s : State} (h : UnitRuns s 3) (hn : furNext s d = some (start, number)) :
    exec (.cycleStart d) s = .next (pauseSweep (cycleSend
      (if furState s d = 2 then furBegin (furEnter s d) d start number else furTurn s d start number) d)) := by
  show execCycleStart d s = _
  rw [execCycleStart, flowEvent_next h.1, if_pos (by rw [h.2, hn]; rfl), furCycleStart, hn]

/-- The decision on coldstarts, once it is due and its winner has not ended (R227). -/
theorem coldDecide_due {s : State} {d : Nat} {win : ColdStart} (hl : furState s d = 1) (hw : (furGet s d).coldWin = none)
    (hwin : coldWinner ((furGet s d).cold.filter (fun c => !c.lost)) = some win)
    (hdue : 40 * 256 ≤ (BitVec.ofNat 40 ((nowNs32 s + regGet s (Reg.FUR_OFFSET d)).toNat * 256 + s.clk.frac.toNat / 2 ^ 24)
      - BitVec.ofNat 40 win.stamp).toInt) (hdone : win.done = none) :
    coldDecide s d = ((furGet s d).cold.filter (fun c => decide (c.port ≠ win.port) && !c.lost)).foldl (coldOut d) (furSet s d { furGet s d with
      coldWin := some win, cold := (furGet s d).cold.map (fun c => if c.port = win.port then c else { c with lost := true }) }) := by
  rw [coldDecide]
  dsimp only
  rw [hwin]
  dsimp only
  rw [if_neg (by rw [hw]; simp only [hl, Option.isSome_none, Bool.false_eq_true, ne_eq, not_true_eq_false, false_or]; omega), hdone]

/-- The mode of an evaluation: a forced one overrides the agreement (R239, R241). -/
theorem furEvaluate_due {s : State} {d m : Nat} (hr : furState s d = 3) (he : (furGet s d).evaluated = false) (hw : (furGet s d).coldWin = none)
    (hseg : ((furSeg s d 12 * 256 : Nat) : Int) ≤ furNow s d)
    (hm : (furGet s d).forced = some m ∨ ((furGet s d).forced = none ∧ furAgreed s d = some m))
    (hpend : regBit (furSet s d { furGet s d with evaluated := true, forced := none }) (Reg.FUR_STAT d) 11 = false) :
    ∀ u, u = regSetFld (regSetFld (furSet s d { furGet s d with evaluated := true, forced := none }) (Reg.FUR_STAT d) 10 8 m)
      (Reg.FUR_STAT d) 11 11 1 →
    furEvaluate s d = raise (regSet u (Reg.FUR_EFFECTIVE d) (regGet u (Reg.FUR_CYCLE d) + 2)) Reg.FUR_CAUSE 3 := by
  rintro _ rfl
  rw [furEvaluate]
  dsimp only
  rw [if_neg (by rw [he, hw]; simp only [hr, Option.isSome_none, Bool.false_eq_true, ne_eq, not_true_eq_false, false_or]; omega)]
  rcases hm with forced | ⟨free, agreed⟩
  · rw [forced]
    dsimp only
    rw [hpend, if_neg Bool.false_ne_true]
  · rw [free]
    dsimp only
    rw [agreed]
    dsimp only
    rw [hpend, if_neg Bool.false_ne_true]

/-- A minislot in which no frame was admitted moves the pointer of its channel on (R234). -/
theorem furMinislot_on {s : State} {d : Nat} {chanB : Bool} (hr : furState s d = 3) (ha : (furDyn s d chanB).admitted = false)
    (hms : furSlotField s d 4 ≠ 0) (hp : (furPointed s d chanB).isSome = true) (hbase : furSeg s d 8 ≤ (furNow s d / 256).toNat)
    {b : Nat} (hb : b = furSeg s d 8 + ((furNow s d / 256).toNat - furSeg s d 8) / furSlotField s d 4 * furSlotField s d 4)
    (hwin : (furDyn s d chanB).at_ + furSlotField s d 6 + (furGet s d).guard + 40 ≤ b) :
    furMinislot s d chanB = furDynSet s d chanB { furDyn s d chanB with index := (furDyn s d chanB).index + 1, at_ := b } := by
  subst hb
  obtain ⟨n, hn⟩ := Option.isSome_iff_exists.mp hp
  rw [furMinislot]
  dsimp only
  rw [if_neg (by rw [ha, hn]; simp only [hr, Option.isNone_some, Bool.false_eq_true, ne_eq, not_true_eq_false, false_or]; omega), if_pos hwin]

/-- A report at a member port is stored; in LISTEN it notes a coldstart (R227, R230). -/
theorem furReport_stored {s : State} {p d frac : Nat} {x : Word} {chanB cold : Bool} (hm : furMember s p = some (d, chanB)) {t : State}
    (ht : t = portSet s p { portGet s p with furStart := some (x.toNat * 256 + frac) })
    (h : regBit t (Reg.FUR_PORT_STAT p) 3 = true ∨ (furState t d ≠ 1 ∧ furState t d ≠ 3)) : furReport s p x frac cold = t := by
  subst ht
  rw [furReport, hm]
  dsimp only
  rcases h with held | ⟨notListen, notRunning⟩
  · rw [if_pos held]
  · split
    · rfl
    · exact if_neg (fun hw => notRunning hw.1)

theorem furReport_cold {s : State} {p d frac : Nat} {x : Word} {chanB : Bool} (hm : furMember s p = some (d, chanB)) {t : State}
    (ht : t = portSet s p { portGet s p with furStart := some (x.toNat * 256 + frac) }) (h3 : regBit t (Reg.FUR_PORT_STAT p) 3 = false)
    (hl : furState t d = 1) (hw : (furGet s d).coldWin = none) (hport : furColdPort t d p chanB = true)
    (hnew : ∀ c ∈ (furGet s d).cold, c.port ≠ p) :
    furReport s p x frac true = furSet t d { furGet s d with cold := (furGet s d).cold ++ [{
      port := p, chanB := chanB, node := furNode t p, stamp := (x + regGet t (Reg.FUR_OFFSET d)).toNat * 256 + frac, handle := noFrame
      lost := false, done := none }] } := by
  subst ht
  have new : (furGet s d).cold.all (fun c => decide (c.port ≠ p)) = true := List.all_eq_true.mpr (fun c hc => decide_eq_true (hnew c hc))
  have notes : (true && (furGet s d).coldWin.isNone && furColdPort (portSet s p { portGet s p with furStart := some (x.toNat * 256 + frac) }) d p chanB
      && decide ((furGet s d).cold.all (fun c => decide (c.port ≠ p)) = true)) = true := by
    rw [hw, hport, new]
    rfl
  rw [furReport, hm]
  dsimp only
  rw [if_neg (by rw [h3]; decide), if_pos hl]
  exact if_pos notes

/-- Settles O29. -/
theorem furrowCommandEffects : Obligations.FurrowCommandEffects := by
  refine ⟨?_, ?_, ?_, ?_, ?_, ?_, ?_, ?_, ?_, ?_, ?_, ?_, ?_⟩
  · rintro f d s h _ rfl
    refine ⟨fun off sect => ⟨_, _, rfl, rfl, (hostCmd_next h _).trans ?_⟩, fun on => (hostCmd_next h _).trans ?_⟩
    · exact congrArg _ (if_pos ⟨off, sect⟩)
    · exact congrArg _ (if_neg (fun hw => on hw.1))
  · rintro f d s h _ rfl
    exact hostCmd_next h _
  · intro d start number s h hn
    rw [exec_cycleStart h hn]
    exact ⟨fun waits => by rw [if_pos waits], fun runs => by rw [if_neg runs]⟩
  · intro d s h hn
    show execCycleStart d s = _
    rw [execCycleStart, flowEvent_next h.1, if_neg (by simp [hn])]
  · rintro d win _ s _ _ h hl hw hwin rfl hdue hdone rfl rfl
    show execColdstartDecision d s = _
    rw [execColdstartDecision, flowEvent_next h.1, if_pos h.2, coldDecide_due hl hw hwin hdue hdone]
  · rintro d m s _ h hr he hw hseg hm rfl hpend
    refine ⟨_, rfl, ?_⟩
    show execModeEvaluation d s = _
    rw [execModeEvaluation, domEvent_next h, furEvaluate_due hr he hw hseg hm hpend _ rfl]
  · rintro d chanB s _ _ b h hr rfl ha hms hp rfl hbase hb hwin
    show execMinislotBoundary d chanB s = _
    rw [execMinislotBoundary, domEvent_next h, furMinislot_on hr ha hms hp hbase hb hwin]
  · intro d chanB s h hr
    show execMinislotBoundary d chanB s = _
    rw [execMinislotBoundary, domEvent_next h, furMinislot]
    exact congrArg _ (if_pos (.inl hr))
  · intro d w chanB x r s h hx hr hst hns hdue
    show execStarNullDeadline d w chanB s = _
    rw [execStarNullDeadline, flowEvent_next h.1, if_pos h.2, furNullDue, hx, hr]
    exact congrArg (fun t => Host.Outcome.next (pauseSweep t)) (if_pos ⟨hst, hns, hdue⟩)
  · intro p n x cold s h hm
    show execFurrowStartReport p n x cold s = _
    rw [execFurrowStartReport, flowEvent_next h.1, if_pos h.2, furReport, hm]
  · intro p n x cold d chanB s t h hm ht
    have report : exec (.furrowStartReport p n x cold) s = .next (pauseSweep (furReport s p n x.toNat cold)) := by
      show execFurrowStartReport p n x cold s = _
      rw [execFurrowStartReport, flowEvent_next h.1, if_pos h.2]
    rw [report]
    refine ⟨fun stored => by rw [furReport_stored hm ht stored], fun h3 hl hc hw hport hnew => ⟨_, rfl, ?_⟩⟩
    rw [hc, furReport_cold hm ht h3 hl hw hport hnew]
  · intro f d v s h hgo
    refine ⟨fun off => (hostCmd_next h _).trans ?_, fun on hrec hmode hpend => ⟨_, rfl, (hostCmd_next h _).trans ?_⟩⟩
    · rw [if_pos hgo, furForce, if_pos (.inr (.inr (.inr off)))]
    · obtain ⟨r, hr⟩ := Option.isSome_iff_exists.mp hrec
      rw [if_pos hgo, furForce, if_neg (by simp [hr, hmode, hpend, on])]
  · intro f p s h
    refine ⟨fun hm => ⟨(hostCmd_next h _).trans ?_, (hostCmd_next h _).trans ?_⟩,
      fun d chanB hm => ⟨fun act => (hostCmd_next h _).trans ?_, fun ok => (hostCmd_next h _).trans ?_⟩⟩
    · rw [furCmdContain, hm]
    · rw [furCmdReadmit, hm]
      rfl
    · rw [furCmdContain, hm]
      dsimp only
      rw [if_neg (by omega), if_pos act]
    · rw [furCmdReadmit, hm]
      rw [if_neg (by simp; omega), if_neg (by omega)]

end Sys2Proof.Machine

namespace Sys2Proof.Machine

/-!
PROOFS. The Confluence (R246 to R272) and the publisher (R284 to R294): O30 and O31.
-/

/-! ### The Confluence -/

/-- A row of a basin is computed when its turn in the row unit has come. -/
theorem exec_rowDeadline {b : Fin 16} {s : State} (h : UnitRuns s 14) :
    exec (.rowDeadline b) s = .next (if cnfReady s && decide (rowFirst s (List.range 16) = some b.val) then rowCompute s b else s) := by
  show execRowDeadline b s = _
  rw [execRowDeadline, domEvent_next h]

/-- A stream that runs is silent once its limit has passed. -/
theorem exec_streamSilence {i : Fin 1024} {s : State} (h : UnitRuns s 14) :
    exec (.streamSilence i) s = .next (if strState s i = 2 ∧ (cnfStr s i).lastAt + strField s i 18 2 * 1000000 < s.run then
      cnfRaise (strCount (strTo s i 3) i 13) 0 i 3 else s) := by
  show execStreamSilence i s = _
  rw [execStreamSilence, domEvent_next h]

/-- A write of the base of basin 0's ring is a write of that ring. -/
theorem exec_ringBaseWrite {f : Fin 4} {v : Word} {s : State} (h : HostSees s (Reg.CNF_RING_BASE_LO 0)) :
    exec (.cnfRingCtlWrite f (Reg.CNF_RING_BASE_LO 0) v) s = .next (ringRegWrite s 0 (Reg.CNF_RING_BASE_LO 0) v) :=
  hostCmd_next h _

/-- Settles O30. -/
theorem confluenceCommandEffects : Obligations.ConfluenceCommandEffects := by
  refine ⟨?_, ?_, ?_, ?_, ?_, ?_, ?_, ?_, ?_⟩
  · intro a l s h hi
    show execAsduIngest s = _
    rw [execAsduIngest, domEvent_next h, hi]
  · intro b s h
    refine ⟨fun ready first => ?_, fun no => ?_⟩
    · rw [exec_rowDeadline h, if_pos (by simp [ready, first])]
    · rw [exec_rowDeadline h, if_neg (by rcases no with no | no <;> simp [no])]
  · intro b r s t h hh hr
    show execRowSeal b s = _
    refine (flowEvent_next h.1 _).trans (congrArg (fun x => Host.Outcome.next (pauseSweep x)) ?_)
    rw [if_neg (by simp [h.2, hh]), hr]
  · intro i s h h2 hl
    rw [exec_streamSilence h, if_pos ⟨h2, hl⟩]
  · intro i s h hl
    rw [exec_streamSilence h, if_neg (fun c => by omega)]
  · rintro f b s h hl _ rfl
    exact ⟨(hostCmd_next h _).trans (by rw [hl]; rfl), (hostCmd_next h _).trans (by rw [hl]; rfl)⟩
  · rintro f i s h hl _ rfl h0 hr
    refine (hostCmd_next h _).trans ?_
    rw [hl]
    exact congrArg Host.Outcome.next (if_pos (And.intro h0 hr))
  · intro f i s h hl
    exact ⟨_, rfl, (hostCmd_next h _).trans (by rw [hl]; rfl)⟩
  · intro f v s h
    refine ⟨fun off => ?_, fun on => ?_⟩
    · rw [exec_ringBaseWrite h, ringRegWrite, if_neg (by decide), if_neg (by rw [off]; decide), if_pos rfl]
    · rw [exec_ringBaseWrite h, ringRegWrite, if_neg (by decide), if_pos on]

/-! ### The publisher -/

/-- The only register update that waits is executed when no mailbox update came before it (R286). -/
theorem regDrain_one {s : State} {f : Nat} {u : PubUpdate} {at_ : Nat} (hw : s.pub.waits = [(at_, f, u)])
    (hm : mailFirst s at_ = false) : regDrain 1 s = regUpdate { s with pub := { s.pub with waits := [] } } f u := by
  rw [regDrain, hw]
  dsimp only
  rw [if_neg (by rw [hm]; decide)]
  rfl

/-- A register update with none ahead of it is executed at once, by the command of its OP. -/
theorem pubExec_register {f : Fin 4} {w : Word} {s t : State} {p : Nat → Bool} (h : HostSees s Reg.PUB_UPD_W0) (hw : s.pub.waits = [])
    (ht : t = regSetFld { s with pub := { s.pub with waits := [] } } (regKey f Reg.PUB_UPD_STAT) 31 31 1) (hm : mailFirst t s.run = false)
    (hp : p (updateOfRegs s f w).op = true) :
    pubExec s (.register f w) p = .next (pauseSweep (regUpdate t f (updateOfRegs s f w))) := by
  subst ht
  refine (hostCmd_next h _).trans ?_
  rw [if_neg (by rw [hp]; decide), hw]
  exact congrArg (fun x => Host.Outcome.next (pauseSweep x)) (regDrain_one rfl hm)

/-- The oldest message to the publisher is executed by the command of its OP, answered, and lets the updates behind it go on. -/
theorem pubExec_mailbox {c : Fin 64} {s t : State} {u : PubUpdate} {p : Nat → Bool} (h : UnitRuns s 3) (hu : u = updateOfMsg (mbxGet s c).msg)
    (ho : mbxOldest s 35 = some c.val) (ht : t = mbxAck (pubUpdate s u).2 c (BitVec.ofNat 32 (pubUpdate s u).1)) (hp : p u.op = true) :
    pubExec s (.mailbox c) p = .next (pauseSweep (regDrain t.pub.waits.length t)) := by
  subst hu ht
  refine (flowEvent_next h.1 _).trans (congrArg (fun x => Host.Outcome.next (pauseSweep x)) (if_pos ?_))
  simp [h.2, ho, hp]

/-- A publication with no launch pending has nothing to settle. -/
theorem gpSettle_of_none {s : State} {g : Nat} (h : (gpGet s g).launch = none) : gpSettle s g = s := by rw [gpSettle, h]

/-- A retransmission that is due repeats the content when no launch is pending. -/
theorem gpRetransmit_repeats {s : State} {g due : Nat} (hl : (gpGet s g).launch = none) (hd : (gpGet s g).due = some due)
    (hn : due ≤ pubNow s) (he : gpEn s g = true) (hg : pubGated s = false) : gpRetransmit s g = gpRepeat s g due := by
  rw [gpRetransmit, gpSettle_of_none hl, hd]
  dsimp only
  rw [if_neg (by simp [he, hg, hn]), hl]

/-- A running subscription expires once the cycle of its deadline and settling time is over. -/
theorem exec_subscriptionExpiry {v : Fin 8192} {s : State} (h : UnitRuns s 3) : exec (.subscriptionExpiry v) s =
    .next (if subState s v = 2 ∧ (subGet s v).deadline + (((subField s v 2 2 * 1000 : Nat) : Int) + 1) * tNano ≤ clkTime s.clk then
      subExpire s v else s) := by
  show execSubscriptionExpiry v s = _
  rw [execSubscriptionExpiry, domEvent_next h]

/-- Settles O31. -/
theorem publisherCommandEffects : Obligations.PublisherCommandEffects := by
  refine ⟨?_, ?_, ?_, ?_, ?_, ?_, ?_, ?_, ?_⟩
  · rintro f w _ s t h rfl hw ht hm
    refine ⟨fun hop => ?_, fun hop => ?_⟩
    · show execPubUpdate (.register f w) s = _
      exact pubExec_register h hw ht hm (decide_eq_true hop)
    · show execPubUpdateLaunch (.register f w) s = _
      exact pubExec_register h hw ht hm (decide_eq_true hop)
  · intro c s u h hu ho
    refine ⟨_, rfl, fun hop => ?_, fun hop => ?_⟩
    · show execPubUpdate (.mailbox c) s = _
      exact pubExec_mailbox h hu ho rfl (decide_eq_true hop)
    · show execPubUpdateLaunch (.mailbox c) s = _
      exact pubExec_mailbox h hu ho rfl (decide_eq_true hop)
  · rintro i n alg v b sv w k s _ h hr rfl
    refine ⟨fun same => ?_, fun differs => ?_⟩
    · show execPubTagDone i s = _
      rw [execPubTagDone, flowEvent_next h, hr]
      exact congrArg (fun x => Host.Outcome.next (pauseSweep (laneKick x))) (if_pos same)
    · show execPubTagDone i s = _
      rw [execPubTagDone, flowEvent_next h, hr]
      exact congrArg (fun x => Host.Outcome.next (pauseSweep (laneKick x))) (if_neg differs)
  · intro g due s h hl hd hn he hg
    refine (flowEvent_next h.1 _).trans ?_
    rw [if_pos h.2, gpRetransmit_repeats hl hd hn he hg]
  · intro v s h h2 hd
    rw [exec_subscriptionExpiry h, if_pos ⟨h2, hd⟩]
  · intro v s h hno
    rw [exec_subscriptionExpiry h, if_neg (fun c => by rcases hno with hno | hno <;> omega)]
  · rintro f v s _ h rfl h0
    exact ⟨_, rfl, (hostCmd_next h _).trans (congrArg _ (if_pos h0))⟩
  · rintro f v s _ h rfl
    exact hostCmd_next h _
  · rintro f g s _ _ h rfl rfl
    exact hostCmd_next h _

end Sys2Proof.Machine

namespace Sys2Proof.Machine

/-!
PROOFS. Register arithmetic, immediates, jumps and branches of a Kuern thread (R328, R330, R335): O32 and O34.
-/

/-! ### The functions of Table 13-5 on their operands -/

/-- The truth value of a signed comparison. -/
theorem wBool_slt (a b : Word) : wBool (a.slt b) = if a.toInt < b.toInt then 1#32 else 0#32 := by
  by_cases h : a.toInt < b.toInt <;> simp [wBool, BitVec.slt, h]

/-- The truth value of an unsigned comparison. -/
theorem wBool_ult (a b : Word) : wBool (a.ult b) = if a.toNat < b.toNat then 1#32 else 0#32 := by
  by_cases h : a.toNat < b.toNat <;> simp [wBool, BitVec.ult, h]

/-- A choice by a signed comparison. -/
theorem ite_slt {α : Type} (a b : Word) (x y : α) : (if a.slt b then x else y) = if a.toInt < b.toInt then x else y := by
  simp [BitVec.slt]

/-- A choice by an unsigned comparison. -/
theorem ite_ult {α : Type} (a b : Word) (x y : α) : (if a.ult b then x else y) = if a.toNat < b.toNat then x else y := by
  simp [BitVec.ult]

/-- The four bytes of a word in network order. -/
theorem beNat_leBytes_four (n : Nat) (h : n < 2 ^ 32) :
    beNat (leBytes 4 n) = n % 256 * 16777216 + n / 256 % 256 * 65536 + n / 65536 % 256 * 256 + n / 16777216 := by
  simp only [leBytes, beNat, List.foldl_cons, List.foldl_nil, BitVec.toNat_ofNat, Nat.div_div_eq_div_mul, Nat.reduceMul, Nat.reducePow, Nat.mod_mod]
  omega

/-- The sign-extended immediate has the immediate's value. -/
theorem toInt_sext (k : BitVec 16) : (sext k).toInt = k.toInt := BitVec.toInt_signExtend_of_le (by decide)

/-- The zero-extended immediate has the immediate's value. -/
theorem toNat_zext (k : BitVec 16) : (zext k).toNat = k.toNat := BitVec.toNat_setWidth_of_le (by decide)

/-! ### What each instruction computes (Tables 13-4 and 13-5) -/

section
variable (e : Fin 32) (t : Fin 16) (rd r1 r2 : Fin 32) (k : BitVec 16) (pos len : BitVec 5) (s : State)

theorem exec_kAnd : exec (.kAnd e t rd r1 r2) s = krnAlu s e t (kR 1 rd r1 r2 2) 1 rd (fun w => wGet w r1 &&& wGet w r2) := rfl
theorem exec_kOr : exec (.kOr e t rd r1 r2) s = krnAlu s e t (kR 1 rd r1 r2 3) 1 rd (fun w => wGet w r1 ||| wGet w r2) := rfl
theorem exec_kXor : exec (.kXor e t rd r1 r2) s = krnAlu s e t (kR 1 rd r1 r2 4) 1 rd (fun w => wGet w r1 ^^^ wGet w r2) := rfl
theorem exec_kSll : exec (.kSll e t rd r1 r2) s = krnAlu s e t (kR 1 rd r1 r2 5) 1 rd (fun w => wGet w r1 <<< shAmt (wGet w r2)) := rfl
theorem exec_kSrl : exec (.kSrl e t rd r1 r2) s = krnAlu s e t (kR 1 rd r1 r2 6) 1 rd (fun w => wGet w r1 >>> shAmt (wGet w r2)) := rfl
theorem exec_kSra : exec (.kSra e t rd r1 r2) s = krnAlu s e t (kR 1 rd r1 r2 7) 1 rd (fun w => (wGet w r1).sshiftRight (shAmt (wGet w r2))) := rfl
theorem exec_kSlt : exec (.kSlt e t rd r1 r2) s = krnAlu s e t (kR 1 rd r1 r2 8) 1 rd (fun w => wBool ((wGet w r1).slt (wGet w r2))) := rfl
theorem exec_kSltu : exec (.kSltu e t rd r1 r2) s = krnAlu s e t (kR 1 rd r1 r2 9) 1 rd (fun w => wBool ((wGet w r1).ult (wGet w r2))) := rfl
theorem exec_kMulh : exec (.kMulh e t rd r1 r2) s =
    krnAlu s e t (kR 1 rd r1 r2 11) 3 rd (fun w => BitVec.ofInt 32 ((wGet w r1).toInt * (wGet w r2).toInt / 2 ^ 32)) := rfl
theorem exec_kMulhu : exec (.kMulhu e t rd r1 r2) s =
    krnAlu s e t (kR 1 rd r1 r2 12) 3 rd (fun w => BitVec.ofNat 32 ((wGet w r1).toNat * (wGet w r2).toNat / 2 ^ 32)) := rfl
theorem exec_kMin : exec (.kMin e t rd r1 r2) s =
    krnAlu s e t (kR 1 rd r1 r2 19) 1 rd (fun w => if (wGet w r1).slt (wGet w r2) then wGet w r1 else wGet w r2) := rfl
theorem exec_kMax : exec (.kMax e t rd r1 r2) s =
    krnAlu s e t (kR 1 rd r1 r2 20) 1 rd (fun w => if (wGet w r1).slt (wGet w r2) then wGet w r2 else wGet w r1) := rfl
theorem exec_kMinu : exec (.kMinu e t rd r1 r2) s =
    krnAlu s e t (kR 1 rd r1 r2 21) 1 rd (fun w => if (wGet w r1).ult (wGet w r2) then wGet w r1 else wGet w r2) := rfl
theorem exec_kMaxu : exec (.kMaxu e t rd r1 r2) s =
    krnAlu s e t (kR 1 rd r1 r2 22) 1 rd (fun w => if (wGet w r1).ult (wGet w r2) then wGet w r2 else wGet w r1) := rfl
theorem exec_kBswap : exec (.kBswap e t rd r1) s =
    krnAlu s e t (kR 1 rd r1 0 17) 1 rd (fun w => BitVec.ofNat 32 (beNat (leBytes 4 (wGet w r1).toNat))) := rfl
theorem exec_kClz : exec (.kClz e t rd r1) s = krnAlu s e t (kR 1 rd r1 0 18) 1 rd (fun w => BitVec.ofNat 32 (clz (wGet w r1))) := rfl
theorem exec_kAndi : exec (.kAndi e t rd r1 k) s = krnAlu s e t (kI 3 rd r1 k) 1 rd (fun w => wGet w r1 &&& zext k) := rfl
theorem exec_kOri : exec (.kOri e t rd r1 k) s = krnAlu s e t (kI 4 rd r1 k) 1 rd (fun w => wGet w r1 ||| zext k) := rfl
theorem exec_kXori : exec (.kXori e t rd r1 k) s = krnAlu s e t (kI 5 rd r1 k) 1 rd (fun w => wGet w r1 ^^^ zext k) := rfl
theorem exec_kSlti : exec (.kSlti e t rd r1 k) s = krnAlu s e t (kI 7 rd r1 k) 1 rd (fun w => wBool ((wGet w r1).slt (sext k))) := rfl
theorem exec_kSltiu : exec (.kSltiu e t rd r1 k) s = krnAlu s e t (kI 8 rd r1 k) 1 rd (fun w => wBool ((wGet w r1).ult (zext k))) := rfl
theorem exec_kLui : exec (.kLui e t rd k) s = krnAlu s e t (kI 9 rd 0 k) 1 rd (fun _ => zext k <<< 16) := rfl
theorem exec_kExt : exec (.kExt e t rd r1 pos len) s =
    krnAlu s e t (kI 10 rd r1 (kPosLen pos len)) 1 rd (fun w => (wGet w r1 >>> pos.toNat) &&& lenMask len) := rfl
theorem exec_kIns : exec (.kIns e t rd r1 pos len) s =
    krnAlu s e t (kI 11 rd r1 (kPosLen pos len)) 1 rd (fun w =>
      (wGet w rd &&& ~~~(lenMask len <<< pos.toNat)) ||| ((wGet w r1 <<< pos.toNat) &&& (lenMask len <<< pos.toNat))) := rfl

end

/-! ### Writing the result -/

/-- An instruction that computes rd writes the value that its function gives. -/
theorem krnAlu_writes {s : State} {e t n rd : Nat} {w : Word} {f : Tab Word → Word} {v : Word} (h : ThreadIssues s e t w)
    (hv : f (thrGet (issueStart s e t n) e t).regs = v) : krnAlu s e t w n rd f = .next (thrWrite (issueStart s e t n) e t rd v) := by
  rw [krnAlu_next h, hv]

/-- Settles O32. -/
theorem kuernRegisterArithmetic : Obligations.KuernRegisterArithmetic := by
  refine ⟨fun e t rd r1 r2 s => ?_, ?_⟩
  · simp only [List.forall_mem_cons, List.not_mem_nil, false_imp_iff, implies_true, and_true]
    refine ⟨?_, ?_, ?_, ?_, ?_, ?_, ?_, ?_, ?_, ?_, ?_, ?_, ?_, ?_, ?_, ?_, ?_⟩ <;> rintro h _ _ rfl rfl
    · exact (exec_kAdd ..).trans (krnAlu_next h rd _)
    · exact (exec_kSub ..).trans (krnAlu_next h rd _)
    · exact (exec_kAnd ..).trans (krnAlu_next h rd _)
    · exact (exec_kOr ..).trans (krnAlu_next h rd _)
    · exact (exec_kXor ..).trans (krnAlu_next h rd _)
    · exact (exec_kSll ..).trans (krnAlu_next h rd _)
    · exact (exec_kSrl ..).trans (krnAlu_next h rd _)
    · exact (exec_kSra ..).trans (krnAlu_next h rd _)
    · exact (exec_kSlt ..).trans (krnAlu_writes h (wBool_slt ..))
    · exact (exec_kSltu ..).trans (krnAlu_writes h (wBool_ult ..))
    · exact (exec_kMul ..).trans (krnAlu_next h rd _)
    · exact (exec_kMulh ..).trans (krnAlu_next h rd _)
    · exact (exec_kMulhu ..).trans (krnAlu_next h rd _)
    · exact (exec_kMin ..).trans (krnAlu_writes h (ite_slt ..))
    · exact (exec_kMax ..).trans (krnAlu_writes h (ite_slt ..))
    · exact (exec_kMinu ..).trans (krnAlu_writes h (ite_ult ..))
    · exact (exec_kMaxu ..).trans (krnAlu_writes h (ite_ult ..))
  · rintro e t rd r1 s _ _ rfl rfl
    exact ⟨fun h => (exec_kBswap ..).trans (krnAlu_writes h (congrArg _ (beNat_leBytes_four _ (BitVec.isLt _)))),
      fun h => (exec_kClz ..).trans (krnAlu_next h rd _)⟩

/-! ### Branches -/

section
variable (e : Fin 32) (t : Fin 16) (r1 r2 : Fin 32) (off : BitVec 16) (s : State)

theorem exec_kBeq : exec (.kBeq e t r1 r2 off) s = krnBranch s e t 0x20 r1 r2 off (fun a b => decide (a = b)) := rfl
theorem exec_kBne : exec (.kBne e t r1 r2 off) s = krnBranch s e t 0x21 r1 r2 off (fun a b => decide (a ≠ b)) := rfl
theorem exec_kBlt : exec (.kBlt e t r1 r2 off) s = krnBranch s e t 0x22 r1 r2 off (fun a b => a.slt b) := rfl
theorem exec_kBge : exec (.kBge e t r1 r2 off) s = krnBranch s e t 0x23 r1 r2 off (fun a b => !a.slt b) := rfl
theorem exec_kBltu : exec (.kBltu e t r1 r2 off) s = krnBranch s e t 0x24 r1 r2 off (fun a b => a.ult b) := rfl
theorem exec_kBgeu : exec (.kBgeu e t r1 r2 off) s = krnBranch s e t 0x25 r1 r2 off (fun a b => !a.ult b) := rfl

end

/-- A branch goes on by its condition. -/
theorem krnBranch_next {s : State} {e t op r1 r2 : Nat} {off : BitVec 16} {c : Word → Word → Bool} {b : Bool}
    (h : ThreadIssues s e t (kI op r1 r2 off))
    (hb : c (wGet (thrGet (issueStart s e t 1) e t).regs r1) (wGet (thrGet (issueStart s e t 1) e t).regs r2) = b) :
    krnBranch s e t op r1 r2 off c = .next (if b then
      thrCost (thrJump (issueStart s e t 1) e t ((thrGet (issueStart s e t 1) e t).pc + off.setWidth 15)) e t 2
    else thrNext (issueStart s e t 1) e t) := by
  subst hb
  exact krnIssue_next h _

/-- Not less, signed. -/
theorem not_slt_eq (a b : Word) : (!a.slt b) = decide (b.toInt ≤ a.toInt) := by
  rw [BitVec.slt, ← decide_not]
  exact decide_eq_decide.mpr Int.not_lt

/-- Not less, unsigned. -/
theorem not_ult_eq (a b : Word) : (!a.ult b) = decide (b.toNat ≤ a.toNat) := by
  rw [BitVec.ult, ← decide_not]
  exact decide_eq_decide.mpr Nat.not_lt

/-- A shift by an immediate; a selector of 3 is ILLEGAL. -/
theorem exec_kShi {e : Fin 32} {t : Fin 16} {rd r1 : Fin 32} {sel : BitVec 2} {n : BitVec 5} {s : State}
    (h : ThreadIssues s e t (kI 6 rd r1 (kShift sel n))) {u : State} (hu : u = issueStart s e t 1) {v : Word}
    (hv : v = wGet (thrGet u e t).regs r1) : exec (.kShi e t rd r1 sel n) s = .next (if sel = 3 then krnExc u e t 1 else
      thrWrite u e t rd (if sel = 0 then v <<< n.toNat else if sel = 1 then v >>> n.toNat else v.sshiftRight n.toNat)) := by
  subst hu hv
  show execKShi e t rd r1 sel n s = _
  rw [execKShi, krnIssue_next h]

/-- Settles O34. -/
theorem kuernImmediatesJumpsAndBranches : Obligations.KuernImmediatesJumpsAndBranches := by
  refine ⟨?_, fun e t rd r1 n s h => ?_, ?_, ?_⟩
  · rintro e t rd r1 k n pos len s _ _ _ _ rfl rfl rfl rfl x hx h
    simp only [List.mem_cons, List.not_mem_nil, or_false] at hx
    rcases hx with rfl | rfl | rfl | rfl | rfl | rfl | rfl | rfl | rfl | rfl | rfl | rfl
    · exact (exec_kAddi ..).trans (krnAlu_next h rd _)
    · exact (exec_kAndi ..).trans (krnAlu_next h rd _)
    · exact (exec_kOri ..).trans (krnAlu_next h rd _)
    · exact (exec_kXori ..).trans (krnAlu_next h rd _)
    · rw [exec_kShi h rfl rfl, if_neg (by decide), if_pos rfl]
    · rw [exec_kShi h rfl rfl, if_neg (by decide), if_neg (by decide), if_pos rfl]
    · rw [exec_kShi h rfl rfl, if_neg (by decide), if_neg (by decide), if_neg (by decide)]
    · exact (exec_kSlti ..).trans (krnAlu_writes h ((wBool_slt ..).trans (by rw [toInt_sext])))
    · exact (exec_kSltiu ..).trans (krnAlu_writes h ((wBool_ult ..).trans (by rw [toNat_zext])))
    · exact (exec_kLui ..).trans (krnAlu_next h rd _)
    · exact (exec_kExt ..).trans (krnAlu_next h rd _)
    · exact (exec_kIns ..).trans (krnAlu_next h rd _)
  · rw [exec_kShi h rfl rfl, if_pos rfl]
  · rintro e t rd r1 k off s _ _ _ rfl rfl rfl
    refine ⟨fun h => ?_, fun h => ?_⟩
    · show execKJal e t rd off s = _
      rw [execKJal, krnIssue_next h]
    · show execKJalr e t rd r1 k s = _
      rw [execKJalr, krnIssue_next h]
      rfl
  · rintro e t r1 r2 off s _ _ _ _ rfl rfl rfl rfl y hy h
    simp only [List.mem_cons, List.not_mem_nil, or_false] at hy
    rcases hy with rfl | rfl | rfl | rfl | rfl | rfl
    · exact (exec_kBeq ..).trans <| krnBranch_next h rfl
    · exact (exec_kBne ..).trans <| krnBranch_next h rfl
    · exact (exec_kBlt ..).trans <| krnBranch_next h rfl
    · exact (exec_kBge ..).trans <| krnBranch_next h (not_slt_eq ..)
    · exact (exec_kBltu ..).trans <| krnBranch_next h rfl
    · exact (exec_kBgeu ..).trans <| krnBranch_next h (not_ult_eq ..)

end Sys2Proof.Machine

namespace Sys2Proof.Machine

/-!
PROOFS. Loads, stores and events of a Kuern thread (R307 to R310, R333, R336): O36 and O38.
-/

/-! ### Loads and stores -/

section
variable (e : Fin 32) (t : Fin 16) (rd r1 r2 : Fin 32) (k : BitVec 16) (host : Option Word) (s : State)

theorem exec_kLb : exec (.kLb e t rd r1 k host) s = krnLoad s e t 0x10 rd r1 k 1 false true false host := rfl
theorem exec_kLbu : exec (.kLbu e t rd r1 k host) s = krnLoad s e t 0x11 rd r1 k 1 false false false host := rfl
theorem exec_kLh : exec (.kLh e t rd r1 k host) s = krnLoad s e t 0x12 rd r1 k 2 false true false host := rfl
theorem exec_kLhu : exec (.kLhu e t rd r1 k host) s = krnLoad s e t 0x13 rd r1 k 2 false false false host := rfl
theorem exec_kLw : exec (.kLw e t rd r1 k host) s = krnLoad s e t 0x14 rd r1 k 4 true false false host := rfl
theorem exec_kLhbe : exec (.kLhbe e t rd r1 k host) s = krnLoad s e t 0x16 rd r1 k 2 false false true host := rfl
theorem exec_kLwbe : exec (.kLwbe e t rd r1 k host) s = krnLoad s e t 0x17 rd r1 k 4 false false true host := rfl
theorem exec_kSb : exec (.kSb e t r2 r1 k) s = krnStore s e t 0x18 r2 r1 k 1 false false := rfl
theorem exec_kSh : exec (.kSh e t r2 r1 k) s = krnStore s e t 0x19 r2 r1 k 2 false false := rfl
theorem exec_kSw : exec (.kSw e t r2 r1 k) s = krnStore s e t 0x1A r2 r1 k 4 true false := rfl
theorem exec_kShbe : exec (.kShbe e t r2 r1 k) s = krnStore s e t 0x1B r2 r1 k 2 false true := rfl
theorem exec_kSwbe : exec (.kSwbe e t r2 r1 k) s = krnStore s e t 0x1C r2 r1 k 4 false true := rfl

end

section
variable {i : Instr} {s u : State} {e t op rd r1 r2 n a : Nat} {k : BitVec 16} {word signed big be : Bool} {host : Option Word}

/-- What a load does: ALIGN, a far access, its value, or its exception. -/
theorem krnLoad_cases (hi : exec i s = krnLoad s e t op rd r1 k n word signed big host) (h : ThreadIssues s e t (kI op rd r1 k))
    (hu : u = issueStart s e t 2) (ha : a = (wGet (thrGet u e t).regs r1 + k.signExtend 32).toNat) :
    (a % n ≠ 0 → exec i s = .next (krnExc u e t 2))
    ∧ (a % n = 0 → farLoad u e a n = true →
      exec i s = .next (farSend (thrCost u e t (loadCost u e a n)) e t (.load a n rd signed big host) false))
    ∧ (∀ l v, a % n = 0 → farLoad u e a n = false → kLoad u e t a n word host = (.ok l, v) →
      exec i s = .next (thrWrite v e t rd (loadWord signed big l)))
    ∧ (∀ c v, a % n = 0 → farLoad u e a n = false → kLoad u e t a n word host = (.exc c, v) → exec i s = .next (krnExc v e t c)) := by
  rw [hi, krnLoad, krnIssue_next h]
  dsimp only [sext]
  rw [← hu, ← ha]
  refine ⟨fun odd => ?_, fun even far => ?_, fun l v even near ok => ?_, fun c v even near exc => ?_⟩
  · rw [if_pos odd]
  · rw [if_neg (not_not.mpr even), if_pos far]
  · rw [if_neg (not_not.mpr even), if_neg (by rw [near]; decide), ok]
  · rw [if_neg (not_not.mpr even), if_neg (by rw [near]; decide), exc]

/-- What a store does: ALIGN, a far access behind which the thread goes on, the store, or its exception. -/
theorem krnStore_cases {b : List Byte} (hi : exec i s = krnStore s e t op r2 r1 k n word be) (h : ThreadIssues s e t (kI op r2 r1 k))
    (hu : u = issueStart s e t 1) (ha : a = (wGet (thrGet u e t).regs r1 + k.signExtend 32).toNat)
    (hb : b = if be then beBytes n ((wGet (thrGet u e t).regs r2).toNat % 2 ^ (8 * n))
      else leBytes n ((wGet (thrGet u e t).regs r2).toNat % 2 ^ (8 * n))) (hn : b.length = n) :
    (a % b.length ≠ 0 → exec i s = .next (krnExc u e t 2))
    ∧ (a % b.length = 0 → farStore u e a b.length = true → exec i s = .next (thrNext (farSend u e t (.store a b) false) e t))
    ∧ (∀ v, a % b.length = 0 → farStore u e a b.length = false → kStore u e t a b word = (.done, v) →
      exec i s = .next (thrNext v e t))
    ∧ (∀ c v, a % b.length = 0 → farStore u e a b.length = false → kStore u e t a b word = (.exc c, v) →
      exec i s = .next (krnExc v e t c)) := by
  rw [hn, hi, krnStore, krnIssue_next h]
  dsimp only [sext]
  rw [← hu, ← ha, ← hb]
  refine ⟨fun odd => ?_, fun even far => ?_, fun v even near ok => ?_, fun c v even near exc => ?_⟩
  · rw [if_pos odd]
  · rw [if_neg (not_not.mpr even), if_pos far]
  · rw [if_neg (not_not.mpr even), if_neg (by rw [near]; decide), ok]
  · rw [if_neg (not_not.mpr even), if_neg (by rw [near]; decide), exc]

end

/-- Settles O36. -/
theorem kuernLoadsAndStores : Obligations.KuernLoadsAndStores := by
  refine ⟨fun e t rd r1 k h s u a hu ha y hy hw => ?_, ?_⟩
  · simp only [List.mem_cons, List.not_mem_nil, or_false] at hy
    rcases hy with rfl | rfl | rfl | rfl | rfl | rfl | rfl
    · exact krnLoad_cases (exec_kLb ..) hw hu ha
    · exact krnLoad_cases (exec_kLbu ..) hw hu ha
    · exact krnLoad_cases (exec_kLh ..) hw hu ha
    · exact krnLoad_cases (exec_kLhu ..) hw hu ha
    · exact krnLoad_cases (exec_kLw ..) hw hu ha
    · exact krnLoad_cases (exec_kLhbe ..) hw hu ha
    · exact krnLoad_cases (exec_kLwbe ..) hw hu ha
  · rintro e t r2 r1 k s u _ a _ hu rfl ha rfl y hy hw
    simp only [List.mem_cons, List.not_mem_nil, or_false] at hy
    rcases hy with rfl | rfl | rfl | rfl | rfl
    · exact krnStore_cases (exec_kSb ..) hw hu ha rfl rfl
    · exact krnStore_cases (exec_kSh ..) hw hu ha rfl rfl
    · exact krnStore_cases (exec_kSw ..) hw hu ha rfl rfl
    · exact krnStore_cases (exec_kShbe ..) hw hu ha rfl rfl
    · exact krnStore_cases (exec_kSwbe ..) hw hu ha rfl rfl

/-! ### Events, frames and builds -/

section
variable {e : Fin 32} {t : Fin 16} {rd r1 : Fin 32} {s u : State} {x : KThread}

theorem exec_kEvwait (h : ThreadIssues s e t (kR 0x30 rd r1 0 0)) (hu : u = issueStart s e t 1) (hx : x = thrGet u e t) :
    exec (.kEvwait e t rd r1) s = .next (if x.event.isSome then krnExc u e t 4 else eventAfter (thrWait (thrNext u e t) e t rd
      (if (wGet x.regs r1).toNat = 0 then none else some (clusterCyc u e + (wGet x.regs r1).toNat)) none) e) := by
  subst hu hx
  show execKEvwait e t rd r1 s = _
  rw [execKEvwait, krnIssue_next h]

theorem exec_kEvdoneCommit (h : ThreadIssues s e t (kR 0x30 0 0 0 1)) :
    exec (.kEvdoneCommit e t) s = .next (evDone (issueStart s e t (engCost s e 24 15)) e t true) := by
  show execKEvdoneCommit e t s = _
  rw [execKEvdoneCommit, krnIssue_next h]

theorem exec_kEvdoneDiscard (h : ThreadIssues s e t (kR 0x30 0 0 0 2)) :
    exec (.kEvdoneDiscard e t) s = .next (evDone (issueStart s e t 2) e t false) := by
  show execKEvdoneDiscard e t s = _
  rw [execKEvdoneDiscard, krnIssue_next h]

theorem exec_kKeep (h : ThreadIssues s e t (kR 0x30 rd 0 0 4)) (hu : u = issueStart s e t 2) {g : KrnEng} (hg : g = engGet u e) :
    exec (.kKeep e t rd) s = .next (match (thrGet u e t).event with
      | none => krnExc u e t 4
      | some v =>
        if v.frame = noFrame then thrWrite u e t rd 0x1FFFF
        else if 256 ≤ g.kept.length then krnExc u e t 9
        else thrWrite (refAdd (engSet u e { g with kept := g.kept ++ [v.frame] }) v.frame) e t rd (BitVec.ofNat 32 v.frame)) := by
  subst hu hg
  show execKKeep e t rd s = _
  exact krnIssue_next h _

theorem exec_kBopen (h : ThreadIssues s e t (kR 0x30 0 r1 0 6)) (hu : u = issueStart s e t 1) (hx : x = thrGet u e t) :
    exec (.kBopen e t r1) s = .next (if x.build.isSome ∨ districtCount u ≤ fld (wGet x.regs r1) 2 0 then krnExc u e t 5 else
      thrNext (thrSet u e t { x with build := some {
        district := fld (wGet x.regs r1) 2 0, bytes := [], written := 0, cells := [], failed := false } }) e t) := by
  subst hu hx
  show execKBopen e t r1 s = _
  rw [execKBopen, krnIssue_next h]

theorem exec_kBabort (h : ThreadIssues s e t (kR 0x30 0 0 0 7)) (hu : u = issueStart s e t 2) (hx : x = thrGet u e t) :
    exec (.kBabort e t) s = .next (if x.build.isNone then krnExc u e t 5 else
      pauseSweep (thrNext (thrSet u e t { x with build := none }) e t)) := by
  subst hu hx
  show execKBabort e t s = _
  rw [execKBabort, krnIssue_next h]

theorem exec_kSend (h : ThreadIssues s e t (kR 0x30 0 r1 0 8)) (hu : u = issueStart s e t 8) (hx : x = thrGet u e t) :
    exec (.kSend e t r1) s = .next (match localDesc u e (wGet x.regs r1).toNat 32 8, x.build with
      | .exc c, _ => krnExc u e t c
      | .ok _, none => krnExc u e t 5
      | .ok d, some b => pauseSweep (buildSend (thrNext u e t) e t b d)) := by
  subst hu hx
  show execKSend e t r1 s = _
  exact krnIssue_next h _

end

/-- The limit of a waiting thread that has passed ends its wait with 1 in rd (R336). -/
theorem exec_kEvwaitTimeout {e : Fin 32} {t : Fin 16} {w : KWait} {n : Nat} {s : State} (h : UnitRuns s (engDomain e))
    (hw : (thrGet s e t).wait = some w) (hn : w.ends = some n) : exec (.kEvwaitTimeout e t) s = .next (if n < clusterCyc s e then
      thrSet s e t { thrGet s e t with wait := none, regs := wSet (thrGet s e t).regs w.rd 1 } else s) := by
  show execKEvwaitTimeout e t s = _
  rw [execKEvwaitTimeout, domEvent_next h]
  dsimp only
  rw [hw]
  dsimp only
  rw [hn]

section
variable {s : State} {e t : Nat}

/-- EVDONE without an event is EVENT_STATE. -/
theorem evDone_of_none {commit : Bool} (h : (thrGet s e t).event = none) : evDone s e t commit = krnExc s e t 4 := by
  rw [evDone, h]

/-- A committed event of no context commits its timer requests. -/
theorem evDone_commit_of_noContext {v : KEvent} (h : (thrGet s e t).event = some v) (hc : v.ctx = none) :
    evDone s e t true = eventAfter (thrNext (eventEnd (timerCommit s e t none (thrGet s e t).reqs) e t) e t) e := by
  rw [evDone, h]
  dsimp only
  rw [hc]
  rfl

/-- A committed event of a context commits its window and then its timer requests. -/
theorem evDone_commit_of_context {v : KEvent} {c : Nat} (h : (thrGet s e t).event = some v) (hc : v.ctx = some c) :
    evDone s e t true = eventAfter (thrNext (eventEnd
      (timerCommit (ctxCommit s c (thrGet s e t).window) e t (some c) (thrGet s e t).reqs) e t) e t) e := by
  rw [evDone, h]
  dsimp only
  rw [hc]
  rfl

/-- A discarded event leaves nothing behind. -/
theorem evDone_discard {v : KEvent} (h : (thrGet s e t).event = some v) :
    evDone s e t false = eventAfter (thrNext (eventEnd s e t) e t) e := by
  rw [evDone, h]
  cases hc : v.ctx <;> simp only [hc] <;> rfl

end

/-- Settles O38. -/
theorem kuernEventInstructions : Obligations.KuernEventInstructions := by
  refine ⟨?_, ?_, ?_, ?_, ?_, ?_, ?_, ?_, ?_, ?_⟩
  · rintro e t rd r1 s h u x _ hu hx rfl idle
    exact ⟨_, rfl, by rw [exec_kEvwait h hu hx, if_neg (by rw [idle]; decide)]⟩
  · intro e t w n s h hw hn
    exact ⟨fun past => ⟨_, rfl, by rw [exec_kEvwaitTimeout h hw hn, if_pos past]⟩,
      fun early => by rw [exec_kEvwaitTimeout h hw hn, if_neg (by omega)]⟩
  · rintro e t v s _ _ rfl rfl h hv
    refine ⟨fun none => ?_, ?_⟩
    · rw [exec_kEvdoneCommit h, evDone_commit_of_noContext hv none]
    · rintro c _ some rfl
      rw [exec_kEvdoneCommit h, evDone_commit_of_context hv some]
  · rintro e t s _ rfl h hv
    obtain ⟨v, hv⟩ := Option.isSome_iff_exists.mp hv
    rw [exec_kEvdoneDiscard h, evDone_discard hv]
  · intro e t s h
    show execKReady e t s = _
    rw [execKReady, krnIssue_next h]
  · intro e t rd v s u g hu hg h hv
    have keep := exec_kKeep h hu hg
    rw [hv] at keep
    refine ⟨fun no => ?_, fun yes room => ⟨_, rfl, ?_⟩, fun yes full => ?_⟩
    · exact keep.trans (congrArg _ (if_pos no))
    · exact keep.trans (congrArg _ ((if_neg yes).trans (if_neg (by omega))))
    · exact keep.trans (congrArg _ ((if_neg yes).trans (if_pos full)))
  · rintro e t r1 s _ _ _ rfl rfl rfl h
    refine ⟨fun kept => ⟨_, rfl, ?_⟩, fun no => ?_⟩ <;> show execKRelease e t r1 s = _ <;> rw [execKRelease, krnIssue_next h]
    · exact congrArg _ (if_pos kept)
    · exact congrArg _ (if_neg (by rw [no]; decide))
  · rintro e t r1 s u x _ hu hx rfl h no
    refine ⟨fun ok => ⟨_, rfl, ?_⟩, fun bad => ?_⟩
    · rw [exec_kBopen h hu hx, if_neg (by rw [no]; simp; omega)]
    · rw [exec_kBopen h hu hx, if_pos (.inr bad)]
  · intro e t s u hu h hb
    exact ⟨_, rfl, by rw [exec_kBabort h hu rfl, if_neg (by simp [Option.isSome_iff_ne_none.mp hb])]⟩
  · intro e t r1 b s u x hu hx h hb
    exact ⟨fun l hl => by rw [exec_kSend h hu hx, hl, hb], fun c hc => by rw [exec_kSend h hu hx, hc]⟩

/-- Settles O39. -/
theorem kuernStateExceptions : Obligations.KuernStateExceptions := by
  intro e t rd r1 w s
  refine ⟨fun u hu => ⟨fun h hv => ?_, fun h hb => ?_, fun h hw => ?_⟩, fun u hu => ⟨fun h hv => ?_, fun h hv => ?_, fun h hb => ?_⟩,
    fun u hu h hv => ?_, fun u l hu h hb hl => ?_, fun hw => ?_⟩
  · rw [exec_kEvwait h hu rfl, if_pos hv]
  · rw [exec_kBopen h hu rfl, if_pos (.inl hb)]
  · show execIllegalInstructionWord e t w s = _
    rw [execIllegalInstructionWord, if_neg (by rw [hw]; decide), krnIssue_next h, ← hu]
  · rw [exec_kKeep h hu rfl, hv]
  · rw [exec_kEvdoneDiscard h, ← hu, evDone_of_none hv]
  · rw [exec_kBabort h hu rfl, if_pos (by rw [hb]; rfl)]
  · rw [exec_kEvdoneCommit h, ← hu, evDone_of_none hv]
  · rw [exec_kSend h hu rfl, hl, hb]
  · show execIllegalInstructionWord e t w s = _
    rw [execIllegalInstructionWord, if_pos hw]

end Sys2Proof.Machine

namespace Sys2Proof.Machine

/-!
PROOFS. Exceptions, time, timers and thread control registers of a Kuern thread (R317, R329, R338, R339): O40 and O41.
-/

/-! ### Exceptions -/

/-- An exception of an engine whose ABORT_HALTS is set halts it. -/
theorem thrExc_halts {e t code : Nat} {pc : BitVec 15} {u v w : State} (hw : w = farDrop (krnCount u e 2) e t)
    (hv : v = thrSet w e t { thrGet w e t with lastExc := BitVec.ofNat 32 (code * 2 ^ 24 + pc.toNat) })
    (h : (engGet v e).abortHalts = true) : thrExc u e t code pc = engHalt v e false := by
  subst hw hv
  exact if_pos h

/-- An exception in an event of a context aborts the event, records the fault and lets the thread wait again. -/
theorem thrExc_aborts {e t code : Nat} {pc : BitVec 15} {u v w : State} (hw : w = farDrop (krnCount u e 2) e t)
    (hv : v = thrSet w e t { thrGet w e t with lastExc := BitVec.ofNat 32 (code * 2 ^ 24 + pc.toNat) })
    (h : (engGet v e).abortHalts = false) {y : KEvent} {c : Nat} (hy : (thrGet v e t).event = some y) (hc : y.ctx = some c) {a : State}
    (ha : a = regSet (eventEnd (krnCount v e 1) e t) (Reg.KRN_FAULT e) (BitVec.ofNat 32 (code * 2 ^ 24 + t * 2 ^ 16 + c))) :
    thrExc u e t code pc
      = eventAfter (thrWait (krnRaise (regSet a (Reg.KRN_FAULT_PC e) (pc.setWidth 32)) e t 3) e t 0 none (some code)) e := by
  rw [thrExc]
  dsimp only
  rw [← hw, ← hv, if_neg (by rw [h]; decide), hy]
  dsimp only
  rw [hc, ha]
  rfl

/-- Settles O40. -/
theorem trapAndExceptions : Obligations.TrapAndExceptions := by
  refine ⟨?_, fun e t code pc u w hw v hv => ⟨thrExc_halts hw hv, fun y c h hy hc => ⟨_, rfl, thrExc_aborts hw hv h hy hc rfl⟩⟩⟩
  rintro e t r1 s h _ _ rfl rfl
  show execKTrap e t r1 s = _
  rw [execKTrap, krnIssue_next h]

/-! ### Time, timers and thread control registers -/

section
variable {e : Fin 32} {t : Fin 16} {rd r1 r2 : Fin 32} {s u : State} {x : KThread}

/-- TIME reads the clock, or what the last read of it has latched (R338). -/
theorem exec_kTime {sel : Fin 32} (h : ThreadIssues s e t (kR 0x30 rd 0 sel 9)) (hu : u = issueStart s e t 2) (hx : x = thrGet u e t) :
    exec (.kTime e t rd sel) s = .next (if sel = 0 then
      if engReplica u e then
        thrWrite (thrSet u e t { x with latchNs := u.clk.ns, latchSec := u.clk.sec, latchFrac := u.clk.frac }) e t rd u.clk.ns32
      else thrSet u e t { x with hold := some .replica }
    else if sel = 1 then thrWrite u e t rd x.latchFrac
    else if sel = 2 then thrWrite u e t rd (x.latchNs.setWidth 32)
    else if sel = 3 then thrWrite u e t rd (x.latchSec.setWidth 32)
    else if sel = 4 then thrWrite u e t rd ((x.latchSec >>> 32).setWidth 32)
    else krnExc u e t 1) := by
  subst hu hx
  show execKTime e t rd sel s = _
  exact krnIssue_next h _

theorem exec_kTmrset (h : ThreadIssues s e t (kR 0x30 0 r1 r2 10)) (hu : u = issueStart s e t 1) (hx : x = thrGet u e t) :
    exec (.kTmrset e t r1 r2) s = .next (timerAsk u e t x { set := true, target := wGet x.regs r1, cookie := wGet x.regs r2 }) := by
  subst hu hx
  show execKTmrset e t r1 r2 s = _
  rw [execKTmrset, krnIssue_next h]

theorem exec_kTmrcan (h : ThreadIssues s e t (kR 0x30 0 r1 0 11)) (hu : u = issueStart s e t 1) (hx : x = thrGet u e t) :
    exec (.kTmrcan e t r1) s = .next (timerAsk u e t x { set := false, target := 0, cookie := wGet x.regs r1 }) := by
  subst hu hx
  show execKTmrcan e t r1 s = _
  rw [execKTmrcan, krnIssue_next h]

/-- A read of a thread control register: its value, or ILLEGAL (R329). -/
theorem exec_kTcr_read {i : BitVec 5} (h : ThreadIssues s e t (kI 0x28 rd r1 (kTcrIdx false i))) (hu : u = issueStart s e t 1)
    (hx : x = thrGet u e t) : exec (.kTcr e t rd r1 false i) s = .next (match tcrRead u e t x i.toNat with
      | some (v, y) => thrWrite (thrSet u e t y) e t rd v
      | none => krnExc u e t 1) := by
  subst hu hx
  show execKTcr e t rd r1 false i s = _
  rw [execKTcr, krnIssue_next h]
  exact congrArg _ (if_neg Bool.false_ne_true)

/-- Table 13-1 lists no register past index 7. -/
theorem tcrRead_of_unlisted {s : State} {e t i : Nat} {x : KThread} (h : 8 ≤ i) : tcrRead s e t x i = none := by
  obtain ⟨k, rfl⟩ := Nat.exists_eq_add_of_le' h
  rfl

/-- A write of a thread control register: RESUME, SCRATCH, or ILLEGAL (R329). -/
theorem exec_kTcr_write {i : BitVec 5} (h : ThreadIssues s e t (kI 0x28 rd r1 (kTcrIdx true i))) (hu : u = issueStart s e t 1)
    (hx : x = thrGet u e t) : exec (.kTcr e t rd r1 true i) s = .next (if rd ≠ 0 then krnExc u e t 1
      else if i = 5 then thrNext (thrSet u e t { x with resume := (wGet x.regs r1).setWidth 15 }) e t
      else if i = 7 then thrNext (thrSet u e t { x with scratch := wGet x.regs r1 }) e t
      else krnExc u e t 1) := by
  subst hu hx
  show execKTcr e t rd r1 true i s = _
  rw [execKTcr, krnIssue_next h, if_pos rfl]

end

/-- A timer request outside an event is committed at once, one in an event waits in it, 16 at most (R339). -/
theorem timerAsk_cases (u : State) (e t : Nat) (x : KThread) (r : TimerReq) :
    (x.event = none → timerAsk u e t x r = timerCommit (thrNext u e t) e t none [r])
    ∧ (x.event.isSome = true → x.reqs.length < 16 → timerAsk u e t x r = thrNext (thrSet u e t { x with reqs := x.reqs ++ [r] }) e t)
    ∧ (x.event.isSome = true → 16 ≤ x.reqs.length → timerAsk u e t x r = krnExc u e t 0x0A) := by
  rw [timerAsk]
  refine ⟨fun no => ?_, fun yes room => ?_, fun yes full => ?_⟩
  · rw [if_pos (by rw [no]; rfl)]
  · rw [if_neg (by simp [Option.isSome_iff_ne_none.mp yes]), if_neg (by omega)]
  · rw [if_neg (by simp [Option.isSome_iff_ne_none.mp yes]), if_pos full]

/-- Settles O41. -/
theorem kuernTimeTimersAndControlRegisters : Obligations.KuernTimeTimersAndControlRegisters := by
  refine ⟨?_, ?_, ?_, ?_⟩
  · intro e t rd s u x hu hx h
    refine ⟨fun valid => ⟨_, rfl, ?_⟩, fun no => ?_⟩
    · rw [exec_kTime (sel := 0) h hu hx, if_pos rfl, if_pos valid]
    · rw [exec_kTime (sel := 0) h hu hx, if_pos rfl, if_neg (by rw [no]; decide)]
  · intro e t rd s u x hu hx
    refine ⟨fun h => ?_, fun h => ?_, fun h => ?_, fun h => ?_, fun k hk h => ?_⟩
    · rw [exec_kTime (sel := 1) h hu hx, if_neg (by decide), if_pos rfl]
    · rw [exec_kTime (sel := 2) h hu hx, if_neg (by decide), if_neg (by decide), if_pos rfl]
    · rw [exec_kTime (sel := 3) h hu hx, if_neg (by decide), if_neg (by decide), if_neg (by decide), if_pos rfl]
    · rw [exec_kTime (sel := 4) h hu hx, if_neg (by decide), if_neg (by decide), if_neg (by decide), if_neg (by decide), if_pos rfl]
    · have past : ∀ j : Fin 32, j.val < 5 → k ≠ j := fun j hj same => by rw [same] at hk; omega
      rw [exec_kTime (sel := k) h hu hx, if_neg (past 0 (by decide)), if_neg (past 1 (by decide)), if_neg (past 2 (by decide)),
        if_neg (past 3 (by decide)), if_neg (past 4 (by decide))]
  · rintro e t r1 r2 s u x _ _ _ hu hx rfl rfl rfl y hy h
    simp only [List.mem_cons, List.not_mem_nil, or_false] at hy
    rcases hy with rfl | rfl
    · rw [exec_kTmrset h hu hx, Host.Outcome.next.injEq, Host.Outcome.next.injEq, Host.Outcome.next.injEq]
      exact timerAsk_cases u e t x _
    · rw [exec_kTmrcan h hu hx, Host.Outcome.next.injEq, Host.Outcome.next.injEq, Host.Outcome.next.injEq]
      exact timerAsk_cases u e t x _
  · rintro e t rd r1 s u x _ hu hx rfl
    refine ⟨fun y hy h => ?_, fun h => ?_, fun h => ?_, fun i hi h => ?_, fun i hi h => ?_⟩
    · rw [exec_kTcr_read h hu hx]
      simp only [List.mem_cons, List.not_mem_nil, or_false] at hy
      rcases hy with rfl | rfl | rfl | rfl | rfl | rfl <;> rfl
    · rw [exec_kTcr_write (rd := 0) h hu hx, if_neg (by decide), if_pos rfl]
    · rw [exec_kTcr_write (rd := 0) h hu hx, if_neg (by decide), if_neg (by decide), if_pos rfl]
    · rw [exec_kTcr_write h hu hx]
      by_cases hrd : rd = 0
      · obtain ⟨h5, h7⟩ := hi.resolve_right (not_not.mpr hrd)
        rw [if_neg (not_not.mpr hrd), if_neg h5, if_neg h7]
      · rw [if_pos hrd]
    · rw [exec_kTcr_read h hu hx, tcrRead_of_unlisted hi]

end Sys2Proof.Machine

namespace Sys2Proof.Machine

/-!
PROOFS. Accelerators, locks and fences of a Kuern thread (R341 to R347), and the events of an engine (R312 to R322): O42 and O43.
-/

/-! ### Accelerators -/

section
variable {e : Fin 32} {t : Fin 16} {rd r1 r2 : Fin 32} {s : State}

/-- BERW past its descriptor and its region: the status of its walk (R341). -/
theorem exec_kBerw {d : List Byte} {u : State} {x : KThread} (h : ThreadIssues s e t (kR 0x30 rd r1 r2 12)) (hu : u = issueStart s e t 4)
    (hx : x = thrGet u e t) {a n : Nat} (ha : a = (wGet x.regs r1).toNat) (hn : n = leAt d 0 4)
    (hd : localDesc u e (wGet x.regs r2).toNat 22 4 = .ok d) (hr : operandRegion a n = true) {v : State} (hv : v = operandOrder u e t a n) :
    (berPath d = none → exec (.kBerw e t rd r1 r2) s = .next (berDone v e t rd none 2))
    ∧ (∀ p last w, berPath d = some p →
      (berWalk e t p v a (a + n) none = (.notFound, last, w) → exec (.kBerw e t rd r1 r2) s = .next (berDone w e t rd last 1))
      ∧ (berWalk e t p v a (a + n) none = (.form, last, w) → exec (.kBerw e t rd r1 r2) s = .next (berDone w e t rd last 2))
      ∧ (∀ b c l, berWalk e t p v a (a + n) none = (.found b c l, last, w) →
        exec (.kBerw e t rd r1 r2) s = .next (berDone w e t rd last 0))
      ∧ (∀ c, berWalk e t p v a (a + n) none = (.exc c, last, w) → exec (.kBerw e t rd r1 r2) s = .next (krnExc w e t c))) := by
  subst hu hx ha hn hv
  have goes : exec (.kBerw e t rd r1 r2) s = execKBerw e t rd r1 r2 s := rfl
  rw [goes, execKBerw, krnIssue_next h]
  dsimp only
  rw [hd]
  dsimp only
  rw [if_neg (by rw [hr]; decide)]
  refine ⟨fun none => by rw [none], fun p last w some => ?_⟩
  rw [some]
  exact ⟨fun hw => by simp only [hw], fun hw => by simp only [hw], fun b c l hw => by simp only [hw], fun c hw => by simp only [hw]⟩

/-- AUTH with a readable descriptor: VALUE when the descriptor is bad, else its job is submitted (R343). -/
theorem exec_kAuth {d l : List Byte} {u v : State} (h : ThreadIssues s e t (kR 0x30 rd r1 0 15)) (hu : u = issueStart s e t 8)
    (hd : localDesc u e (wGet (thrGet u e t).regs r1).toNat 32 8 = .ok d) :
    (authBad d = true → exec (.kAuth e t rd r1) s = .next (krnExc u e t 3))
    ∧ (authBad d = false → operandRead u e t (leAt d 4 4) (leAt d 8 4) = (.ok l, v) → leAt d 3 1 ≠ 1 →
      exec (.kAuth e t rd r1) s
        = .next (thrWrite (authSubmit v e t d l none).2 e t rd (BitVec.ofNat 32 (authSubmit v e t d l none).1))) := by
  subst hu
  have goes : exec (.kAuth e t rd r1) s = execKAuth e t rd r1 s := rfl
  rw [goes, execKAuth, krnIssue_next h]
  dsimp only
  rw [hd]
  dsimp only
  refine ⟨fun bad => by rw [if_pos bad], fun good hl untagged => ?_⟩
  rw [if_neg (by rw [good]; decide), hl]
  dsimp only
  rw [if_neg untagged]
  dsimp only
  rw [if_neg untagged]

end

/-! ### Fences -/

section
variable (e : Fin 32) (t : Fin 16) (s : State)

theorem exec_kFenceTank : exec (.kFenceTank e t) s = krnFence s e t 18 true false := rfl
theorem exec_kFenceHost : exec (.kFenceHost e t) s = krnFence s e t 19 false true := rfl
theorem exec_kFenceAll : exec (.kFenceAll e t) s = krnFence s e t 20 true true := rfl

end

/-- A fence holds the thread while an access that it waits for is under way, and lets it go on else (R347). -/
theorem krnFence_cases {i : Instr} {s u : State} {e t fn : Nat} {tank host : Bool} (hi : exec i s = krnFence s e t fn tank host)
    (h : ThreadIssues s e t (kR 0x30 0 0 0 fn)) (hu : u = thrNext (issueStart s e t 1) e t) :
    ((farOf u e t).any (fenceHolds tank host) = true →
      exec i s = .next (thrSet u e t { thrGet u e t with hold := some (.fence tank host) }))
    ∧ ((farOf u e t).any (fenceHolds tank host) = false → exec i s = .next (if host then emit u (.hostFence e t) else u)) := by
  rw [hi, krnFence, krnIssue_next h]
  dsimp only
  rw [← hu]
  exact ⟨fun held => by rw [if_pos held], fun free => by rw [if_neg (by rw [free]; decide)]⟩

/-- Settles O42. -/
theorem kuernAcceleratorsLocksAndFences : Obligations.KuernAcceleratorsLocksAndFences := by
  refine ⟨?_, ?_, ?_, ?_, ?_⟩
  · rintro e t rd r1 r2 s _ v _ _ rfl rfl rfl
    refine ⟨?_, fun h c hc => ?_, fun h inc hn => ?_, ?_, fun h hn c hc => ?_⟩
    · rintro h l _ hl rfl
      show execKCrc e t rd r1 r2 s = _
      rw [execKCrc, krnIssue_next h]
      dsimp only
      rw [hl]
    · show execKCrc e t rd r1 r2 s = _
      rw [execKCrc, krnIssue_next h]
      dsimp only
      rw [hc]
    · show execKCsum e t rd r1 r2 s = _
      rw [execKCsum, krnIssue_next h]
      exact congrArg _ (if_pos (by rw [inc, decide_eq_true hn]; rfl))
    · rintro h hn l _ hl rfl
      show execKCsum e t rd r1 r2 s = _
      rw [execKCsum, krnIssue_next h]
      dsimp only
      rw [if_neg (by rcases hn with hn | hn <;> simp [hn]), hl]
    · show execKCsum e t rd r1 r2 s = _
      rw [execKCsum, krnIssue_next h]
      dsimp only
      rw [if_neg (by rcases hn with hn | hn <;> simp [hn]), hc]
  · exact fun e t rd r1 r2 d s u v x a n hu hx ha hn h hd hr hv => exec_kBerw h hu hx ha hn hd hr hv
  · exact fun e t rd r1 d l s u v hu h hd => exec_kAuth h hu hd
  · rintro e t rd r1 s _ _ _ rfl rfl rfl
    have low : fld (wGet (thrGet (issueStart s e t 1) e t).regs r1) 7 0 = (wGet (thrGet (issueStart s e t 1) e t).regs r1).toNat % 256 := by
      rw [fld, Nat.pow_zero, Nat.div_one]
      rfl
    refine ⟨fun h => ?_, fun h => ?_⟩
    · show execKLkacq e t rd r1 s = _
      rw [execKLkacq, krnIssue_next h, low]
    · show execKLkrel e t r1 s = _
      rw [execKLkrel, krnIssue_next h, low]
  · intro e t s u hu y hy h
    simp only [List.mem_cons, List.not_mem_nil, or_false] at hy
    rcases hy with rfl | rfl | rfl
    · exact krnFence_cases (exec_kFenceTank ..) h hu
    · exact krnFence_cases (exec_kFenceHost ..) h hu
    · exact krnFence_cases (exec_kFenceAll ..) h hu

/-! ### Engines -/

/-- Settles O43. -/
theorem engineEffects : Obligations.EngineEffects := by
  refine ⟨?_, ?_, ?_, ?_, ?_, ?_, ?_⟩
  · rintro e t s h _ _ rfl rfl
    refine ⟨fun on ev past => ?_, fun no => ?_⟩ <;> show execEventWatchdog e t s = _ <;> rw [execEventWatchdog, domEvent_next h]
    · exact congrArg _ (if_pos ⟨on, ev, past⟩)
    · refine congrArg _ (if_neg ?_)
      rintro ⟨on, ev, past⟩
      rcases no with off | none | early
      · exact on off
      · rw [none] at ev
        exact absurd ev (by decide)
      · omega
  · intro e i w s h hw
    have fires : exec (.timerFire e i) s = .next (if engReplica s e && reached s.clk.ns32 w.target then
        timerFire (engSet s e { engGet s e with timers := (engGet s e).timers.eraseIdx i }) e w else s) := by
      show execTimerFire e i s = _
      rw [execTimerFire, domEvent_next h]
      dsimp only
      rw [hw]
      rfl
    refine ⟨fun valid due => ⟨_, rfl, ?_⟩, fun no => ?_⟩
    · rw [fires, if_pos (by rw [valid, due]; rfl)]
    · rw [fires, if_neg (by rcases no with no | no <;> simp [no])]
  · intro e n s h hn h1
    have ends : exec (.initTimeout e) s
        = .next (if engState s e = 1 ∧ n < s.run then krnRaise (engHalt s e false) e 0 5 else s) := by
      show execInitTimeout e s = _
      rw [execInitTimeout, domEvent_next h, hn]
    exact ⟨fun past => by rw [ends, if_pos ⟨h1, past⟩], fun early => by rw [ends, if_neg (by omega)]⟩
  · intro f e v s h hc
    refine ⟨fun b0 b1 run => (hostCmd_next h _).trans ?_, fun b0 b1 h3 hm => (hostCmd_next h _).trans ?_,
      fun b0 b1 no => (hostCmd_next h _).trans ?_⟩
    · rw [if_pos ⟨hc, b0, by rw [b1]; rfl, run⟩]
    · rw [if_pos ⟨hc, b1, by rw [b0]; rfl⟩, if_neg (by rw [h3, hm]; decide)]
    · rw [if_pos ⟨hc, b1, by rw [b0]; rfl⟩, if_pos no]
  · intro f e v s h hc
    exact ⟨(hostCmd_next h _).trans (by rw [if_neg (fun c => hc c.1)]), (hostCmd_next h _).trans (by rw [if_neg (fun c => hc c.1)])⟩
  · intro i d s h hd
    refine ⟨_, _, rfl, rfl, ?_⟩
    show execSendComplete i s = _
    rw [execSendComplete, domEvent_next h, hd]
  · intro i e t k sl alg c b tag pl jt q s h hr
    refine ⟨_, rfl, ?_⟩
    show execAuthJobDone i s = _
    rw [execAuthJobDone, flowEvent_next h.1, if_neg (by rw [h.2]; decide), hr]

end Sys2Proof.Machine

namespace Sys2Proof.Machine

/-!
PROOFS. The rider (R355 to R365): O44 and O45.
-/

/-! ### Commands -/

section
variable (src : RiderFrom) (data : List Byte) (s : State)

theorem exec_riderCreate : exec (.riderCreate src) s = riderCmd s src 1 [] := rfl
theorem exec_riderRetire : exec (.riderRetire src) s = riderCmd s src 2 [] := rfl
theorem exec_riderMove : exec (.riderMove src) s = riderCmd s src 3 [] := rfl
theorem exec_riderPin : exec (.riderPin src) s = riderCmd s src 4 [] := rfl
theorem exec_riderUnpin : exec (.riderUnpin src) s = riderCmd s src 5 [] := rfl
theorem exec_riderResident : exec (.riderResident src) s = riderCmd s src 6 [] := rfl
theorem exec_riderEvict : exec (.riderEvict src) s = riderCmd s src 7 [] := rfl
theorem exec_riderRead : exec (.riderRead src) s = riderCmd s src 8 [] := rfl
theorem exec_riderWrite : exec (.riderWrite src data) s = riderCmd s src 9 data := rfl
theorem exec_riderClearPoison : exec (.riderClearPoison src data) s = riderCmd s src 10 data := rfl
theorem exec_riderMap : exec (.riderMap src) s = riderCmd s src 11 [] := rfl
theorem exec_riderRunPolicy : exec (.riderRunPolicy src) s = riderCmd s src 12 [] := rfl

end

/-- What a command of the rider does, by where it comes from: run at once, put behind another, or refused (R365). -/
theorem riderCmd_cases {i : Instr} {src : RiderFrom} {op : Nat} {data : List Byte} {s : State} (hi : exec i s = riderCmd s src op data) :
    (∀ f u w, src = .register f → HostSees s Reg.RDR_CMD → regBit s Reg.RDR_CMD_STAT 31 = false →
      u = regSet s Reg.RDR_CMD_STAT 0x80000000 → w = riderOfRegs s f op data →
      (s.rdr.waits = [] → exec i s = .next (pauseSweep (riderStart u w)))
      ∧ (s.rdr.waits ≠ [] → exec i s = .next { u with rdr := { s.rdr with waits := s.rdr.waits ++ [w] } }))
    ∧ (∀ f, src = .register f → HostSees s Reg.RDR_CMD → regBit s Reg.RDR_CMD_STAT 31 = true →
      exec i s = .next (rdrRaise s (regFld s (Reg.RDR_CMD_ARG 0) 15 0) 5))
    ∧ (∀ c w, src = .mailbox c → UnitRuns s 3 → mbxState s c = 1 → mbxReceiver s c = 33 → mbxWakeWait s c = false → s.rdr.waits = [] →
      w = riderOfMsg c (mbxGet s c).msg → w.op = op → exec i s = .next (pauseSweep (riderStart s w)))
    ∧ (∀ f q h w, src = .queue f q → UnitRuns s 3 → sqNext s f q = some h → leAt h.bytes 0 1 = 2 → sqStatus h.bytes = 0 → s.rdr.waits = [] →
      w = riderOfSq f q h data → w.op = op → exec i s = .next (pauseSweep (riderStart (sqStart s f q h.index) w))) := by
  rw [hi]
  refine ⟨?_, ?_, ?_, ?_⟩
  · rintro f _ _ rfl h idle rfl rfl
    rw [riderCmd, hostCmd_next h]
    dsimp only
    rw [if_neg (by rw [idle]; decide)]
    exact ⟨fun none => congrArg _ (if_pos (List.isEmpty_iff.mpr none)),
      fun some => congrArg _ (if_neg (fun hidle => some (List.isEmpty_iff.mp hidle)))⟩
  · rintro f rfl h busy
    exact (hostCmd_next h _).trans (congrArg _ (if_pos busy))
  · rintro c _ rfl h h1 h33 hw hidle rfl hop
    exact (domEvent_next h _).trans (congrArg _ (if_pos ⟨h1, h33, hw, hop, List.isEmpty_iff.mpr hidle⟩))
  · rintro f q c _ rfl h hn hr hs hidle rfl hop
    rw [riderCmd, domEvent_next h]
    dsimp only
    rw [hn]
    exact congrArg _ (if_pos ⟨hr, hs, hop, List.isEmpty_iff.mpr hidle⟩)

/-! ### The rider's instants -/

/-- The interval of the policy ends when its period has passed, and not without one. -/
theorem exec_riderIntervalEnd {s : State} {n : Nat} (h : UnitRuns s 3) (hn : n = riderPolicy s 4 4 * 1000) :
    (n = 0 ∨ s.run < s.rdr.intervalFrom + n → exec .riderIntervalEnd s = .next s)
    ∧ (n ≠ 0 → s.rdr.intervalFrom + n ≤ s.run →
      ∃ t, t = (ctxLive s).foldl (fun s' x => ctxMod s' x.1 (fun y => { y with
            weight := if y.wasHot then weightNext s' y.weight y.cycles else y.weight, cycles := 0, wasHot := decide (y.mode = .hot) })) s
        ∧ exec .riderIntervalEnd s
          = .next (polInterval { t with rdr := { t.rdr with interval := t.rdr.interval + 1, intervalFrom := t.rdr.intervalFrom + n } })) := by
  subst hn
  refine ⟨fun no => ?_, fun on due => ⟨_, rfl, ?_⟩⟩ <;> show execRiderIntervalEnd s = _ <;> rw [execRiderIntervalEnd, domEvent_next h]
  · exact congrArg _ (if_neg (by omega))
  · exact congrArg _ (if_pos ⟨on, due⟩)

/-- A migration is over when its old engine holds no event of the context. -/
theorem exec_migrationDrained {c : Fin 65536} {s : State} (h : UnitRuns s 3) : exec (.migrationDrained c) s =
    .next (if (ctxGet s c).moving.isSome ∧ engHolds s (ctxGet s c).owner c = false then riderMoved (migrateDone s c) c else s) := by
  show execMigrationDrained c s = _
  rw [execMigrationDrained, domEvent_next h]

/-- A migration that takes too long is aborted (R361). -/
theorem exec_migrateTimeout {c : Fin 65536} {b t n : Nat} {s : State} (h : UnitRuns s 3) (hm : (ctxGet s c).moving = some (b, t, n)) :
    exec (.migrateTimeout c) s = .next (if t + riderPolicy s 16 4 * 1000 < s.run then riderMoved (migrateAbort s c 7) c else s) := by
  show execMigrateTimeout c s = _
  rw [execMigrateTimeout, domEvent_next h, hm]

/-- The command that waits gives up when its time has passed (R365). -/
theorem exec_eventBoundaryTimeout {s : State} {w : RiderWait} {l : List RiderWait} (h : UnitRuns s 3) (hw : s.rdr.waits = w :: l) :
    exec .eventBoundaryTimeout s = .next (if w.since + riderPolicy s 16 4 * 1000 < s.run then
      riderFinish (if w.op = 3 ∨ w.op = 4 then migrateAbort s w.ctx 7 else s) w l 5 0 else s) := by
  show execEventBoundaryTimeout s = _
  rw [execEventBoundaryTimeout, domEvent_next h, riderGiveUp, hw]

/-- Settles O44. -/
theorem riderCommandEffects : Obligations.RiderCommandEffects := by
  refine ⟨fun src data s y hy => ?_, ?_, fun s n h hn => exec_riderIntervalEnd h hn, ?_, ?_, ?_, ?_⟩
  · simp only [List.mem_cons, List.not_mem_nil, or_false] at hy
    rcases hy with rfl | rfl | rfl | rfl | rfl | rfl | rfl | rfl | rfl | rfl | rfl | rfl
    · exact riderCmd_cases (exec_riderCreate ..)
    · exact riderCmd_cases (exec_riderRetire ..)
    · exact riderCmd_cases (exec_riderMove ..)
    · exact riderCmd_cases (exec_riderPin ..)
    · exact riderCmd_cases (exec_riderUnpin ..)
    · exact riderCmd_cases (exec_riderResident ..)
    · exact riderCmd_cases (exec_riderEvict ..)
    · exact riderCmd_cases (exec_riderRead ..)
    · exact riderCmd_cases (exec_riderWrite ..)
    · exact riderCmd_cases (exec_riderClearPoison ..)
    · exact riderCmd_cases (exec_riderMap ..)
    · exact riderCmd_cases (exec_riderRunPolicy ..)
  · intro u t w
    exact ⟨fun code v hr => by rw [riderStart, hr], fun hr => ⟨_, rfl, by rw [riderStart, hr]⟩⟩
  · intro c b k s h
    refine ⟨?_, ?_⟩
    · show execPageInComplete c b s = _
      rw [execPageInComplete, flowEvent_next h.1, if_pos h.2]
    · show execPageOutComplete c k s = _
      rw [execPageOutComplete, flowEvent_next h.1, if_pos h.2]
  · intro c s h
    refine ⟨fun some drained => ?_, fun no => ?_⟩
    · rw [exec_migrationDrained h, if_pos ⟨some, drained⟩]
    · rw [exec_migrationDrained h, if_neg (by rcases no with no | no <;> simp [no])]
  · intro c b t n s h hm
    exact ⟨fun past => by rw [exec_migrateTimeout h hm, if_pos past], fun early => by rw [exec_migrateTimeout h hm, if_neg (by omega)]⟩
  · intro s w l h hw
    refine ⟨fun past moves => ?_, fun past h3 h4 => ?_, fun early => ?_⟩
    · rw [exec_eventBoundaryTimeout h hw, if_pos past, if_pos moves]
    · rw [exec_eventBoundaryTimeout h hw, if_pos past, if_neg (by simp [h3, h4])]
    · rw [exec_eventBoundaryTimeout h hw, if_neg (by omega)]

/-! ### Refusals (Tables 14-5 and 14-6) -/

/-- Settles O45: each refusal is the first test of its command. -/
theorem riderRefusals : Obligations.RiderRefusals := by
  rintro u w _ rfl
  refine ⟨fun hop hm => ?_, fun hop hm => ?_, fun hop hp => ?_, fun hop hh hc => ?_, fun hop hp => ?_, fun hop hp => ?_, fun hop hm => ?_,
    fun hop hm => ?_⟩ <;> rw [riderRun, hop]
  · exact if_pos hm
  · exact if_pos hm
  · exact if_pos hp
  · exact if_pos ⟨hh, hc⟩
  · exact if_pos (by rw [hp]; rfl)
  · exact if_pos (by rw [hp, Bool.true_or, Bool.true_or])
  · exact if_pos hm
  · exact if_pos hm

end Sys2Proof.Machine

namespace Sys2Proof.Machine

/-!
PROOFS. Locks, tank accesses, leases and mailboxes (R370 to R392): O46 and O48.
-/

/-! ### Lock reads -/

/-- A read by the owner changes nothing and answers 0 (R383). -/
theorem lockRead_of_own {s : State} {m i : Nat} (held : bitOf (regGet s (Reg.TNK_LK_OWNER i)) 6 = true)
    (mine : fld (regGet s (Reg.TNK_LK_OWNER i)) 5 0 = m) : lockRead s m i = (0, s) := by
  simp only [lockRead, held, mine, Bool.not_true, Bool.false_eq_true, if_false, if_true]

/-- A read of another master's lock changes nothing and answers the owner (R383). -/
theorem lockRead_of_other {s : State} {m i : Nat} (held : bitOf (regGet s (Reg.TNK_LK_OWNER i)) 6 = true)
    (other : fld (regGet s (Reg.TNK_LK_OWNER i)) 5 0 ≠ m) : lockRead s m i = (fld (regGet s (Reg.TNK_LK_OWNER i)) 5 0 + 1, s) := by
  simp only [lockRead, held, other, Bool.not_true, Bool.false_eq_true, if_false]

/-- A read of a free lock makes the reader its owner (R383). -/
theorem lockRead_takes {s : State} {i : Nat} (m : Nat) (free : bitOf (regGet s (Reg.TNK_LK_OWNER i)) 6 = false) :
    lockRead s m i = (0, regSet s (Reg.TNK_LK_OWNER i) (BitVec.ofNat 32 (0x40 + m))) := by
  simp only [lockRead, free, Bool.not_false, if_true]

/-- A lock read that reaches the tank answers in `rdata`. -/
theorem exec_lockRead {m : Fin 42} {i : Fin 256} {s : State} (h : MasterReaches s m (Reg.TNK_LK i)) :
    exec (.lockRead m i) s = .next { (lockRead s m i).2 with rdata := BitVec.ofNat 64 (lockRead s m i).1 } := by
  show execLockRead m i s = _
  rw [execLockRead, masterCmd_next h]

/-- Settles O46. -/
theorem lockReads : Obligations.LockReads := by
  rintro m i s h _ rfl
  refine ⟨fun free => ?_, fun held mine => ?_, fun held other => ?_⟩
  · rw [exec_lockRead h, lockRead_takes m.val free]
    rfl
  · rw [exec_lockRead h, lockRead_of_own held mine]
    rfl
  · rw [exec_lockRead h, lockRead_of_other held other]

/-! ### Tank accesses -/

section
variable {m : Fin 42} {a n : Nat} {b : List Byte} {s : State}

/-- An access of a master other than the host's functions is judged and performed (R375). -/
theorem exec_tankAccess {op : BitVec 2} (h : UnitRuns s 3) (hm : m.val < 36 ∨ 40 ≤ m.val) :
    exec (.tankAccess m a op b n) s = .next (match tankAccess s m a (tankOpOf op) n b with
      | (.data l, s) => if op = 0 then { s with rdata := BitVec.ofNat 64 (leNat l) } else s
      | (.poisoned, s) => { s with rdata := BitVec.ofNat 64 (2 ^ (8 * n) - 1) }
      | (.refused, s) => if op = 0 then { s with rdata := 0 } else s) := by
  show execTankAccess m a op b n s = _
  rw [execTankAccess, domEvent_next h]
  exact congrArg _ (if_neg (by omega))

theorem tankAccess_refused {m : Nat} {op : TankOp} (h : tankAllowed s m a n (decide (op ≠ .load)) = false) :
    tankAccess s m a op n b = (.refused, tankRefuse s m a) := by
  rw [tankAccess]
  exact if_pos (by rw [h]; rfl)

theorem tankAccess_store {m : Nat} (h : tankAllowed s m a n true = true) :
    tankAccess s m a .store n b = (.data [], tankWrite (tankNote s m a) a (b.take n)) := by
  rw [tankAccess]
  exact if_neg (by rw [show decide (TankOp.store ≠ .load) = true from rfl, h]; decide)

theorem tankAccess_load {m : Nat} (h : tankAllowed s m a n false = true) (ho : tankOld s m a = none) :
    tankAccess s m a .load n b = if decide (poisonOf s a ≠ none) then (.poisoned, s) else (.data (tankRead s a n), s) := by
  rw [tankAccess, ho]
  exact if_neg (by rw [show decide (TankOp.load ≠ .load) = false from rfl, h]; decide)

end

/-! ### Mailboxes -/

/-- The wake limit of a message that waits (R392): delivered when the receiver's domain is on, discarded else, and nothing before. -/
theorem exec_mbxWakeLimit {c : Fin 64} {t : Nat} {s : State} (h : UnitRuns s 3) (hl : (mbxGet s c).wakeLimit = some t) :
    exec (.mbxWakeLimit c) s = .next (if s.run < t ∨ mbxState s c ≠ 1 then s
      else if domOn s (masterDomain (mbxReceiver s c)) then mbxWake s c
      else if mbxOrphan s c then mbxEmpty s c
      else mbxOutcome (mbxRaise (mbxCount s 3) c 2) c 3 0 0) := by
  show execMbxWakeLimit c s = _
  rw [execMbxWakeLimit, domEvent_next h, hl]

/-- Settles O48. -/
theorem tankLeaseAndMailboxEffects : Obligations.TankLeaseAndMailboxEffects := by
  refine ⟨?_, ?_, ?_, ?_, ?_, ?_, ?_, ?_, ?_⟩
  · intro m a n s h hm ok ho
    refine ⟨fun whole => ?_, fun poisoned => ?_⟩ <;> rw [exec_tankAccess h hm, show tankOpOf 0 = .load from rfl, tankAccess_load ok ho]
    · rw [if_neg (by rw [whole]; decide)]
      exact congrArg _ (if_pos rfl)
    · rw [if_pos (decide_eq_true poisoned)]
  · intro m a n b s h hm
    refine ⟨fun ok => ?_, fun no => ?_⟩ <;> rw [exec_tankAccess h hm, show tankOpOf 1 = .store from rfl]
    · rw [tankAccess_store ok]
      exact congrArg _ (if_neg (by decide))
    · rw [tankAccess_refused (op := .store) no]
      exact congrArg _ (if_neg (by decide))
  · intro m a n s h hm no
    rw [exec_tankAccess h hm, show tankOpOf 0 = .load from rfl, tankAccess_refused (op := .load) no]
    exact congrArg _ (if_pos rfl)
  · intro m v s h h33 h35
    exact (masterCmd_next h _).trans (by rw [if_neg (by omega)])
  · intro b p s h hp
    refine ⟨_, _, rfl, rfl, fun hb h3 hm => ?_⟩
    show execLeaseApply b s = _
    rw [execLeaseApply, domEvent_next h, hp]
    exact congrArg (fun x => Host.Outcome.next (raise x Reg.TNK_CAUSE 5)) (if_pos ⟨hb, h3, hm⟩)
  · intro f v s h
    exact ⟨fun code right => (hostCmd_next h _).trans (by rw [if_pos ⟨code, right⟩, lockFree]),
      fun code => (hostCmd_next h _).trans (by rw [if_neg (fun c => code c.1)])⟩
  · intro m c v s h0 h4
    refine ⟨fun mine => ⟨(masterCmd_next h0 _).trans ?_, (masterCmd_next h4 _).trans ?_⟩, fun mine => (masterCmd_next h4 _).trans ?_,
      fun other => ⟨(masterCmd_next h0 _).trans ?_, (masterCmd_next h4 _).trans ?_⟩, fun other => (masterCmd_next h4 _).trans ?_⟩
    · rw [if_pos mine]
    · rw [if_pos mine]
    · rw [if_pos mine]
    · rw [if_neg other]
    · rw [if_neg other]
    · rw [if_neg other]
  · intro c t s h hl h1 due
    have live : ¬(s.run < t ∨ mbxState s c ≠ 1) := by omega
    refine ⟨fun on => ?_, fun off orphan => ?_, fun off kept => ?_⟩ <;> rw [exec_mbxWakeLimit h hl, if_neg live]
    · rw [if_pos on]
    · rw [if_neg (by rw [off]; decide), if_pos orphan]
    · rw [if_neg (by rw [off]; decide), if_neg (by rw [kept]; decide)]
  · intro c t s h hl early
    rw [exec_mbxWakeLimit h hl, if_pos (.inl early)]

end Sys2Proof.Machine

namespace Sys2Proof.Machine

/-!
PROOFS. Control, queues, flags, settings and DMA of a flume engine (R397, R408 to R415): O49 and O52.
-/

/-! ### FLM_ENG_CTL -/

section
variable {s : State} {e : Nat} {v : Word}

theorem flmCtl_start (h0 : bitOf v 0 = true) (h1 : bitOf v 1 = false) (h3 : bitOf v 3 = false) : flmCtl s e v = flmStart s e (bitOf v 2) := by
  simp only [flmCtl, h0, h1, h3, Bool.and_false, Bool.false_eq_true, if_false, if_true]

theorem flmCtl_match (h0 : bitOf v 0 = true) (h1 : bitOf v 1 = false) (h3 : bitOf v 3 = true) : flmCtl s e v = flmStartMatch s e (bitOf v 2) := by
  simp only [flmCtl, h0, h1, h3, Bool.and_false, Bool.false_eq_true, if_false, if_true]

theorem flmCtl_stop (h0 : bitOf v 0 = false) (h1 : bitOf v 1 = true) : flmCtl s e v = flmStop s e := by
  simp only [flmCtl, h0, h1, Bool.false_and, Bool.false_eq_true, if_false, if_true]

end

/-- A start without RESUME begins at START_ADDR with empty latches. -/
theorem flmPrepare_fresh (s : State) (e due : Nat) : flmPrepare s e false due = fluSet s e { fluGet s e with
    acc := 0, due := due, stall := 0, pc := BitVec.ofNat 6 (regFld s (Reg.FLM_ENG_SHIFT e) 13 8), sc := 0, rc := 0, rest := none } := rfl

section
variable {f : Fin 4} {e : Fin 48} {v : Word} {s : State}

theorem exec_flumeStart (h : HostSees s (Reg.FLM_ENG_CTL e)) (h1 : bitOf v 1 = false) :
    exec (.flumeStart f e v) s = .next (flmStart s e false) := by
  have bits : bitOf (setFld v 0 0 1 &&& 0x3#32) 0 = true ∧ bitOf (setFld v 0 0 1 &&& 0x3#32) 1 = false
      ∧ bitOf (setFld v 0 0 1 &&& 0x3#32) 3 = false ∧ bitOf (setFld v 0 0 1 &&& 0x3#32) 2 = false := by
    simp_all [bitOf, setFld]
  obtain ⟨b0, b1, b3, b2⟩ := bits
  refine (hostCmd_next h _).trans ?_
  rw [flmCtl_start b0 b1 b3, b2]

theorem exec_flumeResume (h : HostSees s (Reg.FLM_ENG_CTL e)) (h1 : bitOf v 1 = false) :
    exec (.flumeResume f e v) s = .next (flmStart s e true) := by
  have bits : bitOf ((v &&& 0x2#32) ||| 0x5#32) 0 = true ∧ bitOf ((v &&& 0x2#32) ||| 0x5#32) 1 = false
      ∧ bitOf ((v &&& 0x2#32) ||| 0x5#32) 3 = false ∧ bitOf ((v &&& 0x2#32) ||| 0x5#32) 2 = true := by
    simp_all [bitOf]
  obtain ⟨b0, b1, b3, b2⟩ := bits
  refine (hostCmd_next h _).trans ?_
  rw [flmCtl_start b0 b1 b3, b2]

theorem exec_flumeStartMatch (h : HostSees s (Reg.FLM_ENG_CTL e)) (h1 : bitOf v 1 = false) :
    exec (.flumeStartMatch f e v) s = .next (flmStartMatch s e (bitOf v 2)) := by
  have bits : bitOf ((v &&& 0x6#32) ||| 0x9#32) 0 = true ∧ bitOf ((v &&& 0x6#32) ||| 0x9#32) 1 = false
      ∧ bitOf ((v &&& 0x6#32) ||| 0x9#32) 3 = true ∧ bitOf ((v &&& 0x6#32) ||| 0x9#32) 2 = bitOf v 2 := by
    simp_all [bitOf]
  obtain ⟨b0, b1, b3, b2⟩ := bits
  refine (hostCmd_next h _).trans ?_
  rw [flmCtl_match b0 b1 b3, b2]

theorem exec_flumeStop (h : HostSees s (Reg.FLM_ENG_CTL e)) (h0 : bitOf v 0 = false) :
    exec (.flumeStop f e v) s = .next (flmStop s e) := by
  have bits : bitOf (v ||| 0x2#32) 0 = false ∧ bitOf (v ||| 0x2#32) 1 = true := by simp_all [bitOf]
  exact (hostCmd_next h _).trans (congrArg _ (flmCtl_stop bits.1 bits.2))

end

/-! ### Supply of a bank (R397) -/

/-- A bank whose level is as declared has no mismatch. -/
theorem bankCheck_of_match {t : State} {b v : Nat} (hd : tabGet (fun _ => none) t.flm.decl b = some v)
    (hl : regFld t Reg.FLM_BANK_STAT (1 + 3 * b) (3 * b) = v + 1) :
    bankCheck t b = regSetFld t Reg.FLM_BANK_STAT (2 + 3 * b) (2 + 3 * b) 0 := by
  simp only [bankCheck, hd, hl, ne_eq, not_true_eq_false, decide_false, Bool.false_and, Bool.false_eq_true, if_false]
  rfl

/-- A mismatch that begins is shown and raised. -/
theorem bankCheck_of_mismatch {t : State} {b v : Nat} (hd : tabGet (fun _ => none) t.flm.decl b = some v)
    (hl : regFld t Reg.FLM_BANK_STAT (1 + 3 * b) (3 * b) ≠ v + 1) (hw : regBit t Reg.FLM_BANK_STAT (2 + 3 * b) = false) :
    bankCheck t b = raise (regSetFld t Reg.FLM_BANK_STAT (2 + 3 * b) (2 + 3 * b) 1) Reg.FLM_CAUSE 8 := by
  simp only [bankCheck, hd, hw, ne_eq, hl, not_false_eq_true, decide_true, Bool.not_false, Bool.and_self, if_true]
  rfl

/-! ### Shared flags (R409) -/

/-- A vector and a cause leave the flume alone. -/
@[simp] theorem msix_flm (s : State) (f v : Nat) : (msix s f v).flm = s.flm := by
  unfold msix
  split
  · split <;> rfl
  · rfl

@[simp] theorem raise_flm (s : State) (c b : Nat) : (raise s c b).flm = s.flm := by
  unfold raise blockIrq
  split
  · rw [msix_flm]
    rfl
  · rfl

@[simp] theorem flmRaise_flm (s : State) (e b : Nat) : (flmRaise s e b).flm = s.flm := raise_flm ..

/-- Setting and clearing work on the flags as they stand. -/
theorem flags_flagsTouch (s : State) : (flagsTouch s).flm.flags = s.flm.flags := by
  rw [flagsTouch]
  split <;> rfl

theorem flags_flagsSet (s : State) (e : Nat) (v : Word) : (flagsSet s e v).flm.flags = s.flm.flags ||| v := by
  rw [← flags_flagsTouch s, flagsSet]
  dsimp only
  split
  · rw [flmRaise_flm]
    rfl
  · rfl

/-- With nothing set in this FLUME cycle a clear clears what it names. -/
theorem flags_flagsClear {s : State} (v : Word) (h : s.flm.cycle ≠ s.run / 4) : (flagsClear s v).flm.flags = s.flm.flags &&& ~~~v := by
  have touch : flagsTouch s = { s with flm := { s.flm with cycle := flmCycle s, flagsOld := s.flm.flags, flagsUp := 0, flagsTaken := 0 } } :=
    if_neg h
  rw [flagsClear, touch]
  show s.flm.flags &&& ~~~(v &&& ~~~0#32) = _
  rw [BitVec.not_zero, BitVec.and_allOnes]

/-- Settles O49. -/
theorem flumeControlEffects : Obligations.FlumeControlEffects := by
  refine ⟨?_, ?_, ?_, ?_, ?_, ?_, ?_, ?_, ?_, ?_, ?_⟩
  · rintro f e v s _ h h1 rfl
    rw [exec_flumeStart h h1, exec_flumeResume h h1, flmStart, flmStart]
    refine ⟨fun busy => ?_, fun idle => ?_⟩
    · rw [if_pos busy, if_pos busy]
      exact ⟨rfl, rfl⟩
    · have no : ¬ flmBusy s e = true := by rw [idle]; decide
      rw [if_neg no, if_neg no, flmPrepare_fresh]
      exact ⟨⟨_, rfl, rfl⟩, rfl⟩
  · rintro f e v _ s _ h h1 rfl rfl
    rw [exec_flumeStartMatch h h1, flmStartMatch, show s.clk.ns32 = nowNs32 s from rfl]
    dsimp only
    refine ⟨fun busy => ?_, fun idle no => ?_, fun idle valid far => ?_, fun idle valid near early => ?_, fun idle valid near past => ?_⟩
    · rw [if_pos busy]
    all_goals rw [if_neg (by rw [idle]; decide)]
    · rw [if_pos (by rw [no]; rfl)]
    all_goals rw [if_neg (by rw [valid]; decide)]
    · rw [if_pos far]
    all_goals rw [if_neg (by omega)]
    · rw [if_neg (by rw [early]; decide)]
    · rw [if_pos past]
  · intro f e v s h h0
    rw [exec_flumeStop h h0, flmStop]
    exact ⟨fun busy => by rw [if_pos busy], fun idle => by rw [if_neg (by rw [idle]; decide)]⟩
  · rintro e s _ h rfl armed
    have fires : exec (.flumeMatchReached e) s = .next (if (fluGet s e).mode = .armed ∧ replicaReady s 14
        ∧ reached s.clk.ns32 (fluGet s e).target then flmFire s e else s) := domEvent_next h _
    refine ⟨fun valid due => ?_, fun no => ?_⟩
    · rw [fires, if_pos ⟨armed, valid, due⟩]
      rfl
    · rw [fires, if_neg (by rcases no with no | no <;> simp [no])]
  · rintro b n _ s _ h rfl rfl
    show execBankSupplyCheck b n s = _
    exact domEvent_next h _
  · rintro b v _ t hd rfl
    exact ⟨bankCheck_of_match hd, bankCheck_of_mismatch hd⟩
  · intro f e v s h
    refine ⟨fun none room => ⟨_, (hostCmd_next h _).trans (congrArg _ (if_neg (by omega))), rfl⟩, fun no =>
      (hostCmd_next h _).trans (congrArg _ (if_pos no))⟩
  · intro f e w l s h
    have pops : exec (.flmRxqPop f e) s = execFlmRxqPop f e s := rfl
    rw [pops, execFlmRxqPop, hostCmd_next h]
    dsimp only
    refine ⟨fun empty => ?_, fun some none => ?_, fun ring => ?_⟩
    · rw [empty]
    · rw [some]
      exact congrArg _ (if_neg (not_not.mpr none))
    · cases hq : (fluGet s e).rxq with
      | nil => rfl
      | cons w l => exact congrArg _ (if_pos ring)
  · intro f v s
    exact ⟨fun h => ⟨hostCmd_next h _, flags_flagsSet s 0 v⟩, fun h => ⟨hostCmd_next h _, flags_flagsClear v⟩⟩
  · intro f a v e m k s h hc
    have goes : exec (.flumeConfigWrite f a v) s = execFlumeConfigWrite f a v s := rfl
    rw [goes, execFlumeConfigWrite, hostCmd_next h, hc]
    dsimp only
    refine ⟨fun busy => ?_, fun idle lk => ?_, fun idle lk ha => ?_, fun idle lk ha hb => ?_⟩
    · rw [if_pos busy]
      rfl
    all_goals rw [if_neg (by rw [idle]; decide)]
    · rw [if_pos lk]
    all_goals rw [if_neg (by rw [lk]; decide)]
    · rw [if_neg (by omega)]
    · rw [if_pos ⟨ha, hb⟩]
  · rintro f e v s _ h rfl
    refine ⟨fun busy => (hostCmd_next h _).trans (congrArg _ (if_pos busy)), fun idle =>
      (hostCmd_next h _).trans (congrArg _ (if_neg (by rw [idle]; decide)))⟩

/-! ### DMA (R411, R412) -/

/-- Settles O52. -/
theorem flumeDmaEffects : Obligations.FlumeDmaEffects := by
  intro e s h
  have tx : exec (.flumeDmaTxPoll e) s = execFlumeDmaTxPoll e s := rfl
  have rx : exec (.flumeDmaRxWrite e) s = execFlumeDmaRxWrite e s := rfl
  rw [tx, rx, execFlumeDmaTxPoll, execFlumeDmaRxWrite, domEvent_next h, domEvent_next h]
  dsimp only
  refine ⟨fun no => ?_, fun no => ?_, fun t ring on room bad => ⟨_, rfl, ?_⟩, fun put t ring on room ok => ?_,
    fun t ring on some bad => ⟨_, rfl, ?_⟩, fun get t ring on some ok => ?_, fun put w k b n t u more room ok => ⟨_, rfl, ?_⟩⟩
  · rw [if_pos no]
  · rw [if_pos no]
  · rw [if_neg (by simp only [ring, on, Bool.false_eq_true, false_or]; omega), bad]
    rfl
  · rw [if_neg (by simp only [ring, on, Bool.false_eq_true, false_or]; omega), ok]
  · rw [if_neg (by simp only [ring, on, some, Bool.false_eq_true, or_self, not_false_eq_true]), bad]
    rfl
  · rw [if_neg (by simp only [ring, on, some, Bool.false_eq_true, or_self, not_false_eq_true]), ok]
  · rw [dmaTx]
    dsimp only
    rw [if_neg (by simp only [more, false_or]; omega), ok]

end Sys2Proof.Machine

namespace Sys2Proof.Machine

/-!
PROOFS. The instructions of a flume engine (R401 to R409, R416, Table 16-1): O50 and O51.
-/

/-! ### Transfers that do not stall (R404) -/

/-- TRY_FETCH by what the engine sees of its TXQ. -/
theorem flmFetch_of_removed {s : State} {e : Nat} (h : txCap s e = 0) : flmFetch s e = .bad 2 := if_pos h

theorem flmFetch_of_empty {s : State} {e : Nat} (h : txCap s e ≠ 0) (hq : txqSeen s e = []) : flmFetch s e = .stall 1 s := by
  rw [flmFetch, if_neg h, hq]

theorem flmFetch_of_word {s : State} {e : Nat} {w : Word} {l : List Word} (h : txCap s e ≠ 0) (hq : txqSeen s e = w :: l) :
    flmFetch s e = .ok () (flmCount (fluSet s e { fluGet s e with
      txq := (fluGet s e).txq.tail, sl := BitVec.ofNat 32 (w.toNat % 2 ^ fetchBits s e), sc := fetchBits s e }) e 0 1) := by
  rw [flmFetch, if_neg h, hq]

theorem flmPush_of_removed {s : State} {e : Nat} {w : Word} (h : rxCap s e = 0) : flmPush s e w = .bad 2 := if_pos h

theorem flmPush_of_full {s : State} {e : Nat} {w : Word} (h : rxCap s e ≠ 0) (hr : rxqRoom s e = false) : flmPush s e w = .stall 2 s := by
  rw [flmPush, if_neg h, if_pos (by rw [hr]; rfl)]

theorem flmPush_of_room {s : State} {e : Nat} {w : Word} (h : rxCap s e ≠ 0) (hr : rxqRoom s e = true) :
    flmPush s e w = .ok () (flmCount (fluSet s e { fluGet s e with rxq := (fluGet s e).rxq ++ [w] }) e 1 1) := by
  rw [flmPush, if_neg h, if_neg (by rw [hr]; decide)]

theorem flmDeposit_of_removed {s : State} {e : Nat} (h : rxCap s e = 0) : flmDeposit s e = .bad 2 := by
  rw [flmDeposit, flmPush_of_removed h]

theorem flmDeposit_of_full {s : State} {e : Nat} (h : rxCap s e ≠ 0) (hr : rxqRoom s e = false) : flmDeposit s e = .stall 2 s := by
  rw [flmDeposit, flmPush_of_full h hr]

theorem flmDeposit_of_room {s u : State} {e : Nat} (h : rxCap s e ≠ 0) (hr : rxqRoom s e = true)
    (hu : u = flmCount (fluSet s e { fluGet s e with rxq := (fluGet s e).rxq ++ [(fluGet s e).rl] }) e 1 1) :
    flmDeposit s e = .ok () (fluSet u e { fluGet u e with rl := 0, rc := 0 }) := by
  rw [flmDeposit, flmPush_of_room h hr, hu]

/-! ### Instructions that always end -/

/-- Settles O50. -/
theorem flumeInstructionsThatEnd : Obligations.FlumeInstructionsThatEnd := by
  rintro e s _ rfl
  refine ⟨?_, ?_, ?_, ?_, ?_, ?_, ?_, ?_, ?_, ?_, ?_⟩
  · intro n h
    show execFIdle e n s = _
    exact flmIssue_next h _
  · intro m v t h
    show execFDrive e m v t s = _
    exact flmIssue_next h _
  · intro m d h
    show execFDir e m d s = _
    exact flmIssue_next h _
  · rintro c a pins _ rfl h
    refine ⟨fun holds => ?_, fun no => ?_⟩ <;> show execFBr e c a pins s = _ <;> rw [execFBr, flmIssue_next h]
    · exact congrArg _ (if_pos holds)
    · exact congrArg _ (if_neg (by rw [no]; decide))
  · rintro k a _ _ rfl rfl h
    refine ⟨fun more => ?_, fun past => ?_⟩ <;> show execFLoop e k a s = _ <;> rw [execFLoop, flmIssue_next h]
    · exact congrArg _ (if_pos more)
    · exact congrArg _ (if_neg (not_not.mpr past))
  · rintro r f _ rfl
    refine ⟨fun h => ?_, fun h => ?_⟩
    · show execFFlagSet e r f s = _
      exact flmIssue_next h _
    · show execFFlagClear e r f s = _
      exact flmIssue_next h _
  · intro k v
    refine ⟨fun h => ?_, fun h => ?_⟩
    · show execFSetk e k v s = _
      exact flmIssue_next h _
    · show execFAddk e k v s = _
      exact flmIssue_next h _
  · intro h
    show execFXferClear e s = _
    exact flmIssue_next h _
  · intro h
    have goes : exec (.fXferTryFetch e) s = execFXferTryFetch e s := rfl
    rw [goes, execFXferTryFetch, flmIssue_next h]
    refine ⟨fun removed => ?_, fun there empty => ?_, fun w l there some => ⟨_, rfl, ?_⟩⟩
    · rw [flmFetch_of_removed removed]
    · rw [flmFetch_of_empty there empty]
    · rw [flmFetch_of_word there some]
  · intro h
    have goes : exec (.fXferTryDeposit e) s = execFXferTryDeposit e s := rfl
    rw [goes, execFXferTryDeposit, flmIssue_next h]
    refine ⟨fun removed => ?_, fun there full => ⟨_, rfl, ?_⟩, fun there room => ⟨_, rfl, ?_⟩⟩
    · rw [flmDeposit_of_removed removed]
    · rw [flmDeposit_of_full there full]
    · rw [flmDeposit_of_room there room rfl]
  · intro w h
    refine ⟨fun bad => ?_, fun good => ?_⟩ <;> show execFlumeIllegalInstruction e w s = _ <;> rw [execFlumeIllegalInstruction, flmIssue_next h]
    · rw [if_pos bad]
    · rw [if_neg (by rw [good]; decide)]

/-! ### Instructions that may stall -/

/-- How a transfer of an instruction goes on: the instruction ends, stalls with what is left of it, or faults the engine. -/
def flmAfter (s : State) (e : Nat) (r : FlumeRest) : FlumeRes Unit → State
  | .ok _ t => flmEnd t e 1
  | .stall c t => flmStall t e c r
  | .bad c => flmFault s e c

section
variable {s t : State} {e c : Nat} {r : FlumeRest} {edge : Option Word} {b : Bool}

@[simp] theorem flmAfter_ok : flmAfter s e r (.ok () t) = flmEnd t e 1 := rfl

@[simp] theorem flmAfter_stall : flmAfter s e r (.stall c t) = flmStall t e c r := rfl

@[simp] theorem flmAfter_bad : flmAfter s e r (.bad c) = flmFault s e c := rfl

theorem flmTry_fetch (h : r.op = .fetch) : flmTry s e r edge = flmAfter s e r (flmFetch s e) := by
  rw [flmTry, h]
  cases flmFetch s e <;> rfl

theorem flmTry_deposit (h : r.op = .deposit) : flmTry s e r edge = flmAfter s e r (flmDeposit s e) := by
  rw [flmTry, h]
  cases flmDeposit s e <;> rfl

theorem flmTry_stamp (h : r.op = .stamp) : flmTry s e r edge = flmAfter s e r (flmPush s e (fluGet s e).edge) := by
  rw [flmTry, h]
  cases flmPush s e (fluGet s e).edge <;> rfl

theorem flmTry_now (h : r.op = .now) : flmTry s e r edge = flmAfter s e r (flmPush s e s.clk.ns32) := by
  rw [flmTry, h, nowNs32]
  cases flmPush s e s.clk.ns32 <;> rfl

theorem flmTry_loadm_of_removed (h : r.op = .loadm) (hc : txCap s e = 0) : flmTry s e r edge = flmFault s e 2 := by
  rw [flmTry, h]
  exact if_pos hc

theorem flmTry_loadm_of_empty (h : r.op = .loadm) (hc : txCap s e ≠ 0) (hq : txqSeen s e = []) : flmTry s e r edge = flmStall s e 1 r := by
  rw [flmTry, h]
  dsimp only
  rw [if_neg hc, hq]

/-- LOADM takes the oldest word of TXQ into M (R402). -/
theorem flmTry_loadm_of_word {w : Word} {l : List Word} (h : r.op = .loadm) (hc : txCap s e ≠ 0) (hq : txqSeen s e = w :: l) :
    flmTry s e r edge = flmEnd (flmCount (fluSet s e { fluGet s e with txq := (fluGet s e).txq.tail, mark := w }) e 0 1) e 1 := by
  rw [flmTry, h]
  dsimp only
  rw [if_neg hc, hq]

/-- A cell of a SEND takes a bit, writes it to the pin and lasts K3 + 1 ticks. -/
theorem flmSendCell_of_bit {p : Nat} {i : Bool} (h : flmTake1 s e = .ok b t) : flmSendCell s e p i r =
    if r.left ≤ 1 then flmDone (flmTicks (pinWrite t e p (b != i)) e ((fluGet s e).k3.toNat + 1)) e
    else flmHold (flmTicks (pinWrite t e p (b != i)) e ((fluGet s e).k3.toNat + 1)) e { r with left := r.left - 1 } := by
  rw [flmSendCell, h]

theorem flmSendCell_of_stall {p : Nat} {i : Bool} (h : flmTake1 s e = .stall c t) : flmSendCell s e p i r = flmStall t e c r := by
  rw [flmSendCell, h]

/-! #### Taking bits from SL (R403) -/

/-- A take that finds SL empty, and AUTO_FETCH set with nothing in TXQ, stalls. -/
theorem flmTake1_of_empty (h0 : (fluGet s e).sc = 0) (ha : regBit s (Reg.FLM_ENG_SHIFT e) 3 = true) (hc : txCap s e ≠ 0)
    (hq : txqSeen s e = []) : flmTake1 s e = .stall 1 s := by
  rw [flmTake1]
  dsimp only
  rw [if_pos ⟨h0, ha⟩, flmFetch_of_empty hc hq]

/-- A take that finds SL empty without AUTO_FETCH gives 0 and leaves the engine alone. -/
theorem flmTake1_of_zero (h0 : (fluGet s e).sc = 0) (ha : regBit s (Reg.FLM_ENG_SHIFT e) 3 = false) : flmTake1 s e = .ok false s := by
  rw [flmTake1]
  dsimp only
  rw [if_neg (by rw [ha]; simp), if_pos h0]

/-- Taking bits where each take gives 0 and leaves the engine alone gives zeros. -/
theorem flmTakeAll_of_zeros {start : State} {fin : State → List Bool → State} (h : flmTake1 s e = .ok false s) :
    ∀ n got, flmTakeAll start e r fin s n got = fin s (got ++ List.replicate n false)
  | 0, got => by rw [flmTakeAll, List.replicate_zero, List.append_nil]
  | n + 1, got => by
    rw [flmTakeAll, h]
    dsimp only
    rw [flmTakeAll_of_zeros h n, List.append_assoc, List.replicate_succ, List.singleton_append]

/-- Zeros taken are the value 0. -/
theorem takenValue_zeros (lsb : Bool) (n : Nat) : takenValue lsb (List.replicate n false) = 0 := by
  rw [takenValue, List.reverse_replicate, ite_self]
  induction n with
  | zero => rfl
  | succ n ih =>
    rw [List.replicate_succ, List.foldl_cons]
    exact ih

end

/-! #### Waits -/

section
variable {s : State} {e : Nat} {r : FlumeRest} {edge : Option Word}

theorem flmTry_waitLevel {pol : Bool} {p : Nat} (h : r.op = .waitLevel pol p) :
    flmTry s e r edge = if pinRead s (inPin s e p) = pol then flmEnd s e 1 else flmStall s e 3 r := by
  rw [flmTry, h]

/-- An edge stamped within the wait and at most 4 ns ahead ends the wait (R406). -/
theorem flmTry_waitEdge_some {w : Word} (h : r.op = .waitEdge) (hl : -4 ≤ (w - r.start).toInt) (hn : (w - s.clk.ns32).toInt ≤ 4) :
    flmTry s e r (some w) = flmEnd (fluSet s e { fluGet s e with edge := w }) e 1 := by
  have seen : edgeSeen s r (some w) = some w := if_pos ⟨hl, hn⟩
  rw [flmTry, h]
  dsimp only
  rw [seen]

theorem flmTry_waitEdge_none (h : r.op = .waitEdge) : flmTry s e r none = flmStall s e 3 r := by
  rw [flmTry, h]
  rfl

theorem flmTry_waitFlag {pol clr : Bool} {f : Nat} (h : r.op = .waitFlag pol clr f) : flmTry s e r edge =
    if flagReady s e pol clr f then flmEnd (if clr then flagTake s f else s) e 1 else flmStall s e 4 r := by
  rw [flmTry, h]

/-- WAIT MARK at its first tick: it ends and clears acc, or stalls (R407). -/
theorem flmTry_waitMark (h : r.op = .waitMark) (hm : (fluGet s e).mode = .running) : flmTry s e r edge =
    if markReached s e then flmEnd (fluSet s e { fluGet s e with acc := 0 }) e 1 else flmStall s e 5 r := by
  rw [flmTry, h]
  dsimp only
  rw [flmMark]
  rw [if_neg (show (fluGet s e).mode ≠ .stalled by rw [hm]; decide)]

end

/-! #### The instructions -/

section
variable {e : Fin 48} {s : State}

theorem exec_fXferFetch (h : FlumeIssues s e (fWord 13 0 0 0)) :
    exec (.fXferFetch e) s = .next (flmAfter s e { rest0 .fetch 0 [] with start := s.clk.ns32 } (flmFetch s e)) := by
  show execFXferFetch e s = _
  rw [execFXferFetch, flmIssue_next h, flmDo, flmTry_fetch rfl, nowNs32]

theorem exec_fXferLoadm (h : FlumeIssues s e (fWord 13 4 0 0)) :
    exec (.fXferLoadm e) s = .next (flmTry s e { rest0 .loadm 0 [] with start := s.clk.ns32 } none) := by
  show execFXferLoadm e s = _
  rw [execFXferLoadm, flmIssue_next h, flmDo, nowNs32]

theorem exec_fXferDeposit (h : FlumeIssues s e (fWord 13 2 0 0)) :
    exec (.fXferDeposit e) s = .next (flmAfter s e { rest0 .deposit 0 [] with start := s.clk.ns32 } (flmDeposit s e)) := by
  show execFXferDeposit e s = _
  rw [execFXferDeposit, flmIssue_next h, flmDo, flmTry_deposit rfl, nowNs32]

theorem exec_fXferStamp (h : FlumeIssues s e (fWord 13 5 0 0)) :
    exec (.fXferStamp e) s = .next (flmAfter s e { rest0 .stamp 0 [] with start := s.clk.ns32 } (flmPush s e (fluGet s e).edge)) := by
  show execFXferStamp e s = _
  rw [execFXferStamp, flmIssue_next h, flmDo, flmTry_stamp rfl, nowNs32]

theorem exec_fXferNow (h : FlumeIssues s e (fWord 13 6 0 0)) :
    exec (.fXferNow e) s = .next (flmAfter s e { rest0 .now 0 [] with start := s.clk.ns32 } (flmPush s e s.clk.ns32)) := by
  show execFXferNow e s = _
  rw [execFXferNow, flmIssue_next h, flmDo, flmTry_now rfl, nowNs32]

theorem exec_fLoadk {k : Fin 4} (h : FlumeIssues s e (fWord2 14 k 0)) : exec (.fLoadk e k) s =
    .next (flmTakeAll s e { rest0 (.loadk k) 16 [] with start := s.clk.ns32 } (fun u l => flmEnd (fluSet u e (flmSetK (fluGet u e) k
      (BitVec.ofNat 16 (takenValue (regBit u (Reg.FLM_ENG_SHIFT e) 1) l)))) e 1) s 16 []) := by
  show execFLoadk e k s = _
  exact flmIssue_next h _

theorem exec_fXferBranchSl (h : FlumeIssues s e (fWord 13 7 0 0)) : exec (.fXferBranchSl e) s =
    .next (flmTakeAll s e { rest0 .branchSl 6 [] with start := s.clk.ns32 }
      (fun u l => flmJump u e (BitVec.ofNat 6 (takenValue (regBit u (Reg.FLM_ENG_SHIFT e) 1) l))) s 6 []) := by
  show execFXferBranchSl e s = _
  exact flmIssue_next h _

theorem exec_fWaitLevel {pol : Bool} {p : BitVec 4} {pins : BitVec 64} (h : FlumeIssues s e (fWord 7 (waitBits 0 pol false) 0 p)) {u : State}
    (hu : u = { s with flm := { s.flm with ball := pins } }) : exec (.fWaitLevel e pol p pins) s =
    .next (if pinRead u (inPin u e p.toNat) = pol then flmEnd u e 1
      else flmStall u e 3 { rest0 (.waitLevel pol p.toNat) 0 [] with start := s.clk.ns32 }) := by
  subst hu
  show execFWaitLevel e pol p pins s = _
  rw [execFWaitLevel, flmIssue_next h, flmDo, nowNs32]
  exact congrArg _ (flmTry_waitLevel rfl)

theorem exec_fWaitEdge {pol : Bool} {p : BitVec 4} {edge : Option Word} (h : FlumeIssues s e (fWord 7 (waitBits 1 pol false) 0 p)) :
    exec (.fWaitEdge e pol p edge) s = .next (flmTry s e { rest0 .waitEdge 0 [] with start := s.clk.ns32 } edge) := by
  show execFWaitEdge e pol p edge s = _
  rw [execFWaitEdge, flmIssue_next h, flmDo, nowNs32]

theorem exec_fWaitFlag {pol c r : Bool} {f : BitVec 5} (h : FlumeIssues s e (fWord2 7 2 (fFlag (8 * b2n pol + 4 * b2n c) r f))) {g : Nat}
    (hg : g = flagOf e r f.toNat) : exec (.fWaitFlag e pol c r f) s =
    .next (if flagReady s e pol c g then flmEnd (if c then flagTake s g else s) e 1
      else flmStall s e 4 { rest0 (.waitFlag pol c g) 0 [] with start := s.clk.ns32 }) := by
  subst hg
  show execFWaitFlag e pol c r f s = _
  rw [execFWaitFlag, flmIssue_next h, flmDo, nowNs32]
  exact congrArg _ (flmTry_waitFlag rfl)

theorem exec_fWaitMark (h : FlumeIssues s e (fWord2 7 3 0)) : exec (.fWaitMark e) s =
    .next (if markReached s e then flmEnd (fluSet s e { fluGet s e with acc := 0 }) e 1
      else flmStall s e 5 { rest0 .waitMark 0 [] with start := s.clk.ns32 }) := by
  show execFWaitMark e s = _
  rw [execFWaitMark, flmIssue_next h, flmDo, nowNs32]
  exact congrArg _ (flmTry_waitMark rfl h.2.1)

end

/-- Settles O51. -/
theorem flumeInstructionsThatMayStall : Obligations.FlumeInstructionsThatMayStall := by
  refine ⟨?_, ?_, ?_, ?_, ?_, ?_, ?_, ?_, ?_, ?_, ?_, ?_, ?_⟩
  · rintro e s _ rfl _ rfl
    refine ⟨fun h => ?_, fun h => ?_, fun h => ?_, fun h => ?_, fun h => ?_⟩
    · rw [exec_fXferFetch h]
      exact ⟨fun w l there some => ⟨_, rfl, by rw [flmFetch_of_word there some, flmAfter_ok]⟩,
        fun there empty => by rw [flmFetch_of_empty there empty, flmAfter_stall],
        fun removed => by rw [flmFetch_of_removed removed, flmAfter_bad]⟩
    · rw [exec_fXferLoadm h]
      exact ⟨fun w l there some => by rw [flmTry_loadm_of_word rfl there some],
        fun there empty => by rw [flmTry_loadm_of_empty rfl there empty], fun removed => by rw [flmTry_loadm_of_removed rfl removed]⟩
    · rw [exec_fXferDeposit h]
      exact ⟨fun there room => ⟨_, rfl, by rw [flmDeposit_of_room there room rfl, flmAfter_ok]⟩,
        fun there full => by rw [flmDeposit_of_full there full, flmAfter_stall],
        fun removed => by rw [flmDeposit_of_removed removed, flmAfter_bad]⟩
    · rw [exec_fXferStamp h]
      exact ⟨fun there room => by rw [flmPush_of_room there room, flmAfter_ok],
        fun there full => by rw [flmPush_of_full there full, flmAfter_stall],
        fun removed => by rw [flmPush_of_removed removed, flmAfter_bad]⟩
    · rw [exec_fXferNow h]
      exact ⟨fun there room => by rw [flmPush_of_room there room, flmAfter_ok],
        fun there full => by rw [flmPush_of_full there full, flmAfter_stall],
        fun removed => by rw [flmPush_of_removed removed, flmAfter_bad]⟩
  · rintro e n p i s h _ rfl
    have sends : exec (.fFlumeSend e n p i) s = .next (if outCount s e ≤ p.toNat then flmFault s e 1 else
        flmSendCell s e p.toNat i { rest0 (.send p.toNat i) (n.toNat + 1) [] with start := s.clk.ns32 }) := by
      show execFFlumeSend e n p i s = _
      exact flmIssue_next h _
    refine ⟨fun bad => ?_, fun b t ok took => ⟨_, rfl, ?_⟩, fun c t ok stalls => ?_⟩
    · rw [sends, if_pos bad]
    · rw [sends, if_neg (by omega), flmSendCell_of_bit took]
      by_cases h0 : n = 0
      · subst h0
        rw [if_pos rfl]
        exact congrArg _ (if_pos (Nat.le_refl 1))
      · have more : n.toNat ≠ 0 := fun h => h0 (BitVec.eq_of_toNat_eq h)
        rw [if_neg h0]
        exact congrArg _ (if_neg (show ¬ n.toNat + 1 ≤ 1 by omega))
    · rw [sends, if_neg (by omega), flmSendCell_of_stall stalls]
  · intro e s
    refine ⟨?_, ?_⟩
    · rintro n t _ h rfl
      show execFEmit e n t s = _
      exact flmIssue_next h _
    · rintro _ _ h rfl rfl
      show execFXferDirs e s = _
      exact flmIssue_next h _
  · intro e s h0 ha hc hq
    have stalls := flmTake1_of_empty h0 ha hc hq
    refine ⟨fun k h => ?_, fun h => ?_⟩
    · rw [exec_fLoadk h, flmTakeAll, stalls]
      rfl
    · rw [exec_fXferBranchSl h, flmTakeAll, stalls]
      rfl
  · intro e s h0 ha
    have zero := flmTake1_of_zero h0 ha
    refine ⟨fun k h => ?_, fun h => ?_⟩
    · rw [exec_fLoadk h, flmTakeAll_of_zeros zero, List.nil_append, takenValue_zeros]
      rfl
    · rw [exec_fXferBranchSl h, flmTakeAll_of_zeros zero, List.nil_append, takenValue_zeros]
      rfl
  · rintro e n pins s _ _ h rfl rfl
    show execFGather e n pins s = _
    exact flmIssue_next h _
  · rintro e n p i pins s _ h rfl
    refine ⟨fun whole => ?_, fun wait => ?_⟩ <;> show execFRecv e n p i pins s = _ <;> rw [execFRecv, flmIssue_next h]
    · exact congrArg _ (if_pos whole)
    · exact congrArg _ (if_neg wait)
  · rintro e pol p pins s _ h rfl
    exact ⟨fun there => (exec_fWaitLevel h rfl).trans (congrArg _ (if_pos there)),
      fun no => (exec_fWaitLevel h rfl).trans (congrArg _ (if_neg no))⟩
  · intro e pol p w s h
    refine ⟨fun hl hn => (exec_fWaitEdge h).trans (congrArg _ ?_), (exec_fWaitEdge h).trans (congrArg _ (flmTry_waitEdge_none rfl))⟩
    exact flmTry_waitEdge_some (r := { rest0 .waitEdge 0 [] with start := s.clk.ns32 }) rfl hl hn
  · rintro e pol c r f s _ rfl h
    exact ⟨fun ready => (exec_fWaitFlag h rfl).trans (congrArg _ (if_pos ready)),
      fun no => (exec_fWaitFlag h rfl).trans (congrArg _ (if_neg (Bool.not_eq_true _ ▸ no)))⟩
  · intro e s h
    exact ⟨fun past => by rw [exec_fWaitMark h, if_pos past], fun early => by rw [exec_fWaitMark h, if_neg (by rw [early]; decide)]⟩
  · rintro e r f s _ h rfl
    show execFFlagSetWait e r f s = _
    exact flmIssue_next h _
  · intro e pins edge r s h hr hm
    have again : exec (.flumeStallResume e pins edge) s = .next (if (fluGet s e).mode = .stalled
        ∧ (atTick s e ∨ (r.op = .waitMark ∧ markReached s e)) then flmTry { s with flm := { s.flm with ball := pins } } e r edge else s) := by
      show execFlumeStallResume e pins edge s = _
      rw [execFlumeStallResume, domEvent_next h]
      dsimp only
      rw [hr]
    refine ⟨fun due => ?_, fun early other => ?_⟩
    · rw [again, if_pos ⟨hm, due⟩]
    · rw [again, if_neg (by simp [early, other])]

end Sys2Proof.Machine

namespace Sys2Proof.Machine

/-!
PROOFS. Queues, functions and RESYNC of the host interface (R422 to R439): O54, O55 and O56.
-/

/-! ### Queues (R425 to R429) -/

/-- The kinds that a submission doorbell names are not the CQs. -/
theorem subKind_ne_one (k : Nat) : subKind k ≠ 1 := by
  rw [subKind]
  split <;> omega

section
variable {s : State} {f kind q : Nat} {v : Word}

/-- A doorbell of a producer that stays within N entries and does not go back is taken. -/
theorem doorbell_producer_taken (hk : kind ≠ 1) (hn : qDiff v (regGet s (qCount f kind q)) ≤ qSize s f kind q)
    (hb : qDiff (regGet s (qDoorbell f kind q)) (regGet s (qCount f kind q)) ≤ qDiff v (regGet s (qCount f kind q))) :
    doorbell s f kind q v = regSet s (qDoorbell f kind q) v := by
  rw [doorbell]
  rw [if_neg hk, if_neg (by simp; omega)]

theorem doorbell_producer_refused (hk : kind ≠ 1) (h : qSize s f kind q < qDiff v (regGet s (qCount f kind q))
      ∨ qDiff v (regGet s (qCount f kind q)) < qDiff (regGet s (qDoorbell f kind q)) (regGet s (qCount f kind q))) :
    doorbell s f kind q v = hstRaise (fcnt s f 6) f kind q 1 := by
  rw [doorbell]
  rw [if_neg hk, if_pos (by simpa using h)]

/-- A doorbell of a CQ's consumer that stays within N entries and does not go back is taken. -/
theorem doorbell_consumer_taken (hn : qDiff (regGet s (qCount f 1 q)) v ≤ qSize s f 1 q)
    (hb : qDiff (regGet s (qCount f 1 q)) v ≤ qDiff (regGet s (qCount f 1 q)) (regGet s (qDoorbell f 1 q))) :
    doorbell s f 1 q v = regSet s (qDoorbell f 1 q) v := by
  rw [doorbell]
  rw [if_pos rfl, if_neg (by simp; omega)]

theorem doorbell_consumer_refused (h : qSize s f 1 q < qDiff (regGet s (qCount f 1 q)) v
      ∨ qDiff (regGet s (qCount f 1 q)) (regGet s (qDoorbell f 1 q)) < qDiff (regGet s (qCount f 1 q)) v) :
    doorbell s f 1 q v = hstRaise (fcnt s f 6) f 1 q 1 := by
  rw [doorbell]
  rw [if_pos rfl, if_pos (by simpa using h)]

/-- A CTL write without EN to a queue that is not locked takes the fields and clears EN (R426). -/
theorem qWriteOff_of_unlocked (hl : qLocked s f kind q = false) (hc : kind = 1 → bitOf (regGet s (qCtl f kind q)) 31 = false) :
    qWriteOff s f kind q v
      = regSet s (qCtl f kind q) (ctlMerge (regGet s (qCtl f kind q)) v (ctlFields kind) &&& 0x7FFFFFFF) := by
  rw [qWriteOff]
  rw [if_neg (fun h => Bool.false_ne_true ((hc h.1).symm.trans h.2)), hl, if_neg Bool.false_ne_true, if_neg (fun h => h (BitVec.and_zero ..))]
  congr 3
  exact BitVec.and_allOnes

/-- A FENCE at the head of its SQ completes when nothing is owed to its CQ and its own completion can be written (R429). -/
theorem fenceDone_of_head {c : HostCmd} {l : List HostCmd} (hl : sqList s f q = c :: l) (h1 : leAt c.bytes 0 1 = 1)
    (hk : leAt c.bytes 8 1 = kind) (hs : sqStatus c.bytes = 0) (hn : c.started = false) (hh : cqHeld s f (qCq s f 0 q) = [])
    (hr : qOn s f 1 (qCq s f 0 q) = false ∨ cqRoom s f (qCq s f 0 q) = true) :
    fenceDone s f q kind = sqDone s f q c.index (leAt c.bytes 2 2) 0 0 0 := by
  rw [fenceDone, hl]
  dsimp only
  rw [hh]
  exact if_pos ⟨h1, hk, hs, hn, rfl, hr.imp_right (fun room => ⟨room, rfl⟩)⟩

end

/-- Settles O54. -/
theorem hostQueueEffects : Obligations.HostQueueEffects := by
  refine ⟨?_, ?_, ?_, ?_, ?_, ?_, ?_, ?_⟩
  · rintro f k q v s h hq _ _ rfl rfl
    have rings : exec (.submissionDoorbell f k q v) s = .next (doorbell s f (subKind k) q v) :=
      (hostCmd_next h _).trans (congrArg _ (if_pos hq))
    exact ⟨fun hn hb => by rw [rings, doorbell_producer_taken (subKind_ne_one k) hn hb],
      fun bad => by rw [rings, doorbell_producer_refused (subKind_ne_one k) bad]⟩
  · rintro f q v s h _ _ rfl rfl
    have rings : exec (.cqDoorbell f q v) s = .next (pauseSweep (cqDrain (doorbell s f 1 q v) f q)) := hostCmd_next h _
    exact ⟨fun hn hb => by rw [rings, doorbell_consumer_taken hn hb], fun bad => by rw [rings, doorbell_consumer_refused bad]⟩
  · intro f k q v s h hq
    have writes : exec (.queueEnable f k q v) s = .next (qWriteOn s f k q v) := (hostCmd_next h _).trans (congrArg _ (if_pos hq))
    have isOne : k = 1 ↔ k.val = 1 := Fin.ext_iff
    rw [isOne, ne_eq, isOne, writes, qWriteOn]
    refine ⟨fun bad => ?_, fun log cq free => ?_⟩
    · rw [if_pos bad, qRefuse]
    · rw [if_neg (by omega), if_neg (by rw [free]; decide)]
  · intro f k q v s h hq free idle
    refine ⟨_, rfl, (hostCmd_next h _).trans ?_⟩
    rw [if_pos hq, qWriteOff_of_unlocked free (fun h1 => idle (Fin.ext h1))]
  · intro f k q l s h
    have fetches : exec (.queueFetch f k q l) s = execQueueFetch f k q l s := rfl
    rw [fetches, execQueueFetch, hostEvent_next h]
    refine ⟨fun turn some => ⟨_, _, rfl, rfl, ?_⟩, fun other => ?_⟩
    · exact congrArg (fun x => Host.Outcome.next (pauseSweep x)) (if_pos ⟨turn, some⟩)
    · exact congrArg (fun x => Host.Outcome.next (pauseSweep x)) (if_neg (fun c => other c.1))
  · intro f q c s h hn hs
    refine ⟨fun nop => ?_, fun wit => ⟨_, rfl, ?_⟩⟩
    · show execCmdNop f q s = _
      rw [execCmdNop, hostEvent_next h, hn]
      exact congrArg (fun x => Host.Outcome.next (pauseSweep x)) (if_pos ⟨nop, hs⟩)
    · show execTwinWitness f q s = _
      rw [execTwinWitness, hostEvent_next h, hn]
      exact congrArg (fun x => Host.Outcome.next (pauseSweep x)) (if_pos ⟨wit, hs⟩)
  · intro f q c l s h hl h1 hs hn hh hr
    refine ⟨fun order => ?_, fun visible => ?_⟩
    · show execFenceOrder f q s = _
      rw [execFenceOrder, hostEvent_next h, fenceDone_of_head hl h1 order hs hn hh hr]
    · show execFenceVisible f q s = _
      rw [execFenceVisible, hostEvent_next h, fenceDone_of_head hl h1 visible hs hn hh hr]
  · intro f q s h hn
    refine ⟨?_, ?_⟩
    · show execCmdNop f q s = _
      rw [execCmdNop, hostEvent_next h, hn]
    · show execTwinWitness f q s = _
      rw [execTwinWitness, hostEvent_next h, hn]

/-! ### Frames and functions (R422, R430 to R436) -/

/-- The first descriptor of a ring, while it waits (R430, R431). -/
theorem exec_txDescriptor {f : Fin 4} {t : Fin 8} {d : TxDesc} {l : List TxDesc} {s : State} (h : HostUnitRuns s)
    (hl : txRing s f t = d :: l) (hd : d.reading = false) : exec (.txDescriptor f t) s = .next (pauseSweep (
      if txDescBad s d.bytes then
        txComplete (if d.old then txRingSet s f t l
          else regSet (txRingSet s f t l) (qCount f 2 t) (regGet (txRingSet s f t l) (qCount f 2 t) + 1))
          f t d.index (leAt d.bytes 11 1) (leAt d.bytes 26 2) 1 none
      else if (fnGet s f).busMaster then txRingSet s f t ({ d with reading := true } :: l) else s)) := by
  have waits : ¬ d.reading = true := by rw [hd]; decide
  show execTxDescriptor f t s = _
  rw [execTxDescriptor, hostEvent_next h, hl]
  dsimp only
  rw [List.dropWhile_cons_of_neg waits, List.takeWhile_cons_of_neg waits]
  rfl

/-- Settles O55. -/
theorem hostFunctionEffects : Obligations.HostFunctionEffects := by
  refine ⟨?_, ?_, ?_, ?_, ?_⟩
  · intro f t d l s h hl hd
    refine ⟨fun good on => ?_, fun good off => ?_, ?_⟩
    · rw [exec_txDescriptor h hl hd, if_neg (by rw [good]; decide), if_pos on]
    · rw [exec_txDescriptor h hl hd, if_neg (by rw [good]; decide), if_neg (by rw [off]; decide)]
    · rintro _ _ rfl rfl bad
      rw [exec_txDescriptor h hl hd, if_pos bad]
  · intro f t d l b s h hl hd
    refine ⟨?_, ?_⟩ <;> show execTxHostReadDone f t b _ s = _ <;> rw [execTxHostReadDone, hostEvent_next h, hl] <;> dsimp only <;>
      rw [if_pos hd]
    · rw [if_pos rfl]
    · rw [if_neg Bool.false_ne_true]
  · rintro f d c e _ s t h rfl hp
    refine ⟨_, rfl, ?_⟩
    show execRxDelivery f s = _
    rw [execRxDelivery, hostEvent_next h]
    dsimp only
    rw [hp]
  · intro f s h
    refine ⟨?_, ⟨_, rfl, ?_⟩, ?_⟩
    · exact congrArg _ (if_pos h)
    · exact congrArg _ (if_pos h)
    · rintro _ rfl
      have clears : exec (.busMasterEnableClear f) s = execBusMasterEnableClear f s := rfl
      rw [clears, execBusMasterEnableClear, if_pos h]
      exact ⟨fun no => congrArg _ (if_neg (by rw [no]; decide)), fun yes => congrArg _ (if_pos yes)⟩
  · rintro f v s h _ rfl
    have unmasks : exec (.msixUnmask f v) s = execMsixUnmask f v s := rfl
    rw [unmasks, execMsixUnmask, hostCmd_next h]
    refine ⟨fun on pend => congrArg _ (if_pos (by rw [on, pend]; rfl)), fun no => congrArg _ (if_neg ?_)⟩
    rcases no with no | no <;> simp [no]

/-! ### RESYNC (R437 to R439) -/

/-- The state as the request of a function for a RESYNC is taken (R437, R438): its registers, the queues paused, nothing begun. -/
def resyncTake (s : State) (f : Nat) : State :=
  dropUnbegun (pauseQueues (regSet { s with hst := { s.hst with
    resyncFunc := f
    resyncAddr := hostAddr s (regKey f Reg.HST_RESYNC_ADDR_LO) (regKey f Reg.HST_RESYNC_ADDR_HI)
    resyncNonce := BitVec.ofNat 64 ((regGet s (regKey f Reg.HST_RESYNC_NONCE_HI)).toNat * 2 ^ 32 + (regGet s (regKey f Reg.HST_RESYNC_NONCE_LO)).toNat)
    resyncCount := s.hst.resyncCount + 1
    resyncAt := s.run / 2
    paused := true
    summary := [] } } Reg.HST_RESYNC_STATUS (wordN (f * 2 ^ 26 + 1))) true)

section
variable {s : State} {f : Nat}

/-- A request while a RESYNC runs is refused, unless it came in the same cycle from a lower function. -/
theorem resyncStart_refused (h : resyncState s = 2 ∨ resyncState s = 1 ∧ (s.hst.resyncAt ≠ s.run / 2 ∨ s.hst.resyncFunc ≤ f)) :
    resyncStart s f = hstRaise s f 4 0 5 := by
  rw [resyncStart]
  refine if_pos ⟨by omega, ?_⟩
  rw [← Bool.decide_and, ← Bool.decide_and, decide_eq_false_iff_not]
  omega

/-- A request while no RESYNC runs is taken. -/
theorem resyncStart_taken (h1 : resyncState s ≠ 1) (h2 : resyncState s ≠ 2) : resyncStart s f = resyncTake s f := by
  rw [resyncStart]
  dsimp only
  rw [if_neg (fun h => by omega), decide_eq_false h1, Bool.false_and, Bool.false_and, if_neg Bool.false_ne_true]
  rfl

/-- Of two requests of one cycle the lower function's is taken, and the other refused. -/
theorem resyncStart_lower (h1 : resyncState s = 1) (ha : s.hst.resyncAt = s.run / 2) (hf : f < s.hst.resyncFunc) {t : State}
    (ht : t = hstRaise s s.hst.resyncFunc 4 0 5) :
    resyncStart s f = resyncTake { t with hst := { t.hst with resyncCount := t.hst.resyncCount - 1 } } f := by
  subst ht
  have first : (decide (resyncState s = 1) && decide (s.hst.resyncAt = s.run / 2) && decide (f < s.hst.resyncFunc)) = true := by
    simp [h1, ha, hf]
  rw [resyncStart]
  dsimp only
  rw [first, if_neg (fun h => Bool.false_ne_true h.2.symm), if_pos rfl]
  rfl

end

/-- Settles O56. -/
theorem resyncEffects : Obligations.ResyncEffects := by
  refine ⟨?_, ?_, ?_⟩
  · rintro f v s h _ rfl
    have request : exec (.resyncRequest f v) s = .next (pauseSweep (resyncKey s f v)) := hostCmd_next h _
    have resume : exec (.resyncResume f v) s = .next (pauseSweep (resyncKey s f v)) := hostCmd_next h _
    rw [request, resume, resyncKey]
    refine ⟨fun key busy => ?_, fun key h1 ha hf => ⟨_, _, rfl, rfl, ?_⟩, fun key h1 h2 => ?_, fun key early => ?_,
      fun key done => ⟨_, rfl, ?_⟩, fun no1 no2 => ?_⟩
    · rw [if_pos key, resyncStart_refused busy]
    · rw [if_pos key, resyncStart_lower h1 ha hf rfl]
      rfl
    · rw [if_pos key, resyncStart_taken h1 h2]
      rfl
    · rw [if_neg (by rw [key]; decide), if_pos key, resyncGo, if_neg (by omega)]
    · rw [if_neg (by rw [key]; decide), if_pos key, resyncGo, if_pos done]
    · rw [if_neg no1, if_neg no2]
      exact ⟨rfl, rfl⟩
  · intro s h
    refine ⟨fun h1 quiet => ⟨_, rfl, ?_⟩, fun h1 busy => ?_, fun h2 len => ⟨_, _, rfl, rfl, ?_⟩⟩
    · show execResyncSnapshot s = _
      rw [execResyncSnapshot, domEvent_next h]
      exact congrArg _ (if_pos ⟨h1, quiet⟩)
    · show execResyncSnapshot s = _
      rw [execResyncSnapshot, domEvent_next h]
      exact congrArg _ (if_neg (by rw [busy]; simp))
    · show execResyncSigned s = _
      rw [execResyncSigned, domEvent_next h]
      exact congrArg _ (if_pos ⟨h2, len⟩)
  · intro s h h2 len
    refine ⟨⟨_, _, rfl, rfl, ?_⟩, ?_⟩ <;> show execResyncSummaryWritten _ s = _ <;> rw [execResyncSummaryWritten, hostEvent_next h] <;>
      dsimp only <;> rw [if_pos ⟨h2, len⟩]
    · rw [if_pos rfl]
    · rw [if_neg Bool.false_ne_true]

end Sys2Proof.Machine

namespace Sys2Proof.Machine

/-!
PROOFS. The culvert and the roles of the twin (R442 to R459): O57 and O58.
-/

/-! ### Messages (R443, R444) -/

section
variable {s : State} {m : List Byte} {type : Nat} {k : State → State}

/-- A message that fails its check is counted and discarded. -/
theorem culTake_of_bad (hl : culLinkUp s = true) (hr : culRuns s = true) (hb : m.length < 5 ∨ m ≠ culSeal (m.take (m.length - 4))) :
    culTake s m type k = culCount s 2 := by
  rw [culTake, if_neg (by rw [hl, hr]; decide), if_pos hb]

/-- A good message of the type is taken. -/
theorem culTake_of_good (hl : culLinkUp s = true) (hr : culRuns s = true) (h5 : 5 ≤ m.length) (hs : m = culSeal (m.take (m.length - 4)))
    (ht : leAt m 0 1 = type) : culTake s m type k = k s := by
  rw [culTake, if_neg (by rw [hl, hr]; decide), if_neg (fun h => h.elim (by omega) (fun no => no hs)), if_pos ht]

theorem lseqTake_next {n : Nat} (h : n = (s.cul.lseqIn + 1) % 2 ^ 32) : lseqTake s n k = k { s with cul := { s.cul with lseqIn := n } } :=
  if_pos h

theorem lseqTake_other {n : Nat} (h : n ≠ (s.cul.lseqIn + 1) % 2 ^ 32) : lseqTake s n k = s := if_neg h

end

section
variable {m : List Byte} {s : State}

theorem exec_identRx (h : UnitRuns s 16) : exec (.identRx m) s
    = .next (culSettle (culTake s m 1 (fun s => if m.length = 128 then identTake s m else s))) := by
  show execIdentRx m s = _
  exact culEvent_next h _

theorem exec_heartbeatRx (h : UnitRuns s 16) : exec (.heartbeatRx m) s
    = .next (culSettle (culTake s m 2 (fun s => if culPaired s && decide (m.length = 64) then heartbeatTake s m else s))) := by
  show execHeartbeatRx m s = _
  exact culEvent_next h _

theorem exec_mirrorRx (h : UnitRuns s 16) : exec (.mirrorRx m) s
    = .next (culSettle (culTake s m 3 (fun s => if culPaired s then mirrorTake s m else s))) := by
  show execMirrorRx m s = _
  exact culEvent_next h _

theorem exec_imageRx (h : UnitRuns s 16) : exec (.imageRx m) s
    = .next (culSettle (culTake s m 4 (fun s => lseqTake s (leAt m 4 4) imageServe))) := by
  show execImageRx m s = _
  exact culEvent_next h _

end

/-! ### The link -/

/-- A lane that comes up takes the link up with an IDENT, unless another lane held it (R442, R445). -/
theorem exec_culvertLaneUp {n : Fin 4} {s t : State} (h : UnitRuns s 16) (hr : culRuns s = true) (hn : nbit (culLanes s) n = true)
    (hd : culBit s (24 + n.val) = false) (ht : t = culRaise (culBitSet s (24 + n.val) true) 10) :
    exec (.culvertLaneUp n) s = .next (culSettle (if culLinkUp s then t else identSend t)) := by
  subst ht
  show execCulvertLaneUp n s = _
  rw [execCulvertLaneUp, culEvent_next h, if_neg (by rw [hr, hn, hd]; decide)]

/-- Settles O57. -/
theorem culvertLinkEffects : Obligations.CulvertLinkEffects := by
  refine ⟨?_, ?_, ?_, ?_, ?_⟩
  · intro n s h
    refine ⟨fun hr hn hd t ht => ⟨fun up => ?_, fun down => ?_⟩, fun up => ?_⟩
    · rw [exec_culvertLaneUp h hr hn hd ht, if_pos up]
    · rw [exec_culvertLaneUp h hr hn hd ht, if_neg (by rw [down]; decide)]
    · show execCulvertLaneDown n s = _
      rw [execCulvertLaneDown, culEvent_next h, if_pos up]
  · intro s h
    have ident : exec .identTimer s = execIdentTimer s := rfl
    have beat : exec .heartbeatTimer s = execHeartbeatTimer s := rfl
    rw [ident, beat, execIdentTimer, execHeartbeatTimer, culEvent_next h, culEvent_next h]
    refine ⟨fun hr hl hp due => ?_, fun hp => ?_, fun hp due => ?_, fun hp => ?_⟩
    · rw [if_pos (by rw [hr, hl, hp, decide_eq_true due]; rfl)]
    · rw [if_neg (by rw [hp]; simp)]
    · rw [if_pos (by rw [hp, decide_eq_true due]; rfl)]
    · rw [if_neg (by rw [hp]; simp)]
  · intro m s h hl hr hb c hc
    simp only [List.mem_cons, List.not_mem_nil, or_false] at hc
    rcases hc with rfl | rfl | rfl | rfl
    · rw [exec_identRx h, culTake_of_bad hl hr hb]
    · rw [exec_heartbeatRx h, culTake_of_bad hl hr hb]
    · rw [exec_mirrorRx h, culTake_of_bad hl hr hb]
    · rw [exec_imageRx h, culTake_of_bad hl hr hb]
  · intro m s h hl hr h5 hs
    refine ⟨fun ht len => ?_, fun ht len hp => ?_, fun ht hp => ?_, fun ht hp other => ?_, fun ht hp => ?_, fun ht next => ?_,
      fun ht other => ?_⟩
    · rw [exec_identRx h, culTake_of_good hl hr h5 hs ht, if_pos len]
    · rw [exec_heartbeatRx h, culTake_of_good hl hr h5 hs ht, if_pos (by rw [hp, decide_eq_true len]; rfl)]
    · rw [exec_heartbeatRx h, culTake_of_good hl hr h5 hs ht, if_neg (by rw [hp]; simp)]
    · rw [exec_mirrorRx h, culTake_of_good hl hr h5 hs ht, if_pos hp, mirrorTake, lseqTake_other other]
    · rw [exec_mirrorRx h, culTake_of_good hl hr h5 hs ht, if_pos hp]
    · rw [exec_imageRx h, culTake_of_good hl hr h5 hs ht, lseqTake_next next]
    · rw [exec_imageRx h, culTake_of_good hl hr h5 hs ht, lseqTake_other other]
  · intro s h hp
    have loss : exec .heartbeatLoss s = execHeartbeatLoss s := rfl
    rw [loss, execHeartbeatLoss, culEvent_next h]
    exact ⟨fun past => by rw [if_pos ⟨hp, past⟩], fun early => by rw [if_neg (by omega)]⟩

/-! ### Roles of the twin (R450 to R459, Table 18-5) -/

/-- A CUL_CMD with its code, in the state it needs, runs. -/
theorem culCmd_accepted {s : State} {f : Fin 4} {v : Word} {op : Nat} {ok : State → Bool} {k : State → State} (h : HostSees s Reg.CUL_CMD)
    (hv : fld v 31 16 = 0x4355) (hk : ok s = true) : culCmd s f v op ok k = .next (culSettle (k (regSetFld s Reg.CUL_CMD_STAT 2 0 op))) :=
  (hostCmd_next h _).trans (congrArg _ (if_neg (by rw [hv, hk]; simp)))

/-- A CUL_CMD without its code, or outside the state it needs, is refused. -/
theorem culCmd_refused {s : State} {f : Fin 4} {v : Word} {op : Nat} {ok : State → Bool} {k : State → State} (h : HostSees s Reg.CUL_CMD)
    (hr : fld v 31 16 ≠ 0x4355 ∨ ok s = false) : culCmd s f v op ok k = .next (raise s Reg.CUL_CAUSE 11) :=
  (hostCmd_next h _).trans (congrArg _ (if_pos (hr.imp_right (fun no => by rw [no]; rfl))))

section
variable (f : Fin 4) (v : Word) (s : State)

theorem exec_culFence : exec (.culFence f v) s = culCmd s f v 1 (fun _ => true) (fun s => if culRole s = 0 then s else culTo s 5) := rfl
theorem exec_culUnfence : exec (.culUnfence f v) s = culCmd s f v 2 (fun s => decide (culRole s = 5)) (fun s => culTo s 1) := rfl
theorem exec_culBind : exec (.culBind f v) s = culCmd s f v 3 (fun s => s.cul.identSeen && s.sen.busy.isNone)
    (fun s => if culRole (senStart s (.bind (partnerId s))) = 5 then culTo (senStart s (.bind (partnerId s))) 1
      else senStart s (.bind (partnerId s))) := rfl
theorem exec_culUnbind : exec (.culUnbind f v) s = culCmd s f v 4 (fun s => s.sen.busy.isNone) (fun s => senStart s .unbind) := rfl

end

/-- Settles O58. -/
theorem twinRoleEffects : Obligations.TwinRoleEffects := by
  refine ⟨?_, ?_, ?_, ?_, ?_, ?_, ?_⟩
  · rintro t s h ht k _ hk rfl
    have edge : exec .roleWireEdge s = .next (culSettle (if k = 3 then
        wireSet (culCount { s with cul := { s.cul with wireEdge := some s.run, wireLast := k } } 11) 3
        else if k = s.cul.wireLast then wireSet { s with cul := { s.cul with wireEdge := some s.run, wireLast := k } } k
        else { s with cul := { s.cul with wireEdge := some s.run, wireLast := k } })) := by
      show execRoleWireEdge s = _
      rw [execRoleWireEdge, culEvent_next h, hk]
      dsimp only
      rw [ht]
    have silence : exec .roleWireSilence s = .next (culSettle (if t + 60000 < s.run then
        wireSet { s with cul := { s.cul with wireLast := 0 } } 0 else s)) := by
      show execRoleWireSilence s = _
      rw [execRoleWireSilence, culEvent_next h, ht]
    refine ⟨fun invalid => ?_, fun valid same => ?_, fun valid new => ?_, fun past => ?_, fun early => ?_⟩
    · rw [edge, if_pos invalid]
    · rw [edge, if_neg valid, if_pos same]
    · rw [edge, if_neg valid, if_neg new]
    · rw [silence, if_pos past]
    · rw [silence, if_neg (by omega)]
  · intro s h h1 hp
    have waits : exec .pairWaitExpiry s = execPairWaitExpiry s := rfl
    rw [waits, execPairWaitExpiry, culEvent_next h, if_neg (by rw [h1, hp]; decide)]
    refine ⟨fun t claim past => ?_, fun claim new past => ⟨_, rfl, ?_⟩⟩
    · rw [claim]
      dsimp only
      rw [if_pos past]
    · rw [claim]
      dsimp only
      rw [if_neg (by rw [new]; simp; omega)]
  · intro t s h hs h3 h11 hh hf hc
    have settles : exec .takebackSettleExpiry s = execTakebackSettleExpiry s := rfl
    rw [settles, execTakebackSettleExpiry, culEvent_next h, hs]
    dsimp only
    refine ⟨fun past => ?_, fun early => ?_⟩
    · rw [if_pos ⟨h3, h11, hf, hh, by rw [hc]; rfl, past⟩]
    · rw [if_neg (by omega)]
  · intro t s h ht
    have done : exec .handoverDone s = execHandoverDone s := rfl
    rw [done, execHandoverDone, culEvent_next h, ht]
    dsimp only
    refine ⟨fun yes => ⟨_, rfl, ?_⟩, fun more early => ?_⟩
    · rw [if_pos (yes.imp_left List.isEmpty_iff.mpr)]
    · rw [if_neg (by rw [List.isEmpty_iff]; simp only [more, false_or]; omega)]
  · intro s h
    have times : exec .mirrorTimeTimer s = execMirrorTimeTimer s := rfl
    rw [times, execMirrorTimeTimer, culEvent_next h]
    exact ⟨fun h2 hp due => by rw [if_pos ⟨h2, hp, due⟩], fun no => by rw [if_neg (fun c => no c.1)]⟩
  · intro f v s h hv t ht
    rw [exec_culFence, exec_culUnfence, exec_culBind, exec_culUnbind, ht 1, ht 2, ht 3, ht 4]
    refine ⟨fun role => ?_, fun alone => ?_, fun fenced => ?_, fun other => ?_, ?_, fun no => ?_, fun idle => ?_, fun busy => ?_⟩
    · rw [culCmd_accepted h hv rfl, if_neg role]
    · rw [culCmd_accepted h hv rfl, if_pos alone]
    · rw [culCmd_accepted h hv (decide_eq_true fenced)]
    · rw [culCmd_refused h (.inr (decide_eq_false other))]
    · rintro seen idle _ rfl
      rw [culCmd_accepted h hv (by rw [seen, idle]; rfl)]
      exact ⟨fun fenced => by rw [if_pos fenced], fun other => by rw [if_neg other]⟩
    · refine culCmd_refused h (.inr ?_)
      rcases no with unseen | busy
      · rw [unseen, Bool.false_and]
      · rw [Option.isNone_eq_false_iff.mpr (Option.isSome_iff_ne_none.mpr busy), Bool.and_false]
    · rw [culCmd_accepted h hv (by rw [idle]; rfl)]
    · rw [culCmd_refused h (.inr (Option.isNone_eq_false_iff.mpr (Option.isSome_iff_ne_none.mpr busy)))]
  · intro f v s h hv c hc
    simp only [List.mem_cons, List.not_mem_nil, or_false] at hc
    rcases hc with rfl | rfl | rfl | rfl
    · rw [exec_culFence, culCmd_refused h (.inl hv)]
    · rw [exec_culUnfence, culCmd_refused h (.inl hv)]
    · rw [exec_culBind, culCmd_refused h (.inl hv)]
    · rw [exec_culUnbind, culCmd_refused h (.inl hv)]

end Sys2Proof.Machine

namespace Sys2Proof.Machine

/-!
PROOFS. Freeze, JTAG and the sentinel (R466 to R483): O59 and O60.
-/

/-! ### Fields of a word -/

/-- The bits of a field. -/
theorem testBit_fld (w : Word) (hi lo i : Nat) : (fld w hi lo).testBit i = (decide (i < hi + 1 - lo) && w.getLsbD (lo + i)) := by
  rw [fld, Nat.testBit_mod_two_pow, ← Nat.shiftRight_eq_div_pow, Nat.testBit_shiftRight, BitVec.testBit_toNat]

/-- A field at bit 0 reads back what was put there. -/
theorem fld_setFld_low {w : Word} {k x : Nat} (hk : k < 32) (hx : x < 2 ^ (k + 1)) : fld (setFld w k 0 x) k 0 = x := by
  apply Nat.eq_of_testBit_eq
  intro i
  rw [testBit_fld, setFld]
  by_cases hi : i < k + 1
  · have hi32 : i < 32 := by omega
    simp only [Nat.sub_zero, Nat.pow_zero, Nat.mul_one, Nat.zero_add, BitVec.getLsbD_or, BitVec.getLsbD_and, BitVec.getLsbD_not,
      BitVec.getLsbD_ofNat, Nat.testBit_two_pow_sub_one, Nat.mod_eq_of_lt hx, hi, hi32, decide_true, Bool.not_true, Bool.and_false,
      Bool.false_or, Bool.true_and, Bool.and_self]
  · simp [hi, Nat.testBit_lt_two_pow (Nat.lt_of_lt_of_le hx (Nat.pow_le_pow_right (by decide) (Nat.le_of_not_lt hi)))]

/-- Putting a field at bit 0 leaves the fields above it. -/
theorem fld_setFld_above {w : Word} {k x hi lo : Nat} (h : k < lo) : fld (setFld w k 0 x) hi lo = fld w hi lo := by
  apply Nat.eq_of_testBit_eq
  intro i
  have past : ¬ lo + i < k + 1 := by omega
  rw [testBit_fld, testBit_fld, setFld]
  congr 1
  simp only [Nat.sub_zero, Nat.pow_zero, Nat.mul_one, BitVec.getLsbD_or, BitVec.getLsbD_and, BitVec.getLsbD_not, BitVec.getLsbD_ofNat,
    Nat.testBit_two_pow_sub_one, Nat.testBit_mod_two_pow, past, decide_false, Bool.and_false, Bool.false_and, Bool.not_false, Bool.and_true,
    Bool.or_false]
  by_cases hw : lo + i < 32
  · simp [hw]
  · simp [hw, BitVec.getLsbD_of_ge _ _ (Nat.le_of_not_lt hw)]

/-- Setting bit 0 leaves the fields above it. -/
theorem fld_or_one {w : Word} {hi lo : Nat} (h : 0 < lo) : fld (w ||| 1) hi lo = fld w hi lo := by
  apply Nat.eq_of_testBit_eq
  intro i
  have above : (1 : Word).getLsbD (lo + i) = false := by
    simp [BitVec.getLsbD_one]
    omega
  rw [testBit_fld, testBit_fld, BitVec.getLsbD_or, above, Bool.or_false]

/-! ### Triggers of a freeze (R466) -/

section
variable {s : State} {src : Nat} {tr : Option Bool}

theorem freezeTrigger_of_frozen (h : s.frz.frozen = true) : freezeTrigger s src tr = s := by
  rw [freezeTrigger.eq_def, if_pos (by rw [h]; rfl)]

/-- A trigger before ROM_DONE is held. -/
theorem freezeTrigger_held (hf : s.frz.frozen = false) (hp : s.pwr.porstLow = false) (hd : s.pwr.deep = false)
    (hr : regBit s Reg.GLB_STATUS 0 = false) (ht : s.frz.trigger = none) :
    freezeTrigger s src tr = { s with frz := { s.frz with trigger := some (src, tr) } } := by
  rw [freezeTrigger.eq_def, if_neg (by rw [hf, hp, hd]; decide), if_pos (by rw [hr]; rfl), if_neg (by rw [ht]; decide)]

/-- A trigger of a running device starts the freeze. -/
theorem freezeTrigger_starts (hf : s.frz.frozen = false) (hp : s.pwr.porstLow = false) (hd : s.pwr.deep = false)
    (hr : regBit s Reg.GLB_STATUS 0 = true) : freezeTrigger s src none = freezeStart s src (regBit s Reg.FRZ_CTL 1) := by
  rw [freezeTrigger.eq_def, if_neg (by rw [hf, hp, hd]; decide), if_neg (by rw [hr]; decide)]

end

/-- A pulse of FREEZE_N of 50 ns is a trigger. -/
theorem exec_freezeNAssert_long {n : Nat} {s : State} (h : 50 ≤ n) :
    exec (.freezeNAssert n) s = .next (freezeTrigger { s with frz := { s.frz with pinLow := true } } 1 none) := by
  show execFreezeNAssert n s = _
  rw [execFreezeNAssert]
  dsimp only
  rw [if_neg (show ¬(20 ≤ n ∧ n < 50) by omega), if_pos (by rw [decide_eq_true h]; rfl)]

/-- A pulse of FREEZE_N below 20 ns is ignored. -/
theorem exec_freezeNAssert_short {n : Nat} {s : State} (h : n < 20) : exec (.freezeNAssert n) s = .next s := by
  show execFreezeNAssert n s = _
  rw [execFreezeNAssert]
  dsimp only
  rw [if_neg (show ¬(20 ≤ n ∧ n < 50) by omega),
    if_neg (by rw [decide_eq_false (show ¬ 50 ≤ n by omega), decide_eq_false (show ¬ 20 ≤ n by omega), Bool.false_and]; decide)]

/-- The code in FRZ_CTL is a trigger, after TIME_RUN has been stored. -/
theorem exec_frzCtlFreeze {f : Fin 4} {v : Word} {s u : State} (h : HostSees s Reg.FRZ_CTL) (hl : locked s Reg.FRZ_CTL = false)
    (hc : fld v 31 16 = 0x465A) (hu : u = regSetFld s Reg.FRZ_CTL 1 1 (fld v 1 1)) :
    exec (.frzCtlFreeze f v) s = .next (freezeTrigger u 2 none) := by
  have code : ¬ fld (v ||| 1) 31 16 ≠ 0x465A := by rw [fld_or_one (by decide)]; exact not_not.mpr hc
  have freeze : bitOf (v ||| 1) 0 = true := by
    rw [bitOf, BitVec.getLsbD_or]
    exact Bool.or_true _
  refine (hostCmd_next h _).trans ?_
  rw [frzCtl, if_neg code, if_pos freeze, if_neg (by rw [hl]; decide), fld_or_one (by decide), hu]

/-! ### The TAP (R473 to R475) -/

/-- Selecting an instruction from another than HIGHZ, and other than it, does nothing else. -/
theorem tapSelect_of_driven {s : State} {i : JtagInstr} (hi : i ≠ .highz) (hs : s.frz.ir ≠ .highz) :
    tapSelect s i = { s with frz := { s.frz with ir := i } } := by
  rw [tapSelect]
  dsimp only
  rw [if_neg hi, if_neg (by rw [decide_eq_false hs]; decide)]

/-- Words put out one after another stand in front of what was put out before, and change nothing else. -/
theorem foldl_emit (g : Nat → Out) : ∀ (l : List Nat) (s : State),
    l.foldl (fun t n => emit t (g n)) s = { s with out := (l.map g).reverse ++ s.out }
  | [], _ => rfl
  | n :: l, s => by
    rw [List.foldl_cons, foldl_emit g l, List.map_cons, List.reverse_cons, List.append_assoc]
    rfl

/-- `n` words put out are `n` entries more. -/
theorem length_words (g : Nat → Out) (n : Nat) (l : List Out) : (((List.range n).map g).reverse ++ l).length = l.length + n := by
  rw [List.length_append, List.length_reverse, List.length_map, List.length_range, Nat.add_comm]

/-- The note of what was read changes nothing else. -/
theorem recNote_eq (s : State) (i sec w n : Nat) : ∃ l, recNote s i sec w n = { s with frz := { s.frz with read := l } } := by
  rw [recNote]
  dsimp only
  split
  · exact ⟨_, rfl⟩
  · exact ⟨s.frz.read, rfl⟩

section
variable {s : State}

theorem exec_jtagFreeze {v : Word} (h : TapAnswers s) : exec (.jtagFreeze v) s =
    .next (freezeTrigger (tapSelect (emit s (.jtag 32 (frzCapture s))) .frzCtrl) 3 (some (bitOf (setFld v 3 0 1) 4))) := by
  show execJtagFreeze v s = _
  rw [execJtagFreeze, tapCmd_next h, frzCtrl, if_pos (fld_setFld_low (by decide) (by decide))]

theorem exec_jtagThaw {v : Word} {u : State} (h : TapAnswers s) (hu : u = tapSelect (emit s (.jtag 32 (frzCapture s))) .frzCtrl) :
    exec (.jtagThaw v) s = .next (if !u.frz.frozen then u
      else if u.frz.pinLow then { u with frz := { u.frz with thawBlocked := true } } else thaw u 1) := by
  have two : fld (setFld v 3 0 2) 3 0 = 2 := fld_setFld_low (by decide) (by decide)
  subst hu
  show execJtagThaw v s = _
  rw [execJtagThaw, tapCmd_next h, frzCtrl, two]
  rfl

theorem exec_jtagIdcode : exec .jtagIdcode s = tapCmd s idcode := rfl
theorem exec_jtagSamplePreload : exec .jtagSamplePreload s = tapCmd s (fun s => tapSelect s .sample) := rfl
theorem exec_jtagExtest : exec .jtagExtest s = tapCmd s (fun s => tapSelect s .extest) := rfl
theorem exec_jtagClamp : exec .jtagClamp s = tapCmd s (fun s => tapBypass s .clamp) := rfl
theorem exec_jtagHighz : exec .jtagHighz s = tapCmd s (fun s => tapBypass s .highz) := rfl

/-- A code that Table 19-3 does not list selects the bypass. -/
theorem exec_jtagBypass {c : BitVec 8} (h : TapAnswers s) (hc : c.toNat ∉ [1, 2, 3, 4, 5, 0x20, 0x21, 0x22]) :
    exec (.jtagBypass c) s = .next (tapBypass s .bypass) := by
  have other : ∀ n ∈ [1, 2, 3, 4, 5, 0x20, 0x21, 0x22], c.toNat ≠ n := fun n hn same => hc (same ▸ hn)
  show execJtagBypass c s = _
  rw [execJtagBypass, tapCmd_next h]
  dsimp only
  rw [if_neg (other 1 (by decide)), if_neg (other 2 (by decide)), if_neg (other 3 (by decide)), if_neg (other 4 (by decide)),
    if_neg (other 5 (by decide)), if_neg (other 0x20 (by decide)), if_neg (other 0x21 (by decide)), if_neg (other 0x22 (by decide))]

/-- FRZ_DATA puts its words out, and moves its word count and its note of what was read in a freeze that may be read (R472, R474). -/
theorem exec_jtagFrzData {n : Nat} (h : TapAnswers s) (hs : s.frz.ir ≠ .highz) : ∃ t, exec (.jtagFrzData n) s = .next t
    ∧ t.out.length = s.out.length + n
    ∧ t = { s with out := t.out, frz := { s.frz with
        ir := .frzData, word := s.frz.word + (if frzReads s then n else 0), read := t.frz.read } } := by
  have goes : exec (.jtagFrzData n) s = execJtagFrzData n s := rfl
  have same : frzReads { s with frz := { s.frz with ir := .frzData } } = frzReads s := rfl
  rw [goes, execJtagFrzData, tapCmd_next h, tapSelect_of_driven (by decide) hs]
  dsimp only
  rw [foldl_emit, same]
  cases hr : frzReads s with
  | false =>
    rw [if_neg Bool.false_ne_true]
    exact ⟨_, rfl, length_words _ _ _, rfl⟩
  | true =>
    rw [if_pos rfl]
    obtain ⟨l, hl⟩ := recNote_eq _ _ _ _ n
    rw [hl]
    exact ⟨_, rfl, length_words _ _ _, rfl⟩

end

/-- Settles O59. -/
theorem freezeAndJtagEffects : Obligations.FreezeAndJtagEffects := by
  refine ⟨?_, ?_, ?_, ?_, ?_, ?_, ?_, ?_⟩
  · intro s hf hp hd hr
    refine ⟨fun n hn => ⟨_, rfl, ?_⟩, ?_⟩
    · exact (exec_freezeNAssert_long hn).trans (congrArg _ (freezeTrigger_starts hf hp hd hr))
    · rintro f v h hl hc _ rfl
      have done : regBit (regSetFld s Reg.FRZ_CTL 1 1 (fld v 1 1)) Reg.GLB_STATUS 0 = true := by
        rw [regBit, regGet_regSetFld_ne (by decide)]
        exact hr
      exact (exec_frzCtlFreeze h hl hc rfl).trans (congrArg _ (freezeTrigger_starts hf hp hd done))
  · exact fun n s hn => exec_freezeNAssert_short hn
  · intro n s hn hf
    exact (exec_freezeNAssert_long hn).trans (congrArg _ (freezeTrigger_of_frozen hf))
  · intro n s hn hf hp hd hr ht
    exact (exec_freezeNAssert_long hn).trans (congrArg _ (freezeTrigger_held hf hp hd hr ht))
  · rintro s _ rfl
    refine ⟨fun hf hdue => ?_, fun hdue => ?_⟩ <;> show execFreezeNRelease s = _ <;> rw [execFreezeNRelease]
    · exact congrArg _ (if_pos (by rw [hf, hdue]; rfl))
    · exact congrArg _ (if_neg (by rw [hdue]; simp))
  · intro s hf hms
    have expires : exec .autothawExpiry s = execAutothawExpiry s := rfl
    rw [expires, execAutothawExpiry]
    dsimp only
    refine ⟨fun due => ?_, fun early => ?_⟩
    · rw [if_pos (by rw [hf, decide_eq_true hms, decide_eq_true due]; rfl)]
      exact ⟨fun high => by rw [if_neg (by rw [high]; decide)], fun low => by rw [if_pos low]⟩
    · rw [if_neg (by rw [decide_eq_false (Nat.not_le.mpr early)]; simp)]
  · rintro v s h u hu
    refine ⟨fld_setFld_low (by decide) (by decide), fld_setFld_low (by decide) (by decide), ?_, fun hf hp => ?_, fun hf hp => ?_, fun hf => ?_⟩
    · rw [exec_jtagFreeze h, hu]
    · rw [exec_jtagThaw h hu, if_neg (by rw [hf]; decide), if_neg (by rw [hp]; decide)]
    · rw [exec_jtagThaw h hu, if_neg (by rw [hf]; decide), if_pos hp]
    · rw [exec_jtagThaw h hu, if_pos (by rw [hf]; rfl)]
  · intro s h hs
    refine ⟨?_, ?_, ?_, ?_, ?_, fun c hc => ?_, ?_, fun hr v => ?_, fun hr v => ?_, fun n => exec_jtagFrzData h hs⟩
    · rw [exec_jtagIdcode, tapCmd_next h]
      exact congrArg _ (tapSelect_of_driven (i := .idcode) (by decide) hs)
    · rw [exec_jtagSamplePreload, tapCmd_next h, tapSelect_of_driven (by decide) hs]
    · rw [exec_jtagExtest, tapCmd_next h, tapSelect_of_driven (by decide) hs]
    · rw [exec_jtagClamp, tapCmd_next h]
      exact congrArg _ (tapSelect_of_driven (i := .clamp) (by decide) hs)
    · rw [exec_jtagHighz, tapCmd_next h, tapBypass, tapSelect]
      exact congrArg _ (if_pos rfl)
    · exact (exec_jtagBypass h hc).trans (congrArg _ (tapSelect_of_driven (i := .bypass) (by decide) hs))
    · refine (tapCmd_next h _).trans ?_
      rw [tapReset, tapSelect_of_driven (by decide) hs]
    · show execJtagFrzAddr v s = _
      rw [execJtagFrzAddr, tapCmd_next h, tapSelect_of_driven (by decide) hs]
      exact congrArg _ (if_pos hr)
    · show execJtagFrzAddr v s = _
      rw [execJtagFrzAddr, tapCmd_next h, tapSelect_of_driven (by decide) hs]
      exact congrArg _ (if_neg (fun yes => Bool.false_ne_true (hr.symm.trans yes)))

/-! ### The sentinel (R478 to R483) -/

section
variable {s : State} {v : Word}

/-- A command of the sentinel while a write runs is refused (R481). -/
theorem senCmd_of_busy {w : SenWrite} (hb : s.sen.busy = some w) :
    senCmd s v = raise (if senOfCul w then regSetFld s Reg.SEN_CMD_STAT 1 0 1 else s) Reg.SEN_CAUSE 4 := by
  rw [senCmd]
  dsimp only
  rw [if_pos (.inr (.inl (by rw [hb]; rfl))), hb]
  cases hw : senOfCul w <;> simp [hw]

/-- A command of the sentinel without its code, or one that SEN_LOCK locks, is refused. -/
theorem senCmd_refused (hb : s.sen.busy = none) (h : fld v 31 16 ≠ 0x534E
      ∨ (fld v 2 0 = 1 ∨ fld v 2 0 = 2 ∨ fld v 2 0 = 5) ∧ regBit s Reg.SEN_LOCK 0 = true) :
    senCmd s v = raise (regSetFld s Reg.SEN_CMD_STAT 1 0 1) Reg.SEN_CAUSE 4 := by
  rw [senCmd]
  dsimp only
  rw [if_pos (h.imp_right (fun ⟨hop, hl⟩ => .inr (.inl (by rcases hop with hop | hop | hop <;> rw [hop, hl] <;> rfl)))), hb]
  rfl

/-- The write that an OP of SEN_CMD names (Table 19-6). -/
def senWriteOf (s : State) (op : Nat) : SenWrite :=
  if op = 1 then .token (leBytes 32 (regGet256 s Reg.SEN_TOKEN).toNat) else if op = 2 then .clearToken
  else if op = 3 then .logAck else if op = 4 then .ackVbat else .tamperCfg (regGet s Reg.SEN_TAMPER_CFG)

/-- A command of the sentinel with its code, that SEN_LOCK does not lock, starts its write. -/
theorem senCmd_starts (hb : s.sen.busy = none) (hv : fld v 31 16 = 0x534E) (h0 : fld v 2 0 ≠ 0) (h5 : fld v 2 0 ≤ 5)
    (hl : regBit s Reg.SEN_LOCK 0 = false ∨ fld v 2 0 = 3 ∨ fld v 2 0 = 4) : senCmd s v = senStart s (senWriteOf s (fld v 2 0)) := by
  have unlocked : ((decide (fld v 2 0 = 1) || decide (fld v 2 0 = 2) || decide (fld v 2 0 = 5)) && regBit s Reg.SEN_LOCK 0) = false := by
    rcases hl with hl | hl | hl <;> simp [hl]
  rw [senCmd]
  dsimp only
  rw [unlocked, hb]
  refine if_neg ?_
  simp only [hv, h0, Nat.not_lt.mpr h5, Option.isSome_none, Bool.false_eq_true, ne_eq, not_true_eq_false, or_self, not_false_eq_true]

end

section
variable (f : Fin 4) (v : Word) (s : State)

theorem exec_writeToken : exec (.writeToken f v) s = senRow s f 1 v := rfl
theorem exec_clearToken : exec (.clearToken f v) s = senRow s f 2 v := rfl
theorem exec_logAck : exec (.logAck f v) s = senRow s f 3 v := rfl
theorem exec_ackVbat : exec (.ackVbat f v) s = senRow s f 4 v := rfl
theorem exec_tamperCfg : exec (.tamperCfg f v) s = senRow s f 5 v := rfl

end

section
variable {s : State} {v : Word} {f op : Nat}

theorem senRow_starts (h : HostSees s Reg.SEN_CMD) (hb : s.sen.busy = none) (hv : fld v 31 16 = 0x534E) (h0 : op ≠ 0) (h5 : op ≤ 5)
    (hl : regBit s Reg.SEN_LOCK 0 = false ∨ op = 3 ∨ op = 4) : senRow s f op v = .next (senStart s (senWriteOf s op)) := by
  have low : fld (setFld v 2 0 op) 2 0 = op := fld_setFld_low (by decide) (by omega)
  have code : fld (setFld v 2 0 op) 31 16 = 0x534E := (fld_setFld_above (by decide)).trans hv
  have starts := senCmd_starts (v := setFld v 2 0 op) hb code (by rwa [low]) (by rwa [low]) (by rwa [low])
  rw [low] at starts
  exact (hostCmd_next h _).trans (congrArg _ starts)

theorem senRow_refused (h : HostSees s Reg.SEN_CMD) (hb : s.sen.busy = none) (h5 : op ≤ 5)
    (hr : fld v 31 16 ≠ 0x534E ∨ (op = 1 ∨ op = 2 ∨ op = 5) ∧ regBit s Reg.SEN_LOCK 0 = true) :
    senRow s f op v = .next (raise (regSetFld s Reg.SEN_CMD_STAT 1 0 1) Reg.SEN_CAUSE 4) := by
  have low : fld (setFld v 2 0 op) 2 0 = op := fld_setFld_low (by decide) (by omega)
  have code : fld (setFld v 2 0 op) 31 16 = fld v 31 16 := fld_setFld_above (by decide)
  exact (hostCmd_next h _).trans (congrArg _ (senCmd_refused hb (by rwa [low, code])))

theorem senRow_of_busy {w : SenWrite} (h : HostSees s Reg.SEN_CMD) (hb : s.sen.busy = some w) :
    senRow s f op v = .next (raise (if senOfCul w then regSetFld s Reg.SEN_CMD_STAT 1 0 1 else s) Reg.SEN_CAUSE 4) :=
  (hostCmd_next h _).trans (congrArg _ (senCmd_of_busy hb))

end

/-- Settles O60. -/
theorem sentinelEffects : Obligations.SentinelEffects := by
  refine ⟨?_, ?_, ?_, ?_, ?_, ?_, ?_, ?_, ?_⟩
  · intro f v s h hv hb
    refine ⟨fun hl => ⟨?_, ?_, ?_⟩, ?_, ?_, fun hl c hc => ?_⟩
    · exact senRow_starts h hb hv (by decide) (by decide) (.inl hl)
    · exact senRow_starts h hb hv (by decide) (by decide) (.inl hl)
    · exact senRow_starts h hb hv (by decide) (by decide) (.inl hl)
    · exact senRow_starts h hb hv (by decide) (by decide) (.inr (.inl rfl))
    · exact senRow_starts h hb hv (by decide) (by decide) (.inr (.inr rfl))
    · simp only [List.mem_cons, List.not_mem_nil, or_false] at hc
      rcases hc with rfl | rfl | rfl
      · exact (exec_writeToken ..).trans (senRow_refused h hb (by decide) (.inr ⟨.inl rfl, hl⟩))
      · exact (exec_clearToken ..).trans (senRow_refused h hb (by decide) (.inr ⟨.inr (.inl rfl), hl⟩))
      · exact (exec_tamperCfg ..).trans (senRow_refused h hb (by decide) (.inr ⟨.inr (.inr rfl), hl⟩))
  · intro f v s h hv hb c hc
    simp only [List.mem_cons, List.not_mem_nil, or_false] at hc
    rcases hc with rfl | rfl | rfl | rfl | rfl
    · exact (exec_writeToken ..).trans (senRow_refused h hb (by decide) (.inl hv))
    · exact (exec_clearToken ..).trans (senRow_refused h hb (by decide) (.inl hv))
    · exact (exec_logAck ..).trans (senRow_refused h hb (by decide) (.inl hv))
    · exact (exec_ackVbat ..).trans (senRow_refused h hb (by decide) (.inl hv))
    · exact (exec_tamperCfg ..).trans (senRow_refused h hb (by decide) (.inl hv))
  · intro f v w s h hb c hc
    simp only [List.mem_cons, List.not_mem_nil, or_false] at hc
    rcases hc with rfl | rfl | rfl | rfl | rfl
    · exact (exec_writeToken ..).trans (senRow_of_busy h hb)
    · exact (exec_clearToken ..).trans (senRow_of_busy h hb)
    · exact (exec_logAck ..).trans (senRow_of_busy h hb)
    · exact (exec_ackVbat ..).trans (senRow_of_busy h hb)
    · exact (exec_tamperCfg ..).trans (senRow_of_busy h hb)
  · rintro w s _ hu hp hd hb rfl
    have ends : exec .sentinelWriteDone s = .next (senDone s) := by
      show execSentinelWriteDone s = _
      rw [execSentinelWriteDone, if_pos (by rw [hu, hp, hd]; rfl)]
    rw [ends, senDone, hb]
    dsimp only
    exact ⟨fun hf => by rw [if_neg (by rw [hf]; decide)], fun hf => ⟨_, rfl, by rw [if_pos hf]⟩⟩
  · intro s hb
    show execSentinelWriteDone s = _
    rw [execSentinelWriteDone, senDone, hb]
    exact congrArg _ (ite_self _)
  · intro n s no
    show execTamperDetect n s = _
    rw [execTamperDetect]
    exact if_pos (by rcases no with no | no | no <;> simp [no])
  · intro n s hb he hm ht hp hf
    refine ⟨_, _, rfl, rfl, ?_⟩
    show execTamperDetect n s = _
    rw [execTamperDetect]
    dsimp only
    rw [if_neg (by rw [hb, he, hm]; decide), ht, hp, hf]
    rfl
  · intro s
    refine ⟨rfl, fun hb => ?_, fun hb => ⟨_, rfl, ?_⟩⟩ <;> show execVbatRestore s = _ <;> rw [execVbatRestore]
    · rw [if_pos hb]
    · rw [if_neg (by rw [hb]; decide)]
  · intro f s h
    exact ⟨_, rfl, hostCmd_next h _⟩

end Sys2Proof.Machine
